-- ==== Sys2Proof/Word.lean ====
section
/-! DEFINITION. The word types of the model (spec/00_scope.md R4, R8): bytes, 16-, 32- and 64-bit words. -/

namespace Sys2Proof

/-- One byte of memory or of a record. -/
abbrev Byte := BitVec 8
/-- An epilogue operation word (R300). -/
abbrev W16 := BitVec 16
/-- A slot word, a K literal, a vector lane (R295, R159). -/
abbrev W32 := BitVec 32
/-- A G register, a special register, a virtual address (R159). -/
abbrev W64 := BitVec 64

end Sys2Proof
end

