-- ==== Sys2Proof/Syntax.lean ====
section
/-! DEFINITION. The syntax: one constructor per row of spec/opcode_table.json. A row is a step of the package: 140 rows are
slot words of a bundle (R308-R314), 16 are epilogue operations (R436), 81 are steps of other agents that have no encoding. -/

namespace Sys2Proof

/-- A six-bit operand field (R301). -/
abbrev R6 := BitVec 6
/-- A four-bit fn, scope or epilogue field (R300). -/
abbrev F4 := BitVec 4
/-- A three-bit field: a predicate, a mask register, an MG class or fn (R300). -/
abbrev F3 := BitVec 3

/-- A guard: predicate P[25:23], inverted when bit 22 is set (R302). -/
structure Guard where
  p : F3
  neg : Bool
  deriving DecidableEq, Repr

/-- A V-slot mask: Q register [25:23] and the zeroing bit 22 (R303). -/
structure Mask where
  q : F3
  z : Bool
  deriving DecidableEq, Repr

/-- A flit: the header fields of R32 and the payload (R31). `note` is no header field: it names the participant that a BSEG is
for, which the header does not (log entry 16). -/
structure Flit where
  typ : Nat
  tc : Nat
  ord : Bool
  ref : Bool
  pass : Bool
  len : Nat
  op : Nat
  rcnt : Nat
  rsv : Nat
  src : Nat
  tag : Nat
  fv : Bool
  flag : Nat
  addr : Nat
  payload : List Byte
  note : Nat
  deriving DecidableEq, Repr

/-- An agent whose access can fail (R495, MEMERR byte 34). Logical cores and strands are named by their keys. -/
inductive Agent where
  /-- a strand -/
  | strand (t : Nat)
  /-- an engine command of a logical core -/
  | engine (lc cmd : Nat)
  /-- Bellows acting for a logical core -/
  | bellows (lc : Nat)
  /-- a sketch unit acting for a logical core -/
  | sketch (lc : Nat)
  /-- a translation walker acting for a logical core -/
  | walker (lc : Nat)
  /-- the launch unit or the runtime acting for a context slot -/
  | launch (slot : Nat)
  deriving DecidableEq, Repr

/-- Where a received flit comes from: a flit on a wire inside the package, or one that another package sent. -/
inductive WireSrc where
  /-- flit `i` of the package's wires -/
  | wire (i : Nat)
  /-- a flit from another package on an incoming link of a bridge station, with its acknowledgement and credit field -/
  | outside (link : Nat) (f : Flit) (ack : Nat)
  deriving DecidableEq, Repr

/-- What a host write addresses: an offset of the package's 2 TiB range (R56), or the host's own memory (R60). -/
inductive HostAddr where
  /-- an offset of the package range -/
  | window (off : Nat)
  /-- a host physical address -/
  | host (addr : Nat)
  deriving DecidableEq, Repr

/-- The engine instances that hold an acknowledgement bit of a pre-emption collector (R130). -/
inductive StopInst where
  /-- strand pipeline, engine dependency table and queues of a resident logical core -/
  | strands (lc : Nat)
  /-- matrix array with epilogue processor of a resident logical core -/
  | matrix (lc : Nat)
  /-- all eight BTE channels of a resident logical core -/
  | bte (lc : Nat)
  /-- the sketch units of a die -/
  | sketch (die : Nat)
  /-- Bellows of a die -/
  | bellows (die : Nat)
  /-- the Hearth bank ALUs of a die -/
  | hearth (die : Nat)
  /-- the fabric of a die -/
  | fabric (die : Nat)
  deriving DecidableEq, Repr

/-- A block of a die and what its temperature sensor reads, in sixteenths of a degree (R14, R26). -/
structure BlockReading where
  block : Nat
  reading : W16
  deriving DecidableEq, Repr

/-- A pending access or a request by its position, and how many stores its read passes over, of an RLD in one hexadecimal digit for each
8-byte unit (R242). -/
structure Pick where
  idx : Nat
  back : Nat
  deriving DecidableEq, Repr

/-- A sketch command and how many of its units are done, 0 for all that are left. -/
structure UnitRun where
  cmd : Nat
  units : Nat
  deriving DecidableEq, Repr

/-- The rows of the opcode table. -/
inductive Instr where
  /-- POWER_GOOD: Power-good starts a cold Kindling (R17). -/
  | powerGood 
  /-- PACKAGE_RESET_RELEASE: Release of package reset starts a Kindling, warm unless hold-up was lost (R17, R18). -/
  | packageResetRelease 
  /-- KINDLING_TIMEOUT: READY not set within 45 s (R18). -/
  | kindlingTimeout 
  /-- MODULE_POWER_LOSS: Loss of module input power (R13). -/
  | modulePowerLoss 
  /-- BLOCK_OVERHEAT: A block passes 100 degrees, with its sensor's reading (R15, R26). -/
  | blockOverheat (die : Nat) (block : BlockReading)
  /-- BLOCK_COOLED: A throttled block falls below 97 degrees, with its sensor's reading (R15, R26). -/
  | blockCooled (die : Nat) (block : BlockReading)
  /-- THERMAL_TRIP: A die sensor reads 110 degrees (R16). -/
  | thermalTrip (die : Nat) (reading : W16)
  /-- CORE_RETIREMENT: An uncorrectable soft error retires a core (R21, R22). -/
  | coreRetirement (die core : Nat)
  /-- UNCORRECTABLE_ERROR: An agent's access meets an uncorrectable error (R43). -/
  | uncorrectableError (agent : Agent) (pa : Nat)
  /-- FLIT_INJECT: Waiting flit `i` enters a slot of its ring (R34). -/
  | flitInject (i : Nat)
  /-- LINK_FLIT_RECEIVE: A node receives a flit, with the byte errors given (R45). -/
  | linkFlitReceive (w : WireSrc) (errs : List (Nat × Byte))
  /-- NAK_RECEIVED: The sender receives NAK `i` (R45). -/
  | nakReceived (i : Nat)
  /-- PAR: Parity flit `i` arrives, with the byte errors given (R45). -/
  | par (i : Nat) (errs : List (Nat × Byte))
  /-- NAK_REPEAT_TIMEOUT: 64 cycles after a damaged parity flit, NAK `i` is repeated (R45). -/
  | nakRepeatTimeout (i : Nat)
  /-- LINK_RETRAIN_DONE: A link finishes retraining (R45). -/
  | linkRetrainDone (link : Nat) (fewer : Bool)
  /-- SEGMENT_FAILURE: A segment fails or retrains (R30). -/
  | segmentFailure (link : Nat)
  /-- UNREACH_TIMEOUT: Waiting flit `i` has had no way on for 1 ms (R30). -/
  | unreachTimeout (i : Nat)
  /-- FLIT_AT_EXIT_NODE: Flit `i` is at its exit node; whether an ordinary and the reserve buffer are free (R35, R36). -/
  | flitAtExitNode (i : Nat) (free : Bool) (reserve : Bool)
  /-- REFUSED_FLIT_RETRY: Refused flit `i` is retried (R36). -/
  | refusedFlitRetry (i : Nat)
  /-- RST_AT_TARGET: The target performs the RST at inbox position `i` (R39). -/
  | rstAtTarget (i : Nat)
  /-- RLD_AT_TARGET: The target performs the RLD at inbox position `i` (R38); each unit as old as `i` says where order allows it (R242). -/
  | rldAtTarget (i : Pick)
  /-- RAT_AT_TARGET: The target performs the RAT at inbox position `i` (R40). -/
  | ratAtTarget (i : Nat)
  /-- RSTACK: An RST acknowledgement reaches the requester (R41). -/
  | rstack (i : Nat)
  /-- RLDDATA: RLD data reaches the requester (R43). -/
  | rlddata (i : Nat)
  /-- RATDATA: The old value of a RAT reaches the requester (R40). -/
  | ratdata (i : Nat)
  /-- BSEG: A Bellows segment is received (R229). -/
  | bseg (i : Nat)
  /-- MGMT: A management flit is received (R33). -/
  | mgmt (i : Nat)
  /-- ABLUM_LINK_FAILURE: An Ablum link fails or retrains (R53). -/
  | ablumLinkFailure (link : Nat)
  /-- HOST_READ: The host reads through the package range (R56). -/
  | hostRead (off len : Nat)
  /-- HOST_WRITE: The host writes through the package range, or its own memory (R57, R60). -/
  | hostWrite (a : HostAddr) (bytes : List Byte)
  /-- MGMT_REGISTER_WRITE: A write to the management window is ignored (R26). -/
  | mgmtRegisterWrite (off : Nat) (bytes : List Byte)
  /-- MONITORED_LINE_INVALIDATE: An invalidated monitored line is re-read (R60). -/
  | monitoredLineInvalidate (line : Nat)
  /-- CREATE: CREATE, taken as command `i` (R66). -/
  | create (i : Nat)
  /-- LAUNCH_RECORD: A host LAUNCH, taken as command `i` (R67). -/
  | launchRecord (i : Nat)
  /-- SETPRIO: SETPRIO, taken as command `i` (R68). -/
  | setprio (i : Nat)
  /-- FREEZE: FREEZE, taken as command `i` (R69). -/
  | freeze (i : Nat)
  /-- RESUME: RESUME, taken as command `i` (R70). -/
  | resume (i : Nat)
  /-- KILL: KILL, taken as command `i` (R71). -/
  | kill (i : Nat)
  /-- DIRTYSNAP: DIRTYSNAP, taken as command `i` (R72). -/
  | dirtysnap (i : Nat)
  /-- QUERY_DEVINFO: QUERY selector 0 (R73). -/
  | queryDevinfo (i : Nat)
  /-- QUERY_CTXSTATE: QUERY selector 1 (R73). -/
  | queryCtxstate (i : Nat)
  /-- QUERY_ATTEST: QUERY selector 2 (R25, R73). -/
  | queryAttest (i : Nat)
  /-- QUERY_LOGSTAT: QUERY selector 3 (R73). -/
  | queryLogstat (i : Nat)
  /-- EVENT_LOG_WRITE: The arbiter writes the next held event (R77). -/
  | eventLogWrite 
  /-- FREEZE_TIMEOUT: A freeze's time-out passes (R69). -/
  | freezeTimeout (slot : Nat)
  /-- ENGINE_STOP_ACK: An engine instance stops at its unit and acknowledges (R127, R131). -/
  | engineStopAck (slot : Nat) (inst : StopInst) (units : Nat)
  /-- PREEMPTION_COMPLETE: Every collector bit is set (R131). -/
  | preemptionComplete (slot : Nat)
  /-- REBALANCE: A die's Stage Scheduler rebalances (R106). -/
  | rebalance (die : Nat)
  /-- QUANTUM_EXPIRY: A resident logical core's 200 us quantum expires (R110). -/
  | quantumExpiry (lc : Nat)
  /-- RESIDENCY_SWAP: A resident logical core is swapped out (R110). -/
  | residencySwap (lc : Nat)
  /-- AGING_TICK: 10 ms with a runnable non-resident logical core (R108). -/
  | agingTick (slot : Nat)
  /-- DEADLOCK_TIMEOUT: A graph made no progress for 100 ms (R114). -/
  | deadlockTimeout (slot gid : Nat)
  /-- DAMPER_WINDOW: A window of 1,250 cycles closes on a physical core (R116). -/
  | damperWindow (core demand : Nat)
  /-- STRAND_SWITCH: A core switches strands (R84). -/
  | strandSwitch (lc : Nat)
  /-- STRAND_READY: A blocked strand's condition has become true (R85). -/
  | strandReady (t : Nat)
  /-- FIRING_START: An assigned slot starts its stage's next firing (R94). -/
  | firingStart (t : Nat)
  /-- FIRING_END: A firing ends (R96). -/
  | firingEnd (t : Nat)
  /-- GRAPH_END: A graph ends (R97). -/
  | graphEnd (slot gid : Nat)
  /-- CHILD_INSTANTIATE: A pending child is instantiated (R104). -/
  | childInstantiate (slot gid : Nat)
  /-- CHANNEL_PUBLISH: A reserved entry is written and published (R98). -/
  | channelPublish (slot gid ch idx : Nat)
  /-- ENGINE_COMMAND_READY: A table entry with no edges passes to its engine's queue (R196). -/
  | engineCommandReady (lc cmd : Nat)
  /-- BTE_ACCEPT: A BTE channel accepts a start (R204). -/
  | bteAccept (lc cmd : Nat)
  /-- BTE_CHUNK_PERFORMED: The next transfer chunk is performed (R202). -/
  | bteChunkPerformed (lc cmd : Nat)
  /-- BTE_COMMAND_COMPLETE: A BTE command completes (R202). -/
  | bteCommandComplete (lc cmd : Nat)
  /-- DECODE_STALL: A DECODE fails to progress (R217). -/
  | decodeStall (lc cmd : Nat)
  /-- MATRIX_COMMAND_START: A matrix queue command starts (R286). -/
  | matrixCommandStart (lc cmd : Nat)
  /-- MMA_COMPLETE: An MMA completes (R285). -/
  | mmaComplete (lc cmd : Nat)
  /-- MLOADW_COMPLETE: An MLOADW has written its bank (R279). -/
  | mloadwComplete (lc cmd : Nat)
  /-- MDRAIN_ROW_WRITTEN: A drained row is written and counted (R433). -/
  | mdrainRowWritten (lc cmd : Nat)
  /-- MACCLD_COMPLETE: A MACCLD completes (R430). -/
  | maccldComplete (lc cmd : Nat)
  /-- EPLOAD_COMPLETE: An EPLOAD completes (R431). -/
  | eploadComplete (lc cmd : Nat)
  /-- SKETCH_ACCEPT: A sketch unit accepts a command (R222). -/
  | sketchAccept (lc cmd : Nat)
  /-- SKETCH_COMMAND_COMPLETE: A sketch command does its next units, and completes after its last (R223, R443). -/
  | sketchCommandComplete (lc : Nat) (cmd : UnitRun)
  /-- COLL_ACCEPT: Bellows accepts a collective (R446). -/
  | collAccept (lc cmd : Nat)
  /-- COLL_COMPLETE: A participant's collective completes (R230). -/
  | collComplete (lc cmd : Nat)
  /-- DGST_CHECKPOINT: A checkpoint is assembled (R155, R455). -/
  | dgstCheckpoint (slot gid n : Nat)
  /-- NOP: No operation (R332). -/
  | nop (g : Guard)
  /-- BR: Branch by a signed displacement (R333). -/
  | br (g : Guard) (disp : BitVec 22)
  /-- BRV: Branch if the Q mask is all ones; a mixed mask traps NUNI (R334). -/
  | brv (g : Guard) (q : F3) (disp : BitVec 19)
  /-- BRI: Branch to the address in a G register (R333). -/
  | bri (g : Guard) (a : R6)
  /-- CALL: Push the return address and branch by displacement (R336). -/
  | call (g : Guard) (disp : BitVec 22)
  /-- CALLI: Push the return address and branch to a register target (R336). -/
  | calli (g : Guard) (a : R6)
  /-- RET: Pop the return store and branch to the popped address (R337). -/
  | ret (g : Guard)
  /-- LOOP: Set up a zero-overhead loop nest of 1 to 6 dimensions (R339). -/
  | loop (g : Guard) (dims : F3) (c : R6) (len : BitVec 9)
  /-- LEXIT: Leave the active loop nest (R343). -/
  | lexit (g : Guard)
  /-- WAITF: Block until a flag reaches a threshold, then act as an acquire (R344). -/
  | waitf (g : Guard) (a b : R6)
  /-- YIELD: Issue and then block the strand for one switch (R345). -/
  | yield (g : Guard)
  /-- HALT: End the firing after checking its channel and speculation obligations (R346). -/
  | halt (g : Guard)
  /-- TRAP: Enter the handler with cause SYSC and the given code (R347). -/
  | trap (g : Guard) (code : W16)
  /-- ERET: Leave trap mode and continue at EPC (R348). -/
  | eret (g : Guard)
  /-- BRK: Enter the handler with cause BRKP and the given code (R347). -/
  | brk (g : Guard) (code : W16)
  /-- TFENCE: Report an unreported engine fault, or masked arithmetic flags as ARITH (R349). -/
  | tfence (g : Guard)
  /-- ADD: Integer add: 64-bit, 32-bit or signed saturating (R358). -/
  | add (g : Guard) (d a b : R6) (fn : F4)
  /-- SUB: Integer subtract: 64-bit, 32-bit or signed saturating (R358). -/
  | sub (g : Guard) (d a b : R6) (fn : F4)
  /-- MUL: Integer multiply: low, signed high, unsigned high or 32-bit (R360). -/
  | mul (g : Guard) (d a b : R6) (fn : F4)
  /-- DIV: Integer divide or remainder, signed or unsigned (R361). -/
  | div (g : Guard) (d a b : R6) (fn : F4)
  /-- AND: Bitwise AND (R362). -/
  | and (g : Guard) (d a b : R6) (fn : F4)
  /-- OR: Bitwise OR (R362). -/
  | or (g : Guard) (d a b : R6) (fn : F4)
  /-- XOR: Bitwise XOR (R362). -/
  | xor (g : Guard) (d a b : R6) (fn : F4)
  /-- ANDN: Bitwise AND NOT (R362). -/
  | andn (g : Guard) (d a b : R6) (fn : F4)
  /-- SHL: Shift left (R363). -/
  | shl (g : Guard) (d a b : R6) (fn : F4)
  /-- SHR: Logical shift right (R363). -/
  | shr (g : Guard) (d a b : R6) (fn : F4)
  /-- SAR: Arithmetic shift right (R363). -/
  | sar (g : Guard) (d a b : R6) (fn : F4)
  /-- ROTR: Rotate right (R363). -/
  | rotr (g : Guard) (d a b : R6) (fn : F4)
  /-- MIN: Signed or unsigned minimum (R364). -/
  | min (g : Guard) (d a b : R6) (fn : F4)
  /-- MAX: Signed or unsigned maximum (R364). -/
  | max (g : Guard) (d a b : R6) (fn : F4)
  /-- CMP: Integer compare into a predicate (R367). -/
  | cmp (g : Guard) (d a b : R6) (fn : F4)
  /-- SEL: Select between two G registers on a predicate (R368). -/
  | sel (g : Guard) (d a b : R6) (fn : F4)
  /-- CLZ: Count leading zeros (R365). -/
  | clz (g : Guard) (d a b : R6) (fn : F4)
  /-- CTZ: Count trailing zeros (R365). -/
  | ctz (g : Guard) (d a b : R6) (fn : F4)
  /-- POPC: Count set bits (R365). -/
  | popc (g : Guard) (d a b : R6) (fn : F4)
  /-- EXTR: Extract a bit field, zero-extended or sign-extended (R366). -/
  | extr (g : Guard) (d a b : R6) (fn : F4)
  /-- INSR: Insert a bit field into the destination (R366). -/
  | insr (g : Guard) (d a b : R6) (fn : F4)
  /-- LEA: Add a shifted index to a base (R359). -/
  | lea (g : Guard) (d a b : R6) (fn : F4)
  /-- ADDI: Add a signed 10-bit immediate (R359). -/
  | addi (g : Guard) (d a : R6) (imm : BitVec 10)
  /-- MOVI: Move a sign-extended 16-bit immediate (R359). -/
  | movi (g : Guard) (d : R6) (imm : W16)
  /-- PLOG: Predicate truth-table logic (R369). -/
  | plog (g : Guard) (d a b : R6) (fn : F4)
  /-- MFS: Read a special register (R370). -/
  | mfs (g : Guard) (d : R6) (num : BitVec 12)
  /-- MTS: Write a special register, subject to its access rules (R370). -/
  | mts (g : Guard) (num : BitVec 12) (a : R6)
  /-- FADD: FP32 add (R372). -/
  | fadd (g : Guard) (d a b : R6) (fn : F4)
  /-- FSUB: FP32 subtract (R372). -/
  | fsub (g : Guard) (d a b : R6) (fn : F4)
  /-- FMUL: FP32 multiply (R372). -/
  | fmul (g : Guard) (d a b : R6) (fn : F4)
  /-- FFMA: FP32 fused multiply-add, rounded once (R372). -/
  | ffma (g : Guard) (d a b : R6) (fn : F4)
  /-- FMIN: FP32 minimum (R373). -/
  | fmin (g : Guard) (d a b : R6) (fn : F4)
  /-- FMAX: FP32 maximum (R373). -/
  | fmax (g : Guard) (d a b : R6) (fn : F4)
  /-- FCMP: FP32 compare into a predicate (R374). -/
  | fcmp (g : Guard) (d a b : R6) (fn : F4)
  /-- FCVT: Scalar FP and integer conversions (R375). -/
  | fcvt (g : Guard) (d a b : R6) (fn : F4)
  /-- FDIV: FP32 divide (R372). -/
  | fdiv (g : Guard) (d a b : R6) (fn : F4)
  /-- FSQRT: FP32 square root (R372). -/
  | fsqrt (g : Guard) (d a b : R6) (fn : F4)
  /-- LDS: Scalar scratchpad load (R381). -/
  | lds (g : Guard) (d a b : R6) (fn : F4)
  /-- STS: Scalar scratchpad store, performed at issue (R381). -/
  | sts (g : Guard) (d a b : R6) (fn : F4)
  /-- BTE_START: An 8-byte store to the BTE aperture starts a transfer on channel c as an engine command (R442). -/
  | bteStart (g : Guard) (d a b : R6) (fn : F4)
  /-- LDG: Global load with class and scope (R386). -/
  | ldg (g : Guard) (d a : R6) (scope : F4) (cls fn : F3)
  /-- STG: Global store with class and scope (R386). -/
  | stg (g : Guard) (d a : R6) (scope : F4) (cls fn : F3)
  /-- VLDS: Vector scratchpad load: contiguous, strided or indexed (R382). -/
  | vlds (g : Guard) (d a b : R6) (fn : F4)
  /-- VSTS: Vector scratchpad store (R382). -/
  | vsts (g : Guard) (d a b : R6) (fn : F4)
  /-- VLDG: Vector global load (R387). -/
  | vldg (g : Guard) (d a : R6) (scope : F4) (cls fn : F3)
  /-- VSTG: Vector global store (R387). -/
  | vstg (g : Guard) (d a : R6) (scope : F4) (cls fn : F3)
  /-- VSTM: Masked contiguous vector scratchpad store (R383). -/
  | vstm (g : Guard) (d a b : R6) (fn : F4)
  /-- VLDM: Masked contiguous vector scratchpad load (R383). -/
  | vldm (g : Guard) (d a b : R6) (fn : F4)
  /-- TLDS: Load a whole tile from scratchpad (R385). -/
  | tlds (g : Guard) (d a b : R6) (fn : F4)
  /-- TSTS: Store a whole tile to scratchpad (R385). -/
  | tsts (g : Guard) (d a b : R6) (fn : F4)
  /-- ATG: Global atomic read-modify-write at the location's home (R388). -/
  | atg (g : Guard) (d a : R6) (scope : F4) (cls fn : F3)
  /-- XADD: Exact-add of an FP32 value into a Hearth cell (R390). -/
  | xadd (g : Guard) (d a : R6) (scope : F4) (cls fn : F3)
  /-- RST: Remote store of up to 128 bytes with an optional flag increment (R391). -/
  | rst (g : Guard) (d a : R6) (scope : F4) (cls fn : F3)
  /-- RLD: Remote load into scratchpad (R392). -/
  | rld (g : Guard) (d a : R6) (scope : F4) (cls fn : F3)
  /-- RAT: Remote 8-byte atomic (R393). -/
  | rat (g : Guard) (d a : R6) (scope : F4) (cls fn : F3)
  /-- FENCE: Acquire, release or full fence at a scope (R394). -/
  | fence (g : Guard) (d a : R6) (scope : F4) (cls fn : F3)
  /-- CBFENCE: Wait for earlier stores, then invalidate control-block caches (R395). -/
  | cbfence (g : Guard)
  /-- LBR: Read a word of a buffer record (R396). -/
  | lbr (g : Guard) (d a b : R6) (fn : F4)
  /-- TINV: Invalidate translations of a page or of the context, rebuilding frame owner tags (R397). -/
  | tinv (g : Guard) (d a : R6) (scope : F4) (cls fn : F3)
  /-- VADD: Vector add (R400). -/
  | vadd (m : Mask) (d a b : R6) (fn : F4)
  /-- VSUB: Vector subtract (R400). -/
  | vsub (m : Mask) (d a b : R6) (fn : F4)
  /-- VMUL: Vector multiply (R400). -/
  | vmul (m : Mask) (d a b : R6) (fn : F4)
  /-- VFMA: Vector fused multiply-add (R401). -/
  | vfma (m : Mask) (d a b : R6) (fn : F4)
  /-- VMIN: Vector minimum (R402). -/
  | vmin (m : Mask) (d a b : R6) (fn : F4)
  /-- VMAX: Vector maximum (R402). -/
  | vmax (m : Mask) (d a b : R6) (fn : F4)
  /-- VABS: Vector absolute value (R402). -/
  | vabs (m : Mask) (d a b : R6) (fn : F4)
  /-- VNEG: Vector negate (R402). -/
  | vneg (m : Mask) (d a b : R6) (fn : F4)
  /-- VRCP: Table-interpolated reciprocal (R404). -/
  | vrcp (m : Mask) (d a b : R6) (fn : F4)
  /-- VRSQ: Table-interpolated reciprocal square root (R405). -/
  | vrsq (m : Mask) (d a b : R6) (fn : F4)
  /-- VEXP2: Table-interpolated 2^x (R406). -/
  | vexp2 (m : Mask) (d a b : R6) (fn : F4)
  /-- VLOG2: Table-interpolated log2 (R407). -/
  | vlog2 (m : Mask) (d a b : R6) (fn : F4)
  /-- VLUT: Evaluate fixed function table n (R408). -/
  | vlut (m : Mask) (d a b : R6) (fn : F4)
  /-- VCMP: Vector compare into a Q mask (R410). -/
  | vcmp (m : Mask) (d a b : R6) (fn : F4)
  /-- VSEL: Per-lane select on a Q register (R411). -/
  | vsel (m : Mask) (d a b : R6) (fn : F4)
  /-- VMOV: Copy the active lanes (R411). -/
  | vmov (m : Mask) (d a b : R6) (fn : F4)
  /-- VAND: Vector bitwise AND (R412). -/
  | vand (m : Mask) (d a b : R6) (fn : F4)
  /-- VOR: Vector bitwise OR (R412). -/
  | vor (m : Mask) (d a b : R6) (fn : F4)
  /-- VXOR: Vector bitwise XOR (R412). -/
  | vxor (m : Mask) (d a b : R6) (fn : F4)
  /-- VSHL: Vector shift left (R412). -/
  | vshl (m : Mask) (d a b : R6) (fn : F4)
  /-- VSHR: Vector logical shift right (R412). -/
  | vshr (m : Mask) (d a b : R6) (fn : F4)
  /-- VSAR: Vector arithmetic shift right (R412). -/
  | vsar (m : Mask) (d a b : R6) (fn : F4)
  /-- VCVT: Vector conversions (R413). -/
  | vcvt (m : Mask) (d a b : R6) (fn : F4)
  /-- VQMX: Quantise 64 FP32 lanes into two MX blocks (R414). -/
  | vqmx (m : Mask) (d a b : R6) (fn : F4)
  /-- VDQMX: Dequantise two MX blocks into FP32 lanes (R415). -/
  | vdqmx (m : Mask) (d a b : R6) (fn : F4)
  /-- VRED: Reduce the lanes into a G register by a fixed tree (R416). -/
  | vred (m : Mask) (d a b : R6) (fn : F4)
  /-- VPERM: Permute lanes by index (R417). -/
  | vperm (m : Mask) (d a b : R6) (fn : F4)
  /-- VROT: Rotate lanes (R417). -/
  | vrot (m : Mask) (d a b : R6) (fn : F4)
  /-- VBCAST: Broadcast one lane (R417). -/
  | vbcast (m : Mask) (d a b : R6) (fn : F4)
  /-- VEXT: Extract one lane into a G register (R417). -/
  | vext (m : Mask) (d a b : R6) (fn : F4)
  /-- VIOTA: Write each lane's index (R417). -/
  | viota (m : Mask) (d a b : R6) (fn : F4)
  /-- QLOG: Mask truth-table logic (R418). -/
  | qlog (m : Mask) (d a b : R6) (fn : F4)
  /-- QPOPC: Count the set bits of a Q register (R418). -/
  | qpopc (m : Mask) (d a b : R6) (fn : F4)
  /-- TMOVR: Move vector lanes into a tile row (R420). -/
  | tmovr (m : Mask) (d a b : R6) (fn : F4)
  /-- TMOVC: Move a tile column into vector lanes (R420). -/
  | tmovc (m : Mask) (d a b : R6) (fn : F4)
  /-- TROWV: Move a tile row into vector lanes (R420). -/
  | trowv (m : Mask) (d a b : R6) (fn : F4)
  /-- TZERO: Zero a tile and set its dirty bit (R420). -/
  | tzero (m : Mask) (d a b : R6) (fn : F4)
  /-- MMA: Matrix multiply-accumulate of activation rows against a weight bank (R426). -/
  | mma (g : Guard) (a b c : R6) (fn : F4)
  /-- MLOADW: Declare a weight bank and load it from a plane-form tile (R428). -/
  | mloadw (g : Guard) (a b c : R6) (fn : F4)
  /-- MDRAIN: Drain accumulator rows through an optional epilogue to scratchpad (R432). -/
  | mdrain (g : Guard) (a b c : R6) (fn : F4)
  /-- MZERO: Clear an accumulator tile and set its anchor (R429). -/
  | mzero (g : Guard) (a b c : R6) (fn : F4)
  /-- MACCLD: Load RAW96 rows into an accumulator tile (R430). -/
  | maccld (g : Guard) (a b c : R6) (fn : F4)
  /-- EPLOAD: Load an epilogue program and optional register image (R431). -/
  | epload (g : Guard) (a b c : R6) (fn : F4)
  /-- ARINIT: Initialise an arrival record at issue (R437). -/
  | arinit (g : Guard) (a b c : R6) (fn : F4)
  /-- ARRIVE: Subtract one arrival from a record, as a release (R438). -/
  | arrive (g : Guard) (a b c : R6) (fn : F4)
  /-- ARWAIT: Block until the record's phase differs from the parity (R439). -/
  | arwait (g : Guard) (a b c : R6) (fn : F4)
  /-- ARTEST: Test the record's phase into a predicate (R440). -/
  | artest (g : Guard) (a b c : R6) (fn : F4)
  /-- ARWAITM: Block until the phase flips or the masked chunks have landed (R439). -/
  | arwaitm (g : Guard) (a b c : R6) (fn : F4)
  /-- ARTESTM: Test the phase or the masked chunks into a predicate (R440). -/
  | artestm (g : Guard) (a b c : R6) (fn : F4)
  /-- EFENCE: Block until the strand's engine commands have completed (R441). -/
  | efence (g : Guard) (a b c : R6) (fn : F4)
  /-- SKUPD: Fold keys and values into a count sketch (R443). -/
  | skupd (g : Guard) (a b c : R6) (fn : F4)
  /-- SKQRY: Query median estimates for keys (R444). -/
  | skqry (g : Guard) (a b c : R6) (fn : F4)
  /-- SKADD: Add one sketch's counters into another (R445). -/
  | skadd (g : Guard) (a b c : R6) (fn : F4)
  /-- SKCLR: Clear a sketch's counters (R445). -/
  | skclr (g : Guard) (a b c : R6) (fn : F4)
  /-- COLL: Issue a Bellows collective (R446). -/
  | coll (g : Guard) (a b c : R6) (fn : F4)
  /-- CSIG: Mark a collective bucket ready, as a release (R447). -/
  | csig (g : Guard) (a b c : R6) (fn : F4)
  /-- QPUSH: Reserve a channel slot and push an entry (R448). -/
  | qpush (g : Guard) (a b c : R6) (fn : F4)
  /-- QPOP: Claim and copy out a channel entry (R449). -/
  | qpop (g : Guard) (a b c : R6) (fn : F4)
  /-- QTRY: Test whether a push or a pop would block (R450). -/
  | qtry (g : Guard) (a b c : R6) (fn : F4)
  /-- LAUNCH: Launch a child graph from a firing (R451). -/
  | launch (g : Guard) (a b c : R6) (fn : F4)
  /-- GBAR: Group barrier (R452). -/
  | gbar (g : Guard) (a b c : R6) (fn : F4)
  /-- SPECB: Open a speculation region (R454). -/
  | specb (g : Guard) (a b c : R6) (fn : F4)
  /-- SPECC: Commit a speculation region (R454). -/
  | specc (g : Guard) (a b c : R6) (fn : F4)
  /-- SPECA: Abort a speculation region (R454). -/
  | speca (g : Guard) (a b c : R6) (fn : F4)
  /-- DGST: Digest checkpoint (R455). -/
  | dgst (g : Guard) (a b c : R6) (fn : F4)
  /-- ENDP: End the epilogue program (R436). -/
  | endp (x y z : F4)
  /-- CVT: Round to an integral FP32 value (R436). -/
  | cvt (x y z : F4)
  /-- ADDV: Epilogue add (R436). -/
  | addv (x y z : F4)
  /-- MULV: Epilogue multiply (R436). -/
  | mulv (x y z : F4)
  /-- FMAV: Epilogue fused multiply-add (R436). -/
  | fmav (x y z : F4)
  /-- ADDS: Add a table constant (R436). -/
  | adds (x y z : F4)
  /-- MULS: Multiply by a table constant (R436). -/
  | muls (x y z : F4)
  /-- RELUM: ReLU with mask capture (R436). -/
  | relum (x y z : F4)
  /-- CLAMP: Clamp between two values (R436). -/
  | clamp (x y z : F4)
  /-- LUTP: Evaluate a VLUT table (R436). -/
  | lutp (x y z : F4)
  /-- MAXE: Epilogue maximum (R436). -/
  | maxe (x y z : F4)
  /-- MINE: Epilogue minimum (R436). -/
  | mine (x y z : F4)
  /-- MOVE: Epilogue register move (R436). -/
  | move (x y z : F4)
  /-- CVTB: Round to BF16 precision (R436). -/
  | cvtb (x y z : F4)
  /-- MASKW: Set the mask bit by a comparison (R436). -/
  | maskw (x y z : F4)
  /-- QOUT: Output a register and end the program (R436). -/
  | qout (x y z : F4)
  /-- PACKAGE_RESET_ASSERTED: Package reset is asserted (R20). -/
  | packageResetAsserted 
  /-- HBM_REPAIR_ROWS_EXHAUSTED: A stack's repair rows are used up (R23). -/
  | hbmRepairRowsExhausted (die stack : Nat)
  /-- ABLUM_LINK_RETRAINED: An Ablum link comes up again (R53). -/
  | ablumLinkRetrained (link lanes : Nat)
  /-- MZERO_COMPLETE: An MZERO completes (R429). -/
  | mzeroComplete (lc cmd : Nat)
  /-- GLOBAL_ACCESS_PERFORMED: A pending access of strand `t` is performed (R386, R449); a load may pass over stores to its unit where
  order allows it (R237-R242). -/
  | globalAccessPerformed (t : Nat) (i : Pick)
  deriving DecidableEq, Repr

end Sys2Proof
end

