-- ==== Sys2Proof/WellFormed.lean ====
section
/-! DEFINITION. Well-formed instructions: the operand, fn, class, scope and branch-field values that R301-R315 assign. -/

namespace Sys2Proof

/-- A P0 guard with the negate bit is reserved (R302). -/
def guardOk (g : Guard) : Bool := !(g.p == 0 && g.neg)
/-- A G destination: code 63 is illegal (R301). -/
def gDst (d : R6) : Bool := d != 63
/-- A V destination: V0-V31 (R301). -/
def vDst (d : R6) : Bool := decide (d.toNat ≤ 31)
/-- A P, Q or T field: codes 0-7 (R301). -/
def three (d : R6) : Bool := decide (d.toNat ≤ 7)
/-- The first register of a G pair is even (R310). -/
def even (d : R6) : Bool := d &&& 1 == 0
/-- Scope codes 0-8 (R233). -/
def scopeOk (s : F4) : Bool := decide (s.toNat ≤ 8)
/-- Mask Q0 without zeroing (R303). -/
def noMask (m : Mask) : Bool := m.q == 0 && !m.z
/-- An epilogue register: E0-E7 or X (R436). -/
def eReg (x : F4) : Bool := decide (x.toNat ≤ 8)
/-- Numbers that name a special register (R350). -/
def specialOk (n : BitVec 12) : Bool :=
  let k := n.toNat
  decide (k ≤ 0x0B) || (decide (0x10 ≤ k) && decide (k ≤ 0x39))

/-- The encodings that R300-R316 and R436 assign. -/
def Instr.wf : Instr → Bool
  | .nop g => guardOk g
  | .br g _ => guardOk g
  | .brv g _ _ => guardOk g
  | .bri g _ => guardOk g
  | .call g _ => guardOk g
  | .calli g _ => guardOk g
  | .ret g => guardOk g
  | .lexit g => guardOk g
  | .waitf g _ _ => guardOk g
  | .yield g => guardOk g
  | .halt g => guardOk g
  | .trap g _ => guardOk g
  | .eret g => guardOk g
  | .brk g _ => guardOk g
  | .tfence g => guardOk g
  | .loop g dims c len => guardOk g && decide (1 ≤ dims.toNat) && decide (dims.toNat ≤ 6) && decide (1 ≤ c.toNat) && decide (c.toNat + dims.toNat ≤ 63) && decide (1 ≤ len.toNat) && decide (len.toNat ≤ 256)
  | .add g d _ _ fn => guardOk g && gDst d && decide (fn.toNat ≤ 2)
  | .sub g d _ _ fn => guardOk g && gDst d && decide (fn.toNat ≤ 2)
  | .mul g d _ _ fn => guardOk g && gDst d && decide (fn.toNat ≤ 3)
  | .div g d _ _ fn => guardOk g && gDst d && decide (fn.toNat ≤ 3)
  | .and g d _ _ fn => guardOk g && gDst d && decide (fn.toNat ≤ 0)
  | .or g d _ _ fn => guardOk g && gDst d && decide (fn.toNat ≤ 0)
  | .xor g d _ _ fn => guardOk g && gDst d && decide (fn.toNat ≤ 0)
  | .andn g d _ _ fn => guardOk g && gDst d && decide (fn.toNat ≤ 0)
  | .min g d _ _ fn => guardOk g && gDst d && decide (fn.toNat ≤ 1)
  | .max g d _ _ fn => guardOk g && gDst d && decide (fn.toNat ≤ 1)
  | .insr g d _ _ fn => guardOk g && gDst d && decide (fn.toNat ≤ 0)
  | .lea g d _ _ fn => guardOk g && gDst d && decide (fn.toNat ≤ 4)
  | .extr g d _ _ fn => guardOk g && gDst d && decide (fn.toNat ≤ 1)
  | .fadd g d _ _ fn => guardOk g && gDst d && decide (fn.toNat ≤ 1)
  | .fsub g d _ _ fn => guardOk g && gDst d && decide (fn.toNat ≤ 1)
  | .fmul g d _ _ fn => guardOk g && gDst d && decide (fn.toNat ≤ 1)
  | .ffma g d _ _ fn => guardOk g && gDst d && decide (fn.toNat ≤ 1)
  | .fmin g d _ _ fn => guardOk g && gDst d && decide (fn.toNat ≤ 0)
  | .fmax g d _ _ fn => guardOk g && gDst d && decide (fn.toNat ≤ 0)
  | .fdiv g d _ _ fn => guardOk g && gDst d && decide (fn.toNat ≤ 1)
  | .shl g d _ b fn => guardOk g && gDst d && decide (fn.toNat ≤ 3) && (fn != 3 || decide (b.toNat ≤ 31))
  | .shr g d _ b fn => guardOk g && gDst d && decide (fn.toNat ≤ 3) && (fn != 3 || decide (b.toNat ≤ 31))
  | .sar g d _ b fn => guardOk g && gDst d && decide (fn.toNat ≤ 3) && (fn != 3 || decide (b.toNat ≤ 31))
  | .rotr g d _ b fn => guardOk g && gDst d && decide (fn.toNat ≤ 3) && (fn != 3 || decide (b.toNat ≤ 31))
  | .clz g d _ b fn => guardOk g && gDst d && b == 0 && decide (fn.toNat ≤ 1)
  | .ctz g d _ b fn => guardOk g && gDst d && b == 0 && decide (fn.toNat ≤ 1)
  | .popc g d _ b fn => guardOk g && gDst d && b == 0 && decide (fn.toNat ≤ 1)
  | .fsqrt g d _ b fn => guardOk g && gDst d && b == 0 && decide (fn.toNat ≤ 1)
  | .cmp g d _ _ fn => guardOk g && three d && decide (fn.toNat ≤ 9)
  | .sel g d _ _ _ => guardOk g && gDst d
  | .addi g d _ _ => guardOk g && gDst d
  | .movi g d _ => guardOk g && gDst d
  | .plog g d a b _ => guardOk g && three d && three a && three b
  | .mfs g d num => guardOk g && gDst d && specialOk num
  | .mts g num _ => guardOk g && specialOk num
  | .fcmp g d _ _ fn => guardOk g && three d && decide (fn.toNat ≤ 7)
  | .fcvt g d _ b fn => guardOk g && gDst d && b == 0 && decide (fn.toNat ≤ 10)
  | .lds g d _ _ fn => guardOk g && gDst d && decide (fn.toNat ≤ 7)
  | .sts g _ _ _ fn => guardOk g && decide (fn.toNat ≤ 2)
  | .bteStart g _ _ _ fn => guardOk g && fn == 3
  | .ldg g d _ scope cls _ => guardOk g && gDst d && scopeOk scope && decide (cls.toNat ≤ 2)
  | .stg g _ _ scope cls fn => guardOk g && scopeOk scope && (cls == 0 || cls == 1 || cls == 3) && decide (fn.toNat ≤ 3)
  | .vlds g d _ _ fn => guardOk g && vDst d && decide (fn.toNat ≤ 2)
  | .vsts g _ _ _ fn => guardOk g && decide (fn.toNat ≤ 2)
  | .vldg g d _ scope cls fn => guardOk g && vDst d && scopeOk scope && decide (cls.toNat ≤ 2) && decide (fn.toNat ≤ 2)
  | .vstg g _ _ scope cls fn => guardOk g && scopeOk scope && (cls == 0 || cls == 1 || cls == 3) && decide (fn.toNat ≤ 2)
  | .vstm g _ _ _ fn => guardOk g && decide (fn.toNat ≤ 7)
  | .vldm g d _ _ _ => guardOk g && vDst d
  | .tlds g d _ _ fn => guardOk g && three d && fn == 0
  | .tsts g d _ _ fn => guardOk g && three d && fn == 0
  | .atg g d _ scope cls fn => guardOk g && even d && scopeOk scope && decide (1 ≤ cls.toNat) && decide (cls.toNat ≤ 4) && decide (fn.toNat ≤ 1)
  | .xadd g _ _ scope cls fn => guardOk g && scopeOk scope && cls == 1 && fn == 0
  | .rst g d _ scope cls fn => guardOk g && even d && d != 62 && scope == 0 && cls == 0 && fn == 0
  | .rld g _ _ scope cls fn => guardOk g && scope == 0 && cls == 0 && fn == 0
  | .rat g d _ scope cls fn => guardOk g && even d && scope == 0 && cls == 0 && fn == 0
  | .fence g d a scope cls fn => guardOk g && d == 0 && a == 0 && scopeOk scope && cls == 0 && decide (fn.toNat ≤ 2)
  | .cbfence g => guardOk g
  | .lbr g d _ _ fn => guardOk g && gDst d && decide (fn.toNat ≤ 3)
  | .tinv g d _ scope cls fn => guardOk g && d == 0 && scope == 0 && cls == 0 && decide (fn.toNat ≤ 1)
  | .vadd _ d _ _ fn => vDst d && decide (fn.toNat ≤ 6)
  | .vsub _ d _ _ fn => vDst d && decide (fn.toNat ≤ 6)
  | .vmul _ d _ _ fn => vDst d && decide (fn.toNat ≤ 6)
  | .vfma _ d _ _ fn => vDst d && decide (fn.toNat ≤ 2)
  | .vmin _ d _ _ fn => vDst d && (fn == 0 || fn == 2 || fn == 3 || fn == 4)
  | .vmax _ d _ _ fn => vDst d && (fn == 0 || fn == 2 || fn == 3 || fn == 4)
  | .vabs _ d _ b fn => vDst d && b == 0 && (fn == 0 || fn == 2 || fn == 3 || fn == 5)
  | .vneg _ d _ b fn => vDst d && b == 0 && (fn == 0 || fn == 2 || fn == 3 || fn == 5)
  | .vrcp _ d _ b fn => vDst d && b == 0 && fn == 0
  | .vrsq _ d _ b fn => vDst d && b == 0 && fn == 0
  | .vexp2 _ d _ b fn => vDst d && b == 0 && fn == 0
  | .vlog2 _ d _ b fn => vDst d && b == 0 && fn == 0
  | .vmov _ d _ b fn => vDst d && b == 0 && fn == 0
  | .vlut _ d _ b _ => vDst d && b == 0
  | .vcmp _ d _ _ _ => three d
  | .vsel m d _ _ fn => !m.z && vDst d && fn == 0
  | .vand _ d _ _ fn => vDst d && fn == 0
  | .vor _ d _ _ fn => vDst d && fn == 0
  | .vxor _ d _ _ fn => vDst d && fn == 0
  | .vshl _ d _ _ fn => vDst d && fn == 0
  | .vshr _ d _ _ fn => vDst d && fn == 0
  | .vsar _ d _ _ fn => vDst d && fn == 0
  | .vperm _ d _ _ fn => vDst d && fn == 0
  | .vrot _ d _ _ fn => vDst d && fn == 0
  | .vbcast _ d _ _ fn => vDst d && fn == 0
  | .vcvt _ d _ b fn => vDst d && b == 0 && decide (fn.toNat ≤ 7)
  | .vqmx m d _ b fn => !m.z && vDst d && b == 0 && decide (fn.toNat ≤ 5)
  | .vdqmx _ d _ b fn => vDst d && b == 0 && decide (fn.toNat ≤ 5)
  | .vred m d _ b fn => !m.z && gDst d && b == 0 && (fn &&& 3) != 3 && fn != 12
  | .vext m d _ _ fn => noMask m && gDst d && fn == 0
  | .viota m d a b fn => noMask m && vDst d && a == 0 && b == 0 && fn == 0
  | .qlog m d a b _ => noMask m && three d && three a && three b
  | .qpopc m d a b fn => noMask m && gDst d && three a && b == 0 && fn == 0
  | .tmovr m d _ _ fn => noMask m && three d && fn == 0
  | .tmovc m d a _ fn => noMask m && vDst d && three a && fn == 0
  | .trowv m d a _ fn => noMask m && vDst d && three a && fn == 0
  | .tzero m d a b fn => noMask m && three d && a == 0 && b == 0 && fn == 0
  | .mma g _ _ _ fn => guardOk g && decide (fn.toNat ≤ 3)
  | .mloadw g _ _ _ fn => guardOk g && decide (fn.toNat ≤ 3)
  | .mdrain g _ _ _ fn => guardOk g && decide (fn.toNat ≤ 1)
  | .mzero g _ b c fn => guardOk g && b == 0 && c == 0 && decide (fn.toNat ≤ 3)
  | .maccld g _ _ _ fn => guardOk g && decide (fn.toNat ≤ 7)
  | .epload g _ _ c fn => guardOk g && c == 0 && decide (fn.toNat ≤ 7)
  | .arinit g _ _ _ fn => guardOk g && fn == 0
  | .arrive g _ b c fn => guardOk g && b == 0 && c == 0 && fn == 0
  | .arwait g _ b c fn => guardOk g && b == 0 && c == 0 && decide (fn.toNat ≤ 1)
  | .artest g _ b c _ => guardOk g && b == 0 && c == 0
  | .arwaitm g _ _ c fn => guardOk g && c == 0 && decide (fn.toNat ≤ 1)
  | .artestm g _ _ c _ => guardOk g && c == 0
  | .efence g a b c fn => guardOk g && a == 0 && b == 0 && c == 0 && fn == 0
  | .specb g a b c fn => guardOk g && a == 0 && b == 0 && c == 0 && fn == 0
  | .specc g a b c fn => guardOk g && a == 0 && b == 0 && c == 0 && fn == 0
  | .speca g a b c fn => guardOk g && a == 0 && b == 0 && c == 0 && fn == 0
  | .skupd g _ _ _ fn => guardOk g && decide (fn.toNat ≤ 1)
  | .skqry g _ _ _ fn => guardOk g && decide (fn.toNat ≤ 1)
  | .skadd g _ _ c fn => guardOk g && c == 0 && fn == 0
  | .csig g _ _ c fn => guardOk g && c == 0 && fn == 0
  | .qpush g _ _ c fn => guardOk g && c == 0 && fn == 0
  | .qpop g _ _ c fn => guardOk g && c == 0 && fn == 0
  | .launch g _ _ c fn => guardOk g && c == 0 && fn == 0
  | .skclr g _ b c fn => guardOk g && b == 0 && c == 0 && fn == 0
  | .coll g _ b c fn => guardOk g && b == 0 && c == 0 && fn == 0
  | .gbar g _ b c fn => guardOk g && b == 0 && c == 0 && fn == 0
  | .dgst g _ b c fn => guardOk g && b == 0 && c == 0 && fn == 0
  | .qtry g _ b c _ => guardOk g && b == 0 && c == 0
  | .endp _ _ _ => true
  | .cvt x y z => eReg x && eReg y && decide (z.toNat ≤ 3)
  | .cvtb x y z => eReg x && eReg y && decide (z.toNat ≤ 3)
  | .addv x y z => eReg x && eReg y && eReg z
  | .mulv x y z => eReg x && eReg y && eReg z
  | .fmav x y z => eReg x && eReg y && eReg z
  | .clamp x y z => eReg x && eReg y && eReg z
  | .maxe x y z => eReg x && eReg y && eReg z
  | .mine x y z => eReg x && eReg y && eReg z
  | .adds x y _ => eReg x && eReg y
  | .muls x y _ => eReg x && eReg y
  | .lutp x y _ => eReg x && eReg y
  | .relum x y z => eReg x && eReg y && z == 0
  | .move x y z => eReg x && eReg y && z == 0
  | .maskw x y z => decide (x.toNat ≤ 5) && eReg y && eReg z
  | .qout x y z => eReg x && y == 0 && z == 0
  | .powerGood => true
  | .packageResetRelease => true
  | .kindlingTimeout => true
  | .modulePowerLoss => true
  | .blockOverheat _ _ => true
  | .blockCooled _ _ => true
  | .thermalTrip _ _ => true
  | .coreRetirement _ _ => true
  | .uncorrectableError _ _ => true
  | .flitInject _ => true
  | .linkFlitReceive _ _ => true
  | .nakReceived _ => true
  | .par _ _ => true
  | .nakRepeatTimeout _ => true
  | .linkRetrainDone _ _ => true
  | .segmentFailure _ => true
  | .unreachTimeout _ => true
  | .flitAtExitNode _ _ _ => true
  | .refusedFlitRetry _ => true
  | .rstAtTarget _ => true
  | .rldAtTarget _ => true
  | .ratAtTarget _ => true
  | .rstack _ => true
  | .rlddata _ => true
  | .ratdata _ => true
  | .bseg _ => true
  | .mgmt _ => true
  | .ablumLinkFailure _ => true
  | .hostRead _ _ => true
  | .hostWrite _ _ => true
  | .mgmtRegisterWrite _ _ => true
  | .monitoredLineInvalidate _ => true
  | .create _ => true
  | .launchRecord _ => true
  | .setprio _ => true
  | .freeze _ => true
  | .resume _ => true
  | .kill _ => true
  | .dirtysnap _ => true
  | .queryDevinfo _ => true
  | .queryCtxstate _ => true
  | .queryAttest _ => true
  | .queryLogstat _ => true
  | .eventLogWrite => true
  | .freezeTimeout _ => true
  | .engineStopAck _ _ _ => true
  | .preemptionComplete _ => true
  | .rebalance _ => true
  | .quantumExpiry _ => true
  | .residencySwap _ => true
  | .agingTick _ => true
  | .deadlockTimeout _ _ => true
  | .damperWindow _ _ => true
  | .strandSwitch _ => true
  | .strandReady _ => true
  | .firingStart _ => true
  | .firingEnd _ => true
  | .graphEnd _ _ => true
  | .childInstantiate _ _ => true
  | .channelPublish _ _ _ _ => true
  | .engineCommandReady _ _ => true
  | .bteAccept _ _ => true
  | .bteChunkPerformed _ _ => true
  | .bteCommandComplete _ _ => true
  | .decodeStall _ _ => true
  | .matrixCommandStart _ _ => true
  | .mmaComplete _ _ => true
  | .mloadwComplete _ _ => true
  | .mdrainRowWritten _ _ => true
  | .maccldComplete _ _ => true
  | .eploadComplete _ _ => true
  | .sketchAccept _ _ => true
  | .sketchCommandComplete _ _ => true
  | .collAccept _ _ => true
  | .collComplete _ _ => true
  | .dgstCheckpoint _ _ _ => true
  | .packageResetAsserted => true
  | .hbmRepairRowsExhausted _ _ => true
  | .ablumLinkRetrained _ _ => true
  | .mzeroComplete _ _ => true
  | .globalAccessPerformed _ _ => true

end Sys2Proof
end

