-- ==== Sys2Proof/Decode.lean ====
section
/-! DEFINITION. Decoding slot words and bundles (R295-R316), total on any bytes and rejecting by name, and the encoder written
from the same tables. A word's opcode number is read per slot class. -/

namespace Sys2Proof

/-- The classes of instruction (R295), epilogue operations, and steps without an encoding. -/
inductive SlotClass where
  | b | s | m | v | e | epi | event
  deriving DecidableEq, Repr

/-- Why bytes are no bundle or a word no instruction. -/
inductive DecodeErr where
  /-- an opcode, field or operand code that R300-R315 do not assign (R316) -/
  | illop (slot : Nat)
  /-- a malformed bundle, with the condition of R297 -/
  | illb (cond : Nat)
  deriving DecidableEq, Repr

/-- The class of an instruction. -/
def Instr.slotClass : Instr → SlotClass
  | .nop _ => .b
  | .br _ _ => .b
  | .brv _ _ _ => .b
  | .bri _ _ => .b
  | .call _ _ => .b
  | .calli _ _ => .b
  | .ret _ => .b
  | .loop _ _ _ _ => .b
  | .lexit _ => .b
  | .waitf _ _ _ => .b
  | .yield _ => .b
  | .halt _ => .b
  | .trap _ _ => .b
  | .eret _ => .b
  | .brk _ _ => .b
  | .tfence _ => .b
  | .add _ _ _ _ _ => .s
  | .sub _ _ _ _ _ => .s
  | .mul _ _ _ _ _ => .s
  | .div _ _ _ _ _ => .s
  | .and _ _ _ _ _ => .s
  | .or _ _ _ _ _ => .s
  | .xor _ _ _ _ _ => .s
  | .andn _ _ _ _ _ => .s
  | .shl _ _ _ _ _ => .s
  | .shr _ _ _ _ _ => .s
  | .sar _ _ _ _ _ => .s
  | .rotr _ _ _ _ _ => .s
  | .min _ _ _ _ _ => .s
  | .max _ _ _ _ _ => .s
  | .cmp _ _ _ _ _ => .s
  | .sel _ _ _ _ _ => .s
  | .clz _ _ _ _ _ => .s
  | .ctz _ _ _ _ _ => .s
  | .popc _ _ _ _ _ => .s
  | .extr _ _ _ _ _ => .s
  | .insr _ _ _ _ _ => .s
  | .lea _ _ _ _ _ => .s
  | .addi _ _ _ _ => .s
  | .movi _ _ _ => .s
  | .plog _ _ _ _ _ => .s
  | .mfs _ _ _ => .s
  | .mts _ _ _ => .s
  | .fadd _ _ _ _ _ => .s
  | .fsub _ _ _ _ _ => .s
  | .fmul _ _ _ _ _ => .s
  | .ffma _ _ _ _ _ => .s
  | .fmin _ _ _ _ _ => .s
  | .fmax _ _ _ _ _ => .s
  | .fcmp _ _ _ _ _ => .s
  | .fcvt _ _ _ _ _ => .s
  | .fdiv _ _ _ _ _ => .s
  | .fsqrt _ _ _ _ _ => .s
  | .lds _ _ _ _ _ => .m
  | .sts _ _ _ _ _ => .m
  | .bteStart _ _ _ _ _ => .m
  | .ldg _ _ _ _ _ _ => .m
  | .stg _ _ _ _ _ _ => .m
  | .vlds _ _ _ _ _ => .m
  | .vsts _ _ _ _ _ => .m
  | .vldg _ _ _ _ _ _ => .m
  | .vstg _ _ _ _ _ _ => .m
  | .vstm _ _ _ _ _ => .m
  | .vldm _ _ _ _ _ => .m
  | .tlds _ _ _ _ _ => .m
  | .tsts _ _ _ _ _ => .m
  | .atg _ _ _ _ _ _ => .m
  | .xadd _ _ _ _ _ _ => .m
  | .rst _ _ _ _ _ _ => .m
  | .rld _ _ _ _ _ _ => .m
  | .rat _ _ _ _ _ _ => .m
  | .fence _ _ _ _ _ _ => .m
  | .cbfence _ => .m
  | .lbr _ _ _ _ _ => .m
  | .tinv _ _ _ _ _ _ => .m
  | .vadd _ _ _ _ _ => .v
  | .vsub _ _ _ _ _ => .v
  | .vmul _ _ _ _ _ => .v
  | .vfma _ _ _ _ _ => .v
  | .vmin _ _ _ _ _ => .v
  | .vmax _ _ _ _ _ => .v
  | .vabs _ _ _ _ _ => .v
  | .vneg _ _ _ _ _ => .v
  | .vrcp _ _ _ _ _ => .v
  | .vrsq _ _ _ _ _ => .v
  | .vexp2 _ _ _ _ _ => .v
  | .vlog2 _ _ _ _ _ => .v
  | .vlut _ _ _ _ _ => .v
  | .vcmp _ _ _ _ _ => .v
  | .vsel _ _ _ _ _ => .v
  | .vmov _ _ _ _ _ => .v
  | .vand _ _ _ _ _ => .v
  | .vor _ _ _ _ _ => .v
  | .vxor _ _ _ _ _ => .v
  | .vshl _ _ _ _ _ => .v
  | .vshr _ _ _ _ _ => .v
  | .vsar _ _ _ _ _ => .v
  | .vcvt _ _ _ _ _ => .v
  | .vqmx _ _ _ _ _ => .v
  | .vdqmx _ _ _ _ _ => .v
  | .vred _ _ _ _ _ => .v
  | .vperm _ _ _ _ _ => .v
  | .vrot _ _ _ _ _ => .v
  | .vbcast _ _ _ _ _ => .v
  | .vext _ _ _ _ _ => .v
  | .viota _ _ _ _ _ => .v
  | .qlog _ _ _ _ _ => .v
  | .qpopc _ _ _ _ _ => .v
  | .tmovr _ _ _ _ _ => .v
  | .tmovc _ _ _ _ _ => .v
  | .trowv _ _ _ _ _ => .v
  | .tzero _ _ _ _ _ => .v
  | .mma _ _ _ _ _ => .e
  | .mloadw _ _ _ _ _ => .e
  | .mdrain _ _ _ _ _ => .e
  | .mzero _ _ _ _ _ => .e
  | .maccld _ _ _ _ _ => .e
  | .epload _ _ _ _ _ => .e
  | .arinit _ _ _ _ _ => .e
  | .arrive _ _ _ _ _ => .e
  | .arwait _ _ _ _ _ => .e
  | .artest _ _ _ _ _ => .e
  | .arwaitm _ _ _ _ _ => .e
  | .artestm _ _ _ _ _ => .e
  | .efence _ _ _ _ _ => .e
  | .skupd _ _ _ _ _ => .e
  | .skqry _ _ _ _ _ => .e
  | .skadd _ _ _ _ _ => .e
  | .skclr _ _ _ _ _ => .e
  | .coll _ _ _ _ _ => .e
  | .csig _ _ _ _ _ => .e
  | .qpush _ _ _ _ _ => .e
  | .qpop _ _ _ _ _ => .e
  | .qtry _ _ _ _ _ => .e
  | .launch _ _ _ _ _ => .e
  | .gbar _ _ _ _ _ => .e
  | .specb _ _ _ _ _ => .e
  | .specc _ _ _ _ _ => .e
  | .speca _ _ _ _ _ => .e
  | .dgst _ _ _ _ _ => .e
  | .endp _ _ _ => .epi
  | .cvt _ _ _ => .epi
  | .addv _ _ _ => .epi
  | .mulv _ _ _ => .epi
  | .fmav _ _ _ => .epi
  | .adds _ _ _ => .epi
  | .muls _ _ _ => .epi
  | .relum _ _ _ => .epi
  | .clamp _ _ _ => .epi
  | .lutp _ _ _ => .epi
  | .maxe _ _ _ => .epi
  | .mine _ _ _ => .epi
  | .move _ _ _ => .epi
  | .cvtb _ _ _ => .epi
  | .maskw _ _ _ => .epi
  | .qout _ _ _ => .epi
  | .powerGood => .event
  | .packageResetRelease => .event
  | .kindlingTimeout => .event
  | .modulePowerLoss => .event
  | .blockOverheat _ _ => .event
  | .blockCooled _ _ => .event
  | .thermalTrip _ _ => .event
  | .coreRetirement _ _ => .event
  | .uncorrectableError _ _ => .event
  | .flitInject _ => .event
  | .linkFlitReceive _ _ => .event
  | .nakReceived _ => .event
  | .par _ _ => .event
  | .nakRepeatTimeout _ => .event
  | .linkRetrainDone _ _ => .event
  | .segmentFailure _ => .event
  | .unreachTimeout _ => .event
  | .flitAtExitNode _ _ _ => .event
  | .refusedFlitRetry _ => .event
  | .rstAtTarget _ => .event
  | .rldAtTarget _ => .event
  | .ratAtTarget _ => .event
  | .rstack _ => .event
  | .rlddata _ => .event
  | .ratdata _ => .event
  | .bseg _ => .event
  | .mgmt _ => .event
  | .ablumLinkFailure _ => .event
  | .hostRead _ _ => .event
  | .hostWrite _ _ => .event
  | .mgmtRegisterWrite _ _ => .event
  | .monitoredLineInvalidate _ => .event
  | .create _ => .event
  | .launchRecord _ => .event
  | .setprio _ => .event
  | .freeze _ => .event
  | .resume _ => .event
  | .kill _ => .event
  | .dirtysnap _ => .event
  | .queryDevinfo _ => .event
  | .queryCtxstate _ => .event
  | .queryAttest _ => .event
  | .queryLogstat _ => .event
  | .eventLogWrite => .event
  | .freezeTimeout _ => .event
  | .engineStopAck _ _ _ => .event
  | .preemptionComplete _ => .event
  | .rebalance _ => .event
  | .quantumExpiry _ => .event
  | .residencySwap _ => .event
  | .agingTick _ => .event
  | .deadlockTimeout _ _ => .event
  | .damperWindow _ _ => .event
  | .strandSwitch _ => .event
  | .strandReady _ => .event
  | .firingStart _ => .event
  | .firingEnd _ => .event
  | .graphEnd _ _ => .event
  | .childInstantiate _ _ => .event
  | .channelPublish _ _ _ _ => .event
  | .engineCommandReady _ _ => .event
  | .bteAccept _ _ => .event
  | .bteChunkPerformed _ _ => .event
  | .bteCommandComplete _ _ => .event
  | .decodeStall _ _ => .event
  | .matrixCommandStart _ _ => .event
  | .mmaComplete _ _ => .event
  | .mloadwComplete _ _ => .event
  | .mdrainRowWritten _ _ => .event
  | .maccldComplete _ _ => .event
  | .eploadComplete _ _ => .event
  | .sketchAccept _ _ => .event
  | .sketchCommandComplete _ _ => .event
  | .collAccept _ _ => .event
  | .collComplete _ _ => .event
  | .dgstCheckpoint _ _ _ => .event
  | .packageResetAsserted => .event
  | .hbmRepairRowsExhausted _ _ => .event
  | .ablumLinkRetrained _ _ => .event
  | .mzeroComplete _ _ => .event
  | .globalAccessPerformed _ _ => .event

/-! ### Field places (R300) -/

/-- Bits [21:16]. -/
def fD (w : W32) : R6 := w.extractLsb' 16 6
/-- Bits [15:10]. -/
def fA (w : W32) : R6 := w.extractLsb' 10 6
/-- Bits [9:4]. -/
def fB (w : W32) : R6 := w.extractLsb' 4 6
/-- Bits [3:0]. -/
def fF (w : W32) : F4 := w.extractLsb' 0 4
/-- Bits [31:26]. -/
def fOp (w : W32) : R6 := w.extractLsb' 26 6
/-- The guard of bits [25:22]. -/
def fG (w : W32) : Guard := { p := w.extractLsb' 23 3, neg := w.getLsbD 22 }
/-- The mask of bits [25:22] of a V word. -/
def fM (w : W32) : Mask := { q := w.extractLsb' 23 3, z := w.getLsbD 22 }

/-- Format B. -/
def encB (op : R6) (g : Guard) (x : BitVec 22) : W32 := op ++ g.p ++ BitVec.ofBool g.neg ++ x
/-- Formats A, MS and E: three operand fields and fn. -/
def encA (op : R6) (g : Guard) (d a b : R6) (fn : F4) : W32 := op ++ g.p ++ BitVec.ofBool g.neg ++ d ++ a ++ b ++ fn
/-- Format I. -/
def encI (op : R6) (g : Guard) (d a : R6) (i : BitVec 10) : W32 := op ++ g.p ++ BitVec.ofBool g.neg ++ d ++ a ++ i
/-- Format J. -/
def encJ (op : R6) (g : Guard) (d : R6) (i : W16) : W32 := op ++ g.p ++ BitVec.ofBool g.neg ++ d ++ i
/-- Special-register moves: register in [21:16], number in [15:4] (R370). -/
def encS (op : R6) (g : Guard) (d : R6) (n : BitVec 12) : W32 := op ++ g.p ++ BitVec.ofBool g.neg ++ d ++ n ++ 0#4
/-- Format MG: scope [9:6], class [5:3], fn [2:0]. -/
def encMG (op : R6) (g : Guard) (d a : R6) (scope : F4) (cls fn : F3) : W32 :=
  op ++ g.p ++ BitVec.ofBool g.neg ++ d ++ a ++ scope ++ cls ++ fn
/-- Format V. -/
def encV (op : R6) (m : Mask) (d a b : R6) (fn : F4) : W32 := op ++ m.q ++ BitVec.ofBool m.z ++ d ++ a ++ b ++ fn

/-- The slot word of an instruction (R300, R308-R314); a step without a slot word gives 0. -/
def encode : Instr → W32
  | .nop g => encB 0x00#6 g (0#22)
  | .br g disp => encB 0x01#6 g (disp)
  | .brv g q disp => encB 0x02#6 g (q ++ disp)
  | .bri g a => encB 0x03#6 g (a ++ 0#16)
  | .call g disp => encB 0x04#6 g (disp)
  | .calli g a => encB 0x05#6 g (a ++ 0#16)
  | .ret g => encB 0x06#6 g (0#22)
  | .loop g dims c len => encB 0x07#6 g (dims ++ c ++ 0#4 ++ len)
  | .lexit g => encB 0x08#6 g (0#22)
  | .waitf g a b => encB 0x09#6 g (a ++ b ++ 0#10)
  | .yield g => encB 0x0A#6 g (0#22)
  | .halt g => encB 0x0B#6 g (0#22)
  | .trap g code => encB 0x0C#6 g (0#6 ++ code)
  | .eret g => encB 0x0D#6 g (0#22)
  | .brk g code => encB 0x0E#6 g (0#6 ++ code)
  | .tfence g => encB 0x0F#6 g (0#22)
  | .add g d a b fn => encA 0x00#6 g d a b fn
  | .sub g d a b fn => encA 0x01#6 g d a b fn
  | .mul g d a b fn => encA 0x02#6 g d a b fn
  | .div g d a b fn => encA 0x03#6 g d a b fn
  | .and g d a b fn => encA 0x04#6 g d a b fn
  | .or g d a b fn => encA 0x05#6 g d a b fn
  | .xor g d a b fn => encA 0x06#6 g d a b fn
  | .andn g d a b fn => encA 0x07#6 g d a b fn
  | .shl g d a b fn => encA 0x08#6 g d a b fn
  | .shr g d a b fn => encA 0x09#6 g d a b fn
  | .sar g d a b fn => encA 0x0A#6 g d a b fn
  | .rotr g d a b fn => encA 0x0B#6 g d a b fn
  | .min g d a b fn => encA 0x0C#6 g d a b fn
  | .max g d a b fn => encA 0x0D#6 g d a b fn
  | .cmp g d a b fn => encA 0x0E#6 g d a b fn
  | .sel g d a b fn => encA 0x0F#6 g d a b fn
  | .clz g d a b fn => encA 0x10#6 g d a b fn
  | .ctz g d a b fn => encA 0x11#6 g d a b fn
  | .popc g d a b fn => encA 0x12#6 g d a b fn
  | .extr g d a b fn => encA 0x13#6 g d a b fn
  | .insr g d a b fn => encA 0x14#6 g d a b fn
  | .lea g d a b fn => encA 0x15#6 g d a b fn
  | .addi g d a imm => encI 0x16#6 g d a imm
  | .movi g d imm => encJ 0x17#6 g d imm
  | .plog g d a b fn => encA 0x18#6 g d a b fn
  | .mfs g d num => encS 0x19#6 g d num
  | .mts g num a => encS 0x1A#6 g a num
  | .fadd g d a b fn => encA 0x20#6 g d a b fn
  | .fsub g d a b fn => encA 0x21#6 g d a b fn
  | .fmul g d a b fn => encA 0x22#6 g d a b fn
  | .ffma g d a b fn => encA 0x23#6 g d a b fn
  | .fmin g d a b fn => encA 0x24#6 g d a b fn
  | .fmax g d a b fn => encA 0x25#6 g d a b fn
  | .fcmp g d a b fn => encA 0x26#6 g d a b fn
  | .fcvt g d a b fn => encA 0x27#6 g d a b fn
  | .fdiv g d a b fn => encA 0x28#6 g d a b fn
  | .fsqrt g d a b fn => encA 0x29#6 g d a b fn
  | .lds g d a b fn => encA 0x00#6 g d a b fn
  | .sts g d a b fn => encA 0x01#6 g d a b fn
  | .bteStart g d a b fn => encA 0x01#6 g d a b fn
  | .ldg g d a scope cls fn => encMG 0x02#6 g d a scope cls fn
  | .stg g d a scope cls fn => encMG 0x03#6 g d a scope cls fn
  | .vlds g d a b fn => encA 0x04#6 g d a b fn
  | .vsts g d a b fn => encA 0x05#6 g d a b fn
  | .vldg g d a scope cls fn => encMG 0x06#6 g d a scope cls fn
  | .vstg g d a scope cls fn => encMG 0x07#6 g d a scope cls fn
  | .vstm g d a b fn => encA 0x08#6 g d a b fn
  | .vldm g d a b fn => encA 0x09#6 g d a b fn
  | .tlds g d a b fn => encA 0x0A#6 g d a b fn
  | .tsts g d a b fn => encA 0x0B#6 g d a b fn
  | .atg g d a scope cls fn => encMG 0x0C#6 g d a scope cls fn
  | .xadd g d a scope cls fn => encMG 0x0D#6 g d a scope cls fn
  | .rst g d a scope cls fn => encMG 0x0E#6 g d a scope cls fn
  | .rld g d a scope cls fn => encMG 0x0F#6 g d a scope cls fn
  | .rat g d a scope cls fn => encMG 0x10#6 g d a scope cls fn
  | .fence g d a scope cls fn => encMG 0x11#6 g d a scope cls fn
  | .cbfence g => encB 0x12#6 g 0#22
  | .lbr g d a b fn => encA 0x13#6 g d a b fn
  | .tinv g d a scope cls fn => encMG 0x14#6 g d a scope cls fn
  | .vadd m d a b fn => encV 0x00#6 m d a b fn
  | .vsub m d a b fn => encV 0x01#6 m d a b fn
  | .vmul m d a b fn => encV 0x02#6 m d a b fn
  | .vfma m d a b fn => encV 0x03#6 m d a b fn
  | .vmin m d a b fn => encV 0x04#6 m d a b fn
  | .vmax m d a b fn => encV 0x05#6 m d a b fn
  | .vabs m d a b fn => encV 0x06#6 m d a b fn
  | .vneg m d a b fn => encV 0x07#6 m d a b fn
  | .vrcp m d a b fn => encV 0x08#6 m d a b fn
  | .vrsq m d a b fn => encV 0x09#6 m d a b fn
  | .vexp2 m d a b fn => encV 0x0A#6 m d a b fn
  | .vlog2 m d a b fn => encV 0x0B#6 m d a b fn
  | .vlut m d a b fn => encV 0x0C#6 m d a b fn
  | .vcmp m d a b fn => encV 0x0D#6 m d a b fn
  | .vsel m d a b fn => encV 0x0E#6 m d a b fn
  | .vmov m d a b fn => encV 0x0F#6 m d a b fn
  | .vand m d a b fn => encV 0x10#6 m d a b fn
  | .vor m d a b fn => encV 0x11#6 m d a b fn
  | .vxor m d a b fn => encV 0x12#6 m d a b fn
  | .vshl m d a b fn => encV 0x13#6 m d a b fn
  | .vshr m d a b fn => encV 0x14#6 m d a b fn
  | .vsar m d a b fn => encV 0x15#6 m d a b fn
  | .vcvt m d a b fn => encV 0x16#6 m d a b fn
  | .vqmx m d a b fn => encV 0x17#6 m d a b fn
  | .vdqmx m d a b fn => encV 0x18#6 m d a b fn
  | .vred m d a b fn => encV 0x19#6 m d a b fn
  | .vperm m d a b fn => encV 0x1A#6 m d a b fn
  | .vrot m d a b fn => encV 0x1B#6 m d a b fn
  | .vbcast m d a b fn => encV 0x1C#6 m d a b fn
  | .vext m d a b fn => encV 0x1D#6 m d a b fn
  | .viota m d a b fn => encV 0x1E#6 m d a b fn
  | .qlog m d a b fn => encV 0x1F#6 m d a b fn
  | .qpopc m d a b fn => encV 0x20#6 m d a b fn
  | .tmovr m d a b fn => encV 0x21#6 m d a b fn
  | .tmovc m d a b fn => encV 0x22#6 m d a b fn
  | .trowv m d a b fn => encV 0x23#6 m d a b fn
  | .tzero m d a b fn => encV 0x24#6 m d a b fn
  | .mma g a b c fn => encA 0x00#6 g a b c fn
  | .mloadw g a b c fn => encA 0x01#6 g a b c fn
  | .mdrain g a b c fn => encA 0x02#6 g a b c fn
  | .mzero g a b c fn => encA 0x03#6 g a b c fn
  | .maccld g a b c fn => encA 0x04#6 g a b c fn
  | .epload g a b c fn => encA 0x05#6 g a b c fn
  | .arinit g a b c fn => encA 0x06#6 g a b c fn
  | .arrive g a b c fn => encA 0x07#6 g a b c fn
  | .arwait g a b c fn => encA 0x08#6 g a b c fn
  | .artest g a b c fn => encA 0x09#6 g a b c fn
  | .arwaitm g a b c fn => encA 0x0A#6 g a b c fn
  | .artestm g a b c fn => encA 0x0B#6 g a b c fn
  | .efence g a b c fn => encA 0x0C#6 g a b c fn
  | .skupd g a b c fn => encA 0x0D#6 g a b c fn
  | .skqry g a b c fn => encA 0x0E#6 g a b c fn
  | .skadd g a b c fn => encA 0x0F#6 g a b c fn
  | .skclr g a b c fn => encA 0x10#6 g a b c fn
  | .coll g a b c fn => encA 0x11#6 g a b c fn
  | .csig g a b c fn => encA 0x12#6 g a b c fn
  | .qpush g a b c fn => encA 0x13#6 g a b c fn
  | .qpop g a b c fn => encA 0x14#6 g a b c fn
  | .qtry g a b c fn => encA 0x15#6 g a b c fn
  | .launch g a b c fn => encA 0x16#6 g a b c fn
  | .gbar g a b c fn => encA 0x17#6 g a b c fn
  | .specb g a b c fn => encA 0x18#6 g a b c fn
  | .specc g a b c fn => encA 0x19#6 g a b c fn
  | .speca g a b c fn => encA 0x1A#6 g a b c fn
  | .dgst g a b c fn => encA 0x1B#6 g a b c fn
  | .powerGood => 0
  | .packageResetRelease => 0
  | .kindlingTimeout => 0
  | .modulePowerLoss => 0
  | .blockOverheat _ _ => 0
  | .blockCooled _ _ => 0
  | .thermalTrip _ _ => 0
  | .coreRetirement _ _ => 0
  | .uncorrectableError _ _ => 0
  | .flitInject _ => 0
  | .linkFlitReceive _ _ => 0
  | .nakReceived _ => 0
  | .par _ _ => 0
  | .nakRepeatTimeout _ => 0
  | .linkRetrainDone _ _ => 0
  | .segmentFailure _ => 0
  | .unreachTimeout _ => 0
  | .flitAtExitNode _ _ _ => 0
  | .refusedFlitRetry _ => 0
  | .rstAtTarget _ => 0
  | .rldAtTarget _ => 0
  | .ratAtTarget _ => 0
  | .rstack _ => 0
  | .rlddata _ => 0
  | .ratdata _ => 0
  | .bseg _ => 0
  | .mgmt _ => 0
  | .ablumLinkFailure _ => 0
  | .hostRead _ _ => 0
  | .hostWrite _ _ => 0
  | .mgmtRegisterWrite _ _ => 0
  | .monitoredLineInvalidate _ => 0
  | .create _ => 0
  | .launchRecord _ => 0
  | .setprio _ => 0
  | .freeze _ => 0
  | .resume _ => 0
  | .kill _ => 0
  | .dirtysnap _ => 0
  | .queryDevinfo _ => 0
  | .queryCtxstate _ => 0
  | .queryAttest _ => 0
  | .queryLogstat _ => 0
  | .eventLogWrite => 0
  | .freezeTimeout _ => 0
  | .engineStopAck _ _ _ => 0
  | .preemptionComplete _ => 0
  | .rebalance _ => 0
  | .quantumExpiry _ => 0
  | .residencySwap _ => 0
  | .agingTick _ => 0
  | .deadlockTimeout _ _ => 0
  | .damperWindow _ _ => 0
  | .strandSwitch _ => 0
  | .strandReady _ => 0
  | .firingStart _ => 0
  | .firingEnd _ => 0
  | .graphEnd _ _ => 0
  | .childInstantiate _ _ => 0
  | .channelPublish _ _ _ _ => 0
  | .engineCommandReady _ _ => 0
  | .bteAccept _ _ => 0
  | .bteChunkPerformed _ _ => 0
  | .bteCommandComplete _ _ => 0
  | .decodeStall _ _ => 0
  | .matrixCommandStart _ _ => 0
  | .mmaComplete _ _ => 0
  | .mloadwComplete _ _ => 0
  | .mdrainRowWritten _ _ => 0
  | .maccldComplete _ _ => 0
  | .eploadComplete _ _ => 0
  | .sketchAccept _ _ => 0
  | .sketchCommandComplete _ _ => 0
  | .collAccept _ _ => 0
  | .collComplete _ _ => 0
  | .dgstCheckpoint _ _ _ => 0
  | .packageResetAsserted => 0
  | .hbmRepairRowsExhausted _ _ => 0
  | .ablumLinkRetrained _ _ => 0
  | .mzeroComplete _ _ => 0
  | .globalAccessPerformed _ _ => 0
  | .endp _ _ _ => 0
  | .cvt _ _ _ => 0
  | .addv _ _ _ => 0
  | .mulv _ _ _ => 0
  | .fmav _ _ _ => 0
  | .adds _ _ _ => 0
  | .muls _ _ _ => 0
  | .relum _ _ _ => 0
  | .clamp _ _ _ => 0
  | .lutp _ _ _ => 0
  | .maxe _ _ _ => 0
  | .mine _ _ _ => 0
  | .move _ _ _ => 0
  | .cvtb _ _ _ => 0
  | .maskw _ _ _ => 0
  | .qout _ _ _ => 0

/-- The word of an epilogue operation (R436); anything else gives 0. -/
def encodeEpi : Instr → W16
  | .endp x y z => 0#4 ++ x ++ y ++ z
  | .cvt x y z => 1#4 ++ x ++ y ++ z
  | .addv x y z => 2#4 ++ x ++ y ++ z
  | .mulv x y z => 3#4 ++ x ++ y ++ z
  | .fmav x y z => 4#4 ++ x ++ y ++ z
  | .adds x y z => 5#4 ++ x ++ y ++ z
  | .muls x y z => 6#4 ++ x ++ y ++ z
  | .relum x y z => 7#4 ++ x ++ y ++ z
  | .clamp x y z => 8#4 ++ x ++ y ++ z
  | .lutp x y z => 9#4 ++ x ++ y ++ z
  | .maxe x y z => 10#4 ++ x ++ y ++ z
  | .mine x y z => 11#4 ++ x ++ y ++ z
  | .move x y z => 12#4 ++ x ++ y ++ z
  | .cvtb x y z => 13#4 ++ x ++ y ++ z
  | .maskw x y z => 14#4 ++ x ++ y ++ z
  | .qout x y z => 15#4 ++ x ++ y ++ z
  | .powerGood => 0
  | .packageResetRelease => 0
  | .kindlingTimeout => 0
  | .modulePowerLoss => 0
  | .blockOverheat _ _ => 0
  | .blockCooled _ _ => 0
  | .thermalTrip _ _ => 0
  | .coreRetirement _ _ => 0
  | .uncorrectableError _ _ => 0
  | .flitInject _ => 0
  | .linkFlitReceive _ _ => 0
  | .nakReceived _ => 0
  | .par _ _ => 0
  | .nakRepeatTimeout _ => 0
  | .linkRetrainDone _ _ => 0
  | .segmentFailure _ => 0
  | .unreachTimeout _ => 0
  | .flitAtExitNode _ _ _ => 0
  | .refusedFlitRetry _ => 0
  | .rstAtTarget _ => 0
  | .rldAtTarget _ => 0
  | .ratAtTarget _ => 0
  | .rstack _ => 0
  | .rlddata _ => 0
  | .ratdata _ => 0
  | .bseg _ => 0
  | .mgmt _ => 0
  | .ablumLinkFailure _ => 0
  | .hostRead _ _ => 0
  | .hostWrite _ _ => 0
  | .mgmtRegisterWrite _ _ => 0
  | .monitoredLineInvalidate _ => 0
  | .create _ => 0
  | .launchRecord _ => 0
  | .setprio _ => 0
  | .freeze _ => 0
  | .resume _ => 0
  | .kill _ => 0
  | .dirtysnap _ => 0
  | .queryDevinfo _ => 0
  | .queryCtxstate _ => 0
  | .queryAttest _ => 0
  | .queryLogstat _ => 0
  | .eventLogWrite => 0
  | .freezeTimeout _ => 0
  | .engineStopAck _ _ _ => 0
  | .preemptionComplete _ => 0
  | .rebalance _ => 0
  | .quantumExpiry _ => 0
  | .residencySwap _ => 0
  | .agingTick _ => 0
  | .deadlockTimeout _ _ => 0
  | .damperWindow _ _ => 0
  | .strandSwitch _ => 0
  | .strandReady _ => 0
  | .firingStart _ => 0
  | .firingEnd _ => 0
  | .graphEnd _ _ => 0
  | .childInstantiate _ _ => 0
  | .channelPublish _ _ _ _ => 0
  | .engineCommandReady _ _ => 0
  | .bteAccept _ _ => 0
  | .bteChunkPerformed _ _ => 0
  | .bteCommandComplete _ _ => 0
  | .decodeStall _ _ => 0
  | .matrixCommandStart _ _ => 0
  | .mmaComplete _ _ => 0
  | .mloadwComplete _ _ => 0
  | .mdrainRowWritten _ _ => 0
  | .maccldComplete _ _ => 0
  | .eploadComplete _ _ => 0
  | .sketchAccept _ _ => 0
  | .sketchCommandComplete _ _ => 0
  | .collAccept _ _ => 0
  | .collComplete _ _ => 0
  | .dgstCheckpoint _ _ _ => 0
  | .nop _ => 0
  | .br _ _ => 0
  | .brv _ _ _ => 0
  | .bri _ _ => 0
  | .call _ _ => 0
  | .calli _ _ => 0
  | .ret _ => 0
  | .loop _ _ _ _ => 0
  | .lexit _ => 0
  | .waitf _ _ _ => 0
  | .yield _ => 0
  | .halt _ => 0
  | .trap _ _ => 0
  | .eret _ => 0
  | .brk _ _ => 0
  | .tfence _ => 0
  | .add _ _ _ _ _ => 0
  | .sub _ _ _ _ _ => 0
  | .mul _ _ _ _ _ => 0
  | .div _ _ _ _ _ => 0
  | .and _ _ _ _ _ => 0
  | .or _ _ _ _ _ => 0
  | .xor _ _ _ _ _ => 0
  | .andn _ _ _ _ _ => 0
  | .shl _ _ _ _ _ => 0
  | .shr _ _ _ _ _ => 0
  | .sar _ _ _ _ _ => 0
  | .rotr _ _ _ _ _ => 0
  | .min _ _ _ _ _ => 0
  | .max _ _ _ _ _ => 0
  | .cmp _ _ _ _ _ => 0
  | .sel _ _ _ _ _ => 0
  | .clz _ _ _ _ _ => 0
  | .ctz _ _ _ _ _ => 0
  | .popc _ _ _ _ _ => 0
  | .extr _ _ _ _ _ => 0
  | .insr _ _ _ _ _ => 0
  | .lea _ _ _ _ _ => 0
  | .addi _ _ _ _ => 0
  | .movi _ _ _ => 0
  | .plog _ _ _ _ _ => 0
  | .mfs _ _ _ => 0
  | .mts _ _ _ => 0
  | .fadd _ _ _ _ _ => 0
  | .fsub _ _ _ _ _ => 0
  | .fmul _ _ _ _ _ => 0
  | .ffma _ _ _ _ _ => 0
  | .fmin _ _ _ _ _ => 0
  | .fmax _ _ _ _ _ => 0
  | .fcmp _ _ _ _ _ => 0
  | .fcvt _ _ _ _ _ => 0
  | .fdiv _ _ _ _ _ => 0
  | .fsqrt _ _ _ _ _ => 0
  | .lds _ _ _ _ _ => 0
  | .sts _ _ _ _ _ => 0
  | .bteStart _ _ _ _ _ => 0
  | .ldg _ _ _ _ _ _ => 0
  | .stg _ _ _ _ _ _ => 0
  | .vlds _ _ _ _ _ => 0
  | .vsts _ _ _ _ _ => 0
  | .vldg _ _ _ _ _ _ => 0
  | .vstg _ _ _ _ _ _ => 0
  | .vstm _ _ _ _ _ => 0
  | .vldm _ _ _ _ _ => 0
  | .tlds _ _ _ _ _ => 0
  | .tsts _ _ _ _ _ => 0
  | .atg _ _ _ _ _ _ => 0
  | .xadd _ _ _ _ _ _ => 0
  | .rst _ _ _ _ _ _ => 0
  | .rld _ _ _ _ _ _ => 0
  | .rat _ _ _ _ _ _ => 0
  | .fence _ _ _ _ _ _ => 0
  | .cbfence _ => 0
  | .lbr _ _ _ _ _ => 0
  | .tinv _ _ _ _ _ _ => 0
  | .vadd _ _ _ _ _ => 0
  | .vsub _ _ _ _ _ => 0
  | .vmul _ _ _ _ _ => 0
  | .vfma _ _ _ _ _ => 0
  | .vmin _ _ _ _ _ => 0
  | .vmax _ _ _ _ _ => 0
  | .vabs _ _ _ _ _ => 0
  | .vneg _ _ _ _ _ => 0
  | .vrcp _ _ _ _ _ => 0
  | .vrsq _ _ _ _ _ => 0
  | .vexp2 _ _ _ _ _ => 0
  | .vlog2 _ _ _ _ _ => 0
  | .vlut _ _ _ _ _ => 0
  | .vcmp _ _ _ _ _ => 0
  | .vsel _ _ _ _ _ => 0
  | .vmov _ _ _ _ _ => 0
  | .vand _ _ _ _ _ => 0
  | .vor _ _ _ _ _ => 0
  | .vxor _ _ _ _ _ => 0
  | .vshl _ _ _ _ _ => 0
  | .vshr _ _ _ _ _ => 0
  | .vsar _ _ _ _ _ => 0
  | .vcvt _ _ _ _ _ => 0
  | .vqmx _ _ _ _ _ => 0
  | .vdqmx _ _ _ _ _ => 0
  | .vred _ _ _ _ _ => 0
  | .vperm _ _ _ _ _ => 0
  | .vrot _ _ _ _ _ => 0
  | .vbcast _ _ _ _ _ => 0
  | .vext _ _ _ _ _ => 0
  | .viota _ _ _ _ _ => 0
  | .qlog _ _ _ _ _ => 0
  | .qpopc _ _ _ _ _ => 0
  | .tmovr _ _ _ _ _ => 0
  | .tmovc _ _ _ _ _ => 0
  | .trowv _ _ _ _ _ => 0
  | .tzero _ _ _ _ _ => 0
  | .mma _ _ _ _ _ => 0
  | .mloadw _ _ _ _ _ => 0
  | .mdrain _ _ _ _ _ => 0
  | .mzero _ _ _ _ _ => 0
  | .maccld _ _ _ _ _ => 0
  | .epload _ _ _ _ _ => 0
  | .arinit _ _ _ _ _ => 0
  | .arrive _ _ _ _ _ => 0
  | .arwait _ _ _ _ _ => 0
  | .artest _ _ _ _ _ => 0
  | .arwaitm _ _ _ _ _ => 0
  | .artestm _ _ _ _ _ => 0
  | .efence _ _ _ _ _ => 0
  | .skupd _ _ _ _ _ => 0
  | .skqry _ _ _ _ _ => 0
  | .skadd _ _ _ _ _ => 0
  | .skclr _ _ _ _ _ => 0
  | .coll _ _ _ _ _ => 0
  | .csig _ _ _ _ _ => 0
  | .qpush _ _ _ _ _ => 0
  | .qpop _ _ _ _ _ => 0
  | .qtry _ _ _ _ _ => 0
  | .launch _ _ _ _ _ => 0
  | .gbar _ _ _ _ _ => 0
  | .specb _ _ _ _ _ => 0
  | .specc _ _ _ _ _ => 0
  | .speca _ _ _ _ _ => 0
  | .dgst _ _ _ _ _ => 0
  | .packageResetAsserted => 0
  | .hbmRepairRowsExhausted _ _ => 0
  | .ablumLinkRetrained _ _ => 0
  | .mzeroComplete _ _ => 0
  | .globalAccessPerformed _ _ => 0

/-- B-slot codes (R308). -/
def rawB (w : W32) : Option Instr :=
  let g := fG w
  match (fOp w).toNat with
  | 0x00 => some (.nop g)
  | 0x01 => some (.br g (w.extractLsb' 0 22))
  | 0x02 => some (.brv g (w.extractLsb' 19 3) (w.extractLsb' 0 19))
  | 0x03 => some (.bri g (w.extractLsb' 16 6))
  | 0x04 => some (.call g (w.extractLsb' 0 22))
  | 0x05 => some (.calli g (w.extractLsb' 16 6))
  | 0x06 => some (.ret g)
  | 0x07 => some (.loop g (w.extractLsb' 19 3) (w.extractLsb' 13 6) (w.extractLsb' 0 9))
  | 0x08 => some (.lexit g)
  | 0x09 => some (.waitf g (w.extractLsb' 16 6) (w.extractLsb' 10 6))
  | 0x0A => some (.yield g)
  | 0x0B => some (.halt g)
  | 0x0C => some (.trap g (w.extractLsb' 0 16))
  | 0x0D => some (.eret g)
  | 0x0E => some (.brk g (w.extractLsb' 0 16))
  | 0x0F => some (.tfence g)
  | _ => none

/-- S-slot codes (R309). -/
def rawS (w : W32) : Option Instr :=
  let g := fG w
  match (fOp w).toNat with
  | 0x00 => some (.add g (fD w) (fA w) (fB w) (fF w))
  | 0x01 => some (.sub g (fD w) (fA w) (fB w) (fF w))
  | 0x02 => some (.mul g (fD w) (fA w) (fB w) (fF w))
  | 0x03 => some (.div g (fD w) (fA w) (fB w) (fF w))
  | 0x04 => some (.and g (fD w) (fA w) (fB w) (fF w))
  | 0x05 => some (.or g (fD w) (fA w) (fB w) (fF w))
  | 0x06 => some (.xor g (fD w) (fA w) (fB w) (fF w))
  | 0x07 => some (.andn g (fD w) (fA w) (fB w) (fF w))
  | 0x08 => some (.shl g (fD w) (fA w) (fB w) (fF w))
  | 0x09 => some (.shr g (fD w) (fA w) (fB w) (fF w))
  | 0x0A => some (.sar g (fD w) (fA w) (fB w) (fF w))
  | 0x0B => some (.rotr g (fD w) (fA w) (fB w) (fF w))
  | 0x0C => some (.min g (fD w) (fA w) (fB w) (fF w))
  | 0x0D => some (.max g (fD w) (fA w) (fB w) (fF w))
  | 0x0E => some (.cmp g (fD w) (fA w) (fB w) (fF w))
  | 0x0F => some (.sel g (fD w) (fA w) (fB w) (fF w))
  | 0x10 => some (.clz g (fD w) (fA w) (fB w) (fF w))
  | 0x11 => some (.ctz g (fD w) (fA w) (fB w) (fF w))
  | 0x12 => some (.popc g (fD w) (fA w) (fB w) (fF w))
  | 0x13 => some (.extr g (fD w) (fA w) (fB w) (fF w))
  | 0x14 => some (.insr g (fD w) (fA w) (fB w) (fF w))
  | 0x15 => some (.lea g (fD w) (fA w) (fB w) (fF w))
  | 0x16 => some (.addi g (fD w) (fA w) (w.extractLsb' 0 10))
  | 0x17 => some (.movi g (fD w) (w.extractLsb' 0 16))
  | 0x18 => some (.plog g (fD w) (fA w) (fB w) (fF w))
  | 0x19 => some (.mfs g (fD w) (w.extractLsb' 4 12))
  | 0x1A => some (.mts g (w.extractLsb' 4 12) (fD w))
  | 0x20 => some (.fadd g (fD w) (fA w) (fB w) (fF w))
  | 0x21 => some (.fsub g (fD w) (fA w) (fB w) (fF w))
  | 0x22 => some (.fmul g (fD w) (fA w) (fB w) (fF w))
  | 0x23 => some (.ffma g (fD w) (fA w) (fB w) (fF w))
  | 0x24 => some (.fmin g (fD w) (fA w) (fB w) (fF w))
  | 0x25 => some (.fmax g (fD w) (fA w) (fB w) (fF w))
  | 0x26 => some (.fcmp g (fD w) (fA w) (fB w) (fF w))
  | 0x27 => some (.fcvt g (fD w) (fA w) (fB w) (fF w))
  | 0x28 => some (.fdiv g (fD w) (fA w) (fB w) (fF w))
  | 0x29 => some (.fsqrt g (fD w) (fA w) (fB w) (fF w))
  | _ => none

/-- M-slot codes (R310). An STS.8 is the form of a BTE start, which its address decides (R442): it has a constructor of its own. -/
def rawM (w : W32) : Option Instr :=
  let g := fG w
  match (fOp w).toNat with
  | 0x00 => some (.lds g (fD w) (fA w) (fB w) (fF w))
  | 0x01 => some (if fF w = 3 then .bteStart g (fD w) (fA w) (fB w) (fF w) else .sts g (fD w) (fA w) (fB w) (fF w))
  | 0x02 => some (.ldg g (fD w) (fA w) (w.extractLsb' 6 4) (w.extractLsb' 3 3) (w.extractLsb' 0 3))
  | 0x03 => some (.stg g (fD w) (fA w) (w.extractLsb' 6 4) (w.extractLsb' 3 3) (w.extractLsb' 0 3))
  | 0x04 => some (.vlds g (fD w) (fA w) (fB w) (fF w))
  | 0x05 => some (.vsts g (fD w) (fA w) (fB w) (fF w))
  | 0x06 => some (.vldg g (fD w) (fA w) (w.extractLsb' 6 4) (w.extractLsb' 3 3) (w.extractLsb' 0 3))
  | 0x07 => some (.vstg g (fD w) (fA w) (w.extractLsb' 6 4) (w.extractLsb' 3 3) (w.extractLsb' 0 3))
  | 0x08 => some (.vstm g (fD w) (fA w) (fB w) (fF w))
  | 0x09 => some (.vldm g (fD w) (fA w) (fB w) (fF w))
  | 0x0A => some (.tlds g (fD w) (fA w) (fB w) (fF w))
  | 0x0B => some (.tsts g (fD w) (fA w) (fB w) (fF w))
  | 0x0C => some (.atg g (fD w) (fA w) (w.extractLsb' 6 4) (w.extractLsb' 3 3) (w.extractLsb' 0 3))
  | 0x0D => some (.xadd g (fD w) (fA w) (w.extractLsb' 6 4) (w.extractLsb' 3 3) (w.extractLsb' 0 3))
  | 0x0E => some (.rst g (fD w) (fA w) (w.extractLsb' 6 4) (w.extractLsb' 3 3) (w.extractLsb' 0 3))
  | 0x0F => some (.rld g (fD w) (fA w) (w.extractLsb' 6 4) (w.extractLsb' 3 3) (w.extractLsb' 0 3))
  | 0x10 => some (.rat g (fD w) (fA w) (w.extractLsb' 6 4) (w.extractLsb' 3 3) (w.extractLsb' 0 3))
  | 0x11 => some (.fence g (fD w) (fA w) (w.extractLsb' 6 4) (w.extractLsb' 3 3) (w.extractLsb' 0 3))
  | 0x12 => some (.cbfence g)
  | 0x13 => some (.lbr g (fD w) (fA w) (fB w) (fF w))
  | 0x14 => some (.tinv g (fD w) (fA w) (w.extractLsb' 6 4) (w.extractLsb' 3 3) (w.extractLsb' 0 3))
  | _ => none

/-- V-slot codes (R313). -/
def rawV (w : W32) : Option Instr :=
  match (fOp w).toNat with
  | 0x00 => some (.vadd (fM w) (fD w) (fA w) (fB w) (fF w))
  | 0x01 => some (.vsub (fM w) (fD w) (fA w) (fB w) (fF w))
  | 0x02 => some (.vmul (fM w) (fD w) (fA w) (fB w) (fF w))
  | 0x03 => some (.vfma (fM w) (fD w) (fA w) (fB w) (fF w))
  | 0x04 => some (.vmin (fM w) (fD w) (fA w) (fB w) (fF w))
  | 0x05 => some (.vmax (fM w) (fD w) (fA w) (fB w) (fF w))
  | 0x06 => some (.vabs (fM w) (fD w) (fA w) (fB w) (fF w))
  | 0x07 => some (.vneg (fM w) (fD w) (fA w) (fB w) (fF w))
  | 0x08 => some (.vrcp (fM w) (fD w) (fA w) (fB w) (fF w))
  | 0x09 => some (.vrsq (fM w) (fD w) (fA w) (fB w) (fF w))
  | 0x0A => some (.vexp2 (fM w) (fD w) (fA w) (fB w) (fF w))
  | 0x0B => some (.vlog2 (fM w) (fD w) (fA w) (fB w) (fF w))
  | 0x0C => some (.vlut (fM w) (fD w) (fA w) (fB w) (fF w))
  | 0x0D => some (.vcmp (fM w) (fD w) (fA w) (fB w) (fF w))
  | 0x0E => some (.vsel (fM w) (fD w) (fA w) (fB w) (fF w))
  | 0x0F => some (.vmov (fM w) (fD w) (fA w) (fB w) (fF w))
  | 0x10 => some (.vand (fM w) (fD w) (fA w) (fB w) (fF w))
  | 0x11 => some (.vor (fM w) (fD w) (fA w) (fB w) (fF w))
  | 0x12 => some (.vxor (fM w) (fD w) (fA w) (fB w) (fF w))
  | 0x13 => some (.vshl (fM w) (fD w) (fA w) (fB w) (fF w))
  | 0x14 => some (.vshr (fM w) (fD w) (fA w) (fB w) (fF w))
  | 0x15 => some (.vsar (fM w) (fD w) (fA w) (fB w) (fF w))
  | 0x16 => some (.vcvt (fM w) (fD w) (fA w) (fB w) (fF w))
  | 0x17 => some (.vqmx (fM w) (fD w) (fA w) (fB w) (fF w))
  | 0x18 => some (.vdqmx (fM w) (fD w) (fA w) (fB w) (fF w))
  | 0x19 => some (.vred (fM w) (fD w) (fA w) (fB w) (fF w))
  | 0x1A => some (.vperm (fM w) (fD w) (fA w) (fB w) (fF w))
  | 0x1B => some (.vrot (fM w) (fD w) (fA w) (fB w) (fF w))
  | 0x1C => some (.vbcast (fM w) (fD w) (fA w) (fB w) (fF w))
  | 0x1D => some (.vext (fM w) (fD w) (fA w) (fB w) (fF w))
  | 0x1E => some (.viota (fM w) (fD w) (fA w) (fB w) (fF w))
  | 0x1F => some (.qlog (fM w) (fD w) (fA w) (fB w) (fF w))
  | 0x20 => some (.qpopc (fM w) (fD w) (fA w) (fB w) (fF w))
  | 0x21 => some (.tmovr (fM w) (fD w) (fA w) (fB w) (fF w))
  | 0x22 => some (.tmovc (fM w) (fD w) (fA w) (fB w) (fF w))
  | 0x23 => some (.trowv (fM w) (fD w) (fA w) (fB w) (fF w))
  | 0x24 => some (.tzero (fM w) (fD w) (fA w) (fB w) (fF w))
  | _ => none

/-- E-slot codes (R314). -/
def rawE (w : W32) : Option Instr :=
  let g := fG w
  match (fOp w).toNat with
  | 0x00 => some (.mma g (fD w) (fA w) (fB w) (fF w))
  | 0x01 => some (.mloadw g (fD w) (fA w) (fB w) (fF w))
  | 0x02 => some (.mdrain g (fD w) (fA w) (fB w) (fF w))
  | 0x03 => some (.mzero g (fD w) (fA w) (fB w) (fF w))
  | 0x04 => some (.maccld g (fD w) (fA w) (fB w) (fF w))
  | 0x05 => some (.epload g (fD w) (fA w) (fB w) (fF w))
  | 0x06 => some (.arinit g (fD w) (fA w) (fB w) (fF w))
  | 0x07 => some (.arrive g (fD w) (fA w) (fB w) (fF w))
  | 0x08 => some (.arwait g (fD w) (fA w) (fB w) (fF w))
  | 0x09 => some (.artest g (fD w) (fA w) (fB w) (fF w))
  | 0x0A => some (.arwaitm g (fD w) (fA w) (fB w) (fF w))
  | 0x0B => some (.artestm g (fD w) (fA w) (fB w) (fF w))
  | 0x0C => some (.efence g (fD w) (fA w) (fB w) (fF w))
  | 0x0D => some (.skupd g (fD w) (fA w) (fB w) (fF w))
  | 0x0E => some (.skqry g (fD w) (fA w) (fB w) (fF w))
  | 0x0F => some (.skadd g (fD w) (fA w) (fB w) (fF w))
  | 0x10 => some (.skclr g (fD w) (fA w) (fB w) (fF w))
  | 0x11 => some (.coll g (fD w) (fA w) (fB w) (fF w))
  | 0x12 => some (.csig g (fD w) (fA w) (fB w) (fF w))
  | 0x13 => some (.qpush g (fD w) (fA w) (fB w) (fF w))
  | 0x14 => some (.qpop g (fD w) (fA w) (fB w) (fF w))
  | 0x15 => some (.qtry g (fD w) (fA w) (fB w) (fF w))
  | 0x16 => some (.launch g (fD w) (fA w) (fB w) (fF w))
  | 0x17 => some (.gbar g (fD w) (fA w) (fB w) (fF w))
  | 0x18 => some (.specb g (fD w) (fA w) (fB w) (fF w))
  | 0x19 => some (.specc g (fD w) (fA w) (fB w) (fF w))
  | 0x1A => some (.speca g (fD w) (fA w) (fB w) (fF w))
  | 0x1B => some (.dgst g (fD w) (fA w) (fB w) (fF w))
  | _ => none

/-- The fields of an epilogue operation word (R436). -/
def rawEpi (w : W16) : Instr :=
  match (w.extractLsb' 12 4).toNat with
  | 0 => .endp (w.extractLsb' 8 4) (w.extractLsb' 4 4) (w.extractLsb' 0 4)
  | 1 => .cvt (w.extractLsb' 8 4) (w.extractLsb' 4 4) (w.extractLsb' 0 4)
  | 2 => .addv (w.extractLsb' 8 4) (w.extractLsb' 4 4) (w.extractLsb' 0 4)
  | 3 => .mulv (w.extractLsb' 8 4) (w.extractLsb' 4 4) (w.extractLsb' 0 4)
  | 4 => .fmav (w.extractLsb' 8 4) (w.extractLsb' 4 4) (w.extractLsb' 0 4)
  | 5 => .adds (w.extractLsb' 8 4) (w.extractLsb' 4 4) (w.extractLsb' 0 4)
  | 6 => .muls (w.extractLsb' 8 4) (w.extractLsb' 4 4) (w.extractLsb' 0 4)
  | 7 => .relum (w.extractLsb' 8 4) (w.extractLsb' 4 4) (w.extractLsb' 0 4)
  | 8 => .clamp (w.extractLsb' 8 4) (w.extractLsb' 4 4) (w.extractLsb' 0 4)
  | 9 => .lutp (w.extractLsb' 8 4) (w.extractLsb' 4 4) (w.extractLsb' 0 4)
  | 10 => .maxe (w.extractLsb' 8 4) (w.extractLsb' 4 4) (w.extractLsb' 0 4)
  | 11 => .mine (w.extractLsb' 8 4) (w.extractLsb' 4 4) (w.extractLsb' 0 4)
  | 12 => .move (w.extractLsb' 8 4) (w.extractLsb' 4 4) (w.extractLsb' 0 4)
  | 13 => .cvtb (w.extractLsb' 8 4) (w.extractLsb' 4 4) (w.extractLsb' 0 4)
  | 14 => .maskw (w.extractLsb' 8 4) (w.extractLsb' 4 4) (w.extractLsb' 0 4)
  | _ => .qout (w.extractLsb' 8 4) (w.extractLsb' 4 4) (w.extractLsb' 0 4)

/-- The unchecked reading of a word in a slot of a class. -/
def rawWord : SlotClass → W32 → Option Instr
  | .b, w => rawB w
  | .s, w => rawS w
  | .m, w => rawM w
  | .v, w => rawV w
  | .e, w => rawE w
  | .epi, _ => none
  | .event, _ => none

/-- The instruction of a word in a slot of a class: every operand in its limits and every bit marked 0 zero (R316). -/
def decodeWord (c : SlotClass) (w : W32) : Option Instr :=
  match rawWord c w with
  | none => none
  | some i => if i.wf && encode i == w then some i else none

/-- The epilogue operation of a word (R436). The fields of ENDP are ignored. -/
def decodeEpi (w : W16) : Option Instr :=
  if (rawEpi w).wf then some (rawEpi w) else none

/-- The class that slot bit `i` holds (R295). -/
def slotClassOf (i : Nat) : SlotClass :=
  match i with
  | 0 => .b
  | 1 => .s
  | 2 => .s
  | 3 => .m
  | 4 => .v
  | 5 => .v
  | _ => .e

/-- A bundle: its length in bytes, the words of its present slots by slot bit, the K literal. -/
structure Bundle where
  len : Nat
  words : List (Nat × W32)
  k : Option W32
  deriving DecidableEq, Repr

/-- Four little-endian bytes (R295). -/
def word4 : List Byte → W32
  | a :: b :: c :: d :: _ => d ++ c ++ b ++ a
  | _ => 0

/-- The words of the slots from bit `i` on that header `h` marks present, read from the bytes after it. -/
def slotWords (h : Byte) : Nat → Nat → List Byte → List (Nat × W32)
  | 0, _, _ => []
  | n + 1, i, bs =>
    if h.getLsbD i then (i, word4 bs) :: slotWords h n (i + 1) (bs.drop 4) else slotWords h n (i + 1) bs

/-- Slots that header `h` marks present. -/
def headerCount (h : Byte) : Nat := ((List.range 8).filter (fun i => h.getLsbD i)).length

/-- What the bytes of a line hold from the byte at which fetch arrives (R296, R297): `none` is a line pad. -/
def decodeBundle (room : Nat) : List Byte → Except DecodeErr (Option Bundle)
  | [] => .error (.illb 0)
  | h :: bs =>
    if h = 0 then .ok none
    else if room < 1 + 4 * headerCount h then .error (.illb 0)
    else if h = 0x80 then .error (.illb 1)
    else
      let ws := slotWords h 8 0 bs
      .ok (some { len := 1 + 4 * headerCount h, words := ws.filter (fun e => decide (e.1 < 7)),
                  k := (ws.find? (fun e => e.1 == 7)).map (fun e => e.2) })

/-- The instruction of each present slot, by slot bit; a word that is no instruction gives none. -/
def bundleInstrs (b : Bundle) : List (Nat × Option Instr) :=
  b.words.map (fun e => (e.1, decodeWord (slotClassOf e.1) e.2))

/-- What each present slot says by its opcode alone, whether or not its fields are in their limits: the conditions of R297 come before
those of an encoding (R307). -/
def bundleRaws (b : Bundle) : List Instr := b.words.filterMap (fun e => rawWord (slotClassOf e.1) e.2)

/-! ### Operands as register names (R298, R301, R304) -/

/-- A register by file and number. -/
inductive RegName where
  | g (n : Nat)
  | p (n : Nat)
  | v (n : Nat)
  | q (n : Nat)
  | t (n : Nat)
  | sp (n : Nat)
  deriving DecidableEq, Repr

/-- The file code of a LATV EINFO (R305). -/
def RegName.file : RegName → Nat
  | .g _ => 0
  | .p _ => 1
  | .v _ => 2
  | .q _ => 3
  | .t _ => 4
  | .sp _ => 5

/-- The register's number in its file. -/
def RegName.num : RegName → Nat
  | .g n => n
  | .p n => n
  | .v n => n
  | .q n => n
  | .t n => n
  | .sp n => n

/-- The key of a register in the latency table. -/
def RegName.key (r : RegName) : Nat := r.file * 64 + r.num

/-- G0, P0 and Q0, whose writes are discarded (R159). -/
def RegName.discards : RegName → Bool
  | .g n => n == 0
  | .p n => n == 0
  | .q n => n == 0
  | .v _ => false
  | .t _ => false
  | .sp _ => false

/-- The guard of a slot, where its format has one (R302). -/
def Instr.guard : Instr → Option Guard
  | .nop g => some g
  | .br g _ => some g
  | .brv g _ _ => some g
  | .bri g _ => some g
  | .call g _ => some g
  | .calli g _ => some g
  | .ret g => some g
  | .loop g _ _ _ => some g
  | .lexit g => some g
  | .waitf g _ _ => some g
  | .yield g => some g
  | .halt g => some g
  | .trap g _ => some g
  | .eret g => some g
  | .brk g _ => some g
  | .tfence g => some g
  | .add g _ _ _ _ => some g
  | .sub g _ _ _ _ => some g
  | .mul g _ _ _ _ => some g
  | .div g _ _ _ _ => some g
  | .and g _ _ _ _ => some g
  | .or g _ _ _ _ => some g
  | .xor g _ _ _ _ => some g
  | .andn g _ _ _ _ => some g
  | .shl g _ _ _ _ => some g
  | .shr g _ _ _ _ => some g
  | .sar g _ _ _ _ => some g
  | .rotr g _ _ _ _ => some g
  | .min g _ _ _ _ => some g
  | .max g _ _ _ _ => some g
  | .cmp g _ _ _ _ => some g
  | .sel g _ _ _ _ => some g
  | .clz g _ _ _ _ => some g
  | .ctz g _ _ _ _ => some g
  | .popc g _ _ _ _ => some g
  | .extr g _ _ _ _ => some g
  | .insr g _ _ _ _ => some g
  | .lea g _ _ _ _ => some g
  | .addi g _ _ _ => some g
  | .movi g _ _ => some g
  | .plog g _ _ _ _ => some g
  | .mfs g _ _ => some g
  | .mts g _ _ => some g
  | .fadd g _ _ _ _ => some g
  | .fsub g _ _ _ _ => some g
  | .fmul g _ _ _ _ => some g
  | .ffma g _ _ _ _ => some g
  | .fmin g _ _ _ _ => some g
  | .fmax g _ _ _ _ => some g
  | .fcmp g _ _ _ _ => some g
  | .fcvt g _ _ _ _ => some g
  | .fdiv g _ _ _ _ => some g
  | .fsqrt g _ _ _ _ => some g
  | .lds g _ _ _ _ => some g
  | .sts g _ _ _ _ => some g
  | .bteStart g _ _ _ _ => some g
  | .ldg g _ _ _ _ _ => some g
  | .stg g _ _ _ _ _ => some g
  | .vlds g _ _ _ _ => some g
  | .vsts g _ _ _ _ => some g
  | .vldg g _ _ _ _ _ => some g
  | .vstg g _ _ _ _ _ => some g
  | .vstm g _ _ _ _ => some g
  | .vldm g _ _ _ _ => some g
  | .tlds g _ _ _ _ => some g
  | .tsts g _ _ _ _ => some g
  | .atg g _ _ _ _ _ => some g
  | .xadd g _ _ _ _ _ => some g
  | .rst g _ _ _ _ _ => some g
  | .rld g _ _ _ _ _ => some g
  | .rat g _ _ _ _ _ => some g
  | .fence g _ _ _ _ _ => some g
  | .cbfence g => some g
  | .lbr g _ _ _ _ => some g
  | .tinv g _ _ _ _ _ => some g
  | .mma g _ _ _ _ => some g
  | .mloadw g _ _ _ _ => some g
  | .mdrain g _ _ _ _ => some g
  | .mzero g _ _ _ _ => some g
  | .maccld g _ _ _ _ => some g
  | .epload g _ _ _ _ => some g
  | .arinit g _ _ _ _ => some g
  | .arrive g _ _ _ _ => some g
  | .arwait g _ _ _ _ => some g
  | .artest g _ _ _ _ => some g
  | .arwaitm g _ _ _ _ => some g
  | .artestm g _ _ _ _ => some g
  | .efence g _ _ _ _ => some g
  | .skupd g _ _ _ _ => some g
  | .skqry g _ _ _ _ => some g
  | .skadd g _ _ _ _ => some g
  | .skclr g _ _ _ _ => some g
  | .coll g _ _ _ _ => some g
  | .csig g _ _ _ _ => some g
  | .qpush g _ _ _ _ => some g
  | .qpop g _ _ _ _ => some g
  | .qtry g _ _ _ _ => some g
  | .launch g _ _ _ _ => some g
  | .gbar g _ _ _ _ => some g
  | .specb g _ _ _ _ => some g
  | .specc g _ _ _ _ => some g
  | .speca g _ _ _ _ => some g
  | .dgst g _ _ _ _ => some g
  | .powerGood => none
  | .packageResetRelease => none
  | .kindlingTimeout => none
  | .modulePowerLoss => none
  | .blockOverheat _ _ => none
  | .blockCooled _ _ => none
  | .thermalTrip _ _ => none
  | .coreRetirement _ _ => none
  | .uncorrectableError _ _ => none
  | .flitInject _ => none
  | .linkFlitReceive _ _ => none
  | .nakReceived _ => none
  | .par _ _ => none
  | .nakRepeatTimeout _ => none
  | .linkRetrainDone _ _ => none
  | .segmentFailure _ => none
  | .unreachTimeout _ => none
  | .flitAtExitNode _ _ _ => none
  | .refusedFlitRetry _ => none
  | .rstAtTarget _ => none
  | .rldAtTarget _ => none
  | .ratAtTarget _ => none
  | .rstack _ => none
  | .rlddata _ => none
  | .ratdata _ => none
  | .bseg _ => none
  | .mgmt _ => none
  | .ablumLinkFailure _ => none
  | .hostRead _ _ => none
  | .hostWrite _ _ => none
  | .mgmtRegisterWrite _ _ => none
  | .monitoredLineInvalidate _ => none
  | .create _ => none
  | .launchRecord _ => none
  | .setprio _ => none
  | .freeze _ => none
  | .resume _ => none
  | .kill _ => none
  | .dirtysnap _ => none
  | .queryDevinfo _ => none
  | .queryCtxstate _ => none
  | .queryAttest _ => none
  | .queryLogstat _ => none
  | .eventLogWrite => none
  | .freezeTimeout _ => none
  | .engineStopAck _ _ _ => none
  | .preemptionComplete _ => none
  | .rebalance _ => none
  | .quantumExpiry _ => none
  | .residencySwap _ => none
  | .agingTick _ => none
  | .deadlockTimeout _ _ => none
  | .damperWindow _ _ => none
  | .strandSwitch _ => none
  | .strandReady _ => none
  | .firingStart _ => none
  | .firingEnd _ => none
  | .graphEnd _ _ => none
  | .childInstantiate _ _ => none
  | .channelPublish _ _ _ _ => none
  | .engineCommandReady _ _ => none
  | .bteAccept _ _ => none
  | .bteChunkPerformed _ _ => none
  | .bteCommandComplete _ _ => none
  | .decodeStall _ _ => none
  | .matrixCommandStart _ _ => none
  | .mmaComplete _ _ => none
  | .mloadwComplete _ _ => none
  | .mdrainRowWritten _ _ => none
  | .maccldComplete _ _ => none
  | .eploadComplete _ _ => none
  | .sketchAccept _ _ => none
  | .sketchCommandComplete _ _ => none
  | .collAccept _ _ => none
  | .collComplete _ _ => none
  | .dgstCheckpoint _ _ _ => none
  | .vadd _ _ _ _ _ => none
  | .vsub _ _ _ _ _ => none
  | .vmul _ _ _ _ _ => none
  | .vfma _ _ _ _ _ => none
  | .vmin _ _ _ _ _ => none
  | .vmax _ _ _ _ _ => none
  | .vabs _ _ _ _ _ => none
  | .vneg _ _ _ _ _ => none
  | .vrcp _ _ _ _ _ => none
  | .vrsq _ _ _ _ _ => none
  | .vexp2 _ _ _ _ _ => none
  | .vlog2 _ _ _ _ _ => none
  | .vlut _ _ _ _ _ => none
  | .vcmp _ _ _ _ _ => none
  | .vsel _ _ _ _ _ => none
  | .vmov _ _ _ _ _ => none
  | .vand _ _ _ _ _ => none
  | .vor _ _ _ _ _ => none
  | .vxor _ _ _ _ _ => none
  | .vshl _ _ _ _ _ => none
  | .vshr _ _ _ _ _ => none
  | .vsar _ _ _ _ _ => none
  | .vcvt _ _ _ _ _ => none
  | .vqmx _ _ _ _ _ => none
  | .vdqmx _ _ _ _ _ => none
  | .vred _ _ _ _ _ => none
  | .vperm _ _ _ _ _ => none
  | .vrot _ _ _ _ _ => none
  | .vbcast _ _ _ _ _ => none
  | .vext _ _ _ _ _ => none
  | .viota _ _ _ _ _ => none
  | .qlog _ _ _ _ _ => none
  | .qpopc _ _ _ _ _ => none
  | .tmovr _ _ _ _ _ => none
  | .tmovc _ _ _ _ _ => none
  | .trowv _ _ _ _ _ => none
  | .tzero _ _ _ _ _ => none
  | .endp _ _ _ => none
  | .cvt _ _ _ => none
  | .addv _ _ _ => none
  | .mulv _ _ _ => none
  | .fmav _ _ _ => none
  | .adds _ _ _ => none
  | .muls _ _ _ => none
  | .relum _ _ _ => none
  | .clamp _ _ _ => none
  | .lutp _ _ _ => none
  | .maxe _ _ _ => none
  | .mine _ _ _ => none
  | .move _ _ _ => none
  | .cvtb _ _ _ => none
  | .maskw _ _ _ => none
  | .qout _ _ _ => none
  | .packageResetAsserted => none
  | .hbmRepairRowsExhausted _ _ => none
  | .ablumLinkRetrained _ _ => none
  | .mzeroComplete _ _ => none
  | .globalAccessPerformed _ _ => none

/-- The fields read as G sources (R308-R314). -/
def Instr.gSrc : Instr → List R6
  | .bri _ a => [a]
  | .calli _ a => [a]
  | .waitf _ a b => [a, b]
  | .add _ _ a b _ => [a, b]
  | .sub _ _ a b _ => [a, b]
  | .mul _ _ a b _ => [a, b]
  | .div _ _ a b _ => [a, b]
  | .and _ _ a b _ => [a, b]
  | .or _ _ a b _ => [a, b]
  | .xor _ _ a b _ => [a, b]
  | .andn _ _ a b _ => [a, b]
  | .min _ _ a b _ => [a, b]
  | .max _ _ a b _ => [a, b]
  | .cmp _ _ a b _ => [a, b]
  | .sel _ _ a b _ => [a, b]
  | .extr _ _ a b _ => [a, b]
  | .lea _ _ a b _ => [a, b]
  | .fadd _ _ a b _ => [a, b]
  | .fsub _ _ a b _ => [a, b]
  | .fmul _ _ a b _ => [a, b]
  | .fmin _ _ a b _ => [a, b]
  | .fmax _ _ a b _ => [a, b]
  | .fcmp _ _ a b _ => [a, b]
  | .fdiv _ _ a b _ => [a, b]
  | .insr _ d a b _ => [a, b, d]
  | .ffma _ d a b _ => [a, b, d]
  | .shl _ _ a b fn => if fn.getLsbD 1 then [a] else [a, b]
  | .shr _ _ a b fn => if fn.getLsbD 1 then [a] else [a, b]
  | .sar _ _ a b fn => if fn.getLsbD 1 then [a] else [a, b]
  | .rotr _ _ a b fn => if fn.getLsbD 1 then [a] else [a, b]
  | .clz _ _ a _ _ => [a]
  | .ctz _ _ a _ _ => [a]
  | .popc _ _ a _ _ => [a]
  | .fcvt _ _ a _ _ => [a]
  | .fsqrt _ _ a _ _ => [a]
  | .addi _ _ a _ => [a]
  | .mts _ _ a => [a]
  | .lds _ _ a b _ => [a, b]
  | .sts _ d a b _ => [a, b, d]
  | .bteStart _ d a b _ => [a, b, d]
  | .ldg _ _ a _ _ _ => [a]
  | .stg _ d a _ _ _ => [a, d]
  | .vlds _ _ a b fn => if fn == 2 then [a] else [a, b]
  | .vsts _ _ a b fn => if fn == 2 then [a] else [a, b]
  | .vldg _ _ a _ _ _ => [a]
  | .vstg _ _ a _ _ _ => [a]
  | .vstm _ _ a b _ => [a, b]
  | .vldm _ _ a b _ => [a, b]
  | .tlds _ _ a b _ => [a, b]
  | .tsts _ _ a b _ => [a, b]
  | .atg _ d a _ _ _ => [a, d]
  | .xadd _ d a _ _ _ => [a, d]
  | .rst _ d a _ _ _ => [a, d, d + 1]
  | .rld _ d a _ _ _ => [a, d]
  | .rat _ d a _ _ _ => [a, d]
  | .lbr _ _ a b _ => [a, b]
  | .tinv _ _ a _ _ fn => if fn == 0 then [a] else []
  | .vrot _ _ _ b _ => [b]
  | .vbcast _ _ _ b _ => [b]
  | .vext _ _ _ b _ => [b]
  | .tmovr _ _ _ b _ => [b]
  | .tmovc _ _ _ b _ => [b]
  | .trowv _ _ _ b _ => [b]
  | .mma _ a b c fn => if fn.getLsbD 0 then [a, b, c] else [a, b]
  | .mloadw _ a b c fn => if fn.getLsbD 0 then [a, b, c] else [a, b]
  | .mdrain _ a b c fn => if fn.getLsbD 0 then [a, b, c] else [a, b]
  | .mzero _ a _ _ _ => [a]
  | .maccld _ a b c fn => if fn.getLsbD 2 then [a, b, c] else [a, b]
  | .epload _ a b _ _ => [a, b]
  | .arinit _ a b c _ => [a, b, c]
  | .arrive _ a _ _ _ => [a]
  | .arwait _ a _ _ _ => [a]
  | .artest _ a _ _ _ => [a]
  | .arwaitm _ a b _ _ => [a, b]
  | .artestm _ a b _ _ => [a, b]
  | .skupd _ a b c _ => [a, b, c]
  | .skqry _ a b c _ => [a, b, c]
  | .skadd _ a b _ _ => [a, b]
  | .skclr _ a _ _ _ => [a]
  | .coll _ a _ _ _ => [a]
  | .csig _ a b _ _ => [a, b]
  | .qpush _ a b _ _ => [a, b]
  | .qpop _ a b _ _ => [a, b]
  | .qtry _ a _ _ _ => [a]
  | .launch _ a b _ _ => [a, b]
  | .gbar _ a _ _ _ => [a]
  | .dgst _ a _ _ _ => [a]
  | .powerGood => []
  | .packageResetRelease => []
  | .kindlingTimeout => []
  | .modulePowerLoss => []
  | .blockOverheat _ _ => []
  | .blockCooled _ _ => []
  | .thermalTrip _ _ => []
  | .coreRetirement _ _ => []
  | .uncorrectableError _ _ => []
  | .flitInject _ => []
  | .linkFlitReceive _ _ => []
  | .nakReceived _ => []
  | .par _ _ => []
  | .nakRepeatTimeout _ => []
  | .linkRetrainDone _ _ => []
  | .segmentFailure _ => []
  | .unreachTimeout _ => []
  | .flitAtExitNode _ _ _ => []
  | .refusedFlitRetry _ => []
  | .rstAtTarget _ => []
  | .rldAtTarget _ => []
  | .ratAtTarget _ => []
  | .rstack _ => []
  | .rlddata _ => []
  | .ratdata _ => []
  | .bseg _ => []
  | .mgmt _ => []
  | .ablumLinkFailure _ => []
  | .hostRead _ _ => []
  | .hostWrite _ _ => []
  | .mgmtRegisterWrite _ _ => []
  | .monitoredLineInvalidate _ => []
  | .create _ => []
  | .launchRecord _ => []
  | .setprio _ => []
  | .freeze _ => []
  | .resume _ => []
  | .kill _ => []
  | .dirtysnap _ => []
  | .queryDevinfo _ => []
  | .queryCtxstate _ => []
  | .queryAttest _ => []
  | .queryLogstat _ => []
  | .eventLogWrite => []
  | .freezeTimeout _ => []
  | .engineStopAck _ _ _ => []
  | .preemptionComplete _ => []
  | .rebalance _ => []
  | .quantumExpiry _ => []
  | .residencySwap _ => []
  | .agingTick _ => []
  | .deadlockTimeout _ _ => []
  | .damperWindow _ _ => []
  | .strandSwitch _ => []
  | .strandReady _ => []
  | .firingStart _ => []
  | .firingEnd _ => []
  | .graphEnd _ _ => []
  | .childInstantiate _ _ => []
  | .channelPublish _ _ _ _ => []
  | .engineCommandReady _ _ => []
  | .bteAccept _ _ => []
  | .bteChunkPerformed _ _ => []
  | .bteCommandComplete _ _ => []
  | .decodeStall _ _ => []
  | .matrixCommandStart _ _ => []
  | .mmaComplete _ _ => []
  | .mloadwComplete _ _ => []
  | .mdrainRowWritten _ _ => []
  | .maccldComplete _ _ => []
  | .eploadComplete _ _ => []
  | .sketchAccept _ _ => []
  | .sketchCommandComplete _ _ => []
  | .collAccept _ _ => []
  | .collComplete _ _ => []
  | .dgstCheckpoint _ _ _ => []
  | .nop _ => []
  | .br _ _ => []
  | .brv _ _ _ => []
  | .call _ _ => []
  | .ret _ => []
  | .loop _ _ _ _ => []
  | .lexit _ => []
  | .yield _ => []
  | .halt _ => []
  | .trap _ _ => []
  | .eret _ => []
  | .brk _ _ => []
  | .tfence _ => []
  | .movi _ _ _ => []
  | .plog _ _ _ _ _ => []
  | .mfs _ _ _ => []
  | .fence _ _ _ _ _ _ => []
  | .cbfence _ => []
  | .vadd _ _ _ _ _ => []
  | .vsub _ _ _ _ _ => []
  | .vmul _ _ _ _ _ => []
  | .vfma _ _ _ _ _ => []
  | .vmin _ _ _ _ _ => []
  | .vmax _ _ _ _ _ => []
  | .vabs _ _ _ _ _ => []
  | .vneg _ _ _ _ _ => []
  | .vrcp _ _ _ _ _ => []
  | .vrsq _ _ _ _ _ => []
  | .vexp2 _ _ _ _ _ => []
  | .vlog2 _ _ _ _ _ => []
  | .vlut _ _ _ _ _ => []
  | .vcmp _ _ _ _ _ => []
  | .vsel _ _ _ _ _ => []
  | .vmov _ _ _ _ _ => []
  | .vand _ _ _ _ _ => []
  | .vor _ _ _ _ _ => []
  | .vxor _ _ _ _ _ => []
  | .vshl _ _ _ _ _ => []
  | .vshr _ _ _ _ _ => []
  | .vsar _ _ _ _ _ => []
  | .vcvt _ _ _ _ _ => []
  | .vqmx _ _ _ _ _ => []
  | .vdqmx _ _ _ _ _ => []
  | .vred _ _ _ _ _ => []
  | .vperm _ _ _ _ _ => []
  | .viota _ _ _ _ _ => []
  | .qlog _ _ _ _ _ => []
  | .qpopc _ _ _ _ _ => []
  | .tzero _ _ _ _ _ => []
  | .efence _ _ _ _ _ => []
  | .specb _ _ _ _ _ => []
  | .specc _ _ _ _ _ => []
  | .speca _ _ _ _ _ => []
  | .endp _ _ _ => []
  | .cvt _ _ _ => []
  | .addv _ _ _ => []
  | .mulv _ _ _ => []
  | .fmav _ _ _ => []
  | .adds _ _ _ => []
  | .muls _ _ _ => []
  | .relum _ _ _ => []
  | .clamp _ _ _ => []
  | .lutp _ _ _ => []
  | .maxe _ _ _ => []
  | .mine _ _ _ => []
  | .move _ _ _ => []
  | .cvtb _ _ _ => []
  | .maskw _ _ _ => []
  | .qout _ _ _ => []
  | .packageResetAsserted => []
  | .hbmRepairRowsExhausted _ _ => []
  | .ablumLinkRetrained _ _ => []
  | .mzeroComplete _ _ => []
  | .globalAccessPerformed _ _ => []

/-- The fields read as V sources (R310, R313). -/
def Instr.vSrc : Instr → List R6
  | .vadd _ _ a b _ => [a, b]
  | .vsub _ _ a b _ => [a, b]
  | .vmul _ _ a b _ => [a, b]
  | .vmin _ _ a b _ => [a, b]
  | .vmax _ _ a b _ => [a, b]
  | .vcmp _ _ a b _ => [a, b]
  | .vsel _ _ a b _ => [a, b]
  | .vand _ _ a b _ => [a, b]
  | .vor _ _ a b _ => [a, b]
  | .vxor _ _ a b _ => [a, b]
  | .vshl _ _ a b _ => [a, b]
  | .vshr _ _ a b _ => [a, b]
  | .vsar _ _ a b _ => [a, b]
  | .vperm _ _ a b _ => [a, b]
  | .vfma _ d a b _ => [a, b, d]
  | .vabs _ _ a _ _ => [a]
  | .vneg _ _ a _ _ => [a]
  | .vrcp _ _ a _ _ => [a]
  | .vrsq _ _ a _ _ => [a]
  | .vexp2 _ _ a _ _ => [a]
  | .vlog2 _ _ a _ _ => [a]
  | .vlut _ _ a _ _ => [a]
  | .vmov _ _ a _ _ => [a]
  | .vcvt _ _ a _ _ => [a]
  | .vqmx _ _ a _ _ => [a]
  | .vdqmx _ _ a _ _ => [a]
  | .vred _ _ a _ _ => [a]
  | .vrot _ _ a _ _ => [a]
  | .vbcast _ _ a _ _ => [a]
  | .vext _ _ a _ _ => [a]
  | .tmovr _ _ a _ _ => [a]
  | .vlds _ _ _ b fn => if fn == 2 then [b] else []
  | .vsts _ d _ b fn => if fn == 2 then [d, b] else [d]
  | .vstg _ d _ _ _ _ => [d]
  | .vstm _ d _ _ _ => [d]
  | .powerGood => []
  | .packageResetRelease => []
  | .kindlingTimeout => []
  | .modulePowerLoss => []
  | .blockOverheat _ _ => []
  | .blockCooled _ _ => []
  | .thermalTrip _ _ => []
  | .coreRetirement _ _ => []
  | .uncorrectableError _ _ => []
  | .flitInject _ => []
  | .linkFlitReceive _ _ => []
  | .nakReceived _ => []
  | .par _ _ => []
  | .nakRepeatTimeout _ => []
  | .linkRetrainDone _ _ => []
  | .segmentFailure _ => []
  | .unreachTimeout _ => []
  | .flitAtExitNode _ _ _ => []
  | .refusedFlitRetry _ => []
  | .rstAtTarget _ => []
  | .rldAtTarget _ => []
  | .ratAtTarget _ => []
  | .rstack _ => []
  | .rlddata _ => []
  | .ratdata _ => []
  | .bseg _ => []
  | .mgmt _ => []
  | .ablumLinkFailure _ => []
  | .hostRead _ _ => []
  | .hostWrite _ _ => []
  | .mgmtRegisterWrite _ _ => []
  | .monitoredLineInvalidate _ => []
  | .create _ => []
  | .launchRecord _ => []
  | .setprio _ => []
  | .freeze _ => []
  | .resume _ => []
  | .kill _ => []
  | .dirtysnap _ => []
  | .queryDevinfo _ => []
  | .queryCtxstate _ => []
  | .queryAttest _ => []
  | .queryLogstat _ => []
  | .eventLogWrite => []
  | .freezeTimeout _ => []
  | .engineStopAck _ _ _ => []
  | .preemptionComplete _ => []
  | .rebalance _ => []
  | .quantumExpiry _ => []
  | .residencySwap _ => []
  | .agingTick _ => []
  | .deadlockTimeout _ _ => []
  | .damperWindow _ _ => []
  | .strandSwitch _ => []
  | .strandReady _ => []
  | .firingStart _ => []
  | .firingEnd _ => []
  | .graphEnd _ _ => []
  | .childInstantiate _ _ => []
  | .channelPublish _ _ _ _ => []
  | .engineCommandReady _ _ => []
  | .bteAccept _ _ => []
  | .bteChunkPerformed _ _ => []
  | .bteCommandComplete _ _ => []
  | .decodeStall _ _ => []
  | .matrixCommandStart _ _ => []
  | .mmaComplete _ _ => []
  | .mloadwComplete _ _ => []
  | .mdrainRowWritten _ _ => []
  | .maccldComplete _ _ => []
  | .eploadComplete _ _ => []
  | .sketchAccept _ _ => []
  | .sketchCommandComplete _ _ => []
  | .collAccept _ _ => []
  | .collComplete _ _ => []
  | .dgstCheckpoint _ _ _ => []
  | .nop _ => []
  | .br _ _ => []
  | .brv _ _ _ => []
  | .bri _ _ => []
  | .call _ _ => []
  | .calli _ _ => []
  | .ret _ => []
  | .loop _ _ _ _ => []
  | .lexit _ => []
  | .waitf _ _ _ => []
  | .yield _ => []
  | .halt _ => []
  | .trap _ _ => []
  | .eret _ => []
  | .brk _ _ => []
  | .tfence _ => []
  | .add _ _ _ _ _ => []
  | .sub _ _ _ _ _ => []
  | .mul _ _ _ _ _ => []
  | .div _ _ _ _ _ => []
  | .and _ _ _ _ _ => []
  | .or _ _ _ _ _ => []
  | .xor _ _ _ _ _ => []
  | .andn _ _ _ _ _ => []
  | .shl _ _ _ _ _ => []
  | .shr _ _ _ _ _ => []
  | .sar _ _ _ _ _ => []
  | .rotr _ _ _ _ _ => []
  | .min _ _ _ _ _ => []
  | .max _ _ _ _ _ => []
  | .cmp _ _ _ _ _ => []
  | .sel _ _ _ _ _ => []
  | .clz _ _ _ _ _ => []
  | .ctz _ _ _ _ _ => []
  | .popc _ _ _ _ _ => []
  | .extr _ _ _ _ _ => []
  | .insr _ _ _ _ _ => []
  | .lea _ _ _ _ _ => []
  | .addi _ _ _ _ => []
  | .movi _ _ _ => []
  | .plog _ _ _ _ _ => []
  | .mfs _ _ _ => []
  | .mts _ _ _ => []
  | .fadd _ _ _ _ _ => []
  | .fsub _ _ _ _ _ => []
  | .fmul _ _ _ _ _ => []
  | .ffma _ _ _ _ _ => []
  | .fmin _ _ _ _ _ => []
  | .fmax _ _ _ _ _ => []
  | .fcmp _ _ _ _ _ => []
  | .fcvt _ _ _ _ _ => []
  | .fdiv _ _ _ _ _ => []
  | .fsqrt _ _ _ _ _ => []
  | .lds _ _ _ _ _ => []
  | .sts _ _ _ _ _ => []
  | .bteStart _ _ _ _ _ => []
  | .ldg _ _ _ _ _ _ => []
  | .stg _ _ _ _ _ _ => []
  | .vldg _ _ _ _ _ _ => []
  | .vldm _ _ _ _ _ => []
  | .tlds _ _ _ _ _ => []
  | .tsts _ _ _ _ _ => []
  | .atg _ _ _ _ _ _ => []
  | .xadd _ _ _ _ _ _ => []
  | .rst _ _ _ _ _ _ => []
  | .rld _ _ _ _ _ _ => []
  | .rat _ _ _ _ _ _ => []
  | .fence _ _ _ _ _ _ => []
  | .cbfence _ => []
  | .lbr _ _ _ _ _ => []
  | .tinv _ _ _ _ _ _ => []
  | .viota _ _ _ _ _ => []
  | .qlog _ _ _ _ _ => []
  | .qpopc _ _ _ _ _ => []
  | .tmovc _ _ _ _ _ => []
  | .trowv _ _ _ _ _ => []
  | .tzero _ _ _ _ _ => []
  | .mma _ _ _ _ _ => []
  | .mloadw _ _ _ _ _ => []
  | .mdrain _ _ _ _ _ => []
  | .mzero _ _ _ _ _ => []
  | .maccld _ _ _ _ _ => []
  | .epload _ _ _ _ _ => []
  | .arinit _ _ _ _ _ => []
  | .arrive _ _ _ _ _ => []
  | .arwait _ _ _ _ _ => []
  | .artest _ _ _ _ _ => []
  | .arwaitm _ _ _ _ _ => []
  | .artestm _ _ _ _ _ => []
  | .efence _ _ _ _ _ => []
  | .skupd _ _ _ _ _ => []
  | .skqry _ _ _ _ _ => []
  | .skadd _ _ _ _ _ => []
  | .skclr _ _ _ _ _ => []
  | .coll _ _ _ _ _ => []
  | .csig _ _ _ _ _ => []
  | .qpush _ _ _ _ _ => []
  | .qpop _ _ _ _ _ => []
  | .qtry _ _ _ _ _ => []
  | .launch _ _ _ _ _ => []
  | .gbar _ _ _ _ _ => []
  | .specb _ _ _ _ _ => []
  | .specc _ _ _ _ _ => []
  | .speca _ _ _ _ _ => []
  | .dgst _ _ _ _ _ => []
  | .endp _ _ _ => []
  | .cvt _ _ _ => []
  | .addv _ _ _ => []
  | .mulv _ _ _ => []
  | .fmav _ _ _ => []
  | .adds _ _ _ => []
  | .muls _ _ _ => []
  | .relum _ _ _ => []
  | .clamp _ _ _ => []
  | .lutp _ _ _ => []
  | .maxe _ _ _ => []
  | .mine _ _ _ => []
  | .move _ _ _ => []
  | .cvtb _ _ _ => []
  | .maskw _ _ _ => []
  | .qout _ _ _ => []
  | .packageResetAsserted => []
  | .hbmRepairRowsExhausted _ _ => []
  | .ablumLinkRetrained _ _ => []
  | .mzeroComplete _ _ => []
  | .globalAccessPerformed _ _ => []

/-- Other registers an instruction reads: predicates, masks, tiles, loop counts, CAS pairs, index registers. `k` is the K literal. -/
def Instr.xSrc (k : W32) : Instr → List RegName
  | .brv _ q _ => [.q q.toNat]
  | .loop _ dims c _ => (List.range dims.toNat).map (fun k => .g (c.toNat + k))
  | .sel _ _ _ _ fn => [.p (fn.toNat % 8)]
  | .plog _ _ a b _ => [.p a.toNat, .p b.toNat]
  | .vstm _ _ _ _ fn => [.q (fn.toNat % 8)]
  | .vldm _ _ _ _ fn => [.q (fn.toNat % 8)]
  | .tsts _ d _ _ _ => [.t d.toNat]
  | .atg _ d _ _ _ _ => if k.toNat % 16 = 5 then [.g (d.toNat + 1)] else []
  | .rat _ d _ _ _ _ => if k.toNat % 16 = 5 then [.g (d.toNat + 1)] else []
  | .vldg _ _ _ _ _ fn => if fn == 2 then [.v (k.toNat % 32)] else []
  | .vstg _ _ _ _ _ fn => if fn == 2 then [.v (k.toNat % 32)] else []
  | .qlog _ _ a b _ => [.q a.toNat, .q b.toNat]
  | .qpopc _ _ a _ _ => [.q a.toNat]
  | .tmovc _ _ a _ _ => [.t a.toNat]
  | .trowv _ _ a _ _ => [.t a.toNat]
  | .vadd m _ _ _ _ => [.q m.q.toNat]
  | .vsub m _ _ _ _ => [.q m.q.toNat]
  | .vmul m _ _ _ _ => [.q m.q.toNat]
  | .vfma m _ _ _ _ => [.q m.q.toNat]
  | .vmin m _ _ _ _ => [.q m.q.toNat]
  | .vmax m _ _ _ _ => [.q m.q.toNat]
  | .vabs m _ _ _ _ => [.q m.q.toNat]
  | .vneg m _ _ _ _ => [.q m.q.toNat]
  | .vrcp m _ _ _ _ => [.q m.q.toNat]
  | .vrsq m _ _ _ _ => [.q m.q.toNat]
  | .vexp2 m _ _ _ _ => [.q m.q.toNat]
  | .vlog2 m _ _ _ _ => [.q m.q.toNat]
  | .vlut m _ _ _ _ => [.q m.q.toNat]
  | .vcmp m _ _ _ _ => [.q m.q.toNat]
  | .vsel m _ _ _ _ => [.q m.q.toNat]
  | .vmov m _ _ _ _ => [.q m.q.toNat]
  | .vand m _ _ _ _ => [.q m.q.toNat]
  | .vor m _ _ _ _ => [.q m.q.toNat]
  | .vxor m _ _ _ _ => [.q m.q.toNat]
  | .vshl m _ _ _ _ => [.q m.q.toNat]
  | .vshr m _ _ _ _ => [.q m.q.toNat]
  | .vsar m _ _ _ _ => [.q m.q.toNat]
  | .vcvt m _ _ _ _ => [.q m.q.toNat]
  | .vqmx m _ _ _ _ => [.q m.q.toNat]
  | .vdqmx m _ _ _ _ => [.q m.q.toNat]
  | .vred m _ _ _ _ => [.q m.q.toNat]
  | .vperm m _ _ _ _ => [.q m.q.toNat]
  | .vrot m _ _ _ _ => [.q m.q.toNat]
  | .vbcast m _ _ _ _ => [.q m.q.toNat]
  | .powerGood => []
  | .packageResetRelease => []
  | .kindlingTimeout => []
  | .modulePowerLoss => []
  | .blockOverheat _ _ => []
  | .blockCooled _ _ => []
  | .thermalTrip _ _ => []
  | .coreRetirement _ _ => []
  | .uncorrectableError _ _ => []
  | .flitInject _ => []
  | .linkFlitReceive _ _ => []
  | .nakReceived _ => []
  | .par _ _ => []
  | .nakRepeatTimeout _ => []
  | .linkRetrainDone _ _ => []
  | .segmentFailure _ => []
  | .unreachTimeout _ => []
  | .flitAtExitNode _ _ _ => []
  | .refusedFlitRetry _ => []
  | .rstAtTarget _ => []
  | .rldAtTarget _ => []
  | .ratAtTarget _ => []
  | .rstack _ => []
  | .rlddata _ => []
  | .ratdata _ => []
  | .bseg _ => []
  | .mgmt _ => []
  | .ablumLinkFailure _ => []
  | .hostRead _ _ => []
  | .hostWrite _ _ => []
  | .mgmtRegisterWrite _ _ => []
  | .monitoredLineInvalidate _ => []
  | .create _ => []
  | .launchRecord _ => []
  | .setprio _ => []
  | .freeze _ => []
  | .resume _ => []
  | .kill _ => []
  | .dirtysnap _ => []
  | .queryDevinfo _ => []
  | .queryCtxstate _ => []
  | .queryAttest _ => []
  | .queryLogstat _ => []
  | .eventLogWrite => []
  | .freezeTimeout _ => []
  | .engineStopAck _ _ _ => []
  | .preemptionComplete _ => []
  | .rebalance _ => []
  | .quantumExpiry _ => []
  | .residencySwap _ => []
  | .agingTick _ => []
  | .deadlockTimeout _ _ => []
  | .damperWindow _ _ => []
  | .strandSwitch _ => []
  | .strandReady _ => []
  | .firingStart _ => []
  | .firingEnd _ => []
  | .graphEnd _ _ => []
  | .childInstantiate _ _ => []
  | .channelPublish _ _ _ _ => []
  | .engineCommandReady _ _ => []
  | .bteAccept _ _ => []
  | .bteChunkPerformed _ _ => []
  | .bteCommandComplete _ _ => []
  | .decodeStall _ _ => []
  | .matrixCommandStart _ _ => []
  | .mmaComplete _ _ => []
  | .mloadwComplete _ _ => []
  | .mdrainRowWritten _ _ => []
  | .maccldComplete _ _ => []
  | .eploadComplete _ _ => []
  | .sketchAccept _ _ => []
  | .sketchCommandComplete _ _ => []
  | .collAccept _ _ => []
  | .collComplete _ _ => []
  | .dgstCheckpoint _ _ _ => []
  | .nop _ => []
  | .br _ _ => []
  | .bri _ _ => []
  | .call _ _ => []
  | .calli _ _ => []
  | .ret _ => []
  | .lexit _ => []
  | .waitf _ _ _ => []
  | .yield _ => []
  | .halt _ => []
  | .trap _ _ => []
  | .eret _ => []
  | .brk _ _ => []
  | .tfence _ => []
  | .add _ _ _ _ _ => []
  | .sub _ _ _ _ _ => []
  | .mul _ _ _ _ _ => []
  | .div _ _ _ _ _ => []
  | .and _ _ _ _ _ => []
  | .or _ _ _ _ _ => []
  | .xor _ _ _ _ _ => []
  | .andn _ _ _ _ _ => []
  | .shl _ _ _ _ _ => []
  | .shr _ _ _ _ _ => []
  | .sar _ _ _ _ _ => []
  | .rotr _ _ _ _ _ => []
  | .min _ _ _ _ _ => []
  | .max _ _ _ _ _ => []
  | .cmp _ _ _ _ _ => []
  | .clz _ _ _ _ _ => []
  | .ctz _ _ _ _ _ => []
  | .popc _ _ _ _ _ => []
  | .extr _ _ _ _ _ => []
  | .insr _ _ _ _ _ => []
  | .lea _ _ _ _ _ => []
  | .addi _ _ _ _ => []
  | .movi _ _ _ => []
  | .mfs _ _ _ => []
  | .mts _ _ _ => []
  | .fadd _ _ _ _ _ => []
  | .fsub _ _ _ _ _ => []
  | .fmul _ _ _ _ _ => []
  | .ffma _ _ _ _ _ => []
  | .fmin _ _ _ _ _ => []
  | .fmax _ _ _ _ _ => []
  | .fcmp _ _ _ _ _ => []
  | .fcvt _ _ _ _ _ => []
  | .fdiv _ _ _ _ _ => []
  | .fsqrt _ _ _ _ _ => []
  | .lds _ _ _ _ _ => []
  | .sts _ _ _ _ _ => []
  | .bteStart _ _ _ _ _ => []
  | .ldg _ _ _ _ _ _ => []
  | .stg _ _ _ _ _ _ => []
  | .vlds _ _ _ _ _ => []
  | .vsts _ _ _ _ _ => []
  | .tlds _ _ _ _ _ => []
  | .xadd _ _ _ _ _ _ => []
  | .rst _ _ _ _ _ _ => []
  | .rld _ _ _ _ _ _ => []
  | .fence _ _ _ _ _ _ => []
  | .cbfence _ => []
  | .lbr _ _ _ _ _ => []
  | .tinv _ _ _ _ _ _ => []
  | .vext _ _ _ _ _ => []
  | .viota _ _ _ _ _ => []
  | .tmovr _ _ _ _ _ => []
  | .tzero _ _ _ _ _ => []
  | .mma _ _ _ _ _ => []
  | .mloadw _ _ _ _ _ => []
  | .mdrain _ _ _ _ _ => []
  | .mzero _ _ _ _ _ => []
  | .maccld _ _ _ _ _ => []
  | .epload _ _ _ _ _ => []
  | .arinit _ _ _ _ _ => []
  | .arrive _ _ _ _ _ => []
  | .arwait _ _ _ _ _ => []
  | .artest _ _ _ _ _ => []
  | .arwaitm _ _ _ _ _ => []
  | .artestm _ _ _ _ _ => []
  | .efence _ _ _ _ _ => []
  | .skupd _ _ _ _ _ => []
  | .skqry _ _ _ _ _ => []
  | .skadd _ _ _ _ _ => []
  | .skclr _ _ _ _ _ => []
  | .coll _ _ _ _ _ => []
  | .csig _ _ _ _ _ => []
  | .qpush _ _ _ _ _ => []
  | .qpop _ _ _ _ _ => []
  | .qtry _ _ _ _ _ => []
  | .launch _ _ _ _ _ => []
  | .gbar _ _ _ _ _ => []
  | .specb _ _ _ _ _ => []
  | .specc _ _ _ _ _ => []
  | .speca _ _ _ _ _ => []
  | .dgst _ _ _ _ _ => []
  | .endp _ _ _ => []
  | .cvt _ _ _ => []
  | .addv _ _ _ => []
  | .mulv _ _ _ => []
  | .fmav _ _ _ => []
  | .adds _ _ _ => []
  | .muls _ _ _ => []
  | .relum _ _ _ => []
  | .clamp _ _ _ => []
  | .lutp _ _ _ => []
  | .maxe _ _ _ => []
  | .mine _ _ _ => []
  | .move _ _ _ => []
  | .cvtb _ _ _ => []
  | .maskw _ _ _ => []
  | .qout _ _ _ => []
  | .packageResetAsserted => []
  | .hbmRepairRowsExhausted _ _ => []
  | .ablumLinkRetrained _ _ => []
  | .mzeroComplete _ _ => []
  | .globalAccessPerformed _ _ => []

/-- The registers an instruction writes, each with its latency (R304). A bundle that blocks after issue exposes its result to
the next bundle: latency 1. -/
def Instr.dsts : Instr → List (RegName × Nat)
  | .add _ d _ _ _ => [(.g d.toNat, 1)]
  | .sub _ d _ _ _ => [(.g d.toNat, 1)]
  | .and _ d _ _ _ => [(.g d.toNat, 1)]
  | .or _ d _ _ _ => [(.g d.toNat, 1)]
  | .xor _ d _ _ _ => [(.g d.toNat, 1)]
  | .andn _ d _ _ _ => [(.g d.toNat, 1)]
  | .shl _ d _ _ _ => [(.g d.toNat, 1)]
  | .shr _ d _ _ _ => [(.g d.toNat, 1)]
  | .sar _ d _ _ _ => [(.g d.toNat, 1)]
  | .rotr _ d _ _ _ => [(.g d.toNat, 1)]
  | .min _ d _ _ _ => [(.g d.toNat, 1)]
  | .max _ d _ _ _ => [(.g d.toNat, 1)]
  | .sel _ d _ _ _ => [(.g d.toNat, 1)]
  | .clz _ d _ _ _ => [(.g d.toNat, 1)]
  | .ctz _ d _ _ _ => [(.g d.toNat, 1)]
  | .popc _ d _ _ _ => [(.g d.toNat, 1)]
  | .extr _ d _ _ _ => [(.g d.toNat, 1)]
  | .insr _ d _ _ _ => [(.g d.toNat, 1)]
  | .lea _ d _ _ _ => [(.g d.toNat, 1)]
  | .addi _ d _ _ => [(.g d.toNat, 1)]
  | .movi _ d _ => [(.g d.toNat, 1)]
  | .mul _ d _ _ _ => [(.g d.toNat, 3)]
  | .div _ d _ _ _ => [(.g d.toNat, 18)]
  | .mfs _ d _ => [(.g d.toNat, 2)]
  | .mts _ num _ => if decide (0x10 ≤ num.toNat) && decide (num.toNat ≤ 0x17) then [(.sp num.toNat, 1), (.t (num.toNat - 0x10), 1)] else [(.sp num.toNat, 1)]
  | .cmp _ d _ _ _ => [(.p d.toNat, 1)]
  | .plog _ d _ _ _ => [(.p d.toNat, 1)]
  | .fcmp _ d _ _ _ => [(.p d.toNat, 4)]
  | .fadd _ d _ _ _ => [(.g d.toNat, 4)]
  | .fsub _ d _ _ _ => [(.g d.toNat, 4)]
  | .fmul _ d _ _ _ => [(.g d.toNat, 4)]
  | .ffma _ d _ _ _ => [(.g d.toNat, 4)]
  | .fmin _ d _ _ _ => [(.g d.toNat, 4)]
  | .fmax _ d _ _ _ => [(.g d.toNat, 4)]
  | .fcvt _ d _ _ _ => [(.g d.toNat, 4)]
  | .fdiv _ d _ _ _ => [(.g d.toNat, 12)]
  | .fsqrt _ d _ _ _ => [(.g d.toNat, 12)]
  | .lds _ d _ _ _ => [(.g d.toNat, 5)]
  | .vlds _ d _ _ _ => [(.v d.toNat, 6)]
  | .vldm _ d _ _ _ => [(.v d.toNat, 6)]
  | .tlds _ d _ _ _ => [(.t d.toNat, 6)]
  | .ldg _ d _ _ _ _ => [(.g d.toNat, 1)]
  | .vldg _ d _ _ _ _ => [(.v d.toNat, 1)]
  | .atg _ d _ _ _ _ => [(.g d.toNat, 1)]
  | .rat _ d _ _ _ _ => [(.g d.toNat, 1)]
  | .lbr _ d _ _ _ => [(.g d.toNat, 1)]
  | .vadd _ d _ _ fn => [(.v d.toNat, if decide (fn.toNat ≤ 2) then 4 else 2)]
  | .vsub _ d _ _ fn => [(.v d.toNat, if decide (fn.toNat ≤ 2) then 4 else 2)]
  | .vmul _ d _ _ fn => [(.v d.toNat, if decide (fn.toNat ≤ 2) then 4 else 2)]
  | .vfma _ d _ _ _ => [(.v d.toNat, 4)]
  | .vmin _ d _ _ fn => [(.v d.toNat, if decide (fn.toNat ≤ 2) then 4 else 2)]
  | .vmax _ d _ _ fn => [(.v d.toNat, if decide (fn.toNat ≤ 2) then 4 else 2)]
  | .vabs _ d _ _ fn => [(.v d.toNat, if decide (fn.toNat ≤ 2) then 4 else 2)]
  | .vneg _ d _ _ fn => [(.v d.toNat, if decide (fn.toNat ≤ 2) then 4 else 2)]
  | .vrcp _ d _ _ _ => [(.v d.toNat, 8)]
  | .vrsq _ d _ _ _ => [(.v d.toNat, 8)]
  | .vexp2 _ d _ _ _ => [(.v d.toNat, 8)]
  | .vlog2 _ d _ _ _ => [(.v d.toNat, 8)]
  | .vlut _ d _ _ _ => [(.v d.toNat, 8)]
  | .vcmp _ d _ _ _ => [(.q d.toNat, 2)]
  | .vsel _ d _ _ _ => [(.v d.toNat, 2)]
  | .vmov _ d _ _ _ => [(.v d.toNat, 2)]
  | .vand _ d _ _ _ => [(.v d.toNat, 2)]
  | .vor _ d _ _ _ => [(.v d.toNat, 2)]
  | .vxor _ d _ _ _ => [(.v d.toNat, 2)]
  | .vshl _ d _ _ _ => [(.v d.toNat, 2)]
  | .vshr _ d _ _ _ => [(.v d.toNat, 2)]
  | .vsar _ d _ _ _ => [(.v d.toNat, 2)]
  | .vcvt _ d _ _ _ => [(.v d.toNat, 4)]
  | .vqmx _ d _ _ _ => [(.v d.toNat, 6)]
  | .vdqmx _ d _ _ _ => [(.v d.toNat, 4)]
  | .vred _ d _ _ _ => [(.g d.toNat, 6)]
  | .vperm _ d _ _ _ => [(.v d.toNat, 3)]
  | .vrot _ d _ _ _ => [(.v d.toNat, 2)]
  | .vbcast _ d _ _ _ => [(.v d.toNat, 2)]
  | .vext _ d _ _ _ => [(.g d.toNat, 2)]
  | .viota _ d _ _ _ => [(.v d.toNat, 2)]
  | .qlog _ d _ _ _ => [(.q d.toNat, 2)]
  | .qpopc _ d _ _ _ => [(.g d.toNat, 2)]
  | .tmovr _ d _ _ _ => [(.t d.toNat, 2)]
  | .tmovc _ d _ _ _ => [(.v d.toNat, 2)]
  | .trowv _ d _ _ _ => [(.v d.toNat, 2)]
  | .tzero _ d _ _ _ => [(.t d.toNat, 2)]
  | .artest _ _ _ _ fn => [(.p (fn.toNat / 2), 3)]
  | .artestm _ _ _ _ fn => [(.p (fn.toNat / 2), 3)]
  | .qtry _ _ _ _ fn => [(.p (fn.toNat / 2), 3)]
  | .powerGood => []
  | .packageResetRelease => []
  | .kindlingTimeout => []
  | .modulePowerLoss => []
  | .blockOverheat _ _ => []
  | .blockCooled _ _ => []
  | .thermalTrip _ _ => []
  | .coreRetirement _ _ => []
  | .uncorrectableError _ _ => []
  | .flitInject _ => []
  | .linkFlitReceive _ _ => []
  | .nakReceived _ => []
  | .par _ _ => []
  | .nakRepeatTimeout _ => []
  | .linkRetrainDone _ _ => []
  | .segmentFailure _ => []
  | .unreachTimeout _ => []
  | .flitAtExitNode _ _ _ => []
  | .refusedFlitRetry _ => []
  | .rstAtTarget _ => []
  | .rldAtTarget _ => []
  | .ratAtTarget _ => []
  | .rstack _ => []
  | .rlddata _ => []
  | .ratdata _ => []
  | .bseg _ => []
  | .mgmt _ => []
  | .ablumLinkFailure _ => []
  | .hostRead _ _ => []
  | .hostWrite _ _ => []
  | .mgmtRegisterWrite _ _ => []
  | .monitoredLineInvalidate _ => []
  | .create _ => []
  | .launchRecord _ => []
  | .setprio _ => []
  | .freeze _ => []
  | .resume _ => []
  | .kill _ => []
  | .dirtysnap _ => []
  | .queryDevinfo _ => []
  | .queryCtxstate _ => []
  | .queryAttest _ => []
  | .queryLogstat _ => []
  | .eventLogWrite => []
  | .freezeTimeout _ => []
  | .engineStopAck _ _ _ => []
  | .preemptionComplete _ => []
  | .rebalance _ => []
  | .quantumExpiry _ => []
  | .residencySwap _ => []
  | .agingTick _ => []
  | .deadlockTimeout _ _ => []
  | .damperWindow _ _ => []
  | .strandSwitch _ => []
  | .strandReady _ => []
  | .firingStart _ => []
  | .firingEnd _ => []
  | .graphEnd _ _ => []
  | .childInstantiate _ _ => []
  | .channelPublish _ _ _ _ => []
  | .engineCommandReady _ _ => []
  | .bteAccept _ _ => []
  | .bteChunkPerformed _ _ => []
  | .bteCommandComplete _ _ => []
  | .decodeStall _ _ => []
  | .matrixCommandStart _ _ => []
  | .mmaComplete _ _ => []
  | .mloadwComplete _ _ => []
  | .mdrainRowWritten _ _ => []
  | .maccldComplete _ _ => []
  | .eploadComplete _ _ => []
  | .sketchAccept _ _ => []
  | .sketchCommandComplete _ _ => []
  | .collAccept _ _ => []
  | .collComplete _ _ => []
  | .dgstCheckpoint _ _ _ => []
  | .nop _ => []
  | .br _ _ => []
  | .brv _ _ _ => []
  | .bri _ _ => []
  | .call _ _ => []
  | .calli _ _ => []
  | .ret _ => []
  | .loop _ _ _ _ => []
  | .lexit _ => []
  | .waitf _ _ _ => []
  | .yield _ => []
  | .halt _ => []
  | .trap _ _ => []
  | .eret _ => []
  | .brk _ _ => []
  | .tfence _ => []
  | .sts _ _ _ _ _ => []
  | .bteStart _ _ _ _ _ => []
  | .stg _ _ _ _ _ _ => []
  | .vsts _ _ _ _ _ => []
  | .vstg _ _ _ _ _ _ => []
  | .vstm _ _ _ _ _ => []
  | .tsts _ _ _ _ _ => []
  | .xadd _ _ _ _ _ _ => []
  | .rst _ _ _ _ _ _ => []
  | .rld _ _ _ _ _ _ => []
  | .fence _ _ _ _ _ _ => []
  | .cbfence _ => []
  | .tinv _ _ _ _ _ _ => []
  | .mma _ _ _ _ _ => []
  | .mloadw _ _ _ _ _ => []
  | .mdrain _ _ _ _ _ => []
  | .mzero _ _ _ _ _ => []
  | .maccld _ _ _ _ _ => []
  | .epload _ _ _ _ _ => []
  | .arinit _ _ _ _ _ => []
  | .arrive _ _ _ _ _ => []
  | .arwait _ _ _ _ _ => []
  | .arwaitm _ _ _ _ _ => []
  | .efence _ _ _ _ _ => []
  | .skupd _ _ _ _ _ => []
  | .skqry _ _ _ _ _ => []
  | .skadd _ _ _ _ _ => []
  | .skclr _ _ _ _ _ => []
  | .coll _ _ _ _ _ => []
  | .csig _ _ _ _ _ => []
  | .qpush _ _ _ _ _ => []
  | .qpop _ _ _ _ _ => []
  | .launch _ _ _ _ _ => []
  | .gbar _ _ _ _ _ => []
  | .specb _ _ _ _ _ => []
  | .specc _ _ _ _ _ => []
  | .speca _ _ _ _ _ => []
  | .dgst _ _ _ _ _ => []
  | .endp _ _ _ => []
  | .cvt _ _ _ => []
  | .addv _ _ _ => []
  | .mulv _ _ _ => []
  | .fmav _ _ _ => []
  | .adds _ _ _ => []
  | .muls _ _ _ => []
  | .relum _ _ _ => []
  | .clamp _ _ _ => []
  | .lutp _ _ _ => []
  | .maxe _ _ _ => []
  | .mine _ _ _ => []
  | .move _ _ _ => []
  | .cvtb _ _ _ => []
  | .maskw _ _ _ => []
  | .qout _ _ _ => []
  | .packageResetAsserted => []
  | .hbmRepairRowsExhausted _ _ => []
  | .ablumLinkRetrained _ _ => []
  | .mzeroComplete _ _ => []
  | .globalAccessPerformed _ _ => []

/-- The registers a G source field names. -/
def gName (c : R6) : List RegName := if c = 63 then [] else [.g c.toNat]
/-- The registers a V source field names: V0-V31, or G0-G30 by codes 32-62 (R301). -/
def vName (c : R6) : List RegName :=
  if c = 63 then [] else if c.toNat ≤ 31 then [.v c.toNat] else [.g (c.toNat - 32)]

/-- Every register an instruction reads apart from its guard. -/
def Instr.srcs (k : W32) (i : Instr) : List RegName :=
  i.gSrc.flatMap gName ++ i.vSrc.flatMap vName ++ i.xSrc k

/-- Whether an instruction takes the K literal as a control word (R299). -/
def Instr.takesK (i : Instr) : Bool :=
  match i with
  | .mma _ _ _ _ _ => true
  | .mdrain _ _ _ _ _ => true
  | .atg _ _ _ _ _ _ => true
  | .rat _ _ _ _ _ _ => true
  | .rst _ _ _ _ _ _ => true
  | .rld _ _ _ _ _ _ => true
  | .vldg _ _ _ _ _ fn => fn &&& 3 == 1 || fn &&& 3 == 2
  | .vstg _ _ _ _ _ fn => fn &&& 3 == 1 || fn &&& 3 == 2
  | _ => false

/-- Whether a register was named by code 63 (R301). -/
def RegName.isK : RegName → Bool
  | .g n => n == 63
  | .p n => n == 63
  | .v n => n == 63
  | .q n => n == 63
  | .t n => n == 63
  | .sp _ => false

/-- Operand fields that an instruction does not read in every form, and the count field of LOOP, whose other counts stand in no field
(R308, R310, R314). -/
def Instr.spareSrc (i : Instr) : List R6 :=
  match i with
  | .loop _ _ c _ => [c]
  | .tinv _ _ a _ _ _ => [a]
  | .mloadw _ _ _ c _ => [c]
  | .maccld _ _ _ c _ => [c]
  | _ => []

/-- Registers that an instruction reads and a field of its own names; the counts of LOOP but the first are named by none (R308). -/
def Instr.namedSrc (i : Instr) : List RegName :=
  match i with
  | .loop _ _ _ _ => []
  | _ => i.xSrc 0

/-- Whether an instruction takes the K literal, or an operand field of it holds code 63 (R297, condition 2). -/
def Instr.usesK (i : Instr) : Bool :=
  i.takesK || i.dsts.any (fun e => e.1.isK) || i.namedSrc.any (·.isK) || (i.gSrc ++ i.spareSrc ++ i.vSrc).any (fun c => c == 63)

/-- Whether the K literal is one that the instruction's encoding allows (R310): operation codes, lengths, index registers, and
CAS with d = 62. -/
def Instr.kOk (k : W32) (i : Instr) : Bool :=
  match i with
  | .atg _ d _ _ _ _ => decide (k.toNat ≤ 9) && !(d == 62 && k.toNat == 5)
  | .rat _ d _ _ _ _ => decide (k.toNat ≤ 9) && !(d == 62 && k.toNat == 5)
  | .rst _ _ _ _ _ _ => decide (k.toNat < 256)
  | .rld _ _ _ _ _ _ => decide (k.toNat < 128)
  | .vldg _ _ _ _ _ fn => fn != 2 || decide (k.toNat < 32)
  | .vstg _ _ _ _ _ fn => fn != 2 || decide (k.toNat < 32)
  | _ => true

/-- Whether a name is that of a register: a field's other codes name none (R301). -/
def RegName.exists : RegName → Bool
  | .g n => decide (n < 63)
  | .p n => decide (n < 8)
  | .v n => decide (n < 32)
  | .q n => decide (n < 8)
  | .t n => decide (n < 8)
  | .sp n => specialOk (BitVec.ofNat 12 n)

/-- Two slots name one destination register (R297, R298). -/
def dstClash : List RegName → Bool
  | [] => false
  | r :: rs => (!r.discards && r.exists && rs.contains r) || dstClash rs

/-- The conditions of R297 that a bundle's own bytes show, lowest first: K absent, a destination named twice, a call or a LOOP in
a loop body. -/
def illbOf (inBody : Bool) (k : Option W32) (is : List Instr) : Option Nat :=
  if k.isNone && is.any (fun i => i.usesK) then some 2
  else if dstClash (is.flatMap (fun i => i.dsts.map (fun e => e.1))) then some 3
  else if inBody && is.any (fun i => match i with | .call _ _ => true | .calli _ _ => true | _ => false) then some 4
  else if inBody && is.any (fun i => match i with | .loop _ _ _ _ => true | _ => false) then some 5
  else none

/-- The slot bit that a class's first slot has. -/
def SlotClass.firstSlot : SlotClass → Nat
  | .b => 0
  | .s => 1
  | .m => 3
  | .v => 4
  | .e => 6
  | .epi => 0
  | .event => 0

/-- The bytes of a bundle that holds one word in the first slot of a class, and a K literal of zero where `k` is set. -/
def oneSlotBundle (c : SlotClass) (k : Bool) (w : W32) : List Byte :=
  let h : Byte := BitVec.ofNat 8 (2 ^ c.firstSlot + (if k then 128 else 0))
  [h, w.extractLsb' 0 8, w.extractLsb' 8 8, w.extractLsb' 16 8, w.extractLsb' 24 8] ++ (if k then [0, 0, 0, 0] else [])

/-- The class of the lowest slot that reads a word as an instruction: the opcode table gives no slot, and one word may have a
meaning in several (log entry 1). -/
def tableClass (w : W32) : Option SlotClass :=
  [SlotClass.b, .s, .m, .v, .e].find? (fun c => (decodeWord c w).isSome)

/-- The instruction that the decoder reads from a word of the opcode table: 16 bits are an epilogue operation, 32 bits a slot
word, laid out as a bundle that holds it alone (log entry 1). -/
def decodeTableWord (nbits w : Nat) : Option Instr :=
  if nbits = 16 then decodeEpi (BitVec.ofNat 16 w)
  else if nbits = 32 then
    match tableClass (BitVec.ofNat 32 w) with
    | none => none
    | some c =>
      match decodeBundle 64 (oneSlotBundle c false (BitVec.ofNat 32 w)) with
      | .ok (some b) => (bundleInstrs b).head?.bind (fun e => e.2)
      | _ => none
  else none

end Sys2Proof
end

