-- ==== Sys2Proof/Machine/Tab.lean ====
section
/-! DEFINITION. Sparse tables: lists of (key, value) pairs with strictly rising keys and no entry equal to the default.
Every register file, memory and directory of the state is one, so equal contents are equal data. -/

namespace Sys2Proof.Machine

/-- A sparse table from natural keys; what an unlisted key reads as is the default given to each operation. -/
abbrev Tab (α : Type) := List (Nat × α)

/-- The value at key `n`: the first entry with that key, else the default `d`. -/
def tget {α : Type} (d : α) : Tab α → Nat → α
  | [], _ => d
  | (k, v) :: t, n => if k = n then v else tget d t n

/-- `t` with key `n` reading as `v`; writing the default removes the entry. -/
def tset {α : Type} [DecidableEq α] (d : α) (t : Tab α) (n : Nat) (v : α) : Tab α :=
  t.filter (fun e => decide (e.1 < n)) ++
    ((if v = d then [] else [(n, v)]) ++ t.filter (fun e => decide (n < e.1)))

/-- `t` with its value at `n` changed by `f`. -/
def tmod {α : Type} [DecidableEq α] (d : α) (t : Tab α) (n : Nat) (f : α → α) : Tab α :=
  tset d t n (f (tget d t n))

/-- The entries that the values `vs` list from key `a` on, defaults left out. -/
def tlist {α : Type} [DecidableEq α] (d : α) : Nat → List α → Tab α
  | _, [] => []
  | a, v :: vs => if v = d then tlist d (a + 1) vs else (a, v) :: tlist d (a + 1) vs

/-- `t` with the keys from `a` on, one for each of `vs`, reading as those values. -/
def twrite {α : Type} [DecidableEq α] (d : α) (t : Tab α) (a : Nat) (vs : List α) : Tab α :=
  t.filter (fun e => decide (e.1 < a)) ++
    (tlist d a vs ++ t.filter (fun e => decide (a + vs.length ≤ e.1)))

/-- The `n` values from key `a` on. -/
def tread {α : Type} (d : α) (t : Tab α) (a n : Nat) : List α :=
  let w := t.filter (fun e => decide (a ≤ e.1) && decide (e.1 < a + n))
  (List.range n).map (fun i => tget d w (a + i))

/-- `t` with every key from `a` to `a + n - 1` at its default. -/
def tclear {α : Type} (t : Tab α) (a n : Nat) : Tab α :=
  t.filter (fun e => decide (e.1 < a) || decide (a + n ≤ e.1))

/-- Keys strictly rising from `lo` on and no entry equal to `d`. -/
def tOkFrom {α : Type} [DecidableEq α] (d : α) : Nat → Tab α → Bool
  | _, [] => true
  | lo, (k, v) :: t => decide (lo ≤ k) && decide (v ≠ d) && tOkFrom d (k + 1) t

/-- The canonical form of a table with default `d`. -/
def tOk {α : Type} [DecidableEq α] (d : α) (t : Tab α) : Bool := tOkFrom d 0 t

/-- Replaces element `i` of a list by its image under `f`; beyond the end nothing changes. -/
def lmod {α : Type} (f : α → α) : List α → Nat → List α
  | [], _ => []
  | x :: xs, 0 => f x :: xs
  | x :: xs, n + 1 => x :: lmod f xs n

/-- A list without its element `i`. -/
def ldel {α : Type} : List α → Nat → List α
  | [], _ => []
  | _ :: xs, 0 => xs
  | x :: xs, n + 1 => x :: ldel xs n

/-- Inserts `n` into a strictly rising list of naturals (a set). -/
def sins (n : Nat) : List Nat → List Nat
  | [] => [n]
  | k :: t => if n < k then n :: k :: t else if n = k then k :: t else k :: sins n t

/-- The little-endian number that bytes spell (R4). -/
def leNat : List Byte → Nat
  | [] => 0
  | b :: bs => b.toNat + 256 * leNat bs

/-- The `n` little-endian bytes of `x` mod 2^(8n) (R4). -/
def leBytes : Nat → Nat → List Byte
  | 0, _ => []
  | n + 1, x => BitVec.ofNat 8 x :: leBytes n (x / 256)

/-- Bits hi..lo of a number (R8: x[hi:lo]). -/
def bitsOf (x hi lo : Nat) : Nat := (x >>> lo) % 2 ^ (hi + 1 - lo)

/-- Bit `i` of a number. -/
def bitOf (x i : Nat) : Bool := Nat.testBit x i

/-- The signed value of the low `w` bits of `x` (R4: two's complement). -/
def sgn (w x : Nat) : Int :=
  let y := x % 2 ^ w
  if y < 2 ^ (w - 1) then (y : Int) else (y : Int) - ((2 ^ w : Nat) : Int)

/-- `x` mod 2^w as a natural number. -/
def unsg (w : Nat) (x : Int) : Nat := (x % ((2 ^ w : Nat) : Int)).toNat

/-- Drops the first `n` bytes and keeps `k`. -/
def slice {α : Type} (l : List α) (n k : Nat) : List α := (l.drop n).take k

/-- The little-endian field of `k` bytes at byte `n` of a record. -/
def fld (l : List Byte) (n k : Nat) : Nat := leNat (slice l n k)

/-- Ceiling division. -/
def cdiv (a b : Nat) : Nat := (a + b - 1) / b

end Sys2Proof.Machine
end

