-- ==== Sys2Proof/Machine/Num.lean ====
section
/-! DEFINITION. Exact dyadic numbers, their rounding, and the FP32 and BF16 operations (R269, R271-R273, R371-R375). Every
operation computes exactly and narrows once. -/

namespace Sys2Proof.Machine

/-- Rounding modes (R289 RND). -/
inductive RMode where
  | rne | rtz | rup | rdn
  deriving DecidableEq, Repr

/-- Mode codes of a drain control word: 0 RNE, 1 RTZ, 2 RUP, 3 RDN (R289). -/
def rmodeOf (n : Nat) : RMode :=
  match n with
  | 0 => .rne
  | 1 => .rtz
  | 2 => .rup
  | _ => .rdn

/-- A dyadic rational n * 2^e. -/
structure Dy where
  n : Int
  e : Int
  deriving DecidableEq, Repr

/-- Sticky flag bits of AFLAGS (R272). -/
def fNV : Nat := 1
def fDZ : Nat := 2
def fOF : Nat := 4
def fUF : Nat := 8
def fNX : Nat := 16
def fISAT : Nat := 32

namespace Dy

/-- The integer `n`. -/
def ofInt (n : Int) : Dy := { n := n, e := 0 }

/-- The numerator of `a` over 2^e for e at most `a.e`. -/
def at' (a : Dy) (e : Int) : Int := a.n * ((2 ^ (a.e - e).toNat : Nat) : Int)

/-- Exact sum. -/
def add (a b : Dy) : Dy :=
  let e := min a.e b.e
  { n := a.at' e + b.at' e, e := e }

/-- Exact negation. -/
def neg (a : Dy) : Dy := { n := -a.n, e := a.e }

/-- Exact difference. -/
def sub (a b : Dy) : Dy := a.add b.neg

/-- Exact product. -/
def mul (a b : Dy) : Dy := { n := a.n * b.n, e := a.e + b.e }

/-- a * 2^k. -/
def scale (a : Dy) (k : Int) : Dy := { n := a.n, e := a.e + k }

/-- a < b. -/
def lt (a b : Dy) : Bool :=
  let e := min a.e b.e
  decide (a.at' e < b.at' e)

/-- a = b as numbers. -/
def eq (a b : Dy) : Bool :=
  let e := min a.e b.e
  decide (a.at' e = b.at' e)

/-- Floor of the binary logarithm of |a|, for a nonzero. -/
def log2 (a : Dy) : Int := (Nat.log2 a.n.natAbs : Int) + a.e

/-- The greatest integer at most `a`. -/
def floor (a : Dy) : Int :=
  if 0 ≤ a.e then a.n * ((2 ^ a.e.toNat : Nat) : Int) else Int.fdiv a.n ((2 ^ (-a.e).toNat : Nat) : Int)

end Dy

/-- Rounds the natural `m` (plus a part below one unit of it where `st` is set) divided by 2^k to an integer, and says whether it
was inexact. -/
def roundShift (mode : RMode) (neg : Bool) (m k : Nat) (st : Bool) : Nat × Bool :=
  let q := m >>> k
  let r := m % 2 ^ k
  let half := 2 ^ k
  let inexact := r != 0 || st
  let up :=
    match mode with
    | .rne => decide (half < 2 * r) || (decide (half = 2 * r) && (st || q % 2 == 1))
    | .rtz => false
    | .rup => inexact && !neg
    | .rdn => inexact && neg
  (if up then q + 1 else q, inexact)

/-- A dyadic to an integer in a mode, and whether it was inexact. -/
def roundInt (mode : RMode) (a : Dy) : Int × Bool :=
  if 0 ≤ a.e then (a.n * ((2 ^ a.e.toNat : Nat) : Int), false)
  else
    let (q, x) := roundShift mode (decide (a.n < 0)) a.n.natAbs (-a.e).toNat false
    (if a.n < 0 then -(q : Int) else (q : Int), x)

/-- RoundNE to an integer (R8). -/
def roundNE (a : Dy) : Int := (roundInt .rne a).1

/-- Truncation toward zero (R8: Trunc0). -/
def trunc0 (a : Dy) : Int := (roundInt .rtz a).1

/-- Rounds the magnitude m * 2^e (and `st` below it), m nonzero, to `p` significant bits with a quantum of at least 2^qmin:
the rounded significand, its quantum's exponent, and whether it was inexact. -/
def roundQ (p : Nat) (qmin : Option Int) (mode : RMode) (neg : Bool) (m : Nat) (e : Int) (st : Bool) : Nat × Int × Bool :=
  let top := (Nat.log2 m : Int) + e
  let q0 := top - ((p : Int) - 1)
  let qe := match qmin with
    | none => q0
    | some q => max q0 q
  if qe ≤ e then (m * 2 ^ (e - qe).toNat, qe, st)
  else
    let (r, x) := roundShift mode neg m (qe - e).toNat st
    if r = 2 ^ p then (2 ^ (p - 1), qe + 1, x) else (r, qe, x)

/-- A binary floating-point format: significand bits and exponent bits. -/
structure FFmt where
  p : Nat
  w : Nat
  deriving DecidableEq, Repr

/-- IEEE 754 binary32. -/
def fp32 : FFmt := { p := 24, w := 8 }
/-- BF16. -/
def bf16 : FFmt := { p := 8, w := 8 }

/-- The exponent bias. -/
def FFmt.bias (f : FFmt) : Int := (2 ^ (f.w - 1) : Nat) - 1
/-- The pattern of +Inf. -/
def FFmt.inf (f : FFmt) : Nat := (2 ^ f.w - 1) * 2 ^ (f.p - 1)
/-- The canonical NaN: 0x7FC0_0000 or 0x7FC0. -/
def FFmt.nan (f : FFmt) : Nat := f.inf + 2 ^ (f.p - 2)
/-- The sign bit. -/
def FFmt.sign (f : FFmt) (neg : Bool) : Nat := if neg then 2 ^ (f.w + f.p - 1) else 0

/-- Rounds the number with sign `neg` and magnitude m * 2^e (and `st` below it) to a format: the pattern and the flags OF, UF, NX.
Underflow is tiny after rounding and inexact (R272); overflow goes to infinity or to the largest finite value by mode (R269). -/
def FFmt.round (f : FFmt) (mode : RMode) (neg : Bool) (m : Nat) (e : Int) (st : Bool) : Nat × Nat :=
  if m = 0 then (f.sign neg, 0)
  else
    let qmin := 1 - f.bias - ((f.p : Int) - 1)
    let (s, qe, x) := roundQ f.p (some qmin) mode neg m e st
    if s ≥ 2 ^ (f.p - 1) ∧ qe + ((f.p : Int) - 1) > f.bias then
      let big := match mode with
        | .rne => f.inf
        | .rtz => f.inf - 1
        | .rup => if neg then f.inf - 1 else f.inf
        | .rdn => if neg then f.inf else f.inf - 1
      (f.sign neg + big, fOF + fNX)
    else
      let body := if s < 2 ^ (f.p - 1) then s else (qe - qmin + 1).toNat * 2 ^ (f.p - 1) + (s - 2 ^ (f.p - 1))
      let (s2, q2, _) := roundQ f.p none mode neg m e st
      let tiny := decide ((Nat.log2 s2 : Int) + q2 < 1 - f.bias)
      (f.sign neg + body, (if x then fNX else 0) + (if x && tiny then fUF else 0))

/-- A dyadic to a format; zero takes the sign `zneg`. -/
def FFmt.ofDy (f : FFmt) (mode : RMode) (a : Dy) (zneg : Bool) : Nat × Nat :=
  if a.n = 0 then (f.sign zneg, 0) else f.round mode (decide (a.n < 0)) a.n.natAbs a.e false

/-- A floating-point datum taken apart. -/
inductive FVal where
  | nan (signalling : Bool)
  | inf (neg : Bool)
  | fin (neg : Bool) (v : Dy)
  deriving DecidableEq, Repr

/-- Takes a pattern of a format apart. -/
def FFmt.val (f : FFmt) (x : Nat) : FVal :=
  let neg := bitOf x (f.w + f.p - 1)
  let ex := bitsOf x (f.w + f.p - 2) (f.p - 1)
  let fr := x % 2 ^ (f.p - 1)
  let mk := fun (m : Nat) (e : Int) => FVal.fin neg { n := if neg then -(m : Int) else (m : Int), e := e }
  if ex = 2 ^ f.w - 1 then (if fr = 0 then .inf neg else .nan (!bitOf fr (f.p - 2)))
  else if ex = 0 then mk fr (1 - f.bias - ((f.p : Int) - 1))
  else mk (fr + 2 ^ (f.p - 1)) ((ex : Int) - f.bias - ((f.p : Int) - 1))

/-- NV if an operand is a signalling NaN (R271). -/
def FVal.snan : FVal → Nat
  | .nan true => fNV
  | .nan false => 0
  | .inf _ => 0
  | .fin _ _ => 0

/-- Whether a datum is a NaN. -/
def FVal.isNan : FVal → Bool
  | .nan _ => true
  | .inf _ => false
  | .fin _ _ => false

/-- The sign of a datum; a NaN's does not matter. -/
def FVal.neg : FVal → Bool
  | .nan _ => false
  | .inf s => s
  | .fin s _ => s

/-- FP32 datum of a word. -/
def val32 (x : W32) : FVal := fp32.val x.toNat

/-- a + b in format `f` (R271, R372). -/
def addV (f : FFmt) (mode : RMode) (a b : FVal) : Nat × Nat :=
  let nv := a.snan ||| b.snan
  match a, b with
  | .nan _, _ => (f.nan, nv)
  | _, .nan _ => (f.nan, nv)
  | .inf s, .inf t => if s = t then (f.sign s + f.inf, 0) else (f.nan, fNV)
  | .inf s, .fin _ _ => (f.sign s + f.inf, 0)
  | .fin _ _, .inf t => (f.sign t + f.inf, 0)
  | .fin s x, .fin t y => f.ofDy mode (x.add y) (s && t)

/-- The negation of a datum. -/
def FVal.negate : FVal → FVal
  | .nan q => .nan q
  | .inf s => .inf (!s)
  | .fin s v => .fin (!s) v.neg

/-- a - b. -/
def subV (f : FFmt) (mode : RMode) (a b : FVal) : Nat × Nat := addV f mode a b.negate

/-- a * b. -/
def mulV (f : FFmt) (mode : RMode) (a b : FVal) : Nat × Nat :=
  let nv := a.snan ||| b.snan
  let s := a.neg != b.neg
  match a, b with
  | .nan _, _ => (f.nan, nv)
  | _, .nan _ => (f.nan, nv)
  | .inf _, .inf _ => (f.sign s + f.inf, 0)
  | .inf _, .fin _ y => if y.n = 0 then (f.nan, fNV) else (f.sign s + f.inf, 0)
  | .fin _ x, .inf _ => if x.n = 0 then (f.nan, fNV) else (f.sign s + f.inf, 0)
  | .fin _ x, .fin _ y => f.ofDy mode (x.mul y) s

/-- a * b + d, rounded once (R372): NV for 0 * Inf, whatever d, and for Inf - Inf in the sum. -/
def fmaV (f : FFmt) (mode : RMode) (a b d : FVal) : Nat × Nat :=
  let nv := a.snan ||| b.snan ||| d.snan
  let s := a.neg != b.neg
  let infProd : Nat × Nat :=
    match d with
    | .nan _ => (f.nan, nv)
    | .inf t => if s = t then (f.sign s + f.inf, 0) else (f.nan, fNV)
    | .fin _ _ => (f.sign s + f.inf, 0)
  match a, b with
  | .nan _, _ => (f.nan, nv)
  | _, .nan _ => (f.nan, nv)
  | .inf _, .inf _ => infProd
  | .inf _, .fin _ y => if y.n = 0 then (f.nan, fNV) else infProd
  | .fin _ x, .inf _ => if x.n = 0 then (f.nan, fNV) else infProd
  | .fin _ x, .fin _ y =>
    match d with
    | .nan _ => (f.nan, nv)
    | .inf t => (f.sign t + f.inf, 0)
    | .fin t z => f.ofDy mode ((x.mul y).add z) (s && t)

/-- a / b (R372). -/
def divV (f : FFmt) (mode : RMode) (a b : FVal) : Nat × Nat :=
  let nv := a.snan ||| b.snan
  let s := a.neg != b.neg
  match a, b with
  | .nan _, _ => (f.nan, nv)
  | _, .nan _ => (f.nan, nv)
  | .inf _, .inf _ => (f.nan, fNV)
  | .inf _, .fin _ _ => (f.sign s + f.inf, 0)
  | .fin _ _, .inf _ => (f.sign s, 0)
  | .fin _ x, .fin _ y =>
    if y.n = 0 then (if x.n = 0 then (f.nan, fNV) else (f.sign s + f.inf, fDZ))
    else if x.n = 0 then (f.sign s, 0)
    else
      let k : Nat := 64
      let num := x.n.natAbs * 2 ^ k
      f.round mode s (num / y.n.natAbs) (x.e - y.e - k) (num % y.n.natAbs != 0)

/-- Integer square root, bit by bit from bit `n - 1` down: the root `r` so far satisfies r^2 at most `x`. -/
def isqrtFrom (x : Nat) : Nat → Nat → Nat
  | 0, r => r
  | n + 1, r =>
    let c := r + 2 ^ n
    isqrtFrom x n (if c * c ≤ x then c else r)

/-- Floor of the square root. -/
def isqrt (x : Nat) : Nat := isqrtFrom x (Nat.log2 x / 2 + 1) 0

/-- Square root (R372). -/
def sqrtV (f : FFmt) (mode : RMode) (a : FVal) : Nat × Nat :=
  match a with
  | .nan q => (f.nan, if q then fNV else 0)
  | .inf s => if s then (f.nan, fNV) else (f.inf, 0)
  | .fin s x =>
    if x.n = 0 then (f.sign s, 0)
    else if s then (f.nan, fNV)
    else
      -- an even exponent with at least 64 bits of root
      let k : Nat := if x.e % 2 = 0 then 128 else 129
      let m := x.n.natAbs * 2 ^ k
      let r := isqrt m
      f.round mode false r ((x.e - k) / 2) (r * r != m)

/-- Order of two data that are no NaN, -0 equal to +0. -/
def ltV (a b : FVal) : Bool :=
  match a, b with
  | .nan _, _ => false
  | _, .nan _ => false
  | .inf s, .inf t => s && !t
  | .inf s, .fin _ _ => s
  | .fin _ _, .inf t => !t
  | .fin _ x, .fin _ y => x.lt y

/-- Numeric equality; false for a NaN. -/
def eqV (a b : FVal) : Bool :=
  match a, b with
  | .nan _, _ => false
  | _, .nan _ => false
  | .inf s, .inf t => s == t
  | .inf _, .fin _ _ => false
  | .fin _ _, .inf _ => false
  | .fin _ x, .fin _ y => x.eq y

/-- FMIN and FMAX on patterns of a format (R271, R373): the other operand for a NaN, the canonical NaN for two, -0 below +0. -/
def minmax (f : FFmt) (wantMax : Bool) (x y : Nat) : Nat × Nat :=
  let a := f.val x
  let b := f.val y
  let nv := a.snan ||| b.snan
  if a.isNan && b.isNan then (f.nan, nv)
  else if a.isNan then (y, nv)
  else if b.isNan then (x, nv)
  else
    let aFirst := ltV a b || (eqV a b && a.neg)
    (if aFirst != wantMax then x else y, nv)

/-- FP32 datum to an integer in [lo, hi], saturating; NaN gives 0; NV on saturation or NaN, NX if rounded (R375, R413). -/
def toInt (mode : RMode) (lo hi : Int) (a : FVal) : Int × Nat :=
  match a with
  | .nan _ => (0, fNV)
  | .inf s => (if s then lo else hi, fNV)
  | .fin _ x =>
    let (v, inexact) := roundInt mode x
    if v < lo then (lo, fNV) else if hi < v then (hi, fNV) else (v, if inexact then fNX else 0)

/-- One FP32 datum into another format: a NaN gives that format's canonical NaN. -/
def convV (f : FFmt) (mode : RMode) (a : FVal) : Nat × Nat :=
  match a with
  | .nan q => (f.nan, if q then fNV else 0)
  | .inf s => (f.sign s + f.inf, 0)
  | .fin s x => f.ofDy mode x s

/-- FP32 to an integral FP32 value (CVT of R436): a zero keeps the operand's sign; Inf and NaN are unchanged. -/
def roundIntegral (k : Nat) (x : W32) : W32 :=
  match val32 x with
  | .nan _ => x
  | .inf _ => x
  | .fin s v =>
    let mode := match k with
      | 0 => RMode.rne
      | 1 => RMode.rtz
      | 2 => RMode.rdn
      | _ => RMode.rup
    BitVec.ofNat 32 (fp32.ofDy .rne (Dy.ofInt (roundInt mode v).1) s).1

/-- The FP32 pattern nearest a datum's sum, product and so on, as a lane. -/
def lane (r : Nat × Nat) : W32 × Nat := (BitVec.ofNat 32 r.1, r.2)

end Sys2Proof.Machine
end

