-- ==== Sys2Proof/Config.lean ====
section
/-! DEFINITION. What an implementation fixes: the constants of R2, R26, R106 and the free values the spec leaves open.
A free value is an opaque function with no body: nothing can be proved of what it is. -/

namespace Sys2Proof.Config

/-- Physical cores of a die and those in service (R2). -/
def coresPhys : Nat := 152
/-- Cores a die puts into service (R21). -/
def coresService : Nat := 144
/-- Bytes of HBM of a package (R56): 768 GB. -/
def hbmSize : Nat := 0xB2D05E0000
/-- Bytes of HBM of one die: two stacks of 48 GB (R12). -/
def dieHbm : Nat := 96 * 10 ^ 9
/-- First die offset of the compression metadata region (R176). -/
def hbmUsable : Nat := 0x16540BC000
/-- Bytes of the second tier (R176). -/
def tierSize : Nat := 0xEE6B280000
/-- Die offset of Hearth (R176). -/
def hearthBase : Nat := 0x1C00000000
/-- Bytes of Hearth of a die (R178). -/
def hearthSize : Nat := 0x4000000
/-- Die offset of the management registers (R176). -/
def mgmtBase : Nat := 0x1FFFFFF000
/-- Cycles between rebalances (R106). -/
def rebalanceCycles : Nat := 2500
/-- Cycles of a quantum: 200 us (R110). -/
def quantumCycles : Nat := 250000
/-- Cycles of an aging tick: 10 ms (R108). -/
def agingCycles : Nat := 12500000
/-- Cycles without progress before DEADLOCK: 100 ms (R114). -/
def deadlockCycles : Nat := 125000000
/-- Strand-microseconds of credit for each round-robin visit (R109). -/
def drrQuantum : Nat := 800
/-- First virtual address of the template pool (R205). -/
def templateBase : Nat := 0xFE000000000000
/-- First virtual address of the buffer-record pool (R205). -/
def bufferBase : Nat := 0xFE000000100000
/-- First virtual address of the logical-core window (R183). -/
def windowBase : Nat := 0xFF000000000000

/-- FREE VALUE: which of the tables' answer and the cached ones that differ from it an agent uses before TINV (R188). -/
opaque useStale : Nat → Nat
/-- FREE VALUE: whether an engine reads a stale cached line of a control block before CBFENCE (R231). -/
opaque useStaleLine : Nat → Bool
/-- FREE VALUE: how many of the stores that a racing load of an engine command or of the host need not see it passes over (R242). -/
opaque pickVersion : Nat → Nat
/-- FREE VALUE: bytes an engine reads from a package other than this one. -/
opaque foreignByte : Nat → Byte
/-- FREE VALUE: an operand result that the spec does not state. -/
opaque freeWord : Nat → W64
/-- FREE VALUE: the sectors a 512-byte block compresses into (R192); time and bandwidth only. -/
opaque zipSectors : List Byte → Nat
/-- FREE VALUE: r and s of the device's signature over the first 352 bytes of a report (R25). -/
opaque signReport : List Byte → Nat × Nat
/-- FREE VALUE: the measurements of the boot firmware and of the runtime (R25). -/
opaque measurement : Nat → Nat
/-- FREE VALUE: the logical cores that the swap area holds (R66, R111, R148). -/
opaque swapCores : Nat

end Sys2Proof.Config
end

