-- ==== Sys2Proof/Machine/State.lean ====
section
/-! DEFINITION. The state of one Rezel package and its host memory, all of it plain data. Contexts, logical cores and strands
stand in flat tables: logical core `l` of the context in slot `x` has key `x * 4096 + l`, strand `t` of logical core `lc` has
key `lc * 4 + t`. -/

namespace Sys2Proof.Machine

/-- Why the machine stops. No meaning of this model raises the first while a strand's bundle issues. -/
inductive Fault where
  /-- raised by a slot word run with no issuing strand (`State.cur` names no firing): only a state that no step reaches; safe. -/
  | noFiring
  deriving DecidableEq, Repr

/-- Why an instruction has no meaning. -/
inductive Refusal where
  /-- raised by an arm of exec whose meaning is not written yet; safe. -/
  | notModelled (mnemonic : String)
  deriving DecidableEq, Repr

/-- Bytes at natural addresses, as `Host.Cell` pairs in canonical form; an unlisted byte reads as zero. -/
abbrev Mem := List Host.Cell

/-- The canonical form of a memory: addresses strictly rising, no listed zero. -/
abbrev Memory.wf (m : Mem) : Bool := tOk (0 : Byte) m

/-! ### Strands (R80, R83, R86, R159, R350) -/

/-- Causes of a trap (R354), by their codes. -/
structure Trap where
  cause : Nat
  addr : W64
  info : W64
  deriving DecidableEq, Repr

/-- A strand's issue state (R83): ready, blocked before or after issue, blocked for one switch by YIELD, or held by HALT. -/
inductive Blk where
  /-- may issue -/
  | ready
  /-- blocked before issue: the bundle at the PC has had no effect -/
  | before
  /-- blocked after issue: waiting for a result -/
  | after
  /-- blocked for one switch (YIELD, R345) -/
  | yielded
  /-- HALT has issued; the slot holds the firing (R96) -/
  | halted
  deriving DecidableEq, Repr

/-- What a pending global access does (R386-R390, R396, R449). -/
inductive AccOp where
  /-- read into a destination -/
  | load
  /-- write the datum -/
  | store
  /-- atomic read-modify-write with an operation code of R40 -/
  | atomic (code : Nat)
  /-- exact-add at an anchor (R180) -/
  | xadd (anchor : Int)
  /-- the copy of a channel entry to local memory, with the channel, the claimed slot and the entry's bytes (R449) -/
  | pop (gid ch slot : Nat) (bytes : List Byte)
  /-- one arrival subtracted from the record at `a` of logical core `lc` (R438) -/
  | arrive (lc a : Nat)
  /-- the mark of a bucket of COLL command `cmd` of logical core `lc` (R447) -/
  | csig (lc cmd bucket : Nat)
  /-- a TINV of the page of its address, or with `all` of the context (R397): first until the strand's earlier accesses are performed,
  then, once it has invalidated (`sent`), until every access that used an invalidated translation is -/
  | tinv (all : Bool)
  /-- a remote read of a strand to local address `la` that no tag has been free for yet (R392) -/
  | rld (la : Nat)
  /-- a remote atomic of a strand that no tag has been free for yet (R393) -/
  | rat (op : Nat)
  deriving DecidableEq, Repr

/-- Where the value of a pending access goes. -/
inductive AccDst where
  /-- nowhere -/
  | none
  /-- G register, with sign extension -/
  | g (d : Nat) (sx : Bool)
  /-- lane of a V register -/
  | lane (v l : Nat)
  /-- local memory -/
  | loc (a : Nat)
  /-- the flag value that a WAITF compares (R344) -/
  | flag
  deriving DecidableEq, Repr

/-- A global access of a strand that has issued and is not yet performed (R236): `pa` is a physical address, or 2^52 plus the
logical core's key times 2^24 plus a local address for the logical-core window; `gid` is the graph of the firing; `stale` marks one
whose translation a TINV has invalidated; `num` is its place in program order; `far` one whose home is another die, which the fabric
carries (R177); `ahead` names the 8-byte units of later releases that were performed before it, with their scopes (R240). -/
structure Access where
  op : AccOp
  num : Nat
  far : Bool
  ahead : List (Nat × Nat)
  gid : Nat
  va : Nat
  pa : Nat
  size : Nat
  cls : Nat
  scope : Nat
  kind : Nat
  data : Nat
  data2 : Nat
  dst : AccDst
  leaf : Nat
  sent : Bool
  guess : Nat
  stale : Bool
  deriving DecidableEq, Repr

/-- An agent of the memory model (R233): a strand; the engine commands of a logical core, the launch unit's among them; a unit of the
package of the die with a FID, an agent of another package among them; the host. -/
inductive Actor where
  | strand (t : Nat)
  | engine (lc : Nat)
  | unit (fid : Nat)
  | host
  deriving DecidableEq, Repr

/-- What a strand's earlier accesses oblige a later load of its to see, as counts of the stores performed (R237-R247): `seen` by an
acquire, `sync` by what happens before it, `so` by an SO access, `uo` by what orders UO accesses; `near` and `uoNear` by fences, for the
stores of the agents of their scopes; the latest store that its loads (`ldAt`), stores (`stAt`) and UO accesses (`uoAt`) go with; releases
read, with their agents (`heard`); the scope of a release fence that later stores carry (`fenced`); the fences that stand between
accesses not yet performed and later ones, by their place in program order, with scope and whether full (`fences`); and for each unit the
latest store that it has read or made. -/
structure View where
  seen : Nat
  sync : Nat
  so : Nat
  uo : Nat
  near : Tab Nat
  uoNear : Tab Nat
  ldAt : Nat
  stAt : Nat
  uoAt : Nat
  heard : List (Nat × Actor)
  fenced : Option Nat
  fences : List (Nat × Nat × Bool)
  units : Tab Nat
  deriving DecidableEq, Repr

/-- The view of an agent that must see the first `n` stores. -/
def View.upTo (n : Nat) : View :=
  { seen := n, sync := n, so := n, uo := n, near := [], uoNear := [], ldAt := n, stAt := n, uoAt := n, heard := [], fenced := none,
    fences := [], units := [] }

/-- Sticky flags of a result not yet written: the cycle in which it issued, the cycle by which it is written, the flags (R304, R306). -/
structure FlagWrite where
  at' : Nat
  due : Nat
  flags : W64
  deriving DecidableEq, Repr

/-- A strand's arrival at the barrier of a group (R452): whether the episode is complete, and whether a trap handler came to it. -/
structure BarMark where
  group : Nat
  met : Bool
  tm : Bool
  deriving DecidableEq, Repr

/-- One strand slot (R80): its firing, registers, special registers, blocked state and outstanding accesses. -/
structure Strand where
  occ : Bool
  blk : Blk
  since : Nat
  began : Nat
  gid : Nat
  stage : Nat
  q : Nat
  depth : Nat
  call : Nat
  fkey : W64
  nchild : Nat
  entry : W64
  pc : W64
  g : Tab W64
  p : BitVec 8
  v : Tab W32
  qr : Tab W64
  tcfg : Tab W64
  tst : Tab Nat
  td : Tab Byte
  tm : Bool
  sstep : Bool
  sdrain : Bool
  tvb : W64
  epc : W64
  ecause : W64
  eaddr : W64
  einfo : W64
  aflags : W64
  amask : W64
  xv : Tab W64
  lnk : Tab W64
  lnkd : Nat
  lcnt : Tab W64
  loopd : Nat
  loopStart : W64
  loopEnd : W64
  dgsta : W64
  dgste : W64
  ecmd : Nat
  opush : W64
  opop : W64
  lat : Tab Nat
  bcount : Nat
  fpend : List FlagWrite
  acc : List Access
  accNo : Nat
  view : View
  flagGot : Option (Nat × Nat)
  assign : Option (Nat × Nat)
  reserved : Bool
  marked : Bool
  gbar : List BarMark
  popWait : Option Nat
  dgst : Option Nat
  dgstGo : Bool
  dgstAt : W64
  stepWait : Option (List Nat)
  late : Option Trap
  deriving DecidableEq, Repr

/-- A slot that holds no firing: every field zero (R138), P0 aside, which reads true. -/
def Strand.idle : Strand :=
  { occ := false, blk := .ready, since := 0, began := 0, gid := 0, stage := 0, q := 0, depth := 0, call := 0, fkey := 0,
    nchild := 0, entry := 0, pc := 0, g := [], p := 0, v := [], qr := [], tcfg := [], tst := [], td := [], tm := false,
    sstep := false, sdrain := false, tvb := 0, epc := 0, ecause := 0, eaddr := 0, einfo := 0, aflags := 0, amask := 0,
    xv := [], lnk := [], lnkd := 0, lcnt := [], loopd := 0, loopStart := 0, loopEnd := 0, dgsta := 0, dgste := 0, ecmd := 0,
    opush := 0, opop := 0, lat := [], bcount := 0, fpend := [], acc := [], accNo := 0, view := View.upTo 0, flagGot := none, assign := none, reserved := false,
    marked := false, gbar := [], popWait := none, dgst := none, dgstGo := false, dgstAt := 0, stepWait := none, late := none }

/-! ### Logical cores (R80) -/

/-- A weight-bank cell (R278): its seventeen slots 0-16 and the side word. The inert cell (R279) is the default. -/
structure WCell where
  slots : List W32
  side : W32
  deriving DecidableEq, Repr

/-- The inert cell: all words zero, side word SCALE 0x7F (R279). -/
def WCell.inert : WCell := { slots := List.replicate 17 0, side := 0x7F }

/-- The declared state of a bank (R278, BANKHDR of R137). -/
structure BankDecl where
  fmt : Nat
  bud : Nat
  kbr : Nat
  loaded : Bool
  deriving DecidableEq, Repr

/-- A bank that no MLOADW has named. -/
def BankDecl.none : BankDecl := { fmt := 0, bud := 0, kbr := 1, loaded := false }

/-- An accumulator entry (R264): 96-bit value and class 0 finite, 1 NaN, 2 +Inf, 3 -Inf. -/
structure AccEnt where
  v : BitVec 96
  cls : Nat
  deriving DecidableEq, Repr

/-- The zero entry. -/
def AccEnt.zero : AccEnt := { v := 0, cls := 0 }

/-- Kinds of engine command (R425). -/
inductive CmdKind where
  | mma | mloadw | mdrain | mzero | maccld | epload | skupd | skqry | skadd | skclr | coll | bte
  deriving DecidableEq, Repr

/-- A footprint word's parts (R195): scratchpad start and length, side start line and line count. -/
structure Range where
  start : Nat
  len : Nat
  sstart : Nat
  slen : Nat
  deriving DecidableEq, Repr

/-- The empty range. -/
def Range.empty : Range := { start := 0, len := 0, sstart := 0, slen := 0 }

/-- Bucket progress of a collective (R141, R226): whether signalled; 0 not started, 1 started, 2 finished; segments sent and
received. -/
structure Bucket where
  signal : Bool
  run : Nat
  sent : Nat
  got : Nat
  deriving DecidableEq, Repr

/-- One entry of the engine dependency table (R194, R140): the command, its stage, snapshot and progress. `st`: 0 pending,
1 accepted, 2 started, 3 faulted; `queued` marks a command that has passed to its engine's queue (R196); `after` counts the accesses of
its strand before its issue, and `view` is what its loads must see: what the strand's had to then (R249). -/
structure Cmd where
  id : Nat
  strand : Nat
  after : Nat
  view : View
  gid : Nat
  fkey : W64
  kind : CmdKind
  st : Nat
  queued : Bool
  snapped : Bool
  fault : Option Trap
  reported : Bool
  xv : Nat
  cix : Nat
  word : W32
  k : W32
  a : W64
  b : W64
  c : W64
  bank : BankDecl
  rd1 : Range
  rd2 : Range
  wr : Range
  spart : W64
  snap : List Byte
  snap2 : List Byte
  rows : Nat
  chunks : Nat
  pos : Nat
  emitted : Nat
  dstate : Nat
  fletA : Nat
  fletB : Nat
  match1 : Nat
  buckets : List Bucket
  outs : List Nat
  vals : List Int
  sat : Bool
  deriving DecidableEq, Repr

/-- A run of an epilogue program on one drained row (R434): the command, the operation index, X and M of each column, and
the output once the program has ended. -/
structure EpiRun where
  cmd : Nat
  slot : Nat
  op : Nat
  x : Tab W32
  m : List Nat
  out : Option (Tab W32)
  deriving DecidableEq, Repr

/-- One logical core (R80). `stopping`: its strand pipeline and dependency table have stopped; `mstop`: its matrix array has (R131). -/
structure LCore where
  used : Bool
  die : Nat
  core : Option Nat
  loc : Mem
  banks : Tab WCell
  bdecl : Tab BankDecl
  acc : Tab AccEnt
  anchor : Tab Int
  sat : List Nat
  eprog : Tab W16
  epslot : List Nat
  ereg : Tab W32
  edt : List Cmd
  nextCmd : Nat
  mq : List Nat
  sel : Bool
  act : Bool
  opener : W64
  fill : List Nat
  issuing : Option Nat
  grantedAt : Nat
  held : Nat
  expired : Bool
  epi : Option EpiRun
  csig : List (Nat × Nat)
  collCount : Tab Nat
  stopping : Bool
  mstop : Bool
  deriving DecidableEq, Repr

/-- A logical core that no context has placed. -/
def LCore.none : LCore :=
  { used := false, die := 0, core := Option.none, loc := [], banks := [], bdecl := [], acc := [], anchor := [], sat := [],
    eprog := [], epslot := [], ereg := [], edt := [], nextCmd := 0, mq := [], sel := false, act := false, opener := 0,
    fill := [], issuing := Option.none, grantedAt := 0, held := 0, expired := false, epi := Option.none, csig := [], collCount := [],
    stopping := false, mstop := false }

/-! ### Graphs and channels (R90-R105) -/

/-- A stage entry (R91). -/
structure StageD where
  entry : W64
  nfire : Nat
  mins : Nat
  maxs : Nat
  pgrp : Nat
  spri : Nat
  inmask : W64
  outmask : W64
  sarg : W64
  deriving DecidableEq, Repr

/-- A channel entry (R92). -/
structure ChanD where
  cap : Nat
  esz : Nat
  loc : Bool
  ordered : Bool
  hdie : Nat
  spaddr : Nat
  splc : Nat
  deriving DecidableEq, Repr

/-- A channel's slot: empty, reserved by a push of a strand not yet published (with its bytes), or published with the producer's
q; the bytes of a published entry in scratchpad stand there (R98, R144). -/
inductive ChSlot where
  | empty
  | reserved (q t : Nat) (bytes : List Byte)
  | published (q : Nat) (bytes : List Byte)
  /-- claimed by a pop whose copy is not complete -/
  | claimed
  deriving DecidableEq, Repr

/-- A channel's counter record and slots (R98, R144); FREE and FULL follow from the slots. -/
structure Chan where
  head : Nat
  tail : Nat
  pops : Nat
  pushes : Nat
  slots : Tab ChSlot
  deriving DecidableEq, Repr

/-- A stage's progress (R95, R144). -/
structure StageS where
  nextq : Nat
  ended : Nat
  deriving DecidableEq, Repr

/-- A serial re-execution in progress (R156): its checkpoint, and the sum V so far of the firings that have passed it or ended. -/
structure Serial where
  n : Nat
  v : W64
  deriving DecidableEq, Repr

/-- A live graph or a pending child (R102, R144). `path` lists (stage, q, call) from depth 1 down; `wide` says that its channels hold
every firing's entry, as in a serial re-execution (R156). -/
structure Graph where
  gid : Nat
  live : Bool
  order : Nat
  launch : Nat
  path : List (Nat × Nat × Nat)
  parent : Option Nat
  key : W64
  param : W64
  hdr : List Byte
  stab : List Byte
  ctab : List Byte
  stages : List StageD
  chans : List ChanD
  sst : List StageS
  cst : List Chan
  dgst : W64
  lastProgress : Nat
  reported : Bool
  serial : Option Serial
  wide : Bool
  deriving DecidableEq, Repr

/-! ### Contexts -/

/-- What a pre-emption is for (R126). -/
inductive StopCause where
  /-- FREEZE, with the command and the cycle of its time-out -/
  | freeze (deadline : Nat)
  /-- serial re-execution of a graph from a checkpoint -/
  | serial (gid n : Nat)
  deriving DecidableEq, Repr

/-- A pre-emption collector at work (R130): the instances whose bits are clear. -/
structure Collector where
  cause : StopCause
  waiting : List StopInst
  deriving DecidableEq, Repr

/-- A command record as taken (R62): its line's owner (none for a command line), its 64 bytes, and whether the context that it names was
FREEZING when it was taken (R61, R69). -/
structure CmdRec where
  owner : Option Nat
  bytes : List Byte
  amid : Bool
  deriving DecidableEq, Repr

/-- A cached leaf of a context (R188): the first address of its page, level, value and address. -/
structure CachedLeaf where
  va : Nat
  level : Nat
  e : Nat
  epa : Nat
  deriving DecidableEq, Repr

/-- A cached non-leaf entry (R188): the first address it covers, its level, and the table it names. -/
structure CachedNode where
  va : Nat
  level : Nat
  table : Nat
  deriving DecidableEq, Repr

/-- A context (R65, R79). -/
structure Ctx where
  used : Bool
  gen : Nat
  nlc : Nat
  prio : Nat
  newPrio : Option Nat
  diePrio : Tab Nat
  det : Bool
  spec : Bool
  specsz : Nat
  pager : Bool
  debug : Bool
  capRaw : Nat
  ptroot : Nat
  grptab : Nat
  tvb : W64
  dgsttab : Nat
  lline : Nat
  nll : Nat
  aging : Nat
  agingFrom : Nat
  groups : Tab (List Nat)
  graphs : List Graph
  nextGid : Nat
  ctxdgst : W64
  dgstidx : Nat
  lastln : Nat
  dirty : List Nat
  gbar : Tab (List Nat)
  tlb : List CachedLeaf
  nodes : List CachedNode
  known : List CachedLeaf
  cbc : Tab (List Byte)
  deficit : Tab Int
  coll : Option Collector
  freezeRec : Option CmdRec
  serialImg : List Byte
  deriving DecidableEq, Repr

/-- A free slot. -/
def Ctx.free : Ctx :=
  { used := false, gen := 0, nlc := 0, prio := 0, newPrio := none, diePrio := [], det := false, spec := false, specsz := 0,
    pager := false, debug := false, capRaw := 0, ptroot := 0, grptab := 0, tvb := 0, dgsttab := 0, lline := 0, nll := 0,
    aging := 0, agingFrom := 0, groups := [], graphs := [], nextGid := 0, ctxdgst := 0, dgstidx := 0, lastln := 0, dirty := [],
    gbar := [], tlb := [], nodes := [], known := [], cbc := [], deficit := [], coll := none, freezeRec := none, serialImg := [] }

/-! ### The fabric (R27-R52) -/

/-- What an outstanding remote request is for. -/
inductive TxnFor where
  /-- a strand's RST, issued by a firing of graph `gid` -/
  | rst (t gid : Nat)
  /-- a strand's RLD to a local address -/
  | rld (t la : Nat)
  /-- a strand's RAT into a G register -/
  | rat (t d : Nat)
  /-- a strand's pending global access with this place in program order -/
  | access (t num : Nat)
  /-- a BTE command's remote store of `n` bytes -/
  | bte (lc cmd n : Nat)
  /-- a store of an engine of a logical core through a page of another package's memory (R177) -/
  | out (lc : Nat)
  deriving DecidableEq, Repr

/-- An outstanding remote request (R32 TAG, R41-R43): `num` is its place in a strand's program order;
slot 64 is that of a request whose context has been killed; `stale` marks one that used a translation which a TINV has invalidated. -/
structure Txn where
  die : Nat
  tag : Nat
  typ : Nat
  addr : Nat
  len : Nat
  num : Nat
  ord : Bool
  injected : Bool
  slot : Nat
  purpose : TxnFor
  stale : Bool
  deriving DecidableEq, Repr

/-- A ring of the package's fabric view (R27): the package ring, a pair bridge, a rack plane, a hall plane. -/
inductive Ring where
  | package
  | bridge (pair : Nat)
  | rack (plane : Nat)
  | hall (plane : Nat)
  deriving DecidableEq, Repr

/-- A node of the fabric in this package: a die's ring interface, a bridge station (R28). -/
inductive Node where
  | die (d : Nat)
  | station (j : Nat)
  deriving DecidableEq, Repr

/-- A flit waiting at a node since a cycle for a ring, in a direction (true is clockwise), with the node that put it on that ring;
`recovered` gives it the priority of R47, `due` is the cycle from which a refused flit may be retried. -/
structure Waiting where
  node : Node
  ring : Ring
  cw : Bool
  flit : Flit
  inj : Node
  since : Nat
  recovered : Bool
  refused : Bool
  due : Nat
  deriving DecidableEq, Repr

/-- A flit on a link: the link, its link SEQ, the acknowledgement and credit field sent with it, the node that put it on its ring. -/
structure OnWire where
  link : Nat
  seq : Nat
  ack : List Byte
  inj : Node
  ring : Ring
  cw : Bool
  flit : Flit
  deriving DecidableEq, Repr

/-- A flit at its exit node on a ring, awaiting a buffer (R35). -/
structure AtExit where
  node : Node
  inj : Node
  ring : Ring
  cw : Bool
  flit : Flit
  deriving DecidableEq, Repr

/-- A damaged flit under recovery (R45): the stored bytes, what the sender holds, the parity received so far, and the
acknowledgement field as received and as sent. -/
structure Recovery where
  link : Nat
  seq : Nat
  inj : Node
  ring : Ring
  cw : Bool
  sent : Flit
  bytes : List Byte
  par : List Byte
  kind : Nat
  naked : Bool
  parSent : Bool
  repeatAt : Option Nat
  fails : Nat
  field : List Byte
  sentField : List Byte
  deriving DecidableEq, Repr

/-- One segment direction (R45, R46): the sender's next SEQ, what its receiver has accepted (`ackSeq`), and what the fields received
from it say of that: ACKSEQ (`acked`) and STORE (`peer`); the replay buffer holds each flit with its SEQ and the field sent with it. -/
structure Link where
  txSeq : Nat
  ackSeq : Nat
  acked : Nat
  peer : Nat
  down : Bool
  retrain : Bool
  lanesLow : Bool
  store : Nat
  replay : List (Nat × Flit × List Byte)
  deriving DecidableEq, Repr

/-- A trained link with nothing sent. Its damaged-flit store has 31 entries, the most that STORE can say: the spec gives no number
(R46, log entry 72). -/
def Link.fresh : Link :=
  { txSeq := 0, ackSeq := 2 ^ 32 - 1, acked := 2 ^ 24 - 1, peer := 31, down := false, retrain := false, lanesLow := false, store := 31, replay := [] }

/-! ### Events, lines, package -/

/-- An event before it is written to the log (R76). -/
structure Event where
  seq : Nat
  typ : Nat
  ctxid : Nat
  status : Nat
  ovw : Bool
  src : Nat
  tag : Nat
  result : Nat
  info0 : Nat
  info1 : Nat
  time : Nat
  deriving DecidableEq, Repr

/-- A monitored line (R59, R60): its host address, the SEQ last taken, the owner slot of a launch line, whether an
invalidation is pending. -/
structure MLine where
  addr : Nat
  seq : Nat
  owner : Option Nat
  inval : Bool
  deriving DecidableEq, Repr

/-- A store performed at its home (R236, R237): the 8-byte unit, how many stores had been performed then, the bytes it replaced, which of
them it wrote (the first and their number), the agent that made it and, of a strand's ordered one, its place in program order, whether it is
of a strong class, its scope, the scope at which it is a release, whether it is an atomic, and how many stores a reader of the release must
see. -/
structure Past where
  unit : Nat
  time : Nat
  old : List Byte
  first : Nat
  len : Nat
  who : Actor
  num : Option Nat
  strong : Bool
  scope : Nat
  rel : Option Nat
  rmw : Bool
  cover : Nat
  deriving DecidableEq, Repr

/-- Power and Kindling state (R17, R20). -/
inductive Power where
  /-- module or package input power is off -/
  | off
  /-- package reset is asserted -/
  | inReset
  /-- Kindling is running: power-good (true, cold) or reset released -/
  | kindling
  /-- Kindling stopped with a failure code -/
  | failed
  /-- READY -/
  | ready
  deriving DecidableEq, Repr

/-- KSTAT (R26). -/
structure Kstat where
  elapsed : Nat
  err : Nat
  step : Nat
  cold : Bool
  ready : Bool
  deriving DecidableEq, Repr

/-- What Kindling finds outside (R17-R19, R24, R28, R59): firmware slots, calibrations, failing cores, host's command area,
the signed configuration block. -/
structure Env where
  form : Nat
  serial : Nat
  fwA : Bool × Nat
  fwB : Bool × Nat
  fuse : Nat
  phyOk : Bool
  vmonOk : Bool
  badCores : List Nat
  memOk : Bool
  trainOk : Bool
  lanesLow : Bool
  hbmLow : Bool
  cmdBase : Nat
  pkgNo : Nat
  roles : List Nat
  gatePos : List Nat
  damperK : List Nat
  present : List Nat
  kindleMs : Nat
  places : List Nat
  slotFirst : Nat
  holdLost : Bool
  powered : Bool
  deriving DecidableEq, Repr

/-- A physical core's Damper (R116): the closed window's count. -/
abbrev Damper := Nat

/-- Frame owner tags (R190) of the frames of one leaf: the first 64 KiB frame, how many, the slot, the virtual address of the
writable mapping of the first. -/
structure Tag where
  frame : Nat
  count : Nat
  slot : Nat
  va : Nat
  deriving DecidableEq, Repr

/-- The state of the event arbiter (R74-R77). -/
structure Arbiter where
  nextSeq : Nat
  held : List Event
  waiting : List Event
  logBase : Nat
  logEnt : Nat
  logOn : Bool
  consumed : Nat
  written : Nat
  ovw : Nat
  deriving DecidableEq, Repr

/-- What happens next when it is not the machine's own policy: a step of another agent, a bundle of a logical core's issuing
strand, an operation of its epilogue run, the passing of cycles, or a new reading of a temperature sensor of a die, of which sensors 512 on
are its HBM stacks' (R26). -/
inductive Turn where
  | event (i : Instr)
  | issue (lc : Nat)
  | drain (lc : Nat)
  | tick (n : Nat)
  | sense (die sensor : Nat) (reading : W16)
  deriving DecidableEq, Repr

/-- How the slots of the bundle being issued have fared so far (R298, R307). -/
inductive Issue where
  /-- no trap and no block -/
  | ok
  /-- a slot raised this precise trap -/
  | trapped (t : Trap)
  /-- a slot blocks the bundle before issue -/
  | blocked
  /-- a slot holds the bundle back without a switch (R380) -/
  | stalled
  deriving DecidableEq, Repr

/-- The bundle being issued: its address, length, K literal, the issuing strand's registers as they stood before the bundle
(none: as they stand), the slot bit, the outcome so far, and what takes effect at the bundle's end: a transfer of control,
a trap entered after the bundle, a nest left, the engine commands placed; the bundle's instructions, the logical core's local
memory before it, and whether every earlier access of the strand had been performed. -/
structure Latch where
  addr : W64
  len : Nat
  k : Option W32
  opnd : Option Strand
  slot : Nat
  out : Issue
  target : Option W64
  taken : Bool
  late : Option Trap
  leave : Bool
  cmds : List Nat
  peers : List Instr
  memBefore : Option Mem
  calm : Bool
  deriving DecidableEq, Repr

/-- A store of an engine to another die's memory that waits for a tag of its die (R32, R177). -/
structure Held where
  die : Nat
  slot : Nat
  flit : Flit
  purpose : TxnFor
  stale : Bool
  deriving DecidableEq, Repr

/-- An access of an agent to the die with a FID, to which no way has been open since a cycle (R30). -/
structure Stuck where
  agent : Agent
  fid : Nat
  since : Nat
  deriving DecidableEq, Repr

/-- What an image leaves out of a logical core: the firing that opened its region, how many collectives of each group it has accepted, and of
each command in order the budget of the bank that an MMA uses and a collective's match number. -/
structure UnsaidLc where
  opener : W64
  counts : Tab Nat
  buds : List Nat
  nums : List Nat
  deriving DecidableEq, Repr

/-- What an image written here leaves out that a RESUME of it needs to go on as if nothing had been stopped (R150): besides its logical cores',
the digest parts of its graphs, in their order (log entry 22). -/
structure Unsaid where
  image : List Byte
  digests : List W64
  lcs : List UnsaidLc
  deriving DecidableEq, Repr

/-- The state of the package. -/
structure State where
  power : Power
  kstat : Kstat
  env : Env
  lanesBit : Bool
  hbmBit : Bool
  sparesBit : Bool
  retired : List Nat
  temps : Tab (Option W16)
  throttled : List (Nat × Nat)
  mem : Mem
  past : List Past
  vtime : Nat
  hostView : View
  hostSaw : Tab Nat
  zips : List Nat
  bad : List Nat
  ctxs : Tab Ctx
  lcs : Tab LCore
  strands : Tab Strand
  gens : Tab Nat
  lines : List MLine
  cmdQ : List CmdRec
  arb : Arbiter
  ablum : List Nat
  tags : List Tag
  busy : Tab Nat
  rr : Tab Nat
  damper : Tab Damper
  damperAt : Tab Nat
  rowSteps : Tab Nat
  nextReb : Tab Nat
  waitq : List Waiting
  wires : List OnWire
  exits : List AtExit
  inbox : List (Nat × Flit)
  outside : List (Nat × Flit)
  recov : List Recovery
  links : Tab Link
  wrr : Tab (List Nat)
  txns : List Txn
  outq : List Held
  stuck : List Stuck
  unsaid : List Unsaid
  nextTag : Tab Nat
  cycle : Nat
  since : Nat
  lastRead : List Byte
  agenda : List Turn
  cur : Nat
  latch : Latch
  turn : Nat
  fresh : Nat
  deriving DecidableEq, Repr

/-- An empty latch. -/
def Latch.empty : Latch :=
  { addr := 0, len := 0, k := none, opnd := none, slot := 0, out := .ok, target := none, taken := false, late := none,
    leave := false, cmds := [], peers := [], memBefore := none, calm := true }

/-- What the model's Kindling finds when nothing else is said (log entry 2): a module, package 0, every check passing, the
command area at host address 0x1000. -/
def Env.standard : Env :=
  { form := 1, serial := 0, fwA := (true, 0), fwB := (true, 0), fuse := 0, phyOk := true, vmonOk := true, badCores := [],
    memOk := true, trainOk := true, lanesLow := false, hbmLow := false, cmdBase := 0x1000, pkgNo := 0, roles := [1, 0, 0, 0],
    gatePos := [0, 12, 24, 36], damperK := [10, 10, 10, 10, 10, 10, 10, 10], present := [0], kindleMs := 500, places := [], slotFirst := 1,
    holdLost := false, powered := true }

/-- The arbiter after a Kindling: SEQ starts at 1 and no valid control line has been read (R74, R75). -/
def Arbiter.reset : Arbiter :=
  { nextSeq := 1, held := [], waiting := [], logBase := 0, logEnt := 0, logOn := false, consumed := 0, written := 0, ovw := 0 }

/-- The machine right after power-good: Kindling at step 1, READY clear, no context, memory with nothing listed
(R17, R20, R26). -/
def State.reset : State :=
  { power := .kindling, kstat := { elapsed := 0, err := 0, step := 1, cold := true, ready := false }, env := Env.standard,
    lanesBit := false, hbmBit := false, sparesBit := false, retired := [], temps := [], throttled := [], mem := [], past := [], vtime := 0, hostView := View.upTo 0, hostSaw := [], zips := [], bad := [],
    ctxs := [], lcs := [], strands := [], gens := [], lines := [], cmdQ := [], arb := Arbiter.reset, ablum := [16, 16, 16, 16],
    tags := [], busy := [], rr := [], damper := [], damperAt := [], rowSteps := [], nextReb := [], waitq := [], wires := [], exits := [], inbox := [], outside := [],
    recov := [], links := [], wrr := [], txns := [], outq := [], stuck := [], unsaid := [], nextTag := [], cycle := 0, since := 0, lastRead := [], agenda := [], cur := 0,
    latch := Latch.empty, turn := 0, fresh := 0 }

end Sys2Proof.Machine
end

