-- ==== Sys2Proof/Machine/Route.lean ====
section
/-! DEFINITION. Routing on the fabric (R27-R30). Links of the package's view: 0-7 package ring clockwise from die d, 8-15
counter-clockwise from die d, 16-23 pair bridge from die d, 24-27 station j to the next package of its rack ring, 28-31 to the
previous, 32-35 to the next rack ring of the hall, 36-39 to the previous; flits of other packages arrive at station j on 40+j and 44+j
(rack, clockwise and counter-clockwise) and 48+j and 52+j (hall). -/

namespace Sys2Proof.Machine

/-- FID of a die of this package (R28). -/
def State.fid (s : State) (d : Nat) : Nat := s.env.pkgNo * 8 + d

/-- The FID a flit is routed to: that of ADDR for a request and a management message, SRC for a response; a BSEG and a PAR carry it
in ADDR[13:0] (R32, R229). -/
def flitTarget (f : Flit) : Nat :=
  if f.typ = 1 ∨ f.typ = 3 ∨ f.typ = 5 ∨ f.typ = 9 then bitsOf f.addr 50 37
  else if f.typ = 7 ∨ f.typ = 8 then f.addr % 2 ^ 14
  else f.src

/-- Whether a flit is a response or a PAR, which no exit node refuses (R37). -/
def flitSure (f : Flit) : Bool := f.typ == 2 || f.typ == 4 || f.typ == 6 || f.typ == 8

/-- Rack ring and rack position of a package (R28). -/
def rackOf (p : Nat) : Nat := p / 48
def rackPos (p : Nat) : Nat := p % 48

/-- Whether the way up is at most as long as the way down on a ring of `n` members: ties go clockwise (R29). -/
def cwShorter (n a b : Nat) : Bool := decide ((b + n - a) % n ≤ (a + n - b) % n)

/-- The die that station `j` is attached to (R28). -/
def stationDie (j : Nat) : Nat := 2 * j

/-- Whether this package carries the gateway of plane `j` (R28). -/
def State.isGateway (s : State) (j : Nat) : Bool :=
  s.env.gatePos.getD j 0 == rackPos s.env.pkgNo

/-- Where a flit at a node goes: it has arrived, it moves to another node without a ring, or it takes a ring in a direction. -/
inductive Way where
  | arrived
  | hand (n : Node)
  | ring (r : Ring) (cw : Bool)
  deriving DecidableEq, Repr

/-- The route of R29 from a node to a FID. -/
def State.way (s : State) (n : Node) (fid : Nat) : Way :=
  let p := fid / 8
  let d := fid % 8
  let j := d / 2
  match n with
  | .die k =>
    if p = s.env.pkgNo then
      if d = k then .arrived
      else if d / 2 = k / 2 then .ring (.bridge (k / 2)) true
      else .ring .package (cwShorter 8 k d)
    else if k = stationDie j then .hand (.station j)
    else .ring .package (cwShorter 8 k (stationDie j))
  | .station i =>
    if p = s.env.pkgNo then .hand (.die (stationDie i))
    else if rackOf p = rackOf s.env.pkgNo then .ring (.rack i) (cwShorter 48 (rackPos s.env.pkgNo) (rackPos p))
    else if s.isGateway i then .ring (.hall i) (cwShorter 32 (rackOf s.env.pkgNo) (rackOf p))
    else .ring (.rack i) (cwShorter 48 (rackPos s.env.pkgNo) (s.env.gatePos.getD i 0))

/-- The link that leaves a node on a ring in a direction. -/
def linkFrom (n : Node) (r : Ring) (cw : Bool) : Nat :=
  match r, n with
  | .package, .die d => if cw then d else 8 + d
  | .bridge _, .die d => 16 + d
  | .rack j, _ => if cw then 24 + j else 28 + j
  | .hall j, _ => if cw then 32 + j else 36 + j
  | _, .station j => 24 + j

/-- The node of this package that a link leads to; none where it leaves the package. -/
def linkTo (l : Nat) : Option Node :=
  if l < 8 then some (.die ((l + 1) % 8))
  else if l < 16 then some (.die ((l - 8 + 7) % 8))
  else if l < 24 then some (.die (if l % 2 = 0 then l - 16 + 1 else l - 16 - 1))
  else if l < 40 then none
  else some (.station (l % 4))

/-- The node that sends on a link; none where another package does. -/
def linkSource (l : Nat) : Option Node :=
  if l < 8 then some (.die l)
  else if l < 16 then some (.die (l - 8))
  else if l < 24 then some (.die (l - 16))
  else if l < 40 then some (.station (l % 4))
  else none

/-- The die that reports for a node: a station's is die 2j (R28). -/
def nodeDie : Node → Nat
  | .die d => d
  | .station j => stationDie j

/-- The die at which a flit to a FID leaves the package ring: the target, or that of the station which takes it to another package
(R29, R35). -/
def State.exitDie (s : State) (fid : Nat) : Nat := if fid / 8 = s.env.pkgNo then fid % 8 else stationDie (fid % 8 / 2)

/-- The links of the package ring from die `a` to die `b` in a direction; from a die to itself the first alone. -/
def ringLinks (a b : Nat) (cw : Bool) : List Nat :=
  let n := if cw then (b + 8 - a) % 8 else (a + 8 - b) % 8
  (List.range (max n 1)).map (fun i => if cw then (a + i) % 8 else 8 + (a + 8 - i) % 8)

/-- The ring and direction of an incoming link from another package. -/
def inboundRing (l : Nat) : Ring × Bool :=
  let j := l % 4
  if l < 44 then (.rack j, true) else if l < 48 then (.rack j, false) else if l < 52 then (.hall j, true) else (.hall j, false)

/-- Whether a node is the exit node of a flit on a ring (R35): on the package ring the target die, or the die of the station that
takes it to another package (R29); elsewhere the node where its way leaves the ring. -/
def State.isExit (s : State) (n : Node) (r : Ring) (f : Flit) : Bool :=
  let t := flitTarget f
  match r, n with
  | .package, .die k => if t / 8 = s.env.pkgNo then t % 8 == k else k == stationDie (t % 8 / 2)
  | _, _ =>
    match s.way n t with
    | .arrived => true
    | .hand _ => true
    | .ring r' _ => r' != r

/-- A link's state. -/
def State.linkAt (s : State) (l : Nat) : Link := tget Link.fresh s.links l
/-- Changes a link. -/
def State.modLink (s : State) (l : Nat) (f : Link → Link) : State := { s with links := tmod Link.fresh s.links l f }
/-- Whether a station is in gateway role; in rack role its hall ports are not connected (R28). -/
def State.gatewayRole (s : State) (j : Nat) : Bool := s.env.roles.getD j 0 == 1
/-- Whether a link is one of a hall port. -/
def hallLink (l : Nat) : Bool := (decide (32 ≤ l) && decide (l < 40)) || decide (48 ≤ l)
/-- Whether a link carries traffic (R28, R30). -/
def State.linkUp (s : State) (l : Nat) : Bool :=
  !(s.linkAt l).down && !(s.linkAt l).retrain && (!hallLink l || s.gatewayRole (l % 4))

/-- Packages of the configuration that a physical address may name (R30). -/
def State.pkgPresent (s : State) (p : Nat) : Bool := p < 1536 && (p == s.env.pkgNo || s.env.present.contains p)

/-- Whether a ring is open from a node in a direction: the package ring up to die `b`; of another ring, whose other links are not this
package's, the node's own link (R30). -/
def State.openTo (s : State) (n : Node) (r : Ring) (cw : Bool) (b : Nat) : Bool :=
  match r, n with
  | .package, .die a => (ringLinks a b cw).all s.linkUp
  | _, _ => s.linkUp (linkFrom n r cw)

/-- Whether a way is open from a node to a FID over this package: each ring of its route in one direction or the other (R29, R30). -/
def State.wayOpen (s : State) (fid : Nat) : Nat → Node → Bool
  | 0, _ => true
  | k + 1, n =>
    match s.way n fid with
    | .arrived => true
    | .hand m => s.wayOpen fid k m
    | .ring r cw =>
      let b := s.exitDie fid
      (s.openTo n r cw b || s.openTo n r (!cw) b) &&
        match r with
        | .package => s.wayOpen fid k (.die b)
        | _ => true

/-- Nodes of this package that a route passes, beside the first (R29). -/
def routeLen : Nat := 4

/-- Whether an access from a die of this package reaches the die with a FID (R29, R30). -/
def State.dieReach (s : State) (d fid : Nat) : Bool := s.pkgPresent (fid / 8) && s.wayOpen fid routeLen (.die d)

/-- The die up to which a flit that a node put on the package ring goes: its exit node, or, refused, the node that put it there (R35). -/
def State.boundFor (s : State) (inj : Node) (f : Flit) : Nat := if f.ref then nodeDie inj else s.exitDie (flitTarget f)

/-- The link by which a flit of a ring leaves a node: that of its direction, or, where that is cut and the other direction is open to
the end, that of the other (R30). -/
def State.portFor (s : State) (n : Node) (r : Ring) (cw : Bool) (inj : Node) (f : Flit) : Nat :=
  if !s.linkUp (linkFrom n r cw) && s.openTo n r (!cw) (s.boundFor inj f) then linkFrom n r (!cw) else linkFrom n r cw

/-! ### Ports (R495) -/

/-- PORT of a link at the node that it leaves, or at the node that it enters for a link from another package (R495). -/
def portOf (l : Nat) : Nat :=
  if l < 8 then 0
  else if l < 16 then 1
  else if l < 24 then 2
  else
    let j := l % 4 * 8
    if l < 28 then 4 + j
    else if l < 32 then 3 + j
    else if l < 36 then 6 + j
    else if l < 40 then 5 + j
    else if l < 44 then 3 + j
    else if l < 48 then 4 + j
    else if l < 52 then 5 + j
    else 6 + j

/-- Kinds of FABRIC events (R495). -/
def fkUNREACH : Nat := 1
def fkDISCARD : Nat := 2
def fkRETRAIN : Nat := 3
def fkLANES : Nat := 4

/-- The node at which a flit to a FID from a node cannot be forwarded, and the link by which it would have left it: the first cut one of
its direction; towards a package that is not there, the first of its route (R30). -/
def State.stopAt (s : State) (fid : Nat) : Nat → Node → Node × Nat
  | 0, n => (n, 0)
  | k + 1, n =>
    match s.way n fid with
    | .arrived => (n, 0)
    | .hand m => s.stopAt fid k m
    | .ring r cw =>
      let b := s.exitDie fid
      if !s.pkgPresent (fid / 8) then (n, linkFrom n r cw)
      else match r, n with
        | .package, .die a =>
          if s.openTo n r cw b || s.openTo n r (!cw) b then s.stopAt fid k (.die b)
          else
            let l := ((ringLinks a b cw).find? (fun l => !s.linkUp l)).getD a
            ((linkSource l).getD n, l)
        | _, _ => (n, linkFrom n r cw)

end Sys2Proof.Machine
end

