-- ==== Sys2Proof/Machine/Ops.lean ====
section
/-! DEFINITION. The named operations over the state: its tables, a strand's registers and their latencies (R159, R304), the
event arbiter (R74-R77), killing a context (R71, R153), taking a trap (R457, R458) and returning from one (R348). -/

namespace Sys2Proof.Machine

/-- What a step answers. -/
abbrev Out := Host.Outcome State Fault Refusal

/-! ### Tables -/

/-- The context in slot `x`. -/
def State.ctx (s : State) (x : Nat) : Ctx := tget Ctx.free s.ctxs x
/-- The logical core with key `l`. -/
def State.lc (s : State) (l : Nat) : LCore := tget LCore.none s.lcs l
/-- The strand with key `t`. -/
def State.strand (s : State) (t : Nat) : Strand := tget Strand.idle s.strands t
/-- Writes a context. -/
def State.setCtx (s : State) (x : Nat) (c : Ctx) : State := { s with ctxs := tset Ctx.free s.ctxs x c }
/-- Writes a logical core. -/
def State.setLc (s : State) (l : Nat) (c : LCore) : State := { s with lcs := tset LCore.none s.lcs l c }
/-- Writes a strand. -/
def State.setStrand (s : State) (t : Nat) (c : Strand) : State := { s with strands := tset Strand.idle s.strands t c }
/-- Changes a context. -/
def State.modCtx (s : State) (x : Nat) (f : Ctx → Ctx) : State := s.setCtx x (f (s.ctx x))
/-- Changes a logical core. -/
def State.modLc (s : State) (l : Nat) (f : LCore → LCore) : State := s.setLc l (f (s.lc l))
/-- Changes a strand. -/
def State.modStrand (s : State) (t : Nat) (f : Strand → Strand) : State := s.setStrand t (f (s.strand t))

/-- The logical core of a strand. -/
def lcOf (t : Nat) : Nat := t / 4
/-- The context slot of a logical core. -/
def slotOf (l : Nat) : Nat := l / 4096
/-- The number of a logical core in its context. -/
def lcNum (l : Nat) : Nat := l % 4096
/-- The key of logical core `n` of the context in slot `x`. -/
def lcKey (x n : Nat) : Nat := x * 4096 + n
/-- The context slot of a strand. -/
def slotOfStrand (t : Nat) : Nat := slotOf (lcOf t)
/-- The keys of a context's logical cores. -/
def State.lcKeys (s : State) (x : Nat) : List Nat := (List.range (s.ctx x).nlc).map (lcKey x)
/-- The four strands of a logical core. -/
def strandsOf (l : Nat) : List Nat := [l * 4, l * 4 + 1, l * 4 + 2, l * 4 + 3]
/-- The CTXID of the context in a slot (R63). -/
def State.ctxid (s : State) (x : Nat) : Nat := (s.ctx x).gen * 64 + x
/-- The slot that a CTXID names, if its generation is in it (R63). -/
def State.slotOfId (s : State) (id : Nat) : Option Nat :=
  let x := id % 64
  if (s.ctx x).used && (s.ctx x).gen == id / 64 then some x else none
/-- The graph with number `gid` of a context. -/
def Ctx.graph? (c : Ctx) (gid : Nat) : Option Graph := c.graphs.find? (fun g => g.gid == gid)
/-- Changes the graph with number `gid`. -/
def Ctx.modGraph (c : Ctx) (gid : Nat) (f : Graph → Graph) : Ctx :=
  { c with graphs := c.graphs.map (fun g => if g.gid == gid then f g else g) }
/-- Changes a graph of the context in slot `x`. -/
def State.modGraph (s : State) (x gid : Nat) (f : Graph → Graph) : State := s.modCtx x (fun c => c.modGraph gid f)
/-- A graph has made progress (R114). -/
def State.progress (s : State) (x gid : Nat) : State :=
  s.modGraph x gid (fun g => { g with lastProgress := s.cycle, reported := false })

/-- A free value's counter and the state after it was used. -/
def State.tick (s : State) : Nat × State := (s.fresh, { s with fresh := s.fresh + 1 })

/-! ### Registers of a strand (R159) -/

/-- All ones. -/
def ones64 : W64 := BitVec.allOnes 64
/-- G[n]: G0 reads zero. -/
def Strand.gGet (st : Strand) (n : Nat) : W64 := if n = 0 then 0 else tget 0 st.g n
/-- Writes G[n]: a write to G0 is discarded. -/
def Strand.gSet (st : Strand) (n : Nat) (v : W64) : Strand := if n = 0 then st else { st with g := tset 0 st.g n v }
/-- P[n]: P0 reads true. -/
def Strand.pGet (st : Strand) (n : Nat) : Bool := n == 0 || st.p.getLsbD n
/-- Writes P[n]: a write to P0 is discarded. -/
def Strand.pSet (st : Strand) (n : Nat) (v : Bool) : Strand :=
  if n = 0 then st
  else { st with p := if v then st.p ||| (BitVec.ofNat 8 (2 ^ n)) else st.p &&& ~~~(BitVec.ofNat 8 (2 ^ n)) }
/-- Q[n]: Q0 reads all ones. -/
def Strand.qGet (st : Strand) (n : Nat) : W64 := if n = 0 then ones64 else tget 0 st.qr n
/-- Writes Q[n]: a write to Q0 is discarded. -/
def Strand.qSet (st : Strand) (n : Nat) (v : W64) : Strand := if n = 0 then st else { st with qr := tset 0 st.qr n v }
/-- Lane `l` of V[n]. -/
def Strand.lane (st : Strand) (n l : Nat) : W32 := tget 0 st.v (n * 64 + l)
/-- The 64 lanes of V[n]. -/
def Strand.vGet (st : Strand) (n : Nat) : List W32 := tread 0 st.v (n * 64) 64
/-- Writes the 64 lanes of V[n]. -/
def Strand.vSet (st : Strand) (n : Nat) (vs : List W32) : Strand := { st with v := twrite 0 st.v (n * 64) vs }
/-- The bytes of tile T[n] from `off` on. -/
def Strand.tBytes (st : Strand) (n off k : Nat) : List Byte := tread 0 st.td (n * 1024 + off) k
/-- Writes bytes of tile T[n] and sets its dirty bit (R161). -/
def Strand.tWrite (st : Strand) (n off : Nat) (bs : List Byte) : Strand :=
  { st with td := twrite 0 st.td (n * 1024 + off) bs, tst := tset 0 st.tst n 2 }

/-- A result of latency `n` of register `r`: readable from the n-th bundle after this one, or when the previous write to it
becomes readable, if that is later (R304, R306). -/
def Strand.latency (st : Strand) (r : RegName) (n : Nat) : Strand :=
  if r.discards then st else { st with lat := tset 0 st.lat r.key (max (tget 0 st.lat r.key) (st.bcount + n)) }
/-- Whether a register may be read by the bundle about to issue (R304). -/
def Strand.readable (st : Strand) (r : RegName) : Bool := r.discards || decide (tget 0 st.lat r.key ≤ st.bcount)
/-- ORs sticky flags in when a result of latency `n` issued in cycle `now` is written (R272, R304). -/
def Strand.flagsAt (st : Strand) (now n : Nat) (fl : Nat) : Strand :=
  if fl = 0 then st else { st with fpend := st.fpend ++ [{ at' := now, due := now + n, flags := BitVec.ofNat 64 fl }] }
/-- The flags of results, ORed into some. -/
def orFlags (es : List FlagWrite) (a : W64) : W64 := es.foldl (fun a e => a ||| e.flags) a
/-- ORs in the flags of every result that is written by cycle `now` (R306). -/
def Strand.settleFlags (st : Strand) (now : Nat) : Strand :=
  { st with
    aflags := orFlags (st.fpend.filter (fun e => decide (e.due ≤ now))) st.aflags,
    fpend := st.fpend.filter (fun e => decide (now < e.due)) }
/-- ORs in the flags of results that issued in the cycle `now`: those of a bundle that blocks after issue are written before the next
one issues (R306). -/
def Strand.flagsOf (st : Strand) (now : Nat) : Strand :=
  { st with
    aflags := orFlags (st.fpend.filter (fun e => e.at' == now)) st.aflags,
    fpend := st.fpend.filter (fun e => e.at' != now) }
/-- ORs in the flags of every issued result. -/
def Strand.allFlags (st : Strand) : Strand := { st with aflags := orFlags st.fpend st.aflags, fpend := [] }
/-- Every issued register write completes (R306); a flag value read for a WAITF is forgotten. -/
def Strand.settle (st : Strand) : Strand := { st.allFlags with lat := [], flagGot := none }

/-! ### The issuing strand -/

/-- The issuing strand as it stands. -/
def State.me (s : State) : Strand := s.strand s.cur
/-- Its registers as they stood before the bundle (R298). -/
def State.op (s : State) : Strand := s.latch.opnd.getD s.me
/-- Its logical core. -/
def State.myLc (s : State) : Nat := lcOf s.cur
/-- Its context's slot. -/
def State.mySlot (s : State) : Nat := slotOfStrand s.cur
/-- Its context. -/
def State.myCtx (s : State) : Ctx := s.ctx s.mySlot
/-- Changes the issuing strand. -/
def State.onMe (s : State) (f : Strand → Strand) : State := s.modStrand s.cur f
/-- The K literal (R299). -/
def State.kLit (s : State) : W32 := s.latch.k.getD 0
/-- Whether a guard holds, read at issue (R302). -/
def State.holds (s : State) (g : Guard) : Bool := s.op.pGet g.p.toNat != g.neg
/-- G operand of a six-bit field: code 63 is the K literal, sign-extended (R301). -/
def State.gv (s : State) (c : R6) : W64 := if c = 63 then s.kLit.signExtend 64 else s.op.gGet c.toNat
/-- V source of a six-bit field (R301). -/
def State.vv (s : State) (c : R6) : List W32 :=
  if c.toNat < 32 then s.op.vGet c.toNat
  else if c = 63 then List.replicate 64 s.kLit
  else List.replicate 64 ((s.op.gGet (c.toNat - 32)).truncate 32)
/-- Writes G[d] with a latency. -/
def State.wG (s : State) (d : R6) (v : W64) (n : Nat) : State :=
  s.onMe (fun st => (st.gSet d.toNat v).latency (.g d.toNat) n)
/-- Writes P[d] with a latency. -/
def State.wP (s : State) (d : Nat) (v : Bool) (n : Nat) : State := s.onMe (fun st => (st.pSet d v).latency (.p d) n)
/-- Writes Q[d] with a latency. -/
def State.wQ (s : State) (d : Nat) (v : W64) (n : Nat) : State := s.onMe (fun st => (st.qSet d v).latency (.q d) n)
/-- Writes V[d] with a latency. -/
def State.wV (s : State) (d : R6) (vs : List W32) (n : Nat) : State :=
  s.onMe (fun st => (st.vSet d.toNat vs).latency (.v d.toNat) n)
/-- ORs sticky flags in with a latency. -/
def State.flag (s : State) (fl n : Nat) : State := s.onMe (fun st => st.flagsAt s.cycle n fl)

/-! ### The event arbiter (R74-R77) -/

/-- TVB as a register holds it: bits [5:0] read as zero (R353). -/
def tvbOf (n : Nat) : W64 := BitVec.ofNat 64 n &&& ~~~63#64

/-- SRC of a package-wide event (R76). -/
def srcPackage : Nat := 0x8000
/-- Events that the arbiter's store holds (R77). -/
def storeSize : Nat := 4096

/-- The SEQ that the next event reported will bear, waiting events counted. -/
def State.nextEventSeq (s : State) : Nat := s.arb.nextSeq + s.arb.waiting.length

/-- Reports an event: the arbiter gives it its SEQ if its store has room; otherwise it waits (R74, R77). -/
def State.report (s : State) (typ ctxid status src tag result i0 i1 : Nat) : State :=
  let e : Event :=
    { seq := s.arb.nextSeq, typ := typ, ctxid := ctxid, status := status, ovw := false, src := src, tag := tag, result := result,
      info0 := i0, info1 := i1, time := s.cycle / 1250 }
  if s.arb.held.length < storeSize && s.arb.waiting.isEmpty then
    { s with arb := { s.arb with nextSeq := s.arb.nextSeq + 1, held := s.arb.held ++ [e] } }
  else { s with arb := { s.arb with waiting := s.arb.waiting ++ [e] } }

/-- TAG of a record (R62). -/
def recTag (bs : List Byte) : Nat := fld bs 40 8
/-- OPC of a record. -/
def recOpc (bs : List Byte) : Nat := fld bs 8 1
/-- CTXID of a record. -/
def recCtx (bs : List Byte) : Nat := fld bs 10 2
/-- ARG0-ARG2 of a record. -/
def recArg (bs : List Byte) (i : Nat) : Nat := fld bs (16 + 8 * i) 8

/-- CMDDONE statuses (R64). -/
def stOK : Nat := 0
def stBADCMD : Nat := 1
def stBADCTX : Nat := 2
def stNORES : Nat := 3
def stBADDESC : Nat := 4
def stSTATE : Nat := 5
def stNOTIER : Nat := 6
def stSPACE : Nat := 7
def stTIMEOUT : Nat := 8
def stIMAGE : Nat := 9
def stKILLED : Nat := 10

/-- The one CMDDONE of a record (R64), for the context `ctxid`. -/
def State.cmdDone (s : State) (r : CmdRec) (ctxid status result : Nat) : State :=
  s.report 1 ctxid status srcPackage (recTag r.bytes) result 0 0

/-- Event types (R76). -/
def evGRAPHDONE : Nat := 2
def evKILLED : Nat := 3
def evDEADLOCK : Nat := 4
def evDGSTMIS : Nat := 5
def evRETIRE : Nat := 6
def evREPLACE : Nat := 7
def evFABRIC : Nat := 8
def evLINK : Nat := 9
def evTHERMAL : Nat := 10
def evMEMERR : Nat := 11

/-! ### Killing a context (R51, R71, R153) -/

/-- The slot of an agent's context. -/
def agentSlot : Agent → Nat
  | .strand t => slotOfStrand t
  | .engine l _ => slotOf l
  | .bellows l => slotOf l
  | .sketch l => slotOf l
  | .walker l => slotOf l
  | .launch x => x

/-- Whether a queued record names the context in slot `x`: its CTXID, and a command that takes one (R62). -/
def State.recNames (s : State) (x : Nat) (r : CmdRec) : Bool :=
  let o := recOpc r.bytes
  (o == 2 || o == 3 || o == 4 || o == 6 || o == 7) && recCtx r.bytes == s.ctxid x

/-- The slot that outstanding requests of killed contexts bear: their late responses are discarded (R51). -/
def deadSlot : Nat := 64

/-- Releases a context's slot, launch lines (a record taken from one keeps the verdict of R62), Hearth and swap storage, owner tags,
cores and fabric traffic: of its flits those that have not been injected, and those that wait for retry or recovery at its own dies; one
whose full resend is on its link goes on (R51, R71, R190). -/
def State.release (s : State) (x : Nat) : State :=
  let mine := s.txns.filter (fun t => t.slot == x)
  let of := fun (f : Flit) (t : Txn) => f.src / 8 == s.env.pkgNo && f.typ != 7 && t.die == f.src % 8 && t.tag == f.tag
  let own := fun (f : Flit) => (f.typ == 7 && (f.addr >>> 46) % 64 == x) || mine.any (of f)
  let here := fun (n : Node) => match n with
    | .die d => (s.lcKeys x).any (fun l => (s.lc l).die == d)
    | .station _ => false
  let goneW := fun (w : Waiting) => own w.flit && (here w.node || mine.any (fun t => of w.flit t && !t.injected))
  let goneR := fun (r : Recovery) => own r.sent && (linkTo r.link).any here && !s.wires.any (fun w => w.link == r.link && w.seq == r.seq)
  let stopped := fun (t : Txn) => s.waitq.any (fun w => of w.flit t && goneW w) || s.recov.any (fun r => of r.sent t && goneR r)
  { s with
    ctxs := tset Ctx.free s.ctxs x Ctx.free
    lcs := tclear s.lcs (x * 4096) 4096
    strands := tclear s.strands (x * 16384) 16384
    gens := tset 1 s.gens x (((s.ctx x).gen + 1) % 1024)
    lines := s.lines.filter (fun l => l.owner != some x)
    cmdQ := s.cmdQ.map (fun r => if r.owner != some x then r else { r with owner := if s.recNames x r && recOpc r.bytes == 2 then none else some deadSlot })
    tags := s.tags.filter (fun t => t.slot != x)
    busy := s.busy.filter (fun e => slotOf (e.2 - 1) != x)
    waitq := s.waitq.filter (fun w => !goneW w)
    recov := s.recov.filter (fun r => !goneR r)
    links := (s.recov.filter (fun r => goneR r && !r.bytes.isEmpty)).foldl (fun t r => tmod Link.fresh t r.link (fun k => { k with store := k.store + 1 })) s.links
    inbox := s.inbox.filter (fun e => !mine.any (fun t => of e.2 t && !t.injected))
    outq := s.outq.filter (fun h => h.slot != x)
    stuck := s.stuck.filter (fun e => agentSlot e.agent != x)
    txns := s.txns.filterMap (fun t =>
      if t.slot != x then some t
      else if t.injected && !stopped t then some { t with slot := deadSlot, purpose := .rst (deadSlot * 16384) 0 }
      else none) }

/-- Kills the context in slot `x` with a KILLED cause and its INFO words (R71, R76, R495): an abandoned FREEZE and queued commands
complete with KILLED, KILLED is logged, and everything is released. -/
def State.kill (s : State) (x cause i0 i1 : Nat) : State :=
  if (s.ctx x).used then
    let id := s.ctxid x
    let s := match (s.ctx x).freezeRec with
      | some r => s.cmdDone r id stKILLED 0
      | none => s
    let gone := s.cmdQ.filter (s.recNames x)
    let s := gone.foldl (fun s r => s.cmdDone r id stKILLED 0) { s with cmdQ := s.cmdQ.filter (fun r => !s.recNames x r) }
    let s := s.report evKILLED id 0 srcPackage 0 cause i0 i1
    s.release x
  else s

/-! ### Failing accesses (R43, R495) -/

/-- The status codes of R43. -/
def opOK : Nat := 0
def opMEMERR : Nat := 1
def opADDRERR : Nat := 2
def opOPERR : Nat := 3
def opUNREACH : Nat := 4

/-- The logical core of an agent; none for the launch unit and the runtime. -/
def agentLc : Agent → Option Nat
  | .strand t => some (lcOf t)
  | .engine l _ => some l
  | .bellows l => some l
  | .sketch l => some l
  | .walker l => some l
  | .launch _ => none

/-- The kind code of an agent (R495). -/
def agentKind : Agent → Nat
  | .strand _ => 0
  | .engine _ _ => 1
  | .bellows _ => 2
  | .sketch _ => 3
  | .walker _ => 4
  | .launch _ => 5

/-- The die where an agent runs; the launch unit and the runtime, whose die the spec does not state, are taken to run on die 0 (log entry
70). -/
def State.dieOf (s : State) (a : Agent) : Nat :=
  match agentLc a with
  | some l => (s.lc l).die
  | none => 0

/-- An access that fails with a status other than OK: one MEMERR event, and its context is killed with cause 2 (R43). -/
def State.memErr (s : State) (a : Agent) (pa status : Nat) : State :=
  let d := s.dieOf a
  let lcn := match agentLc a with
    | some l => lcNum l
    | none => 0xFFFF
  let st := match a with
    | .strand t => t % 4
    | .engine _ _ => 0xFF
    | .bellows _ => 0xFF
    | .sketch _ => 0xFF
    | .walker _ => 0xFF
    | .launch _ => 0xFF
  let i0 := s.fid d + agentKind a * 2 ^ 16 + status * 2 ^ 24 + lcn * 2 ^ 32 + st * 2 ^ 48
  let seq := s.nextEventSeq
  let s := s.report evMEMERR (s.ctxid (agentSlot a)) 0 d 0 pa i0 0
  s.kill (agentSlot a) 2 pa seq

/-! ### Fabric events (R30, R76, R495) -/

/-- A FABRIC event of a node: kind, port, FID and lanes (R495); it concerns a context where the flit is one's. -/
def State.fabricEventOf (s : State) (id : Nat) (n : Node) (kind port fid lanes : Nat) : State :=
  s.report evFABRIC id 0 (nodeDie n) 0 kind (port + fid * 2 ^ 16 + lanes * 2 ^ 32) 0

/-- A FABRIC event that concerns no context. -/
def State.fabricEvent (s : State) (n : Node) (kind port fid lanes : Nat) : State := s.fabricEventOf 0xFFFF n kind port fid lanes

/-- The CTXID of the context that a flit is of: that of its request, or of its collective; 0xFFFF where this package knows none. -/
def State.flitCtx (s : State) (f : Flit) : Nat :=
  let x := if f.typ = 7 then some (slotOf (f.note % 2 ^ 24))
    else if (f.typ = 1 ∨ f.typ = 3 ∨ f.typ = 5) ∧ f.src / 8 = s.env.pkgNo then
      (s.txns.find? (fun t => t.die == f.src % 8 && t.tag == f.tag)).map (·.slot)
    else none
  match x with
  | some x => if (s.ctx x).used then s.ctxid x else 0xFFFF
  | none => 0xFFFF

/-- Cycles after which a flit that cannot be forwarded is returned: 1 ms (R30). -/
def unreachCycles : Nat := 1250000

/-- An agent's access that no way reaches: the FABRIC event of R30, of the node where its flit cannot go on, then R43's handling. -/
def State.unreach (s : State) (a : Agent) (pa : Nat) : State :=
  let fid := (pa >>> 37) % 2 ^ 14
  let at' := s.stopAt fid routeLen (.die (s.dieOf a))
  (s.fabricEventOf (s.ctxid (agentSlot a)) at'.1 fkUNREACH (portOf at'.2) fid 0).memErr a pa opUNREACH

/-- An access of an agent that no way reaches waits from the first attempt on, and fails with UNREACH once 1 ms has passed (R30); an
attempt before that comes to nothing else. -/
def State.waitReach (s : State) (a : Agent) (pa : Nat) : State :=
  let fid := (pa >>> 37) % 2 ^ 14
  match s.stuck.find? (fun e => e.agent == a && e.fid == fid) with
  | none => { s with stuck := s.stuck ++ [{ agent := a, fid := fid, since := s.cycle }] }
  | some e => if e.since + unreachCycles ≤ s.cycle then s.unreach a pa else s

/-- An access of an agent that fails where it is made, with a status of R43. -/
def State.failAt (s : State) (a : Agent) (pa status : Nat) : State :=
  if status = opUNREACH then s.waitReach a pa else s.memErr a pa status

/-- The waits for a way that still is not open (R30). -/
def State.stillStuck (s : State) : State := { s with stuck := s.stuck.filter (fun e => !s.dieReach (s.dieOf e.agent) e.fid) }

/-! ### Traps (R348, R354, R356, R457, R458) -/

/-- Cause codes (R354). -/
def cILLOP : Nat := 0x01
def cILLB : Nat := 0x02
def cLATV : Nat := 0x03
def cALIGN : Nat := 0x04
def cBANKC : Nat := 0x05
def cTRANSL : Nat := 0x06
def cPROT : Nat := 0x07
def cCOW : Nat := 0x08
def cCALLD : Nat := 0x09
def cRETE : Nat := 0x0A
def cNUNI : Nat := 0x0B
def cPCWR : Nat := 0x0C
def cANCH : Nat := 0x0D
def cTCFGU : Nat := 0x0E
def cEFLT : Nat := 0x0F
def cARITH : Nat := 0x10
def cDGST : Nat := 0x11
def cSKMIS : Nat := 0x12
def cQERR : Nat := 0x13
def cMEMERR : Nat := 0x14
def cSPECX : Nat := 0x15
def cSYSC : Nat := 0x16
def cBRKP : Nat := 0x17
def cSTEP : Nat := 0x18
def cPRIV : Nat := 0x19

/-- A trap with no faulting address. -/
def trap0 (cause info : Nat) : Trap := { cause := cause, addr := 0, info := BitVec.ofNat 64 info }
/-- A trap with a faulting address. -/
def trapA (cause : Nat) (addr : W64) (info : Nat) : Trap := { cause := cause, addr := addr, info := BitVec.ofNat 64 info }

/-- TAKING A TRAP in strand `t` (R457): issued register writes complete, EPC, ECAUSE, EADDR and EINFO are written, TM is set and
fetch continues at TVB; a loop nest stays as it stands, and a DGST that had not issued waits no more. Where the bundle that raises it issued with TM set (`tm`), the context is killed
instead, with cause 3 and the trap's ECAUSE and EPC, and no handler is entered (R356); MEMERR, with its physical address and status, is
disposed of by a kill with cause 2 (R43, R458). -/
def State.enterTrapAs (s : State) (t : Nat) (tr : Trap) (epc : W64) (tm : Bool) : State :=
  if tr.cause = cMEMERR then s.failAt (.strand t) tr.addr.toNat tr.info.toNat
  else if tm then s.kill (slotOfStrand t) 3 tr.cause epc.toNat
  else s.modStrand t (fun st =>
    let st := st.settle
    { st with epc := epc, ecause := BitVec.ofNat 64 tr.cause, eaddr := tr.addr, einfo := tr.info, tm := true, pc := st.tvb,
              blk := .ready, dgst := none, dgstGo := st.dgstGo && st.dgst.isNone })

/-- Taking a trap that a bundle raises which issued in the strand's present mode. -/
def State.enterTrap (s : State) (t : Nat) (tr : Trap) (epc : W64) : State := s.enterTrapAs t tr epc (s.strand t).tm

/-- RETURNING FROM A TRAP in strand `t` (R348): TM is cleared and fetch continues at `epc`; a suspended nest resumes. -/
def State.leaveTrap (s : State) (t : Nat) (epc : W64) : State :=
  s.modStrand t (fun st => { st with tm := false, pc := epc })

/-- A slot of the bundle being issued raises a precise trap: it is taken with EPC the bundle's address (R457). -/
def State.raise (s : State) (tr : Trap) : State :=
  let s' := s.enterTrap s.cur tr s.latch.addr
  { s' with latch := { s'.latch with out := .trapped tr } }

/-- A slot blocks the bundle before issue (R83): no slot of it has an effect. -/
def State.block (s : State) : State :=
  let s' := s.onMe (fun st => { st with blk := .before, since := s.cycle })
  { s' with latch := { s'.latch with out := .blocked } }

/-- A slot holds the bundle back without a switch (R380): no slot of it has an effect. -/
def State.stall (s : State) : State := { s with latch := { s.latch with out := .stalled } }

/-- A slot blocks its strand after issue (R83). -/
def State.blockAfter (s : State) : State := s.onMe (fun st => { st with blk := .after, since := s.cycle })

/-- A slot word with its guard: it acts only while the guard holds (R302); with no firing named the step is a fault. -/
def act (g : Guard) (s : State) (f : State → State) : Out :=
  if s.me.occ then .next (if s.holds g then f s else s) else .fault .noFiring

/-- ILLOP of an operand value, with the slot bit and, in the E slot, the field (R316, R422). -/
def illop (slot field : Nat) : Trap := trap0 cILLOP (slot + 16 * field)

end Sys2Proof.Machine
end

