-- ==== Sys2Proof/Machine/Mem.lean ====
section
/-! DEFINITION. Memory: the physical address space and the management registers (R26, R176, R177), the host's range (R56),
frame owner tags and dirty bitmaps (R151, R190), translation (R182-R188), and the local address space with speculation
(R119, R120, R163, R164, R170, R377). -/

namespace Sys2Proof.Machine

/-! ### Physical addresses -/

/-- What a physical address names (R176). -/
inductive Place where
  /-- an offset of the die with this FID -/
  | die (fid off : Nat)
  /-- a host physical address -/
  | host (a : Nat)
  /-- an offset of this package's second tier -/
  | tier (off : Nat)
  /-- no memory -/
  | none
  deriving DecidableEq, Repr

/-- Whether a second tier is fitted (R12, R26 FORM). -/
def State.hasTier (s : State) : Bool := s.env.form != 0

/-- Whether a die offset has memory (R176). -/
def offOk (off : Nat) : Bool :=
  decide (off < Config.hbmUsable) || (decide (Config.hearthBase ≤ off) && decide (off < Config.hearthBase + Config.hearthSize))
    || (decide (Config.mgmtBase ≤ off) && decide (off < Config.mgmtBase + 4096))

/-- What a physical address names. -/
def State.place (s : State) (pa : Nat) : Place :=
  if 2 ^ 52 ≤ pa then .none
  else match pa >>> 50 with
    | 2 => if (pa >>> 48) % 4 = 0 then .host (pa % 2 ^ 48) else .none
    | 3 =>
      let o := pa % 2 ^ 50
      if o < Config.tierSize && s.hasTier then .tier o else .none
    | _ => if offOk (pa % 2 ^ 37) then .die (pa >>> 37) (pa % 2 ^ 37) else .none

/-- The physical address of an offset of a die of this package. -/
def State.diePa (s : State) (d off : Nat) : Nat := s.fid d * 2 ^ 37 + off
/-- The physical address of a host address. -/
def hostPa (a : Nat) : Nat := 2 * 2 ^ 50 + a
/-- The physical address of a second-tier offset. -/
def tierPa (o : Nat) : Nat := 3 * 2 ^ 50 + o

/-- Whether a FID names a die of this package. -/
def State.ownFid (s : State) (f : Nat) : Bool := f / 8 == s.env.pkgNo
/-- Whether a physical address lies in a Hearth. -/
def isHearth (pa : Nat) : Bool :=
  decide (pa < 2 ^ 51) && decide (Config.hearthBase ≤ pa % 2 ^ 37) && decide (pa % 2 ^ 37 < Config.hearthBase + Config.hearthSize)
/-- Whether a physical address lies in HBM below the metadata region. -/
def isHbm (pa : Nat) : Bool := decide (pa < 2 ^ 51) && decide (pa % 2 ^ 37 < Config.hbmUsable)
/-- Whether a physical address lies in the management window. -/
def isMgmt (pa : Nat) : Bool := decide (pa < 2 ^ 51) && decide (Config.mgmtBase ≤ pa % 2 ^ 37)

/-- Whether every byte of a range names memory (R177). -/
def State.paOk (s : State) (pa n : Nat) : Bool :=
  match s.place pa, s.place (pa + n - 1) with
  | .die f o, .die f' o' => f == f' && (decide (o' < Config.hearthBase) || decide (Config.hearthBase ≤ o)) &&
      (decide (o' < Config.mgmtBase) || decide (Config.mgmtBase ≤ o))
  | .host _, .host _ => true
  | .tier _, .tier _ => true
  | _, _ => false

/-! ### Management registers (R26) -/

/-- Cores in service on a die: 144, or as many as are not retired (R21). Which 144 of the 152 they are, and which unretired core takes a
retired one's place, the spec does not say: here the lowest-numbered (log entry 76). -/
def State.inService (s : State) (d : Nat) : List Nat :=
  ((List.range Config.coresPhys).filter (fun n => !s.retired.contains (d * Config.coresPhys + n))).take Config.coresService

/-- RPLC (R26). -/
def State.rplc (s : State) : Nat :=
  (if s.sparesBit || s.hbmBit || s.lanesBit then 1 else 0) + (if s.sparesBit then 2 else 0) + (if s.hbmBit then 4 else 0)
    + (if s.lanesBit then 8 else 0)

/-- MID (R26). -/
def State.mid (s : State) : Nat := 0x4D4F * 2 ^ 48 + 0x5A38 * 2 ^ 32 + 0x02 * 2 ^ 24 + s.env.form * 2 ^ 16

/-- ELAPSED of KSTAT: milliseconds since the start of this Kindling, frozen at its end (R26). -/
def State.kElapsed (s : State) : Nat := if s.power = .kindling then (s.cycle - s.since) / 1250000 else s.kstat.elapsed

/-- KSTAT (R26). -/
def State.kstatWord (s : State) : Nat :=
  s.kElapsed * 2 ^ 32 + s.kstat.err * 2 ^ 16 + s.kstat.step * 16 + (if s.kstat.cold then 2 else 0)
    + (if s.kstat.ready then 1 else 0)

/-- CORECNT (R26). -/
def State.corecnt (s : State) : Nat := (List.range 8).foldl (fun a d => a + (s.inService d).length * 2 ^ (8 * d)) 0

/-- Word `w` of RETMd (R26). -/
def State.retm (s : State) (d w : Nat) : Nat :=
  (List.range 64).foldl (fun a i =>
    let n := w * 64 + i
    if n < Config.coresPhys && s.retired.contains (d * Config.coresPhys + n) then a + 2 ^ i else a) 0

/-- The hottest of a range of temperature sensors, as signed sixteenths of a degree; 0 where none has been read. -/
def hottest (t : Tab (Option W16)) (lo hi : Nat) : W16 :=
  match (t.filter (fun e => decide (lo ≤ e.1) && decide (e.1 < hi))).filterMap (·.2) with
  | [] => 0
  | e :: es => es.foldl (fun m e => if m.toInt < e.toInt then e else m) e

/-- TEMPd (R26): a die's sensors are its blocks' junction sensors below 512, and its HBM stacks' from there on. -/
def State.tempWord (s : State) (d : Nat) : Nat :=
  (hottest s.temps (d * 1024) (d * 1024 + 512)).toNat + (hottest s.temps (d * 1024 + 512) (d * 1024 + 1024)).toNat * 2 ^ 16

/-- The management register at a word offset of the window. -/
def State.mgmtWord (s : State) (o : Nat) : Nat :=
  if o = 0x000 then s.mid
  else if o = 0x008 then s.env.serial
  else if o = 0x010 then s.kstatWord
  else if o = 0x018 then s.rplc
  else if o = 0x020 then s.corecnt
  else if 0x040 ≤ o ∧ o < 0x080 then s.tempWord ((o - 0x040) / 8)
  else if 0x100 ≤ o ∧ o < 0x100 + 24 * 8 then s.retm ((o - 0x100) / 24) ((o - 0x100) % 24 / 8)
  else 0

/-- Bytes of the management window. -/
def State.mgmtBytes (s : State) (o n : Nat) : List Byte :=
  (List.range n).map (fun i => BitVec.ofNat 8 (s.mgmtWord ((o + i) / 8 * 8) >>> (8 * ((o + i) % 8))))

/-! ### Physical reads and writes -/

/-- `n` bytes at a physical address that names memory. What another package's memory holds is a free value. -/
def State.pread (s : State) (pa n : Nat) : List Byte :=
  if pa < 2 ^ 51 ∧ !s.ownFid (pa >>> 37) then (List.range n).map (fun i => Config.foreignByte (s.fresh * 2 ^ 52 + pa + i))
  else if isMgmt pa then s.mgmtBytes (pa % 4096) n
  else tread 0 s.mem pa n

/-- Sets the dirty bits of `n` bytes at virtual address `va` (R146, R151). -/
def Ctx.dirtied (c : Ctx) (va n : Nat) : Ctx :=
  { c with dirty := (List.range ((va + n - 1) / 2 ^ 21 + 1 - va / 2 ^ 21)).foldl (fun d i => sins (va / 2 ^ 21 + i) d) c.dirty }

/-- The frame owner tags of a written frame set the dirty bits of the other contexts they name (R190). -/
def State.tagDirty (s : State) (who : Option Nat) (frame : Nat) : State :=
  (s.tags.filter (fun t => decide (t.frame ≤ frame) && decide (frame < t.frame + t.count) && who != some t.slot)).foldl
    (fun s t => s.modCtx t.slot (fun c => { c with dirty := sins ((t.va + (frame - t.frame) * 65536) / 2 ^ 21) c.dirty })) s

/-- Compression blocks of HBM that a write touches (R191, R192). -/
def zipBlocks (pa n : Nat) : List Nat :=
  if isHbm pa then (List.range ((pa + n - 1) / 512 + 1 - pa / 512)).map (fun i => pa / 512 + i) else []

/-- Notes what `n` bytes at a physical address hold before a store to them, one version for each 8-byte unit, in ascending order
(R236, R237, R253): a store of the package's runtime, strong and at domain scope, in host memory at system scope (R58), until
`State.mark` says otherwise. -/
def State.note (s : State) (pa n : Nat) : State :=
  let k := (pa + n - 1) / 8 + 1 - pa / 8
  let new := (List.range k).map (fun i =>
    let u := pa / 8 + i
    let a := max pa (u * 8)
    ({ unit := u, time := s.vtime + 1 + i, old := tread 0 s.mem (u * 8) 8, first := a - u * 8, len := min (pa + n) (u * 8 + 8) - a,
       who := .unit (s.fid 0), num := none, strong := true, scope := if pa >>> 50 = 2 then 8 else 7, rel := none, rmw := false, cover := s.vtime + 1 + i } : Past))
  { s with past := new.reverse ++ s.past, vtime := s.vtime + k }

/-- Gives the versions noted since store count `t0` what is known of the store. -/
def State.mark (s : State) (t0 : Nat) (f : Past → Past) : State :=
  { s with past := (s.past.takeWhile (fun w => decide (t0 < w.time))).map f ++ s.past.dropWhile (fun w => decide (t0 < w.time)) }

/-- Blocks of HBM whose compression code holds an uncorrectable error, among those that a read touches (R193). -/
def State.spoilt (s : State) (pa n : Nat) : Bool := (zipBlocks pa n).any (fun b => s.bad.contains b)

/-- The blocks of HBM that a write covers whole. -/
def wholeBlocks (pa n : Nat) : List Nat := (zipBlocks pa n).filter (fun b => decide (pa ≤ b * 512) && decide (b * 512 + 512 ≤ pa + n))

/-- Writes bytes at a physical address: `who` is the writer's slot, none for the host and the fabric; `zip` allows compression
(R190-R192). Host memory that a monitored line covers is invalidated (R60); the management window ignores writes (R26); a write
to another package leaves this one. -/
def State.pwrite (s : State) (who : Option Nat) (zip : Bool) (pa : Nat) (bs : List Byte) : State :=
  if bs.isEmpty || (decide (pa < 2 ^ 51) && !s.ownFid (pa >>> 37)) || isMgmt pa then s
  else
    let n := bs.length
    let blocks := zipBlocks pa n
    let s := { (s.note pa n) with
      mem := twrite 0 s.mem pa bs
      bad := s.bad.filter (fun b => !(wholeBlocks pa n).contains b)
      zips := blocks.foldl (fun z b => if zip then sins b z else z.filter (fun k => k != b)) s.zips }
    let s := if isHbm pa || isHearth pa then
        (List.range ((pa + n - 1) / 65536 + 1 - pa / 65536)).foldl (fun s i => s.tagDirty who (pa / 65536 + i)) s
      else s
    if 2 * 2 ^ 50 ≤ pa ∧ pa < 3 * 2 ^ 50 then
      { s with lines := s.lines.map (fun l =>
          if hostPa l.addr < pa + n && pa < hostPa l.addr + 64 then { l with inval := true } else l) }
    else s

/-- The compression code of a 512-byte block of HBM (R191, R192): 0 all zero; the sector count where the last write allowed
compression and the block fits 14 sectors; 15 raw. -/
def State.zipCode (s : State) (block : Nat) : Nat :=
  let bs := s.pread (block * 512) 512
  if bs.all (fun b => b == 0) then 0
  else
    let k := Config.zipSectors bs
    if s.zips.contains block && 1 ≤ k && k ≤ 14 then k else 15

/-! ### The host's range (R56) -/

/-- The physical address behind an offset of the package's 2 TiB range; none where reads return zero and writes are ignored. -/
def State.hostMap (s : State) (off : Nat) : Option Nat :=
  if off < Config.hbmSize then
    if off % Config.dieHbm < Config.hbmUsable then some (s.diePa (off / Config.dieHbm) (off % Config.dieHbm)) else none
  else if 0x10000000000 ≤ off ∧ off < 0x10000000000 + Config.tierSize ∧ s.hasTier then some (tierPa (off - 0x10000000000))
  else if 0x1FFFFFFF000 ≤ off ∧ off < 0x20000000000 then some (s.diePa 0 (Config.mgmtBase + (off - 0x1FFFFFFF000)))
  else none

/-- One byte of the host's range. -/
def State.hostByte (s : State) (off : Nat) : Byte :=
  match s.hostMap off with
  | some pa => (s.pread pa 1).headD 0
  | none => 0

/-- A host write of bytes of one aligned 8-byte unit of the range: one store, strong and at system scope, physical, recorded in no dirty
bitmap, never compressed (R57, R192, R236, R254). -/
def State.hostPut (s : State) (off : Nat) (bs : List Byte) : State :=
  match s.hostMap off with
  | some pa =>
    if isMgmt pa || bs.isEmpty then s
    else
      { ((s.note pa bs.length).mark s.vtime (fun w => { w with who := .host, scope := 8 })) with
        mem := twrite 0 s.mem pa bs
        zips := s.zips.filter (fun k => !(zipBlocks pa bs.length).contains k) }
  | none => s

/-! ### Translation (R182-R188) -/

/-- Kinds of access that translation distinguishes. -/
inductive Acc where
  | read | write | fetch | atomic | xadd
  deriving DecidableEq, Repr

/-- Whether an access writes. -/
def Acc.writes : Acc → Bool
  | .read => false
  | .write => true
  | .fetch => false
  | .atomic => true
  | .xadd => true

/-- What translation answers: a physical address through a leaf (its value, address and level); a local address of another
logical core; a fault with its cause, reason and level; a walk whose table could not be read, with a status of R43. -/
inductive Xl where
  | ok (pa leaf epa level : Nat)
  | window (lc a : Nat)
  | fault (cause reason level : Nat)
  | err (pa status : Nat)
  deriving DecidableEq, Repr

/-- KIND of a leaf (R184). -/
def leafKind (e : Nat) : Nat := bitsOf e 4 3
/-- COW of a leaf. -/
def leafCow (e : Nat) : Bool := bitOf e 8
/-- W of a leaf. -/
def leafW (e : Nat) : Bool := bitOf e 1
/-- X of a leaf. -/
def leafX (e : Nat) : Bool := bitOf e 2
/-- C of a leaf: compress, or E where the frame is in a Hearth. -/
def leafC (e : Nat) : Bool := bitOf e 5
/-- The frame of a leaf. -/
def leafFrame (e : Nat) : Nat := bitsOf e 51 16 * 65536
/-- The exact-add anchor of a leaf (R179). -/
def leafAnchor (e : Nat) : Int := sgn 10 (bitsOf e 15 10 * 16 + bitsOf e 55 52)
/-- Whether a leaf is exact-add: E set on a Hearth frame. -/
def leafE (e : Nat) : Bool := leafC e && isHearth (leafFrame e)
/-- Bytes that a leaf at a level maps. -/
def pageSize (level : Nat) : Nat := 2 ^ (16 + 10 * level)

/-- Why `n` bytes at a physical address cannot be accessed from a die, as a status of R43: no way leads there (R30), no memory is
there (R177), or, for a read, the code of a block holds an uncorrectable error (R193). -/
def State.bar (s : State) (d pa n : Nat) (rd : Bool) : Option Nat :=
  if pa < 2 ^ 51 && !s.dieReach d (pa >>> 37) then some opUNREACH
  else if !s.paOk pa n then some opADDRERR
  else if rd && s.spoilt pa n then some opMEMERR
  else none

/-- The walk by die `d` from a table at a level down: the leaf's value, address and level, or why there is none (R182, R184, R185). -/
def State.walkFrom (s : State) (d va : Nat) : Nat → Nat → Xl
  | 0, table =>
    let epa := table + 8 * ((va >>> 16) % 1024)
    match s.bar d epa 8 true with
    | some st => .err epa st
    | none =>
      let e := leNat (s.pread epa 8)
      if !bitOf e 0 then .fault cTRANSL 0 0
      else if !bitOf e 9 then .fault cTRANSL 2 0
      else .ok (leafFrame e + va % pageSize 0) e epa 0
  | n + 1, table =>
    let epa := table + 8 * ((va >>> (26 + 10 * n)) % 1024)
    match s.bar d epa 8 true with
    | some st => .err epa st
    | none =>
      let e := leNat (s.pread epa 8)
      if !bitOf e 0 then .fault cTRANSL 0 (n + 1)
      else if bitOf e 9 then
        if n + 1 = 3 then .fault cTRANSL 2 3 else .ok (leafFrame e + va % pageSize (n + 1)) e epa (n + 1)
      else s.walkFrom d va n (bitsOf e 51 13 * 8192)

/-- Bytes that an entry of a table at a level covers. -/
def CachedLeaf.covers (c : CachedLeaf) (va : Nat) : Bool := va / pageSize c.level == c.va / pageSize c.level
/-- Whether a cached non-leaf entry is on the path of an address. -/
def CachedNode.covers (c : CachedNode) (va : Nat) : Bool := va / pageSize c.level == c.va / pageSize c.level

/-- The non-leaf entries on the path of an address from a table at a level down. -/
def State.nodesFrom (s : State) (va : Nat) : Nat → Nat → List CachedNode
  | 0, _ => []
  | n + 1, table =>
    let e := leNat (s.pread (table + 8 * ((va >>> (26 + 10 * n)) % 1024)) 8)
    if !bitOf e 0 || bitOf e 9 then []
    else { va := va / pageSize (n + 1) * pageSize (n + 1), level := n + 1, table := bitsOf e 51 13 * 8192 }
      :: s.nodesFrom va n (bitsOf e 51 13 * 8192)

/-- A leaf without its A and D bits. -/
def leafFixed (e : Nat) : Nat := e - e / 64 % 4 * 64

/-- Whether two answers of a walk differ by more than A and D. -/
def Xl.same (a b : Xl) : Bool :=
  match a, b with
  | .ok p e q l, .ok p' e' q' l' => p == p' && leafFixed e == leafFixed e' && q == q' && l == l'
  | _, _ => a == b

/-- What a cached leaf translates an address to. -/
def CachedLeaf.use (c : CachedLeaf) (va : Nat) : Xl := .ok (leafFrame c.e + va % pageSize c.level) c.e c.epa c.level

/-- Other answers than the tables' that an agent of a context may use until TINV: by a cached leaf, or by a cached non-leaf entry
(R188). -/
def State.staleXl (s : State) (x d va : Nat) (now : Xl) : List Xl :=
  let c := s.ctx x
  ((c.tlb.filter (·.covers va)).map (·.use va) ++ (c.nodes.filter (·.covers va)).map (fun n => s.walkFrom d va (n.level - 1) n.table)).filter
    (fun r => !r.same now)

/-- A context's caches after a walk: the leaf used, and the non-leaf entries on its path (R188). -/
def Ctx.cache (c : Ctx) (va : Nat) (r : Xl) (ns : List CachedNode) : Ctx :=
  match r with
  | .ok _ e epa level =>
    let f : CachedLeaf := { va := va / pageSize level * pageSize level, level := level, e := e, epa := epa }
    let old := fun (g : CachedLeaf) => g.va == f.va && g.level == level && g.epa == epa && leafFixed g.e == leafFixed e
    { c with
      tlb := if c.tlb.contains f then c.tlb else f :: c.tlb.filter (fun g => !old g)
      nodes := ns.filter (fun n => !c.nodes.contains n) ++ c.nodes }
  | .window _ _ => c
  | .fault _ _ _ => c
  | .err _ _ => c

/-- The translation an agent of logical core `l` finds: by the tables, or, where something cached differs from them, by any of
these (R188). -/
def State.lookup (s : State) (l va : Nat) : Xl × State :=
  let x := slotOf l
  let root := (s.ctx x).ptroot
  let d := (s.lc l).die
  let w := s.walkFrom d va 3 root
  match s.staleXl x d va w with
  | [] => (w, s.modCtx x (fun c => c.cache va w (s.nodesFrom va 3 root)))
  | alts =>
    let (n, s) := s.tick
    let r := (alts[Config.useStale n % (alts.length + 1)]?).getD w
    (r, s.modCtx x (fun c => c.cache va r []))

/-- The checks of R185 from reason 3 on, for a leaf at a level. -/
def leafCheck (e level : Nat) (a : Acc) : Option (Nat × Nat) :=
  if leafFrame e % pageSize level ≠ 0 then some (cTRANSL, 3)
  else if leafKind e = 3 then some (cTRANSL, 4)
  else if a.writes && !leafW e && !leafCow e then some (cPROT, 5)
  else if a == .fetch && !leafX e then some (cPROT, 6)
  else if a == .xadd && !leafE e then some (cPROT, 7)
  else if a.writes && leafCow e then some (cCOW, 8)
  else none

/-- Sets bits of a leaf by an atomic OR: in another package's memory by an RAT (R40, R187). -/
def State.orLeaf (s : State) (l epa bits cur : Nat) : State :=
  if epa < 2 ^ 51 ∧ !s.ownFid (epa >>> 37) then
    { s with outq := s.outq ++ [{
        die := (s.lc l).die, slot := slotOf l, purpose := .out l, stale := false,
        flit := { typ := 5, tc := 0, ord := false, ref := false, pass := false, len := 7, op := 2, rcnt := 0, rsv := 0, src := 0, tag := 0,
                  fv := false, flag := 0, addr := epa, payload := leBytes 8 bits, note := 0 } }] }
  else s.pwrite (some (slotOf l)) false epa (leBytes 8 (cur ||| bits))

/-- Sets A, and D for a write, in the leaf an access of logical core `l` goes through, re-reading it before D is set (R187); the leaf found
invalid or without W makes the write fault. One of another package is taken as the walk read it (log entry 10). -/
def State.setAD (s : State) (l va : Nat) (a : Acc) (pa e epa level : Nat) : Xl × State :=
  let needA := !bitOf e 6
  let needD := a.writes && !bitOf e 7
  if !needA && !needD then (.ok pa e epa level, s)
  else match s.bar (s.lc l).die epa 8 true with
    | some st => (.err epa st, s)
    | none =>
      let cur := if epa < 2 ^ 51 ∧ !s.ownFid (epa >>> 37) then e else leNat (s.pread epa 8)
      if needD && !bitOf cur 0 then (.fault cTRANSL 0 level, s)
      else if needD && !leafW cur then ((if leafCow cur then .fault cCOW 8 level else .fault cPROT 5 level), s)
      else
        let bits := (if needA then 64 else 0) + (if needD then 128 else 0)
        let s := s.orLeaf l epa bits cur
        (.ok pa (e ||| bits) epa level, s.modCtx (slotOf l) (fun c => c.cache va (.ok pa (e ||| bits) epa level) []))

/-- Bytes of a context's speculable range on each of its logical cores (R119). -/
def Ctx.specBytes (c : Ctx) : Nat := if c.spec then c.specsz * 4096 else 0

/-- Whether a local address lies in the shadow of a speculable range of `z` bytes (R119). -/
def inShadow (z a : Nat) : Bool := decide (0x100000 - z ≤ a) && decide (a < 0x100000)

/-- TRANSLATION of one address for logical core `l` (R182-R187), A and D set. -/
def State.xlate (s : State) (l va : Nat) (a : Acc) : Xl × State :=
  let x := slotOf l
  if 2 ^ 56 ≤ va then (.fault cTRANSL 1 3, s)
  else if Config.windowBase ≤ va then
    let o := va - Config.windowBase
    if 2 ^ 36 ≤ o then (.fault cTRANSL 0 3, s)
    else if a == .fetch then (.fault cPROT 6 0, s)
    else if (s.ctx x).nlc ≤ o / 2 ^ 24 ∨ 0x110000 ≤ o % 2 ^ 24 ∨ inShadow (s.ctx x).specBytes (o % 2 ^ 24) ∨ a == .atomic ∨ a == .xadd then (.fault cPROT 5 0, s)
    else (.window (lcKey x (o / 2 ^ 24)) (o % 2 ^ 24), s)
  else
    match s.lookup l va with
    | (.ok pa e epa level, s) =>
      match leafCheck e level a with
      | some (c, r) => (.fault c r level, s)
      | none => s.setAD l va a pa e epa level
    | (.window l o, s) => (.window l o, s)
    | (.fault c r l, s) => (.fault c r l, s)
    | (.err pa st, s) => (.err pa st, s)

/-- EINFO of a translation fault (R186). -/
def xlInfo (a : Acc) (reason level : Nat) : Nat :=
  reason + level * 16 + (if a.writes then 64 else 0) + (if a == .fetch then 128 else 0)

/-! ### The local address space (R119, R120, R163) -/

/-- Bytes of a logical core's speculable range. -/
def State.specS (s : State) (l : Nat) : Nat :=
  (s.ctx (slotOf l)).specBytes

/-- First address of the shadow of a speculable range of `z` bytes. -/
def shadowBase (z : Nat) : Nat := 0x100000 - z

/-- The scratchpad byte that backs local address `a`: in the speculable range the committed copy, or the uncommitted one while a
region is open (R119, R120). DESIGN CHOICE (log entry 96): that holds of a read by another logical core or its engine too, of which the spec
does not say which copy it sees. -/
def locBack (c : LCore) (z a : Nat) : Nat :=
  if a < z then (if c.sel != c.act then shadowBase z + a else a) else a

/-- The backing byte in the committed copy. -/
def locCommitted (c : LCore) (z a : Nat) : Nat := if c.sel then shadowBase z + a else a

/-- Fills the lines of the uncommitted copy that an access of `n` bytes at `a` touches first (R120). -/
def State.ltouch (s : State) (l a n : Nat) : State :=
  let z := s.specS l
  let c := s.lc l
  if !c.act || z ≤ a || n = 0 then s
  else
    let last := (min (a + n) z - 1) / 64
    let lines := ((List.range (last + 1 - a / 64)).map (fun i => a / 64 + i)).filter (fun k => !c.fill.contains k)
    s.setLc l (lines.foldl (fun c k =>
      { c with loc := twrite 0 c.loc (locBack c z (k * 64)) (tread 0 c.loc (locCommitted c z (k * 64)) 64), fill := sins k c.fill }) c)

/-- `n` bytes of a logical core's local memory at `a`: of a line of an open region that is not filled yet, the committed copy's. -/
def State.lread (s : State) (l a n : Nat) : List Byte :=
  let c := (s.ltouch l a n).lc l
  let z := s.specS l
  let k := min n (z - a)
  if a < z then tread 0 c.loc (locBack c z a) k ++ tread 0 c.loc (a + k) (n - k) else tread 0 c.loc a n

/-- Writes bytes of a logical core's local memory. -/
def State.lwrite (s : State) (l a : Nat) (bs : List Byte) : State :=
  let s := s.ltouch l a bs.length
  let z := s.specS l
  s.modLc l (fun c =>
    if a < z then
      let k := min bs.length (z - a)
      { c with loc := twrite 0 (twrite 0 c.loc (locBack c z a) (bs.take k)) (a + k) (bs.drop k) }
    else { c with loc := twrite 0 c.loc a bs })

/-- The range of R163 that a local byte address lies in: 0 scratchpad, 1 side bank, 2 PROT (the aperture and core control
included). -/
def locRange (a : Nat) : Nat := if a < 0x100000 then 0 else if a < 0x110000 then 1 else 2

/-- Whether a byte range of a strand touches the shadow (R119). -/
def shadowHit (z a n : Nat) : Bool := decide (0 < z) && decide (a < 0x100000) && decide (shadowBase z < a + n)

/-- EINFO of a local PROT: reason 5, and WRITE for a store (R164, R186). -/
def locProt (a : Nat) (wr : Bool) : Trap := trapA cPROT (BitVec.ofNat 64 a) (5 + if wr then 64 else 0)

/-- The checks of R377 on the lanes (or rows) of one instruction: (lane, address) pairs, each of `size` bytes aligned to `al`. -/
def locCheck (z : Nat) (wr : Bool) (size al : Nat) (lanes : List (Nat × Nat)) : Option Trap :=
  match lanes.find? (fun e => decide (2 ^ 24 ≤ e.2)) with
  | some e => some (locProt e.2 wr)
  | none =>
    match lanes.find? (fun e => locRange e.2 == 2 || locRange (e.2 + size - 1) == 2 || shadowHit z e.2 size) with
    | some e => some (locProt e.2 wr)
    | none =>
      match lanes.find? (fun e => e.2 % al != 0) with
      | some e => some (trapA cALIGN (BitVec.ofNat 64 e.2) (e.1 * 256))
      | none =>
        let r := match lanes with
          | [] => 0
          | e :: _ => locRange e.2
        match lanes.find? (fun e => locRange e.2 != r || locRange (e.2 + size - 1) != r) with
        | some e => some (trapA cALIGN (BitVec.ofNat 64 e.2) (e.1 * 256 + 1))
        | none => none

/-- The (side, bank, line) of a local address (R167). -/
def bankOf (a : Nat) : Bool × Nat × Nat :=
  if a < 0x100000 then (false, bitsOf a 10 6, bitsOf a 19 11)
  else (true, bitsOf a 7 6, bitsOf (a - 0x100000) 15 8)

/-- The bank check of R170 on the active lanes: the lowest lane in conflict and the lowest that differs from it in its bank. -/
def bankCheck : List (Nat × Nat) → Option Trap
  | [] => none
  | e :: rest =>
    let (sd, bk, ln) := bankOf e.2
    match rest.find? (fun f => let (sd', bk', ln') := bankOf f.2; sd' == sd && bk' == bk && ln' != ln) with
    | some f => some (trapA cBANKC (BitVec.ofNat 64 e.2) (f.1 * 2 ^ 14 + e.1 * 256 + (if sd then 32 else 0) + bk))
    | none => bankCheck rest

end Sys2Proof.Machine
end

