-- ==== Sys2Proof/Machine/Operands.lean ====
section
/-! DEFINITION. Operand forms: scratchpad and global addresses, vector lanes and masks, scratch pointers and record addresses,
ranges of virtual addresses (R166, R301-R303, R377, R378, R382, R387, R423). -/

namespace Sys2Proof.Machine

/-- The signed value of a 64-bit word. -/
def sx64 (x : W64) : Int := x.toInt
/-- An integer as a 64-bit word, mod 2^64. -/
def w64 (x : Int) : W64 := BitVec.ofInt 64 x
/-- An integer as a 32-bit word, mod 2^32. -/
def w32 (x : Int) : W32 := BitVec.ofInt 32 x
/-- An FP32 source of the scalar slots: bits [31:0] (R371). -/
def lo32 (x : W64) : W32 := x.truncate 32

/-! ### Vector lanes -/

/-- Writes results into a destination under a mask: masked-off lanes keep their values or become zero (R303). -/
def mergeLanes (q : W64) (z : Bool) (old new : List W32) : List W32 :=
  (List.range 64).map (fun l => if q.getLsbD l then new.getD l 0 else if z then 0 else old.getD l 0)

/-- The OR of the flags of the active lanes (R303). -/
def laneFlags (q : W64) (fl : List Nat) : Nat :=
  (List.range 64).foldl (fun a l => if q.getLsbD l then a ||| fl.getD l 0 else a) 0

/-- The mask that a V-slot word names, read at issue. -/
def State.maskQ (s : State) (m : Mask) : W64 := s.op.qGet m.q.toNat

/-- The 64 lane numbers. -/
def lanes64 : List Nat := List.range 64

/-- Lane-by-lane results with flags, written under a mask after a latency (R303, R399). -/
def State.vOut (s : State) (m : Mask) (d : R6) (n : Nat) (f : Nat → W32 × Nat) : State :=
  let q := s.maskQ m
  let r := lanes64.map f
  let old := s.op.vGet d.toNat
  (s.wV d (mergeLanes q m.z old (r.map (·.1))) n).flag (laneFlags q (r.map (·.2))) n

/-- A lane-by-lane operation of one source. -/
def State.v1 (s : State) (m : Mask) (d a : R6) (n : Nat) (f : W32 → W32 × Nat) : State :=
  let x := s.vv a
  s.vOut m d n (fun l => f (x.getD l 0))

/-- A lane-by-lane operation of two sources. -/
def State.v2 (s : State) (m : Mask) (d a b : R6) (n : Nat) (f : W32 → W32 → W32 × Nat) : State :=
  let x := s.vv a
  let y := s.vv b
  s.vOut m d n (fun l => f (x.getD l 0) (y.getD l 0))

/-- A lane-by-lane operation of two sources and the destination. -/
def State.v3 (s : State) (m : Mask) (d a b : R6) (n : Nat) (f : W32 → W32 → W32 → W32 × Nat) : State :=
  let x := s.vv a
  let y := s.vv b
  let z := s.op.vGet d.toNat
  s.vOut m d n (fun l => f (x.getD l 0) (y.getD l 0) (z.getD l 0))

/-- The lane addresses of a scratchpad or global vector access: contiguous, strided by `str`, or indexed by lanes (R382, R387). -/
def laneAddr (form : Nat) (base : Nat) (str : Int) (idx : List W32) (l : Nat) : Nat :=
  match form with
  | 0 => unsg 64 ((base : Int) + 4 * (l : Int))
  | 1 => unsg 64 ((base : Int) + (l : Int) * str)
  | _ => unsg 64 ((base : Int) + (idx.getD l 0).toInt)

/-- The 8-byte aligned units that `n` bytes at `a` touch. -/
def unitsOf (a n : Nat) : List Nat := (List.range ((a + n - 1) / 8 + 1 - a / 8)).map (fun i => (a / 8 + i) * 8)

/-! ### Scratch pointers and records -/

/-- DATA of a scratch pointer (R166). -/
def spData (x : Nat) : Nat := x % 2 ^ 20
/-- SIDE of a scratch pointer. -/
def spSide (x : Nat) : Nat := bitsOf x 35 20
/-- Whether the bits of a scratch pointer that must be zero are. -/
def spOk (x : Nat) : Bool := x >>> 36 == 0

/-- The check of an SPTR that a strand instruction takes (R166, R423). -/
def spCheck (x : Nat) : Option Trap := if spOk x then none else some (trapA cPROT (BitVec.ofNat 64 x) 5)

/-- The check of a record operand (R423): aligned to 32 bytes and below 0x10_0000. -/
def recCheck (x : Nat) (wr : Bool) : Option Trap :=
  if x % 32 ≠ 0 then some (trapA cALIGN (BitVec.ofNat 64 x) 0)
  else if 0x100000 ≤ x then some (locProt x wr)
  else none

/-- The check of a scratchpad range that an instruction derives: it must not pass 0x10_0000 (R423). -/
def rangeCheck (wr : Bool) (a n : Nat) : Option Trap :=
  if n ≠ 0 ∧ 0x100000 < a + n then some (locProt a wr) else none

/-- The check of a side-bank range of `n` bytes at an offset. -/
def sideCheck (wr : Bool) (o n : Nat) : Option Trap :=
  if n ≠ 0 ∧ 0x10000 < o + n then some (locProt (0x100000 + o) wr) else none

/-- The first of several checks that fails. -/
def firstOf : List (Option Trap) → Option Trap
  | [] => none
  | none :: t => firstOf t
  | some x :: _ => some x

/-- Goes on unless a check fails, which raises its trap. -/
def State.checked (s : State) (c : Option Trap) (f : State → State) : State :=
  match c with
  | some t => s.raise t
  | none => f s

/-! ### Virtual ranges -/

/-- Where a piece of a virtual range lies: a physical address with its leaf, or a local address of a logical core. -/
inductive Loc where
  | phys (pa leaf : Nat)
  | win (lc a : Nat)
  deriving DecidableEq, Repr

/-- Why a range cannot be reached: a translation fault at an address, or no memory at a physical address with a status of R43. -/
inductive Fail where
  | fault (cause reason level va : Nat)
  | mem (pa status : Nat)
  deriving DecidableEq, Repr

/-- The key by which the launch unit of the context in slot `x` takes part in translation. No logical core of a context of fewer than
4,096 has it, and its die is die 0; in a context of 4,096 it is the last logical core's, with that one's die (log entry 70). -/
def launchLc (x : Nat) : Nat := lcKey x 4095

/-- The location of one address, which does not leave its 64 KiB page, for logical core `c`. -/
def State.reach1 (s : State) (c va : Nat) (a : Acc) : Except Fail Loc × State :=
  match s.xlate c va a with
  | (.ok pa leaf _ _, s) => (.ok (.phys pa leaf), s)
  | (.window l o, s) => (.ok (.win l o), s)
  | (.fault e r l, s) => (.error (.fault e r l va), s)
  | (.err pa st, s) => (.error (.mem pa st), s)

/-- Bytes from an address to the end of its page, or in the logical-core window of its 4 KiB (R119, R183). -/
def pageLeft (va : Nat) : Nat := if Config.windowBase ≤ va then 4096 - va % 4096 else 65536 - va % 65536

/-- The pieces of a virtual range, cut at 64 KiB pages, in the window at 4 KiB; `fuel` pieces at most. -/
def State.reachFrom (c : Nat) (a : Acc) : Nat → State → Nat → Nat → Except Fail (List (Loc × Nat)) × State
  | 0, s, _, _ => (.ok [], s)
  | fuel + 1, s, va, n =>
    if n = 0 then (.ok [], s)
    else
      let k := min n (pageLeft va)
      match s.reach1 c va a with
      | (.error e, s) => (.error e, s)
      | (.ok l, s) =>
        match State.reachFrom c a fuel s (va + k) (n - k) with
        | (.error e, s) => (.error e, s)
        | (.ok r, s) => (.ok ((l, k) :: r), s)

/-- The pieces of `n` bytes at a virtual address. -/
def State.reach (s : State) (c va n : Nat) (a : Acc) : Except Fail (List (Loc × Nat)) × State :=
  s.reachFrom c a (n / 4096 + 2) va n

/-- Bytes at a location. -/
def State.readLoc (s : State) (l : Loc) (n : Nat) : List Byte :=
  match l with
  | .phys pa _ => s.pread pa n
  | .win k a => s.lread k a n

/-- The first piece of a range that logical core `c` cannot access, with the status (R30, R177, R193). -/
def State.hole (s : State) (c : Nat) (rd : Bool) : List (Loc × Nat) → Option (Nat × Nat)
  | [] => none
  | (.phys pa _, n) :: t =>
    match s.bar (s.lc c).die pa n rd with
    | some st => some (pa, st)
    | none => s.hole c rd t
  | (.win _ _, _) :: t => s.hole c rd t

/-- How many stores to a unit a racing load passes over, of those that `must` does not oblige it to see: any number, by a free value
(R242). -/
def State.passUnit (s : State) (must : Past → Nat) (unit : Nat) : Nat × State :=
  match (s.past.filter (fun w => w.unit == unit)).takeWhile (fun w => decide (must w < w.time)) with
  | [] => (0, s)
  | ws =>
    let (n, s) := s.tick
    (Config.pickVersion n % (ws.length + 1), s)

/-- Bytes at a physical address with those of a unit as they were before its `k` latest stores. -/
def State.before (s : State) (unit k pa : Nat) (bs : List Byte) : List Byte :=
  match k with
  | 0 => bs
  | n + 1 =>
    match (s.past.filter (fun w => w.unit == unit))[n]? with
    | none => bs
    | some w => bs.zipIdx.map (fun e => if (pa + e.2) / 8 = unit then w.old.getD ((pa + e.2) % 8) 0 else e.1)

/-- What a racing load of bytes at a physical address reads of each unit (R236, R242). -/
def State.passUnits (s : State) (must : Past → Nat) (pa : Nat) (bs : List Byte) : List Byte × State :=
  ((unitsOf pa bs.length).filter (fun u => s.past.any (fun w => w.unit == u / 8))).foldl (fun r u =>
    let (k, s) := r.2.passUnit must (u / 8)
    (s.before (u / 8) k pa r.1, s)) (bs, s)

/-- Reads pieces of a range by an agent that must have seen what `must` says, by the kinds of their pages. -/
def State.readLocs (must : Nat → Past → Nat) : List (Loc × Nat) → State → List Byte × State
  | [], s => ([], s)
  | (.phys pa leaf, n) :: t, s =>
    let (b, s) := s.passUnits (must (leafKind leaf)) pa (s.readLoc (.phys pa leaf) n)
    let (r, s) := State.readLocs must t s
    (b ++ r, s)
  | (.win k a, n) :: t, s =>
    let (r, s) := State.readLocs must t s
    (s.readLoc (.win k a) n ++ r, s)

/-- Reads a virtual range for logical core `c`, as an agent that must have seen what `must` says. -/
def State.vreadBy (s : State) (must : Nat → Past → Nat) (c va n : Nat) : Except Fail (List Byte) × State :=
  match s.reach c va n .read with
  | (.error e, s) => (.error e, s)
  | (.ok ps, s) =>
    match s.hole c true ps with
    | some (pa, st) => (.error (.mem pa st), s)
    | none =>
      let (bs, s) := State.readLocs must ps s
      (.ok bs, { s with fresh := s.fresh + 1 })

/-- Reads what a virtual range holds now, for logical core `c` (graph descriptors and tables, and the reads of atomic updates). -/
def State.vread (s : State) (c va n : Nat) : Except Fail (List Byte) × State := s.vreadBy (fun _ w => w.time) c va n

/-- Bytes cut at aligned blocks of `b` bytes; `fuel` pieces at most. -/
def cutAt (b : Nat) : Nat → Nat → List Byte → List (Nat × List Byte)
  | 0, _, _ => []
  | fuel + 1, pa, bs =>
    if bs.isEmpty then []
    else
      let k := b - pa % b
      (pa, bs.take k) :: cutAt b fuel (pa + k) (bs.drop k)

/-- An engine's store to another package's memory becomes RSTs, each within one 128-byte block, which wait for their tags (R177). -/
def State.hold (s : State) (c pa : Nat) (bs : List Byte) : State :=
  let rst := fun (e : Nat × List Byte) =>
    ({ typ := 1, tc := 1, ord := false, ref := false, pass := false, len := e.2.length - 1, op := 0, rcnt := 0, rsv := 0, src := 0,
       tag := 0, fv := false, flag := 0, addr := e.1, payload := e.2, note := 0 } : Flit)
  { s with outq := s.outq ++ (cutAt 128 (bs.length / 128 + 2) pa bs).map (fun e =>
      { die := (s.lc c).die, slot := slotOf c, flit := rst e, purpose := .out c, stale := false }) }

/-- Writes bytes at a location for logical core `c`. -/
def State.writeLoc (s : State) (c : Nat) (l : Loc) (bs : List Byte) : State :=
  match l with
  | .phys pa leaf =>
    if pa < 2 ^ 51 ∧ !s.ownFid (pa >>> 37) then s.hold c pa bs
    else (s.pwrite (some (slotOf c)) (leafC leaf) pa bs).mark s.vtime (fun w => { w with who := .engine c })
  | .win k a => s.lwrite k a bs

/-- Writes the pieces of a range one after another. -/
def State.writePieces (c : Nat) : List (Loc × Nat) → List Byte → State → State
  | [], _, s => s
  | (l, n) :: t, bs, s => State.writePieces c t (bs.drop n) (s.writeLoc c l (bs.take n))

/-- The logical core whose engine, launch unit or BTE command a request is of; none for a strand's. -/
def TxnFor.engineOf : TxnFor → Option Nat
  | .bte l _ _ => some l
  | .out l => some l
  | .rst _ _ => none
  | .rld _ _ => none
  | .rat _ _ => none
  | .access _ _ => none

/-- Whether a request is one of a BTE command. -/
def TxnFor.ofBte (l cmd : Nat) : TxnFor → Bool
  | .bte l' c _ => l' == l && c == cmd
  | .out _ => false
  | .rst _ _ => false
  | .rld _ _ => false
  | .rat _ _ => false
  | .access _ _ => false

/-- The stores to other packages queued since there were `n` in the queue are a BTE command's: their bytes are counted as their RSTACKs
return (R202). -/
def State.ownHeld (s : State) (l cmd n : Nat) : State :=
  { s with outq := s.outq.take n ++ (s.outq.drop n).map (fun h => { h with purpose := .bte l cmd h.flit.payload.length }) }

/-- Bytes of the stores to other packages queued since there were `n` in the queue. -/
def State.heldSince (s : State) (n : Nat) : Nat := (s.outq.drop n).foldl (fun m h => m + h.flit.payload.length) 0

/-- Whether no store of an engine of a logical core to another package is on its way, its BTE's aside. -/
def State.outIdle (s : State) (c : Nat) : Bool :=
  !s.outq.any (fun h => h.purpose == .out c) && !s.txns.any (fun t => t.purpose == .out c)

/-- The pieces of a virtual range that is to be written: every one can be, and nothing has changed yet (R189). -/
def State.places (s : State) (c va n : Nat) : Except Fail (List (Loc × Nat)) × State :=
  match s.reach c va n .write with
  | (.error e, s) => (.error e, s)
  | (.ok ps, s) =>
    match s.hole c false ps with
    | some (pa, st) => (.error (.mem pa st), s)
    | none => (.ok ps, s)

/-- Writes the bytes at `va` in pieces that have been found, and sets their dirty bits; window bytes set none (R151, R183). -/
def State.vput (s : State) (c va : Nat) (ps : List (Loc × Nat)) (bs : List Byte) : State :=
  let s := State.writePieces c ps bs s
  if Config.windowBase ≤ va ∨ bs.isEmpty then s else s.modCtx (slotOf c) (fun k => k.dirtied va bs.length)

/-- Writes bytes through virtual addresses of logical core `c`'s context. -/
def State.vwrite (s : State) (c va : Nat) (bs : List Byte) : Except Fail Unit × State :=
  match s.places c va bs.length with
  | (.error e, s) => (.error e, s)
  | (.ok ps, s) => (.ok (), s.vput c va ps bs)

/-- A failure as a strand's trap: MEMERR carries the physical address and the status (R43). -/
def Fail.trap (f : Fail) (a : Acc) : Trap :=
  match f with
  | .fault c r l va => trapA c (BitVec.ofNat 64 va) (xlInfo a r l)
  | .mem pa st => trapA cMEMERR (BitVec.ofNat 64 pa) st

/-! ### A strand's pending accesses -/

/-- A 2^52-based key of a location, which orders accesses per unit (R237). -/
def Loc.key : Loc → Nat
  | .phys pa _ => pa
  | .win l a => 2 ^ 52 + l * 2 ^ 24 + a

/-- The location of a pending access. -/
def keyLoc (k leaf : Nat) : Loc := if k < 2 ^ 52 then .phys k leaf else .win ((k - 2 ^ 52) / 2 ^ 24) ((k - 2 ^ 52) % 2 ^ 24)

/-- Bytes at `k` overlaid by a strand's pending stores, in their order (R237, R238: a strand may read its own stores early). -/
def overlay (acc : List Access) (k : Nat) (bs : List Byte) : List Byte :=
  acc.foldl (fun bs e =>
    if e.op == .store then
      let w := leBytes e.size e.data
      (List.range bs.length).map (fun i => if e.pa ≤ k + i ∧ k + i < e.pa + e.size then w.getD (k + i - e.pa) 0 else bs.getD i 0)
    else bs) bs

/-- Whether a strand has an access pending that a release at a scope wider than strand must wait for: UO accesses are exempt
(R246). -/
def Strand.drained (st : Strand) : Bool := st.acc.all (fun e => e.kind == 2)

/-- Whether the fabric holds nothing of a strand that a release or full fence waits for (R243). -/
def State.fabricIdle (s : State) (t : Nat) : Bool :=
  s.txns.all (fun x => match x.purpose with
    | .rst k _ => k != t
    | .rld k _ => k != t
    | .rat k _ => k != t
    | .access k _ => k != t
    | .bte _ _ _ => true
    | .out _ => true)

/-- Whether no remote operation of a strand is unanswered (R243). -/
def State.remotesIdle (s : State) (t : Nat) : Bool :=
  s.txns.all (fun x => match x.purpose with
    | .rst k _ => k != t
    | .rld k _ => k != t
    | .rat k _ => k != t
    | .access _ _ => true
    | .bte _ _ _ => true
    | .out _ => true)

/-- Whether every access of a strand that a release or an engine command must come after has been performed (R240, R249). -/
def State.settled (s : State) (t : Nat) : Bool := (s.strand t).drained && s.fabricIdle t

/-- The leaf of a location; 0 for the window. -/
def Loc.leaf : Loc → Nat
  | .phys _ leaf => leaf
  | .win _ _ => 0

/-- The ordering kind of a location's page: the window's is RC (R244-R247). -/
def Loc.kind (l : Loc) : Nat := leafKind l.leaf

/-- Whether a location is another die's memory, which the fabric carries (R177, R389, R390). -/
def State.isFar (s : State) (c : Nat) (l : Loc) : Bool :=
  match l with
  | .phys pa _ => decide (pa < 2 ^ 51) && pa >>> 37 != s.fid (s.lc c).die
  | .win _ _ => false

/-- The scope of an access: one to host memory is at system scope (R58). -/
def Loc.scope (l : Loc) (scope : Nat) : Nat :=
  match l with
  | .phys pa _ => if pa >>> 50 = 2 then 8 else scope
  | .win _ _ => scope

/-- A pending access of the issuing strand. -/
def State.access (s : State) (op : AccOp) (va size cls scope data data2 : Nat) (dst : AccDst) (kind : Nat) (l : Loc) : Access :=
  { op := op, num := 0, far := s.isFar s.myLc l, ahead := [], gid := s.me.gid, va := va, pa := l.key, size := size, cls := cls,
    scope := l.scope scope, kind := kind, data := data, data2 := data2, dst := dst, leaf := l.leaf, sent := false, guess := 0, stale := false }

/-! ### When an access may be performed -/

/-- Whether two accesses touch a common 8-byte unit. -/
def Access.meets (x y : Access) : Bool :=
  decide (x.pa / 8 ≤ (y.pa + y.size - 1) / 8) && decide (y.pa / 8 ≤ (x.pa + x.size - 1) / 8)

/-- Whether an access changes memory at an address (a channel entry's copy and a signal have their own places). -/
def AccOp.atMem : AccOp → Bool
  | .load => true
  | .store => true
  | .atomic _ => true
  | .xadd _ => true
  | .pop _ _ _ _ => false
  | .arrive _ _ => false
  | .csig _ _ _ => false
  | .tinv _ => false
  | .rld _ => true
  | .rat _ => true

/-- Whether an access is the update of an arrival record. -/
def AccOp.isArrival : AccOp → Bool
  | .arrive _ _ => true
  | _ => false

/-- Whether an access is a TINV's wait. -/
def AccOp.isTinv : AccOp → Bool
  | .tinv _ => true
  | _ => false

/-- Whether an access is a release (R240), or an update or signal that acts as one (R251). -/
def Access.releases (e : Access) : Bool :=
  match e.op with
  | .arrive _ _ => true
  | .csig _ _ _ => true
  | .tinv _ => false
  | .rld _ => false
  | .rat _ => false
  | .load => false
  | .pop _ _ _ _ => false
  | .store => (e.cls == 3 || e.cls == 4) && e.kind != 2
  | .atomic _ => (e.cls == 3 || e.cls == 4) && e.kind != 2
  | .xadd _ => false

/-- Whether a release may be performed ahead of earlier accesses to other units: its order binds only the agents of its scope, which
wait for those accesses (`State.owed`); beyond the package no agent could be made to wait (R240). -/
def Access.narrow (e : Access) : Bool :=
  decide (e.scope ≤ 5) && match e.op with
    | .store => true
    | .atomic _ => true
    | _ => false

/-- Whether earlier access `p` of the strand holds back access `e`: the same unit (R237; a load at home may read the strand's own
pending stores, R238); a release (R240), of which that of an arrival record covers UO accesses too (R246, R251); two SO accesses
(R244); TINV's first wait (R397). -/
def Access.holds (p e : Access) : Bool :=
  (p.op.atMem && e.op.atMem && p.meets e && !(e.op == .load && !e.far && (p.op == .store || p.op == .load)))
    || (e.releases && !e.narrow && (p.kind != 2 || e.op.isArrival))
    || (p.kind == 1 && e.kind == 1)
    || e.op.isTinv

/-- Whether the access that follows `earlier` in its strand may be performed now. -/
def mayPerform (earlier : List Access) (e : Access) : Bool := earlier.all (fun p => !p.holds e)

/-- Whether two ranges of bytes touch a common 8-byte unit. -/
def unitsMeet (a n b m : Nat) : Bool := decide (a / 8 ≤ (b + m - 1) / 8) && decide (b / 8 ≤ (a + n - 1) / 8)

/-- Whether an earlier remote operation of strand `t` to a unit of an access is still unanswered (R237, R239). -/
def State.remoteFirst (s : State) (t : Nat) (e : Access) : Bool :=
  s.txns.any (fun x => decide (x.num < e.num) && e.op.atMem && unitsMeet x.addr x.len e.pa e.size && match x.purpose with
    | .rst k _ => k == t
    | .rld k _ => k == t
    | .rat k _ => k == t
    | .access _ _ => false
    | .bte _ _ _ => false
    | .out _ => false)

end Sys2Proof.Machine
end

