-- ==== Sys2Proof/Machine/View.lean ====
section
/-! DEFINITION. What a load may return (R233-R247): the versions of an 8-byte unit that the coherence order, the strand's own order and
what happens before the load leave open. A load that reads an older version stands for one performed earlier than its place in the
step order (R239, R242). -/

namespace Sys2Proof.Machine

/-! ### Scopes (R233) -/

/-- The logical core that an agent acts for. -/
def Actor.lc : Actor → Option Nat
  | .strand t => some (lcOf t)
  | .engine l => some l
  | .unit _ => none
  | .host => none

/-- The package of an agent; the host is in none. -/
def State.pkgOf (s : State) : Actor → Option Nat
  | .strand _ => some s.env.pkgNo
  | .engine _ => some s.env.pkgNo
  | .unit f => some (f / 8)
  | .host => none

/-- The least scope of an agent that holds another (R233). It is the same for both. -/
def State.apart (s : State) (a b : Actor) : Nat :=
  if a = b then 0
  else match a.lc, b.lc with
    | some l, some m =>
      if l = m then 1
      else if slotOf l = slotOf m then 2
      else if (s.lc l).die = (s.lc m).die then 3
      else if (s.lc l).die / 2 = (s.lc m).die / 2 then 4
      else 5
    | _, _ =>
      match s.pkgOf a, s.pkgOf b with
      | some p, some q => if p = q then 5 else if rackOf p = rackOf q then 6 else 7
      | _, _ => 8

/-- Whether a strong access by an agent at a scope and a store are mutually strong (R235). -/
def State.mutual (s : State) (a : Actor) (scope : Nat) (w : Past) : Bool := w.strong && decide (s.apart a w.who ≤ min scope w.scope)

/-! ### Versions -/

/-- The stores to a unit, the latest first. -/
def State.storesTo (s : State) (unit : Nat) : List Past := s.past.filter (fun w => w.unit == unit)

/-- The stores to the unit of an access, the latest first. -/
def State.storesOf (s : State) (e : Access) : List Past := if e.pa < 2 ^ 52 then s.storesTo (e.pa / 8) else []

/-- The store count up to which strong loads must have seen the stores of agents that only a scope of at least `d` holds (R240, R243). -/
def View.seenFrom (v : View) (d : Nat) : Nat := v.near.foldl (fun m e => if d ≤ e.1 then max m e.2 else m) v.seen

/-- The same of loads through UO pages (R246). -/
def View.uoFrom (v : View) (d : Nat) : Nat := v.uoNear.foldl (fun m e => if d ≤ e.1 then max m e.2 else m) v.uo

/-- The store count up to which a load by strand `t` must have seen a store (R237, R240, R242-R244, R246); on a UO page every access acts as
weak. -/
def State.floorOf (s : State) (t : Nat) (e : Access) (w : Past) : Nat :=
  let v := (s.strand t).view
  let d := s.apart (.strand t) w.who
  let order := if e.kind = 2 then v.uoFrom d else if e.cls != 0 && s.mutual (.strand t) e.scope w then v.seenFrom d else v.sync
  max (max order (if e.kind = 1 then v.so else 0)) (tget 0 v.units (e.pa / 8))

/-- The stores that a load by strand `t` need not have seen, the latest first: its value may be what any of them replaced. -/
def State.unseen (s : State) (t : Nat) (e : Access) : List Past :=
  (s.storesOf e).takeWhile (fun w => decide (s.floorOf t e w < w.time))

/-- How many of them a load passes over, as asked; none where there are not so many. -/
def State.pass (s : State) (t : Nat) (e : Access) (v : Nat) : Nat := if v ≤ (s.unseen t e).length then v else 0

/-- The bytes that a load which passes over `k` stores reads. -/
def State.version (s : State) (e : Access) (k : Nat) : List Byte :=
  match k with
  | 0 => s.readLoc (keyLoc e.pa e.leaf) e.size
  | n + 1 =>
    match (s.storesOf e)[n]? with
    | some w => slice w.old (e.pa % 8) e.size
    | none => s.readLoc (keyLoc e.pa e.leaf) e.size

/-- The releases that a load of the version a store made reads from: that store, and, behind atomics, earlier ones (R241). -/
def heads : List Past → List Past
  | [] => []
  | w :: t => (if w.rel.isSome then [w] else []) ++ (if w.rmw then heads t else [])

/-- Whether the scope of a release holds strand `t` (R241). -/
def State.relHolds (s : State) (t : Nat) (w : Past) : Bool :=
  match w.rel with
  | some r => decide (s.apart (.strand t) w.who ≤ r)
  | none => false

/-- Whether a store wrote a byte that an access reads. -/
def Past.gives (w : Past) (e : Access) : Bool :=
  decide (w.unit * 8 + w.first < e.pa + e.size) && decide (e.pa < w.unit * 8 + w.first + w.len)

/-- Whether an access is an acquire (R240, R246). -/
def Access.acquires (e : Access) : Bool := (e.cls == 2 || e.cls == 4) && e.kind != 2

/-- What a strand's view becomes by a load that passes over `k` stores: the releases that it reads from are those of the stores that wrote
bytes of its (R241); it synchronises with one whose agent its scope holds, as an acquire now, otherwise by an acquire fence after it. -/
def State.sawLoad (s : State) (t : Nat) (e : Access) (k : Nat) : State :=
  let ws := (s.storesOf e).drop k
  let rels := (heads (ws.filter (fun w => w.gives e))).filter (s.relHolds t)
  let at0 := match ws.head? with
    | some w => w.time
    | none => 0
  let at' := rels.foldl (fun m w => max m w.cover) at0
  let sync := (rels.filter (fun w => decide (s.apart (.strand t) w.who ≤ e.scope))).foldl (fun m w => max m w.cover) 0
  s.modStrand t (fun st =>
    let v := st.view
    let v := { v with units := tset 0 v.units (e.pa / 8) (max at0 (tget 0 v.units (e.pa / 8))) }
    let v := if e.kind = 2 then { v with uoAt := max v.uoAt at' } else { v with ldAt := max v.ldAt at' }
    let v := if e.kind = 1 then { v with so := max v.so at' } else v
    let v := if e.acquires then { v with seen := max v.seen at', sync := max v.sync sync } else v
    let v := if e.kind = 2 then v else { v with heard := v.heard ++ rels.map (fun w => (w.cover, w.who)) }
    { st with view := v })

/-- What is known of the stores of an access noted since store count `t0`, and what its strand's view becomes (R235, R240, R243). -/
def State.sawStore (s : State) (t : Nat) (e : Access) (t0 : Nat) (rmw : Bool) : State :=
  let v := (s.strand t).view
  let strong := e.cls != 0 && e.kind != 2
  let rel := if e.releases then some (max e.scope (v.fenced.getD 0)) else if strong then v.fenced else none
  let s := s.mark t0 (fun w =>
    { w with who := .strand t, num := if e.kind = 2 then none else some e.num, strong := strong, scope := e.scope, rel := rel, rmw := rmw })
  if s.vtime = t0 then s
  else s.modStrand t (fun st =>
    let v := st.view
    let v := { v with units := tset 0 v.units (e.pa / 8) s.vtime }
    let v := if e.kind = 2 then { v with uoAt := s.vtime } else { v with stAt := s.vtime }
    { st with view := if e.kind = 1 then { v with so := s.vtime } else v })

/-! ### Synchronisation -/

/-- Strand `t` must see every store performed by now, UO accesses included: a completed wait on an arrival record, EFENCE, a move of
its logical core (R234, R246, R250). -/
def State.syncAll (s : State) (t : Nat) : State := s.modStrand t (fun st => { st with view := { (View.upTo s.vtime) with fenced := st.view.fenced } })

/-- A move of logical core `l` is a full fence at system scope: its strands and its commands must see every store performed by now (R234). -/
def State.fenceLc (s : State) (l : Nat) : State :=
  let s := (strandsOf l).foldl (fun s t => if (s.strand t).occ then s.syncAll t else s) s
  s.modLc l (fun c => { c with edt := c.edt.map (fun k => { k with view := View.upTo s.vtime }) })

/-- Strand `t` must see every store performed by now, except through UO pages: a completed pop, barrier or flag wait (R251, R253). -/
def State.syncStrong (s : State) (t : Nat) : State :=
  s.modStrand t (fun st => { st with view := { st.view with seen := s.vtime, sync := s.vtime } })

/-- The greater of a count and what a table has at a scope. -/
def atScope (v : Tab Nat) (scope n : Nat) : Tab Nat := tset 0 v scope (max n (tget 0 v scope))

/-- What a fence that issues does for strand `t` (R243): an acquire fence orders earlier loads before later accesses, a full fence every
earlier access, UO accesses included, for the agents of its scope; a load before it acts as an acquire; a release or full fence makes
later strong stores releases at its scope, and stands between the accesses that are not yet performed and later ones. -/
def State.fenceView (s : State) (t kind scope : Nat) : State :=
  s.modStrand t (fun st =>
    let v := st.view
    let heard := (v.heard.filter (fun h => decide (s.apart (.strand t) h.2 ≤ scope))).foldl (fun m h => max m h.1) 0
    let v := if kind = 1 then v else { v with near := atScope v.near scope v.ldAt, sync := max v.sync heard }
    let v := if kind = 2 then
        let m := max (max v.ldAt v.stAt) v.uoAt
        { v with near := atScope v.near scope m, uoNear := atScope v.uoNear scope m }
      else v
    let v := if kind = 0 then v
      else { v with fenced := some (max scope (v.fenced.getD 0)), fences := if st.acc.isEmpty then [] else v.fences ++ [(st.accNo, scope, kind == 2)] }
    { st with view := v })

/-- The fences of a strand that stand between an earlier access and a later one, and order them: of UO accesses, full fences alone
(R243, R246). -/
def View.between (v : View) (p e : Access) : List (Nat × Nat × Bool) :=
  v.fences.filter (fun f => decide (p.num < f.1) && decide (f.1 ≤ e.num) && (f.2.2 || p.kind != 2 && e.kind != 2))

/-- The widest scope at which a store is ordered after an earlier access of its strand that it is performed ahead of: its own as a release,
and those of the fences between them (R240, R243). -/
def View.orders (v : View) (p e : Access) : Option Nat :=
  match (if e.releases && p.kind != 2 then [e.scope] else []) ++ (v.between p e).map (·.2.1) with
  | [] => none
  | r :: rs => some (rs.foldl max r)

/-- Whether an access brings its strand a value. -/
def AccOp.answers : AccOp → Bool
  | .load => true
  | .atomic _ => true
  | .rld _ => true
  | .rat _ => true
  | .store => false
  | .xadd _ => false
  | .pop _ _ _ _ => false
  | .arrive _ _ => false
  | .csig _ _ _ => false
  | .tinv _ => false

/-- Whether a load of strand `t` must wait: a full fence stands between an access of its own that is not yet performed and it; or a store to
its unit that another strand made was performed ahead of accesses that come before that one at a scope that holds `t` (R240, R243). A store
waits for none: it hides the other's value. -/
def State.owed (s : State) (t : Nat) (e : Access) : Bool :=
  e.op.answers && ((s.strand t).acc.any (fun p => ((s.strand t).view.between p e).any (·.2.2))
    || s.strands.any (fun u => u.1 != t && u.2.acc.any (fun a =>
        a.ahead.any (fun h => h.1 == e.pa / 8 && decide (s.apart (.strand t) (.strand u.1) ≤ h.2)))))

/-- Marks the accesses of strand `t` that a store of its to a unit is performed ahead of, where an order binds the two. -/
def State.overtake (s : State) (t : Nat) (e : Access) (unit : Nat) : State :=
  s.modStrand t (fun st =>
    { st with acc := st.acc.map (fun p =>
        if e.num ≤ p.num then p
        else match st.view.orders p e with
          | some r => { p with ahead := (unit, r) :: p.ahead }
          | none => p) })

/-- Access `i` of strand `t` is performed: a release that overtook it covers what has been performed by now (R240). -/
def State.retire (s : State) (t i : Nat) : State :=
  match (s.strand t).acc[i]? with
  | none => s
  | some e =>
    let s := { s with past := s.past.map (fun (w : Past) =>
      if w.who == Actor.strand t && w.rel.isSome && e.ahead.any (fun h => h.1 == w.unit) then { w with cover := s.vtime } else w) }
    s.modStrand t (fun st => { st with acc := ldel st.acc i, view := if st.acc.length ≤ 1 then { st.view with fences := [] } else st.view })

/-! ### Loads of engine commands (R249) -/

/-- Whether a store is one that a command's strand made before the command's issue, UO stores aside. -/
def Cmd.followsStore (l : Nat) (k : Cmd) (w : Past) : Bool :=
  w.who == Actor.strand (l * 4 + k.strand) && match w.num with
    | some n => decide (n < k.after)
    | none => false

/-- The store count up to which a load of a command through a page of a kind must have seen a store: what happens before the command's issue
has been seen; on a UO page that takes a full fence at package scope or wider (R242, R249). -/
def State.cmdFloor (s : State) (l : Nat) (k : Cmd) (kind : Nat) (w : Past) : Nat :=
  let d := s.apart (.engine l) w.who
  if kind = 2 then k.view.uoFrom (max 5 d)
  else
    max (if k.followsStore l w then w.time else 0)
      (max (if s.mutual (.engine l) 7 w then k.view.seenFrom d else k.view.sync) (tget 0 k.view.units w.unit))

/-- Reads a virtual range for a command of logical core `l`. -/
def State.cmdRead (s : State) (l : Nat) (k : Cmd) (va n : Nat) : Except Fail (List Byte) × State := s.vreadBy (s.cmdFloor l k) l va n

/-- Whether a virtual address of logical core `l` leads to host memory, which only the monitored lines are cached of (R55). -/
def State.inHost (s : State) (l va : Nat) : Bool :=
  match (s.reach1 l va .read).1 with
  | .ok (.phys pa _) => decide (pa >>> 50 = 2)
  | .ok (.win _ _) => false
  | .error _ => false

/-- One line of a control block as an engine sees it: what memory holds, or, before CBFENCE, a line cached earlier (R55, R231). -/
def State.cbLine (s : State) (l va : Nat) (now : List Byte) : List Byte × State :=
  let x := slotOf l
  let old := tget [] (s.ctx x).cbc va
  if s.inHost l va then (now, s)
  else if old.isEmpty || old.length != now.length || old == now then (now, s.modCtx x (fun c => { c with cbc := tset [] c.cbc va now }))
  else
    let (n, s) := s.tick
    if Config.useStaleLine n then (old, s) else (now, s.modCtx x (fun c => { c with cbc := tset [] c.cbc va now }))

/-- Reads a control block of `n` bytes for a command, 64-byte line by line (R231). -/
def State.cbRead (s : State) (l : Nat) (k : Cmd) (va n : Nat) : Except Fail (List Byte) × State :=
  match s.cmdRead l k va n with
  | (.error e, s) => (.error e, s)
  | (.ok bs, s) =>
    let r := (List.range ((n + 63) / 64)).foldl (fun (r : List Byte × State) i =>
      let (b, s) := r.2.cbLine l (va + 64 * i) (slice bs (64 * i) 64)
      (r.1 ++ b, s)) ([], s)
    (.ok r.1, r.2)

/-! ### Accesses issued -/

/-- Accesses are issued: they are pending after every earlier one of the strand, and take the next places in its program order. -/
def Strand.pend (st : Strand) (es : List Access) : Strand :=
  { st with acc := st.acc ++ es.zipIdx.map (fun p => { p.1 with num := st.accNo + p.2 }), accNo := st.accNo + es.length }

/-- Accesses of the issuing strand are issued. -/
def State.pend (s : State) (es : List Access) : State := s.onMe (fun st => st.pend es)

end Sys2Proof.Machine
end

