-- ==== Sys2Proof/Machine/Digest.lean ====
section
/-! DEFINITION. Keys of logical indices (R103) and the digest folds of committed stores (R154). -/

namespace Sys2Proof.Machine

/-- KeyStep (R103). -/
def keyStep (k x : W64) : W64 := (k ^^^ x) * 0xBF58476D1CE4E5B9#64
/-- GraphKey of a top-level launch number (R103). -/
def graphKeyTop (n : Nat) : W64 := keyStep 0 (BitVec.ofNat 64 n)
/-- FiringKey (R103). -/
def firingKey (g : W64) (stage q : Nat) : W64 := keyStep (keyStep g (BitVec.ofNat 64 stage)) (BitVec.ofNat 64 q)
/-- GraphKey of child `c` of a firing (R103). -/
def graphKeyChild (f : W64) (c : Nat) : W64 := keyStep f (BitVec.ofNat 64 (0x100000000 + c))

/-- FoldStore (R154): a unit's address and the unit as the store writes it. -/
def foldStore (d a x : W64) : W64 := ((d ^^^ (a * 0x9E3779B97F4A7C15#64)) ^^^ x) * 0xBF58476D1CE4E5B9#64

/-- The aligned units that bytes at an address cover, each with the bytes at their places and zero elsewhere (R154). -/
def unitData (a : Nat) (bs : List Byte) : List (W64 × W64) :=
  (unitsOf a bs.length).map (fun u =>
    (BitVec.ofNat 64 u, BitVec.ofNat 64 (leNat ((List.range 8).map (fun i => if a ≤ u + i then bs.getD (u + i - a) 0 else 0)))))

/-- DS after a strand's store of bytes at an address (R154). -/
def foldDS (ds : W64) (a : Nat) (bs : List Byte) : W64 :=
  (unitData a bs).foldl (fun d e => foldStore d e.1 e.2) ds

/-- S after an engine's store of bytes at an address (R154). -/
def foldS (sp : W64) (a : Nat) (bs : List Byte) : W64 :=
  (unitData a bs).foldl (fun d e => d + foldStore 0 e.1 e.2) sp

/-- Folds a store of the issuing strand into DS, where DET is set; a store through the logical-core window is no global store
(R154, R183). -/
def State.foldMine (s : State) (a : Nat) (bs : List Byte) : State :=
  if s.myCtx.det && !(decide (Config.windowBase ≤ a) && decide (a < 2 ^ 56)) then
    s.onMe (fun st => { st with dgsta := foldDS st.dgsta a bs })
  else s

/-- The value F of a firing so far (R154). -/
def Strand.digestF (st : Strand) : W64 := st.dgsta + st.dgste

end Sys2Proof.Machine
end

