-- ==== Sys2Proof/Machine/Edt.lean ====
section
/-! DEFINITION. The engine dependency table: footprints and edges (R194-R197), arrival records (R199-R203), and the reporting of
engine faults (R189, R459). -/

namespace Sys2Proof.Machine

/-! ### Footprints -/

/-- Entries of a table (R194). -/
def edtSize : Nat := 32

/-- A scratchpad range. -/
def spadRange (a n : Nat) : Range := { start := a, len := n, sstart := 0, slen := 0 }

/-- A scratchpad range with the side lines that cover `m` bytes at side offset `o` (R195). -/
def bothRange (a n o m : Nat) : Range :=
  { start := a, len := n, sstart := if m = 0 then 0 else o / 64, slen := if m = 0 then 0 else (o + m - 1) / 64 + 1 - o / 64 }

/-- The whole scratchpad and side bank (R204, R428). -/
def wholeRange : Range := { start := 0, len := 0x100000, sstart := 0, slen := 1024 }

/-- A footprint word (R195). -/
def rangeWord (r : Range) : Nat := r.start + r.len * 2 ^ 20 + r.sstart * 2 ^ 41 + r.slen * 2 ^ 51
/-- A range from its footprint word. -/
def rangeOf (w : Nat) : Range :=
  { start := bitsOf w 19 0, len := bitsOf w 40 20, sstart := bitsOf w 50 41, slen := bitsOf w 61 51 }

/-- Whether a range passes the local space (R195). -/
def Range.fits (r : Range) : Bool := decide (r.start + r.len ≤ 0x100000) && decide (r.sstart + r.slen ≤ 1024)

/-- Whether two ranges share a scratchpad byte or a side line (R195). -/
def Range.meets (x y : Range) : Bool :=
  (decide (0 < x.len) && decide (0 < y.len) && decide (x.start < y.start + y.len) && decide (y.start < x.start + x.len))
    || (decide (0 < x.slen) && decide (0 < y.slen) && decide (x.sstart < y.sstart + y.slen) && decide (y.sstart < x.sstart + x.slen))

/-- Whether an older command gives a younger one an edge (R196). -/
def Cmd.edge (x y : Cmd) : Bool :=
  x.wr.meets y.rd1 || x.wr.meets y.rd2 || x.rd1.meets y.wr || x.rd2.meets y.wr || x.wr.meets y.wr

/-- The smallest range that covers two ranges. -/
def Range.hull (x y : Range) : Range :=
  let (a, n) := if x.len = 0 then (y.start, y.len) else if y.len = 0 then (x.start, x.len)
    else (min x.start y.start, max (x.start + x.len) (y.start + y.len) - min x.start y.start)
  let (b, m) := if x.slen = 0 then (y.sstart, y.slen) else if y.slen = 0 then (x.sstart, x.slen)
    else (min x.sstart y.sstart, max (x.sstart + x.slen) (y.sstart + y.slen) - min x.sstart y.sstart)
  { start := a, len := n, sstart := b, slen := m }

/-! ### Entries -/

/-- A command of a logical core. -/
def LCore.cmd? (c : LCore) (id : Nat) : Option Cmd := c.edt.find? (fun k => k.id == id)
/-- Changes a command. -/
def LCore.modCmd (c : LCore) (id : Nat) (f : Cmd → Cmd) : LCore :=
  { c with edt := c.edt.map (fun k => if k.id == id then f k else k) }
/-- Changes a command of logical core `l`. -/
def State.modCmd (s : State) (l id : Nat) (f : Cmd → Cmd) : State := s.modLc l (fun c => c.modCmd id f)
/-- The commands older than a command, in issue order. -/
def LCore.older (c : LCore) (id : Nat) : List Cmd := c.edt.takeWhile (fun k => k.id != id)
/-- A command's index in the table: its place in issue order (R186 EDTIX). -/
def LCore.edtix (c : LCore) (id : Nat) : Nat := (c.older id).length
/-- Whether no older command gives a command an edge (R196). -/
def LCore.clear (c : LCore) (k : Cmd) : Bool := (c.older k.id).all (fun x => !x.edge k)

/-- A fresh entry. -/
def Cmd.new (id strand gid : Nat) (fkey : W64) (kind : CmdKind) : Cmd :=
  { id := id, strand := strand, after := 0, view := View.upTo 0, gid := gid, fkey := fkey, kind := kind, st := 0, queued := false, snapped := false, fault := none,
    reported := false, xv := 0, cix := 0, word := 0, k := 0, a := 0, b := 0, c := 0, bank := BankDecl.none, rd1 := Range.empty, rd2 := Range.empty,
    wr := Range.empty, spart := 0, snap := [], snap2 := [], rows := 0, chunks := 0, pos := 0, emitted := 0, dstate := 0,
    fletA := 0, fletB := 0, match1 := 0xFFFFFFFF, buckets := [], outs := [], vals := [], sat := false }

/-- Places a command of the issuing strand in its table (R425); with the table full the bundle blocks before issue (R194). -/
def State.place1 (s : State) (kind : CmdKind) (f : Cmd → Cmd) : State :=
  let l := s.myLc
  let c := s.lc l
  if edtSize ≤ c.edt.length then s.block
  else
    let st := s.me
    let det := s.myCtx.det
    let k := f { Cmd.new c.nextCmd (s.cur % 4) st.gid st.fkey kind with after := st.accNo, view := st.view }
    let k := { k with cix := if det then st.ecmd else 0 }
    let s := s.setLc l { c with edt := c.edt ++ [k], nextCmd := c.nextCmd + 1 }
    let s := if det then s.onMe (fun st => { st with ecmd := st.ecmd + 1 }) else s
    { s with latch := { s.latch with cmds := s.latch.cmds ++ [k.id] } }

/-- A command completes: it leaves the table, and under DET its S is folded into its firing's DE (R154, R197). -/
def State.finish (s : State) (l id : Nat) : State :=
  match (s.lc l).cmd? id with
  | none => s
  | some k =>
    let s := s.modLc l (fun c =>
      { c with edt := c.edt.filter (fun x => x.id != id), mq := c.mq.filter (fun x => x != id) })
    if (s.ctx (slotOf l)).det then
      s.modStrand (l * 4 + k.strand) (fun st => { st with dgste := st.dgste + keyStep k.spart (BitVec.ofNat 64 k.cix) })
    else s

/-- A command faults: it stays in the table until the fault is reported (R189, R197). `reason` and so on are those of R186 and
R221. -/
def State.faultCmd (s : State) (l id : Nat) (addr : Nat) (info : Nat) : State :=
  s.modCmd l id (fun k => { k with fault := some (trapA cEFLT (BitVec.ofNat 64 addr) (info + 256)), reported := false })

/-- A command fails as an access does: a translation fault is its EFLT; a failed access kills the context (R43, R189). -/
def State.failCmd (s : State) (l id : Nat) (f : Fail) (a : Acc) : State :=
  match f with
  | .fault _ r lv va => s.faultCmd l id va (xlInfo a r lv)
  | .mem pa st => s.failAt (.engine l id) pa st

/-- The oldest unreported fault of strand number `n` of a logical core that `p` accepts. -/
def LCore.unreported (c : LCore) (n : Nat) (p : Cmd → Bool) : Option Cmd :=
  c.edt.find? (fun k => k.strand == n && k.fault.isSome && !k.reported && p k)

/-- The trap of a reported fault: EINFO with ENG and EDTIX (R186). -/
def LCore.reportTrap (c : LCore) (k : Cmd) : Trap :=
  match k.fault with
  | some t => { t with info := t.info + BitVec.ofNat 64 (c.edtix k.id % 32 * 2 ^ 16) }
  | .none => trap0 cEFLT 256

/-- Marks a fault reported; an SKMIS entry is released (R445, R459). -/
def State.markReported (s : State) (l id : Nat) : State :=
  match (s.lc l).cmd? id with
  | none => s
  | some k =>
    if (k.fault.map (·.cause)) == some cSKMIS then s.finish l id
    else s.modCmd l id (fun k => { k with reported := true })

/-- Raises the oldest unreported fault that `p` accepts at the issuing strand's wait; otherwise goes on (R203, R459). -/
def State.reporting (s : State) (p : Cmd → Bool) (f : State → State) : State :=
  let l := s.myLc
  match (s.lc l).unreported (s.cur % 4) p with
  | some k => let t := (s.lc l).reportTrap k; (s.markReported l k.id).raise t
  | none => f s

/-- After ERET, the strand's commands whose fault was reported continue (R189). -/
def State.retryCmds (s : State) (t : Nat) : State :=
  s.modLc (lcOf t) (fun c =>
    { c with edt := c.edt.map (fun k => if k.strand == t % 4 && k.reported then { k with fault := none, reported := false } else k) })

/-! ### Arrival records (R199, R200) -/

/-- An arrival record's four words. -/
structure ArRec where
  pend : Nat
  arrv : Nat
  ipend : Nat
  iarrv : Nat
  chunk : W64
  w3 : W64
  deriving DecidableEq, Repr

/-- A record from its 32 bytes. -/
def arOf (bs : List Byte) : ArRec :=
  { pend := fld bs 0 6, arrv := fld bs 6 2, ipend := fld bs 8 6, iarrv := fld bs 14 2, chunk := BitVec.ofNat 64 (fld bs 16 8),
    w3 := BitVec.ofNat 64 (fld bs 24 8) }

/-- The bytes of a record. -/
def arBytes (r : ArRec) : List Byte :=
  leBytes 6 r.pend ++ leBytes 2 r.arrv ++ leBytes 6 r.ipend ++ leBytes 2 r.iarrv ++ leBytes 8 r.chunk.toNat ++ leBytes 8 r.w3.toNat

/-- PHASE. -/
def ArRec.phase (r : ArRec) : Bool := r.w3.getLsbD 63
/-- CHV. -/
def ArRec.chv (r : ArRec) : Bool := r.w3.getLsbD 60
/-- CBASE. -/
def ArRec.cbase (r : ArRec) : Nat := bitsOf r.w3.toNat 19 0

/-- ArUpdate (R200): subtract `b` bytes and `n` arrivals, set the chunk mask `m`, flip when both reach zero. -/
def arUpdate (r : ArRec) (b n : Nat) (m : W64) : ArRec :=
  let w3 := if r.pend < b ∨ r.arrv < n then r.w3 ||| 0x4000000000000000#64 else r.w3
  let r := { r with w3 := w3, pend := r.pend - b, arrv := r.arrv - n, chunk := if r.chv then r.chunk ||| m else r.chunk }
  if (b ≠ 0 ∨ n ≠ 0) ∧ r.pend = 0 ∧ r.arrv = 0 then
    { r with w3 := r.w3 ^^^ 0x8000000000000000#64, pend := r.ipend, arrv := r.iarrv, chunk := 0 }
  else r

/-- The record at a local address. -/
def State.arAt (s : State) (l a : Nat) : ArRec := arOf (s.lread l a 32)

/-- One update of a record, an atomic step of the arrival unit (R200). -/
def State.arStep (s : State) (l a b n : Nat) (m : W64) : State :=
  let s := s.ltouch l a 32
  s.lwrite l a (arBytes (arUpdate (s.arAt l a) b n m))

/-- The condition of ARWAIT and ARTEST (R201). -/
def ArRec.done (r : ArRec) (parity : Bool) : Bool := r.phase != parity
/-- The condition of ARWAITM and ARTESTM (R201). -/
def ArRec.doneM (r : ArRec) (parity : Bool) (k : W64) : Bool := r.phase != parity || (r.chunk &&& k) == k

/-- The chunk bits of the 512-byte chunks above CBASE that bytes of `done` cover wholly, of those that the command writes:
`written i` says whether every byte of chunk `i` that the command writes has been performed (R202). -/
def chunkBits (written : Nat → Bool) : W64 :=
  (List.range 64).foldl (fun m i => if written i then m ||| BitVec.ofNat 64 (2 ^ i) else m) 0

end Sys2Proof.Machine
end

