-- ==== Sys2Proof/Machine/Chan.lean ====
section
/-! DEFINITION. Channels (R92, R98-R101): a record of slots, each empty, reserved, published or claimed. FREE and FULL follow from
the slots. -/

namespace Sys2Proof.Machine

/-- The capacity of channel `c` of a graph: during a serial re-execution its producer's NFIRE (R156). -/
def Graph.cap (g : Graph) (c : Nat) : Nat :=
  if g.wide then ((g.stages.find? (fun d => d.outmask.getLsbD c)).map (·.nfire)).getD 1 else (g.chans[c]?.map (·.cap)).getD 1

/-- A channel's declaration. -/
def Graph.chan? (g : Graph) (c : Nat) : Option ChanD := g.chans[c]?
/-- A channel's record. -/
def Graph.chrec (g : Graph) (c : Nat) : Chan := g.cst.getD c { head := 0, tail := 0, pops := 0, pushes := 0, slots := [] }
/-- Changes a channel's record. -/
def Graph.modChan (g : Graph) (c : Nat) (f : Chan → Chan) : Graph := { g with cst := lmod f g.cst c }
/-- Whether a channel's entries stand in scratchpad. -/
def Graph.inPad (g : Graph) (c : Nat) : Bool := !g.wide && (g.chan? c).any (·.loc)
/-- Whether a channel is ORDERED. -/
def Graph.isOrdered (g : Graph) (c : Nat) : Bool := (g.chan? c).any (·.ordered)
/-- Bytes of an entry. -/
def Graph.esz (g : Graph) (c : Nat) : Nat := ((g.chan? c).map (·.esz)).getD 16

/-- A slot of a channel. -/
def Chan.slot (c : Chan) (i : Nat) : ChSlot := tget ChSlot.empty c.slots i

/-- Whether a slot holds a published entry, for firing `q` where one is named. -/
def ChSlot.full (s : ChSlot) (q : Option Nat) : Bool :=
  match s with
  | .published p _ => (match q with
    | some n => p == n
    | none => true)
  | .empty => false
  | .reserved _ _ _ => false
  | .claimed => false

/-- Whether a slot is reserved and not published. -/
def ChSlot.isReserved : ChSlot → Bool
  | .reserved _ _ _ => true
  | .published _ _ => false
  | .empty => false
  | .claimed => false

/-- FREE of a channel: slots neither reserved nor filled, nor claimed by a pop whose copy is not complete (R98). -/
def Graph.chFree (g : Graph) (c : Nat) : Nat := g.cap c - (g.chrec c).slots.length

/-- Whether a push by firing `q` may issue (R99, R100). -/
def Graph.pushOk (g : Graph) (c q : Nat) : Bool :=
  let r := g.chrec c
  if g.isOrdered c then decide (q < r.pops + g.cap c) && r.slot (q % g.cap c) == .empty
  else decide (0 < g.chFree c)

/-- The slot that a pop by firing `q` claims. -/
def Graph.popSlot (g : Graph) (c q : Nat) : Nat := if g.isOrdered c then q % g.cap c else (g.chrec c).head % g.cap c

/-- Whether a pop by firing `q` may issue (R99, R100). -/
def Graph.popOk (g : Graph) (c q : Nat) : Bool :=
  ((g.chrec c).slot (g.popSlot c q)).full (if g.isOrdered c then some q else none)

/-- Whether a pop would wait for ever (R101): nothing published or reserved, and the producer has ended all its firings. -/
def Graph.popHopeless (g : Graph) (c : Nat) : Bool :=
  (g.chrec c).slots.all (fun e => !(e.2.full none) && !e.2.isReserved) &&
    (List.range g.stages.length).all (fun i =>
      match g.stages[i]? with
      | some d => !d.outmask.getLsbD c || decide (d.nfire ≤ ((g.sst[i]?).map (·.ended)).getD 0)
      | none => true)

/-- Whether a slot is claimed. -/
def ChSlot.isClaimed : ChSlot → Bool
  | .claimed => true
  | .empty => false
  | .reserved _ _ _ => false
  | .published _ _ => false

/-- Makes room at slot `i` of a channel of `n` slots: where pops have released other slots before the one that holds it, that claim moves
to an empty slot, since FREE counts slots and no pop reads its slot again (R98, R99). -/
def Chan.makeRoom (c : Chan) (n i : Nat) : Tab ChSlot :=
  if (c.slot i).isClaimed then
    match (List.range n).find? (fun k => c.slot k == .empty) with
    | some k => tset ChSlot.empty c.slots k .claimed
    | none => c.slots
  else c.slots

/-- Reserves the slot of a push by firing `q` in strand `t`, with the entry's bytes. -/
def Graph.reserve (g : Graph) (c q t : Nat) (bytes : List Byte) : Graph :=
  let n := g.cap c
  let i := if g.isOrdered c then q % n else (g.chrec c).tail % n
  g.modChan c (fun r =>
    { r with slots := tset ChSlot.empty (r.makeRoom n i) i (.reserved q t bytes), tail := (r.tail + 1) % n })

/-- Claims the entry of a pop by firing `q`. -/
def Graph.claim (g : Graph) (c q : Nat) : Graph :=
  let n := g.cap c
  g.modChan c (fun r =>
    { r with slots := tset ChSlot.empty r.slots (g.popSlot c q) .claimed, head := (r.head + 1) % n })

/-- The slot that the end of the pop which claimed slot `i` releases: that one, or the one that its claim has moved to. -/
def Chan.claimAt (c : Chan) (i : Nat) : Nat :=
  if (c.slot i).isClaimed then i else ((c.slots.find? (fun e => e.2.isClaimed)).map (·.1)).getD i

/-- Releases a slot whose copy is complete: FREE and POPS rise (R98). -/
def Graph.freeSlot (g : Graph) (c i : Nat) : Graph :=
  g.modChan c (fun r => { r with slots := tset ChSlot.empty r.slots (r.claimAt i) .empty, pops := (r.pops + 1) % 2 ^ 32 })

/-- The scratchpad address of an entry of a LOC 1 channel. -/
def Graph.padAddr (g : Graph) (c i : Nat) : Nat := ((g.chan? c).map (·.spaddr)).getD 0 + i * g.esz c

/-- The bytes of a published entry. -/
def State.entryBytes (s : State) (x : Nat) (g : Graph) (c i : Nat) : List Byte :=
  if g.inPad c then s.lread (lcKey x (((g.chan? c).map (·.splc)).getD 0)) (g.padAddr c i) (g.esz c)
  else match (g.chrec c).slot i with
    | .published _ bs => bs
    | .reserved _ _ bs => bs
    | .empty => []
    | .claimed => []

/-- Publishes a reserved entry: the bank writes it, and it counts in PUSHES and FULL (R98). -/
def State.publish (s : State) (x gid c i : Nat) : State :=
  match (s.ctx x).graph? gid with
  | none => s
  | some g =>
    match (g.chrec c).slot i with
    | .reserved q _ bs =>
      let s := if g.inPad c then s.lwrite (lcKey x (((g.chan? c).map (·.splc)).getD 0)) (g.padAddr c i) bs else s
      let bs := if g.inPad c then [] else bs
      (s.modGraph x gid (fun g => g.modChan c (fun r =>
        { r with slots := tset ChSlot.empty r.slots i (.published q bs), pushes := (r.pushes + 1) % 2 ^ 32 }))).progress x gid
    | .empty => s
    | .published _ _ => s
    | .claimed => s

/-- CHANNEL_PUBLISH (R98, R448): once the producing strand's earlier accesses are performed. -/
def execChannelPublish (slot gid ch idx : Nat) (s : State) : Out :=
  match (s.ctx slot).graph? gid with
  | none => .next s
  | some g =>
    match (g.chrec ch).slot idx with
    | .reserved _ t _ => .next (if s.settled t then s.publish slot gid ch idx else s)
    | .empty => .next s
    | .published _ _ => .next s
    | .claimed => .next s

end Sys2Proof.Machine
end

