-- ==== Sys2Proof/Machine/Launch.lean ====
section
/-! DEFINITION. Graph descriptors: reading and checking them (R90-R93, R157), the matching of reservations (R105), and making a
graph of a context (R94, R102, R103). -/

namespace Sys2Proof.Machine

/-! ### Groups (R88, R89) -/

/-- The members of a group, ascending; group 0 holds every logical core. -/
def Ctx.members (c : Ctx) (g : Nat) : List Nat := if g = 0 then List.range c.nlc else tget [] c.groups g
/-- A member's rank (R89). -/
def Ctx.rank (c : Ctx) (g l : Nat) : Nat := ((c.members g).filter (fun m => decide (m < l))).length

/-! ### The descriptor -/

/-- A descriptor as read: its header, stage table and channel table. -/
structure GraphDesc where
  hdr : List Byte
  stab : List Byte
  ctab : List Byte
  deriving DecidableEq, Repr

/-- A stage entry from its 64 bytes (R91). -/
def stageOf (b : List Byte) : StageD :=
  { entry := BitVec.ofNat 64 (fld b 0 8), nfire := fld b 8 4, mins := fld b 12 2, maxs := fld b 14 2, pgrp := fld b 16 1,
    spri := fld b 17 1 % 8, inmask := BitVec.ofNat 64 (fld b 20 8), outmask := BitVec.ofNat 64 (fld b 28 8),
    sarg := BitVec.ofNat 64 (fld b 36 8) }

/-- A channel entry from its 32 bytes (R92). -/
def chanOf (b : List Byte) : ChanD :=
  { cap := fld b 0 2, esz := fld b 2 2, loc := bitOf (fld b 4 1) 0, ordered := bitOf (fld b 4 1) 1, hdie := fld b 5 1,
    spaddr := fld b 8 4, splc := fld b 12 2 }

/-- Consecutive parts of `k` bytes, `n` of them. -/
def parts (l : List Byte) (k n : Nat) : List (List Byte) := (List.range n).map (fun i => slice l (i * k) k)

/-- Stages of a descriptor. -/
def GraphDesc.nstg (d : GraphDesc) : Nat := fld d.hdr 4 1
/-- Channels of a descriptor. -/
def GraphDesc.nchn (d : GraphDesc) : Nat := fld d.hdr 5 1
/-- The stage entries. -/
def GraphDesc.stages (d : GraphDesc) : List StageD := (parts d.stab 64 d.nstg).map stageOf
/-- The channel entries. -/
def GraphDesc.chans (d : GraphDesc) : List ChanD := (parts d.ctab 32 d.nchn).map chanOf

/-- Whether a header is within its limits (R90). -/
def hdrOk (h : List Byte) : Bool :=
  fld h 0 4 == 0x4C475244 && decide (1 ≤ fld h 4 1) && decide (fld h 4 1 ≤ 64) && decide (fld h 5 1 ≤ 64) && fld h 6 2 == 0
    && fld h 8 8 % 64 == 0 && (fld h 5 1 == 0 || fld h 16 8 % 32 == 0) && fld h 24 40 == 0

/-- Reads a graph descriptor in full (R90); its tables are not read where the header is out of its limits. -/
def State.readGraph (s : State) (x va : Nat) : Except Fail GraphDesc × State :=
  match s.vread (launchLc x) va 64 with
  | (.error e, s) => (.error e, s)
  | (.ok h, s) =>
    if !hdrOk h then (.ok { hdr := h, stab := [], ctab := [] }, s)
    else
      match s.vread (launchLc x) (fld h 8 8) (64 * fld h 4 1) with
      | (.error e, s) => (.error e, s)
      | (.ok st, s) =>
        match s.vread (launchLc x) (fld h 16 8) (32 * fld h 5 1) with
        | (.error e, s) => (.error e, s)
        | (.ok ct, s) => (.ok { hdr := h, stab := st, ctab := ct }, s)

/-- Whether an address lies in an executable page, by the tables; no A bit is set (R91). -/
def State.executable (s : State) (x va : Nat) : Bool :=
  decide (va < Config.windowBase) &&
    match s.walkFrom 0 va 3 (s.ctx x).ptroot with
    | .ok _ e _ level => (leafCheck e level .fetch).isNone
    | .window _ _ => false
    | .fault _ _ _ => false
    | .err _ _ => false

/-- Whether a stage entry is within its limits (R91). -/
def State.stageOk (s : State) (x : Nat) (b : List Byte) : Bool :=
  let d := stageOf b
  d.entry.toNat % 64 == 0 && s.executable x d.entry.toNat && decide (1 ≤ d.nfire) && decide (1 ≤ d.mins) && decide (d.mins ≤ 1024)
    && decide (d.mins ≤ d.maxs) && decide (d.maxs ≤ 16384) && !((s.ctx x).members d.pgrp).isEmpty && decide (fld b 17 1 < 8)
    && fld b 18 2 == 0 && fld b 44 20 == 0

/-- Whether a channel entry is within its limits (R92). -/
def chanOk (b : List Byte) : Bool :=
  let d := chanOf b
  decide (1 ≤ d.cap) && decide (16 ≤ d.esz) && decide (d.esz ≤ 4096) && d.esz % 16 == 0 && decide (fld b 4 1 < 4)
    && decide (d.hdie < 8) && fld b 6 2 == 0 && fld b 14 18 == 0
    && (!d.loc || (d.spaddr % 16 == 0 && decide (d.spaddr + d.cap * d.esz ≤ 0x100000)))

/-- Indices of the stages whose mask (out: true, in: false) has channel `c`. -/
def usersOf (st : List StageD) (out : Bool) (c : Nat) : List Nat :=
  (List.range st.length).filter (fun i =>
    match st[i]? with
    | some d => (if out then d.outmask else d.inmask).getLsbD c
    | none => false)

/-- NFIRE of a stage. -/
def nfireOf (st : List StageD) (i : Nat) : Nat := ((st[i]?).map (·.nfire)).getD 0
/-- PGRP of a stage. -/
def pgrpOf (st : List StageD) (i : Nat) : Nat := ((st[i]?).map (·.pgrp)).getD 0

/-- The first condition of R93 that a descriptor meets, from 0 in that list's order, reservations and storage left out; 7 for the
channel order that DET asks for (R157). -/
def State.graphCheck (s : State) (x : Nat) (d : GraphDesc) : Option Nat :=
  let st := d.stages
  let ch := d.chans
  let n := d.nchn
  let all := fun (f : Nat → Bool) => (List.range n).all f
  let one := fun (c : Nat) => (usersOf st true c, usersOf st false c)
  if !hdrOk d.hdr || !(parts d.stab 64 d.nstg).all (s.stageOk x) || !(parts d.ctab 32 n).all chanOk then some 0
  else if st.any (fun e => decide (2 ^ n ≤ e.inmask.toNat) || decide (2 ^ n ≤ e.outmask.toNat)) then some 1
  else if !all (fun c => match one c with
      | ([p], [q]) => p != q
      | _ => false) then some 2
  else if !all (fun c => !((ch[c]?).any (·.ordered)) || nfireOf st ((one c).1.headD 0) == nfireOf st ((one c).2.headD 0)) then some 3
  else if !all (fun c => match ch[c]? with
      | some k => !k.loc || (s.ctx x).members (pgrpOf st ((one c).2.headD 0)) == [k.splc]
      | none => true) then some 4
  else if (s.ctx x).det && !all (fun c => decide ((one c).1.headD 0 < (one c).2.headD 0)) then some 7
  else none

/-! ### Hearth storage (R93, R97, log entry 14) -/

/-- Bytes of Hearth that the channels of a graph hold on a die. -/
def hearthOf (ch : List ChanD) (d : Nat) : Nat :=
  ch.foldl (fun a c => if !c.loc && c.hdie == d then a + c.cap * c.esz else a) 0

/-- Bytes of Hearth on a die that channels of every context hold. -/
def State.hearthUsed (s : State) (d : Nat) : Nat :=
  s.ctxs.foldl (fun a e => e.2.graphs.foldl (fun a g => a + hearthOf g.chans d) a) 0

/-- Whether storage for channels is left on every die. -/
def State.hearthRoom (s : State) (ch : List ChanD) : Bool :=
  (List.range 8).all (fun d => decide (s.hearthUsed d + hearthOf ch d ≤ Config.hearthSize))

/-! ### The matching of reservations (R105) -/

/-- A partial matching: (reservation, slot) pairs. -/
abbrev Matching := List (Nat × Nat)

/-- The reservation that a slot is matched with. -/
def ownerOf (m : Matching) (slot : Nat) : Option Nat := (m.find? (fun e => e.2 == slot)).map (·.1)
/-- The slot of a reservation. -/
def slotFor (m : Matching) (r : Nat) : Option Nat := (m.find? (fun e => e.1 == r)).map (·.2)

/-- Breadth-first search for a free slot: `queue` of reservations to look at, `found` of (slot, reservation it was found from).
Answers the finds with the free slot last. -/
def searchFree (cand : Nat → List Nat) (m : Matching) : Nat → List Nat → List (Nat × Nat) → Option (List (Nat × Nat))
  | 0, _, _ => none
  | _ + 1, [], _ => none
  | fuel + 1, q :: queue, found =>
    let new := (cand q).filter (fun k => !found.any (fun e => e.1 == k))
    match new.find? (fun k => (ownerOf m k).isNone) with
    | some k => some (found ++ [(k, q)])
    | none => searchFree cand m fuel (queue ++ new.filterMap (ownerOf m)) (found ++ new.map (fun k => (k, q)))

/-- Moves the matching along the path that ends in slot `k`. -/
def shiftAlong (found : List (Nat × Nat)) : Nat → Nat → Matching → Matching
  | 0, _, m => m
  | fuel + 1, k, m =>
    match found.find? (fun e => e.1 == k) with
    | none => m
    | some (_, q) =>
      let m' := (q, k) :: m.filter (fun e => e.1 != q)
      match slotFor m q with
      | some k' => shiftAlong found fuel k' m'
      | none => m'

/-- A matching of all the reservations listed, if there is one. -/
def matchAll (cand : Nat → List Nat) : List Nat → Matching → Option Matching
  | [], m => some m
  | r :: rs, m =>
    match searchFree cand m (m.length + 2) [r] [] with
    | none => none
    | some found => matchAll cand rs (shiftAlong found (found.length + 1) ((found.getLast?.map (·.1)).getD 0) m)

/-- The fixed choice of R105: each reservation in turn takes the lowest slot that still leaves a matching for those after it. -/
def chooseSlots (groups : Nat → List Nat) : List Nat → List Nat → Option Matching
  | [], _ => some []
  | r :: rs, used =>
    let free := fun (u : List Nat) (q : Nat) => (groups q).filter (fun k => !u.contains k)
    match (free used r).find? (fun k => (matchAll (free (k :: used)) rs []).isSome) with
    | none => none
    | some k => (chooseSlots groups rs (k :: used)).map (fun m => (r, k) :: m)

/-- The stage of each reservation of a graph: the stages in order, each MINS times. -/
def reservationStages (st : List StageD) : List Nat := (List.range st.length).flatMap (fun i =>
  List.replicate (((st[i]?).map (·.mins)).getD 0) i)

/-- The slots for the reservations of a graph in the context of slot `x`: (stage, strand key) pairs; none where no matching
exists. -/
def State.reserveSlots (s : State) (x : Nat) (st : List StageD) : Option (List (Nat × Nat)) :=
  let c := s.ctx x
  let rs := reservationStages st
  let slots := fun (g : Nat) => (c.members g).flatMap (fun l => (strandsOf (lcKey x l)).filter (fun t => !(s.strand t).reserved))
  let cand := fun (r : Nat) => slots (pgrpOf st (rs.getD r 0))
  if (c.nlc * 4) < rs.length then none
  else ((chooseSlots cand (List.range rs.length) []).map (fun m => m.map (fun e => (rs.getD e.1 0, e.2))))

/-! ### Graphs -/

/-- A graph made from a descriptor: every counter zero and FREE the capacity (R98). -/
def graphOf (d : GraphDesc) (gid : Nat) (live : Bool) (launch : Nat) (path : List (Nat × Nat × Nat)) (parent : Option Nat)
    (key param : W64) (now : Nat) : Graph :=
  { gid := gid, live := live, order := gid, launch := launch, path := path, parent := parent, key := key, param := param,
    hdr := d.hdr, stab := d.stab, ctab := d.ctab, stages := d.stages, chans := d.chans,
    sst := d.stages.map (fun _ => { nextq := 0, ended := 0 }),
    cst := d.chans.map (fun _ => { head := 0, tail := 0, pops := 0, pushes := 0, slots := [] }),
    dgst := 0, lastProgress := now, reported := false, serial := none, wide := false }

/-- Adds a graph to a context. -/
def State.addGraph (s : State) (x : Nat) (g : Graph) : State :=
  s.modCtx x (fun c => { c with graphs := c.graphs ++ [g], nextGid := c.nextGid + 1 })

/-- Binds reservations to slots: each serves only its stage from now on (R105). -/
def State.bind (s : State) (gid : Nat) (m : List (Nat × Nat)) : State :=
  m.foldl (fun s e => s.modStrand e.2 (fun st => { st with assign := some (gid, e.1), reserved := true, marked := false })) s

/-- Pending children of a context (R102). -/
def Ctx.pending (c : Ctx) : List Graph := c.graphs.filter (fun g => !g.live)

/-- Whether one list of components comes before another (R103: a prefix first). -/
def compLt : List Nat → List Nat → Bool
  | [], [] => false
  | [], _ :: _ => true
  | _ :: _, [] => false
  | a :: as, b :: bs => decide (a < b) || (a == b && compLt as bs)

/-- A graph's number as components: the launch number, then stage, q and call index for each depth (R103). -/
def Graph.number (g : Graph) : List Nat := g.launch :: g.path.flatMap (fun e => [e.1, e.2.1, e.2.2])

/-- Whether a graph's number comes first. -/
def Graph.before (a b : Graph) : Bool := compLt a.number b.number

/-- Graphs in logical-index order. -/
def insertGraph (g : Graph) : List Graph → List Graph
  | [] => [g]
  | h :: t => if g.before h then g :: h :: t else h :: insertGraph g t

/-- Sorts graphs into logical-index order. -/
def sortGraphs (gs : List Graph) : List Graph := gs.foldl (fun l g => insertGraph g l) []

end Sys2Proof.Machine
end

