-- ==== Sys2Proof/Machine/Mx.lean ====
section
/-! DEFINITION. The MX formats (R172, R256-R260), conversion to plane form and back (R261, R262), activation lanes (R263), QuantMX and
the value of an element (R270, R415). Format codes are those of R256: 0 MXFP4, 1 and 2 MXFP6, 3 and 4 MXFP8, 5 MXINT8, 6 BF16. -/

namespace Sys2Proof.Machine

/-! ### Formats (R256) -/

/-- Exponent bits of a floating-point element format. -/
def mxE (fmt : Nat) : Nat :=
  match fmt with
  | 0 => 2
  | 1 => 2
  | 2 => 3
  | 3 => 4
  | _ => 5
/-- Mantissa bits M. -/
def mxM (fmt : Nat) : Nat :=
  match fmt with
  | 0 => 1
  | 1 => 3
  | 2 => 2
  | 3 => 3
  | _ => 2
/-- The LSB exponent of a format. -/
def mxLam (fmt : Nat) : Int :=
  match fmt with
  | 0 => -1
  | 1 => -3
  | 2 => -4
  | 3 => -9
  | 4 => -16
  | 5 => -6
  | _ => -15
/-- The exponent of the largest finite value (R270). -/
def mxEmax (fmt : Nat) : Int :=
  match fmt with
  | 0 => 2
  | 1 => 2
  | 2 => 4
  | 3 => 8
  | 4 => 15
  | _ => 0
/-- The largest finite magnitude that a code of the format holds. -/
def mxTop (fmt : Nat) : Nat :=
  match fmt with
  | 0 => 12
  | 1 => 60
  | 2 => 448
  | 3 => 229376
  | 4 => 3758096384
  | _ => 127
/-- Bytes from one block to the next (R172). -/
def mxStride (fmt : Nat) : Nat := if fmt = 0 then 16 else if fmt = 6 then 64 else 32
/-- Bytes of a block that hold elements (R172). -/
def mxBytes (fmt : Nat) : Nat :=
  match fmt with
  | 0 => 16
  | 1 => 24
  | 2 => 24
  | 6 => 64
  | _ => 32

/-- Special classes (R174, R264): 0 finite, 1 NaN, 2 +Inf, 3 -Inf. -/
def classJoin (a b : Nat) : Nat :=
  if a = 1 ∨ b = 1 then 1 else if a = 0 then b else if b = 0 then a else if a = b then a else 1

/-- The class of an infinity. -/
def infClass (neg : Bool) : Nat := if neg then 3 else 2

/-- An element taken apart: class, sign, magnitude in units of 2^lambda. -/
structure El where
  cls : Nat
  neg : Bool
  mag : Nat
  deriving DecidableEq, Repr

/-- The extra value that a select names (R257): its signed five-bit value. -/
def xvMag (xv : Nat) : Int := sgn 5 xv

/-- An element of formats 0-5 (R256, R257). `xv` is the extra value, 0 with no select. -/
def mxEl (fmt xv code : Nat) : El :=
  if fmt = 5 then
    let v := sgn 8 code
    { cls := 0, neg := decide (v < 0), mag := v.natAbs }
  else
    let m := mxM fmt
    let e := bitsOf code (m + mxE fmt - 1) m
    let f := code % 2 ^ m
    let s := bitOf code (m + mxE fmt)
    if fmt = 0 ∧ code = 8 then { cls := 0, neg := decide (xvMag xv < 0), mag := (xvMag xv).natAbs }
    else if fmt = 3 ∧ e = 15 ∧ f = 7 then { cls := 1, neg := false, mag := 0 }
    else if fmt = 4 ∧ e = 31 then { cls := if f = 0 then infClass s else 1, neg := false, mag := 0 }
    else
      let g := if e = 0 then f else (2 ^ m + f) * 2 ^ (e - 1)
      { cls := 0, neg := s && g != 0, mag := g }

/-- The codes of a block of bytes (R172). -/
def blockCodes (fmt : Nat) (bs : List Byte) : List Nat :=
  (List.range 32).map (fun j =>
    match fmt with
    | 0 => ((bs.getD (j / 2) 0).toNat >>> (4 * (j % 2))) % 16
    | 1 => (fld bs (3 * (j / 4)) 3 >>> (6 * (j % 4))) % 64
    | 2 => (fld bs (3 * (j / 4)) 3 >>> (6 * (j % 4))) % 64
    | 6 => fld bs (2 * j) 2
    | _ => (bs.getD j 0).toNat)

/-- The bytes of a block of codes, pads zero (R172). -/
def blockBytes (fmt : Nat) (cs : List Nat) : List Byte :=
  match fmt with
  | 0 => (List.range 16).map (fun i => BitVec.ofNat 8 (cs.getD (2 * i) 0 % 16 + 16 * (cs.getD (2 * i + 1) 0 % 16)))
  | 6 => (List.range 32).flatMap (fun j => leBytes 2 (cs.getD j 0))
  | n =>
    if n = 1 ∨ n = 2 then
      (List.range 8).flatMap (fun m =>
        leBytes 3 ((List.range 4).foldl (fun a i => a + (cs.getD (4 * m + i) 0 % 64) * 2 ^ (6 * i)) 0)) ++ List.replicate 8 0
    else cs.map (fun c => BitVec.ofNat 8 c)

/-- A block taken apart: class, signs, magnitudes (fractional for BF16), SCALE. -/
structure Blk32 where
  cls : Nat
  neg : List Bool
  mag : List Dy
  scale : Nat
  deriving DecidableEq, Repr

/-- The exponent field of a BF16 code. -/
def bfE (c : Nat) : Nat := bitsOf c 14 7

/-- Decodes a block (R256-R260). -/
def decodeBlk (fmt xv sbyte : Nat) (cs : List Nat) : Blk32 :=
  if fmt = 6 then
    let exps := (cs.filter (fun c => bfE c != 255 && c % 2 ^ 15 != 0)).map (fun c => max (bfE c) 1)
    let top := exps.foldl max 0
    let scale := if exps.isEmpty then 0x7F else top
    let cls := cs.foldl (fun a c =>
      if bfE c = 255 then classJoin a (if c % 128 = 0 then infClass (bitOf c 15) else 1) else a) 0
    let g := fun (c : Nat) => if bfE c = 255 then 0 else if bfE c = 0 then c % 128 else 128 + c % 128
    { cls := cls, scale := scale, neg := cs.map (fun c => bitOf c 15 && g c != 0),
      mag := cs.map (fun c => { n := (g c : Int), e := ((max (bfE c) 1 : Nat) : Int) - (scale : Int) + 8 }) }
  else
    let es := cs.map (mxEl fmt xv)
    let cls := es.foldl (fun a e => classJoin a e.cls) 0
    { cls := if sbyte = 0xFF then 1 else cls, scale := sbyte, neg := es.map (·.neg), mag := es.map (fun e => Dy.ofInt (e.mag : Int)) }

/-- Magnitudes rounded to multiples of 2^poff. -/
def windowAt (mags : List Dy) (poff : Nat) : List Nat := mags.map (fun m => (roundNE (m.scale (-(poff : Int)))).toNat)

/-- The plane offset that keeps `b` planes from the top bit down, one more where rounding carries, and the rounded magnitudes
(R261, R263). -/
def window (mags : List Dy) (b : Nat) : Nat × List Nat :=
  let top := mags.foldl (fun (a : Dy) m => if a.lt m then m else a) (Dy.ofInt 0)
  let p := if top.n = 0 then 0 else (top.log2 + 1 - (b : Int)).toNat
  let q := windowAt mags p
  if q.all (fun x => decide (x < 2 ^ b)) then (p, q) else (p + 1, windowAt mags (p + 1))

/-- A word whose bit l is `f l`. -/
def bits32 (f : Nat → Bool) : W32 := BitVec.ofNat 32 ((List.range 32).foldl (fun a l => if f l then a + 2 ^ l else a) 0)

/-- OCC of the magnitude slots 1 to B (R174). -/
def occOf (slots : List W32) : Nat :=
  (List.range 16).foldl (fun a j => if slots.getD (j + 1) 0 != 0 then a + 2 ^ j else a) 0

/-- A side word (R174). -/
def sideWord (occ spc : Nat) (inex : Bool) (poff scale : Nat) : W32 :=
  BitVec.ofNat 32 (occ * 2 ^ 16 + spc * 2 ^ 14 + inex.toNat * 2 ^ 13 + poff % 32 * 2 ^ 8 + scale % 256)

/-- ToPlane (R261): slots 0 to B and the side word. -/
def toPlane (fmt xv b sbyte : Nat) (cs : List Nat) : List W32 × W32 :=
  let k := decodeBlk fmt xv sbyte cs
  let (poff, q) := window k.mag b
  let slots := bits32 (fun l => k.neg.getD l false && q.getD l 0 != 0) ::
    (List.range b).map (fun j => bits32 (fun l => bitOf (q.getD l 0) (b - 1 - j)))
  let inex := (List.range 32).any (fun l =>
    !(Dy.mk (q.getD l 0 : Int) (poff : Int)).eq (k.mag.getD l (Dy.ofInt 0)))
  (slots, sideWord (occOf slots) k.cls inex poff k.scale)

/-- The code of a finite value with sign `neg` and magnitude v in real units, rounded in a mode and saturating at `top` units
(R270, R262). Zero is +0. -/
def mxEncode (fmt : Nat) (mode : RMode) (top : Nat) (neg : Bool) (v : Dy) : Nat :=
  let lam := mxLam fmt
  if fmt = 5 then
    let (m, _) := roundInt mode ((if neg then v.neg else v).scale (-lam))
    let m := min m.natAbs top
    if m = 0 then 0 else unsg 8 (if neg then -(m : Int) else (m : Int))
  else if v.n = 0 then 0
  else
    let mb := mxM fmt
    let (q, qe, _) := roundQ (mb + 1) (some lam) mode neg v.n.natAbs v.e false
    let m := min (q * 2 ^ (qe - lam).toNat) top
    if m = 0 then 0
    else
      let code := if m < 2 ^ mb then m
        else
          let k := Nat.log2 m
          (k - mb + 1) * 2 ^ mb + (m / 2 ^ (k - mb) - 2 ^ mb)
      (if neg then 2 ^ (mxE fmt + mb) else 0) + code

/-- The element code that a block of a class other than finite writes (R262). -/
def specialCode (fmt cls : Nat) : Nat :=
  match fmt with
  | 0 => if cls = 3 then 15 else 7
  | 1 => if cls = 3 then 63 else 31
  | 2 => if cls = 3 then 63 else 31
  | 3 => if cls = 3 then 0xFF else 0x7F
  | 4 => if cls = 1 then 0x7F else if cls = 2 then 0x7C else 0xFC
  | 5 => if cls = 3 then 0x81 else 0x7F
  | _ => if cls = 1 then 0x7FC0 else if cls = 2 then 0x7F80 else 0xFF80

/-- Fields of a side word (R174). -/
def sideOcc (w : W32) : Nat := bitsOf w.toNat 31 16
def sideSpc (w : W32) : Nat := bitsOf w.toNat 15 14
def sidePoff (w : W32) : Nat := bitsOf w.toNat 12 8
def sideScale (w : W32) : Nat := w.toNat % 256

/-- The magnitude that slots 1 to B hold for lane l (R173). -/
def slotMag (slots : List W32) (b l : Nat) : Nat :=
  (List.range b).foldl (fun a j => 2 * a + ((slots.getD (j + 1) 0).getLsbD l).toNat) 0

/-- From plane form (R262): the codes and the scale byte. A rebuilt value beyond the format's range saturates (log entry 13). -/
def fromPlane (fmt b : Nat) (slots : List W32) (side : W32) : List Nat × Nat :=
  if sideSpc side ≠ 0 then (List.replicate 32 (specialCode fmt (sideSpc side)), sideScale side)
  else
    ((List.range 32).map (fun l =>
      let neg := (slots.getD 0 0).getLsbD l
      let m := slotMag slots b l * 2 ^ sidePoff side
      if fmt = 6 then
        (bf16.round .rne neg m (-15 + (sideScale side : Int) - 127) false).1 % 2 ^ 16
      else mxEncode fmt .rne (if fmt = 5 ∧ neg then 128 else mxTop fmt) neg { n := (m : Int), e := mxLam fmt }), sideScale side)

/-- An activation block in lanes (R263): lane values, ea, amag, class. -/
structure Lanes where
  lane : List Int
  ea : Int
  amag : Nat
  cls : Nat
  deriving DecidableEq, Repr

/-- ToLanes (R263). -/
def toLanes (fmt xv sbyte : Nat) (cs : List Nat) : Lanes :=
  let k := decodeBlk fmt xv sbyte cs
  let (p, q) := window k.mag 15
  { lane := (List.range 32).map (fun l => if k.neg.getD l false then -(q.getD l 0 : Int) else (q.getD l 0 : Int)),
    ea := mxLam fmt + (k.scale : Int) - 127 + (p : Int), amag := q.foldl (· + ·) 0, cls := k.cls }

/-! ### QuantMX (R270) and values (R415) -/

/-- QuantMX of 32 values: the codes and SCALE. -/
def quantMX (fmt : Nat) (mode : RMode) (vs : List FVal) : List Nat × Nat :=
  let fin := fun (v : FVal) => match v with
    | .fin _ _ => true
    | .inf _ => false
    | .nan _ => false
  let mag := fun (v : FVal) => match v with
    | .fin _ d => if d.n < 0 then d.neg else d
    | .inf _ => Dy.ofInt 0
    | .nan _ => Dy.ofInt 0
  if !vs.all fin then (List.replicate 32 0, 0xFF)
  else
    let top := vs.foldl (fun (a : Dy) v => if a.lt (mag v) then mag v else a) (Dy.ofInt 0)
    if top.n = 0 then (List.replicate 32 0, 0)
    else
      let s := max (-127) (min 127 (top.log2 - mxEmax fmt))
      (vs.map (fun v => mxEncode fmt mode (mxTop fmt) v.neg ((mag v).scale (-s))), (s + 127).toNat)

/-- The FP32 value of an element times 2^(SCALE - 127), with its flags (R415). -/
def dequant (fmt scale code : Nat) : Nat × Nat :=
  let e := mxEl fmt 0 code
  if scale = 0xFF ∨ e.cls = 1 then (fp32.nan, 0)
  else if e.cls = 2 then (fp32.inf, 0)
  else if e.cls = 3 then (fp32.sign true + fp32.inf, 0)
  else fp32.ofDy .rne { n := if e.neg then -(e.mag : Int) else (e.mag : Int), e := mxLam fmt + (scale : Int) - 127 } false

end Sys2Proof.Machine
end

