-- ==== Sys2Proof/Machine/Net.lean ====
section
/-! DEFINITION. The making of remote requests (R31-R33, R38, R41) and their tags (R32). -/

namespace Sys2Proof.Machine

/-! ### Requests -/

/-- A flit with every field zero. -/
def zeroFlit : Flit :=
  { typ := 0, tc := 0, ord := false, ref := false, pass := false, len := 0, op := 0, rcnt := 0, rsv := 0, src := 0, tag := 0,
    fv := false, flag := 0, addr := 0, payload := [], note := 0 }

/-- A free tag of a die (R32: 4,096 per die). -/
def State.freeTag (s : State) (d : Nat) : Option Nat :=
  let used := (s.txns.filter (fun t => t.die == d)).map (·.tag)
  let n := tget 0 s.nextTag d
  if used.length < 4096 then ((List.range (used.length + 1)).map (fun i => (n + i) % 4096)).find? (fun t => !used.contains t) else none

/-- A flit at a node goes on its way: it has arrived at its die, or waits at the node that its ring leaves from; handing it to
another node uses no ring (R28, R29). -/
def State.forward : Nat → State → Node → Flit → Bool → State
  | 0, s, _, _, _ => s
  | fuel + 1, s, n, f, recovered =>
    match s.way n (flitTarget f), n with
    | .ring r cw, _ =>
      { s with waitq := s.waitq ++ [{ node := n, ring := r, cw := cw, flit := f, inj := n, since := s.cycle, recovered := recovered,
                                      refused := false, due := 0 }] }
    | .hand m, _ => State.forward fuel s m f recovered
    | .arrived, .die d => { s with inbox := s.inbox ++ [(d, f)] }
    | .arrived, .station j => { s with inbox := s.inbox ++ [(stationDie j, f)] }

/-- A flit at a node starts on its way. -/
def State.wait (s : State) (n : Node) (f : Flit) (recovered : Bool) : State := s.forward 3 n f recovered

/-- Sends a request of a die: the flit waits for injection and the transaction is outstanding (R31-R33); `stale` where a TINV has
invalidated its translation since. -/
def State.requestAs (s : State) (stale : Bool) (d tag x : Nat) (f : Flit) (why : TxnFor) : State :=
  let f := { f with src := s.fid d, tag := tag }
  let num := match why with
    | .rst k _ => (s.strand k).accNo
    | .rld k _ => (s.strand k).accNo
    | .rat k _ => (s.strand k).accNo
    | .access _ n => n
    | .bte _ _ _ => 0
    | .out _ => 0
  let t : Txn :=
    { die := d, tag := tag, typ := f.typ, addr := f.addr, len := f.len + 1, num := num, ord := f.ord, injected := false, slot := x,
      purpose := why, stale := stale }
  let s := { s with txns := s.txns ++ [t], nextTag := tset 0 s.nextTag d ((tag + 1) % 4096) }
  s.wait (.die d) f false

/-- Sends a request of a die. -/
def State.request (s : State) (d tag x : Nat) (f : Flit) (why : TxnFor) : State := s.requestAs false d tag x f why

/-- Sends engine stores to other dies that waited for a tag of die `d`, as far as tags are free (R32, R177). -/
def State.sendHeld (d : Nat) : List Held → State → State
  | [], s => s
  | h :: t, s =>
    if h.die != d then State.sendHeld d t s
    else match s.freeTag d with
      | none => s
      | some tag => State.sendHeld d t (({ s with outq := s.outq.erase h } : State).requestAs h.stale d tag h.slot h.flit h.purpose)

/-- An RST (R33, R39). -/
def rstFlit (tc : Nat) (ord : Bool) (pa : Nat) (fv : Bool) (mode flag : Nat) (bs : List Byte) : Flit :=
  { zeroFlit with typ := 1, tc := tc, ord := ord, len := bs.length - 1, op := mode, fv := fv, flag := flag, addr := pa, payload := bs }
/-- An RLD of `n` bytes. -/
def rldFlit (pa n : Nat) : Flit := { zeroFlit with typ := 3, len := n - 1, addr := pa }
/-- An RAT with its operand bytes. -/
def ratFlit (pa op : Nat) (bs : List Byte) : Flit := { zeroFlit with typ := 5, len := bs.length - 1, op := op, addr := pa, payload := bs }

/-- The agent that issued a transaction, as R41 and R42 take it: a strand, or one BTE channel. -/
def State.txnAgent (s : State) (t : Txn) : Nat :=
  match t.purpose with
  | .rst k _ => k
  | .rld k _ => k
  | .rat k _ => k
  | .access k _ => k
  | .bte l id _ =>
    let ch := match (s.lc l).cmd? id with
      | some k => k.word.toNat / 64
      | none => 0
    2 ^ 24 + l * 8 + ch
  | .out l => 2 ^ 24 + l * 8 + 7

end Sys2Proof.Machine
end

