-- ==== Sys2Proof/Machine/Sched.lean ====
section
/-! DEFINITION. The Stage Scheduler (R81-R85, R94-R97, R102-R115): firings, children, rebalancing, residency, priorities, deadlock
reports, and the Damper's windows (R116, R117). -/

namespace Sys2Proof.Machine

/-! ### Who may run -/

/-- The graph under serial re-execution in a context (R156). -/
def Ctx.serialGraph (c : Ctx) : Option Graph := c.graphs.find? (fun g => g.serial.isSome)

/-- Whether a graph is `gid` or a descendant of it. -/
def Ctx.below (c : Ctx) (gid : Nat) : Nat → Nat → Bool
  | 0, n => n == gid
  | fuel + 1, n => n == gid || (match (c.graph? n).bind (·.parent) with
    | some p => c.below gid fuel p
    | none => false)

/-- The graphs that are `gid` or descend from it: a graph has at most seven ancestors (R102). -/
def Ctx.family (c : Ctx) (gid : Nat) : List Graph := c.graphs.filter (fun g => c.below gid 7 g.gid)

/-- The one strand of a serial re-execution: the lowest slot reserved for the graph. -/
def State.serialSlot (s : State) (x gid : Nat) : Option Nat :=
  ((s.lcKeys x).flatMap strandsOf).find? (fun t =>
    (s.strand t).reserved && ((s.strand t).assign.map (·.1)) == some gid)

/-- Whether a context runs: it exists and no pre-emption of it is under way. -/
def State.active (s : State) (x : Nat) : Bool := (s.ctx x).used && (s.ctx x).coll.isNone

/-- Whether a strand has a satisfied GBAR or a released DGST still to issue. -/
def Strand.owesIssue (st : Strand) : Bool := (st.dgstGo && st.blk == .ready) || st.gbar.any (fun m => m.met && m.tm == st.tm)

/-- Whether a strand's DGST has issued and its checkpoint is not yet compared (R83). -/
def Strand.dgstOut (st : Strand) : Bool := st.dgst.isSome && (st.blk == .after || st.blk == .halted)

/-- Whether a firing has taken the DGST trap of a mismatch, which only the runtime handles (R156). -/
def Strand.atDgstTrap (st : Strand) : Bool := st.occ && st.blk == .ready && !st.tm && st.ecause.toNat == cDGST && st.epc == st.pc

/-- Whether a strand issues a satisfied GBAR or a released DGST before its pipeline acknowledges the stop of its context (R128, R453). -/
def State.finishing (s : State) (t : Nat) : Bool :=
  let x := slotOfStrand t
  (s.ctx x).used && (s.ctx x).coll.isSome && (s.ctx x).serialGraph.isNone && (s.strand t).owesIssue

/-- Whether a strand is held stopped for a serial re-execution of a graph on another strand (R156). -/
def State.heldBack (s : State) (t : Nat) : Bool :=
  match (s.ctx (slotOfStrand t)).serialGraph with
  | some g => s.serialSlot (slotOfStrand t) g.gid != some t
  | none => false

/-- Whether a command is held stopped for a serial re-execution of another graph (R156). -/
def State.heldCmd (s : State) (l : Nat) (k : Cmd) : Bool :=
  match (s.ctx (slotOf l)).serialGraph with
  | some g => !(s.ctx (slotOf l)).below g.gid 7 k.gid
  | none => false

/-- A logical core as its engines go on with it: commands held stopped are set aside (R156). -/
def State.engLc (s : State) (l : Nat) : LCore :=
  let c := s.lc l
  if (s.ctx (slotOf l)).serialGraph.isNone then c
  else
    let on := c.edt.filter (fun k => !s.heldCmd l k)
    { c with edt := on, mq := c.mq.filter (fun i => on.any (fun k => k.id == i)) }

/-- Whether the engines of a logical core begin work: it is resident, and no stop has been requested of its context (R129, R131). -/
def State.mayBegin (s : State) (l : Nat) : Bool :=
  (s.engLc l).core.isSome && !(s.engLc l).stopping && (s.ctx (slotOf l)).coll.isNone

/-- Whether a strand may run now: its context runs, and it is not held for a serial re-execution; or it has an issue to finish. -/
def State.mayRun (s : State) (t : Nat) : Bool :=
  !(s.lc (lcOf t)).stopping && (s.finishing t || (s.active (slotOfStrand t) && !s.heldBack t))

/-- A strand that could issue. -/
def Strand.isReady (st : Strand) : Bool := st.occ && st.blk == .ready

/-- Progress of a stage. -/
def Graph.stageS (g : Graph) (i : Nat) : StageS := g.sst.getD i { nextq := 0, ended := 0 }
/-- NFIRE of a stage of a graph. -/
def Graph.nfire (g : Graph) (i : Nat) : Nat := nfireOf g.stages i

/-- Whether every stage of a graph has ended all its firings. -/
def Graph.allEnded (g : Graph) : Bool := (List.range g.stages.length).all (fun i => decide (g.nfire i ≤ (g.stageS i).ended))

/-- The next firing of a serial re-execution: the lowest unstarted one of the graph and its descendants in logical-index order,
while none is running (R103, R156). -/
def State.serialNext (s : State) (x : Nat) (g : Graph) : Option (Nat × Nat) :=
  let fam := sortGraphs ((s.ctx x).family g.gid)
  if fam.any (fun h => (List.range h.stages.length).any (fun i => decide ((h.stageS i).ended < (h.stageS i).nextq))) then none
  else (fam.flatMap (fun h => (List.range h.stages.length).map (fun i => (h.gid, i)))).find? (fun e =>
    match (s.ctx x).graph? e.1 with
    | some h => decide ((h.stageS e.2).nextq < h.nfire e.2)
    | none => false)

/-- The stage whose next firing an idle slot may start (R94, R106). -/
def State.startOf (s : State) (t : Nat) : Option (Nat × Nat) :=
  let st := s.strand t
  let x := slotOfStrand t
  if st.occ then none
  else match (s.ctx x).serialGraph with
    | some g => if s.serialSlot x g.gid = some t then s.serialNext x g else none
    | none =>
      match st.assign with
      | none => none
      | some (gid, i) =>
        match (s.ctx x).graph? gid with
        | some g => if g.live && decide ((g.stageS i).nextq < g.nfire i) then some (gid, i) else none
        | none => none

/-! ### Firings (R94-R97) -/

/-- A slot as a firing finds it: every register zero but those of R94; what the slot still holds of earlier firings' accesses, and
its assignment, stay. The firing sees the `seen` stores performed so far (log entry 66). -/
def Strand.start (old : Strand) (now seen : Nat) (g : Graph) (i q : Nat) (tvb : W64) : Strand :=
  let d := g.stages[i]?
  let entry := (d.map (·.entry)).getD 0
  let key := firingKey g.key i q
  { Strand.idle with
    occ := true, since := now, began := now, gid := g.gid, stage := i, q := q, depth := g.path.length,
    call := ((g.path.getLast?).map (fun e => e.2.2)).getD 0, fkey := key, entry := entry, pc := entry, tvb := tvb,
    g := (((Strand.idle.gSet 1 g.param).gSet 2 ((d.map (·.sarg)).getD 0)).gSet 3 (BitVec.ofNat 64 q)).gSet 4 key |>.g,
    acc := old.acc, accNo := old.accNo, view := View.upTo seen, assign := old.assign, reserved := old.reserved, marked := old.marked }

/-- Whether a slot's firing may start now: its logical core is resident and runs. -/
def State.canStart (s : State) (t : Nat) : Bool := (s.lc (lcOf t)).core.isSome && s.mayRun t

/-- Whether a firing of a stage that starts in slot `t` would break the order of R95: a lower slot may start one in this cycle, or a
higher one has. -/
def State.outOfTurn (s : State) (t gid i : Nat) : Bool :=
  let all := (s.lcKeys (slotOfStrand t)).flatMap strandsOf
  all.any (fun u => (decide (u < t) && s.canStart u && s.startOf u == some (gid, i))
    || (decide (t < u) && (s.strand u).occ && (s.strand u).gid == gid && (s.strand u).stage == i && (s.strand u).began == s.cycle))

/-- Slots assigned to a stage with no firing left to start become idle (R106). -/
def State.dropSpare (s : State) (x gid i : Nat) : State :=
  match (s.ctx x).graph? gid with
  | none => s
  | some g =>
    if (g.stageS i).nextq < g.nfire i ∨ (s.ctx x).serialGraph.isSome then s
    else ((s.lcKeys x).flatMap strandsOf).foldl (fun s t =>
      if (s.strand t).assign == some (gid, i) && !(s.strand t).occ && !(s.strand t).reserved then
        s.modStrand t (fun st => { st with assign := none, marked := false })
      else s) s

/-- FIRING_START: the stage's next firing starts in an assigned slot of a resident logical core (R94, R95). -/
def execFiringStart (t : Nat) (s : State) : Out :=
  let x := slotOfStrand t
  match s.startOf t with
  | none => .next s
  | some (gid, i) =>
    match (s.ctx x).graph? gid with
    | none => .next s
    | some g =>
      if !s.canStart t || s.outOfTurn t gid i then .next s
      else
        let q := (g.stageS i).nextq
        let s := s.modStrand t (fun st => st.start s.cycle s.vtime g i q (s.ctx x).tvb)
        .next (((s.modGraph x gid (fun g => { g with sst := lmod (fun p => { p with nextq := q + 1 }) g.sst i })).progress x gid).dropSpare x gid i)

/-- The digest term of a firing (R154). -/
def Strand.digestTerm (st : Strand) : W64 := keyStep st.fkey st.digestF

/-- A firing's end folds its digest into its graph's part and CTXDGST (R154, R155), and into a serial re-execution's V unless its
checkpoint has been passed (R156). -/
def State.foldFiring (s : State) (t : Nat) : State :=
  let x := slotOfStrand t
  let st := s.strand t
  if !(s.ctx x).det then s
  else
    let d := st.digestTerm
    let s := s.modCtx x (fun c => { c with ctxdgst := c.ctxdgst + d })
    let s := s.modGraph x st.gid (fun g => { g with dgst := g.dgst + d })
    match (s.ctx x).serialGraph with
    | some g => if st.dgstGo then s else s.modGraph x g.gid (fun g => { g with serial := g.serial.map (fun r => { r with v := r.v + d }) })
    | none => s

/-- The slots bound to a stage become idle when all its firings have ended (R105, R106). -/
def State.freeStage (s : State) (x gid i : Nat) : State :=
  ((s.lcKeys x).flatMap strandsOf).foldl (fun s t =>
    if (s.strand t).assign == some (gid, i) then s.modStrand t (fun st => { st with assign := none, reserved := false, marked := false })
    else s) s

/-- A slot whose firing has ended: it holds no firing, and its registers keep their values until the next one starts. -/
def Strand.over (st : Strand) (now : Nat) : Strand :=
  { st.settle with
    occ := false, blk := .ready, since := now, assign := if st.marked then none else st.assign, reserved := st.reserved && !st.marked,
    marked := false, gbar := [], popWait := none, dgst := none, dgstGo := false, dgstAt := 0, stepWait := none, late := none }

/-- The end of a firing whose commands have all completed. -/
def State.endFiring (s : State) (t : Nat) : State :=
  let x := slotOfStrand t
  let s := s.foldFiring t
  let st := s.strand t
  let held := s.cycle - max st.began (s.lc (lcOf t)).grantedAt
  let s := s.modLc (lcOf t) (fun c => { c with held := c.held + held, issuing := if c.issuing = some (t % 4) then none else c.issuing })
  let s := s.modStrand t (fun st => st.over s.cycle)
  let s := (s.modGraph x st.gid (fun g => { g with sst := lmod (fun p => { p with ended := p.ended + 1 }) g.sst st.stage })).progress x st.gid
  match (s.ctx x).graph? st.gid with
  | none => s
  | some g =>
    if g.nfire st.stage ≤ (g.stageS st.stage).ended && (s.ctx x).serialGraph.isNone then s.freeStage x st.gid st.stage
    else s.dropSpare x st.gid st.stage

/-- Whether an access holds its bundle until its result is written (R83). -/
def AccOp.holdsBundle : AccOp → Bool
  | .load => true
  | .atomic _ => true
  | .pop _ _ _ _ => true
  | .store => false
  | .xadd _ => false
  | .arrive _ _ => false
  | .csig _ _ _ => false
  | .tinv _ => true
  | .rld _ => true
  | .rat _ => true

/-- Whether every result that a strand blocked after issue waits for is written. -/
def State.resultsIn (s : State) (t : Nat) : Bool :=
  (s.strand t).acc.all (fun a => !a.op.holdsBundle) && s.txns.all (fun x => match x.purpose with
    | .rld k _ => k != t
    | .rat k _ => k != t
    | .rst _ _ => true
    | .access _ _ => true
    | .bte _ _ _ => true
    | .out _ => true)

/-- FIRING_END: after HALT, and with every result of its bundle written, an engine fault of the firing is reported at the HALT; a fault
reported before that no handler has resolved kills the context; with no command left the firing ends (R71, R96, R459). -/
def execFiringEnd (t : Nat) (s : State) : Out :=
  let st := s.strand t
  let l := lcOf t
  if !st.occ || st.blk != .halted || st.dgst.isSome || !s.mayRun t || !s.resultsIn t then .next s
  else match (s.lc l).unreported (t % 4) (fun _ => true) with
    | some k =>
      let tr := (s.lc l).reportTrap k
      .next ((s.markReported l k.id).enterTrap t tr st.pc)
    | none =>
      .next (if (s.lc l).edt.any (fun k => k.strand == t % 4 && k.fault.isSome) then s.kill (slotOfStrand t) 3 cEFLT st.pc.toNat
        else if (s.lc l).edt.any (fun k => k.strand == t % 4) then s
        else s.endFiring t)

/-- Whether a store of a graph's firings is still to be performed (R97); one of an engine to another package counts for every graph of
its context. -/
def State.graphStores (s : State) (x gid : Nat) : Bool :=
  ((s.lcKeys x).flatMap strandsOf).any (fun t => (s.strand t).acc.any (fun a => a.gid == gid))
    || s.outq.any (fun h => h.slot == x)
    || s.txns.any (fun k => k.slot == x && (match k.purpose with
      | .rst _ g => g == gid
      | .out _ => true
      | .access _ _ => false
      | .rld _ _ => false
      | .rat _ _ => false
      | .bte _ _ _ => false))

/-- GRAPH_END: every firing and every child has ended and every store is performed; GRAPHDONE follows for a top-level graph
(R67, R97). A child's part of the digest joins its parent's (R155). -/
def execGraphEnd (slot gid : Nat) (s : State) : Out :=
  match (s.ctx slot).graph? gid with
  | none => .next s
  | some g =>
    if !(s.ctx slot).used || !g.live || g.serial.isSome || !g.allEnded || (s.ctx slot).graphs.any (fun h => h.parent == some gid)
        || s.graphStores slot gid then .next s
    else
      let s := match g.parent with
        | some p => s.modGraph slot p (fun h => { h with dgst := h.dgst + g.dgst })
        | none => s.report evGRAPHDONE (s.ctxid slot) 0 srcPackage 0 g.launch 0 0
      let s := (List.range g.stages.length).foldl (fun s i => s.freeStage slot gid i) s
      .next (s.modCtx slot (fun c => { c with graphs := c.graphs.filter (fun h => h.gid != gid) }))

/-! ### Children (R102-R105) -/

/-- The pending children of a context in the order in which they are instantiated (R104). -/
def Ctx.waiting (c : Ctx) : List Graph := if c.det then sortGraphs c.pending else c.pending

/-- CHILD_INSTANTIATE (R104, R105). In DET mode none goes before a lower-numbered one that waits; otherwise none before an earlier
one that could go. Under a serial re-execution a child needs no slots: its firings run on the one strand (R156). -/
def execChildInstantiate (slot gid : Nat) (s : State) : Out :=
  let c := s.ctx slot
  match c.graph? gid with
  | none => .next s
  | some g =>
    if !s.active slot || g.live then .next s
    else
      let live := fun (s : State) => (s.modGraph slot gid (fun g => { g with live := true, lastProgress := s.cycle }))
      match c.serialGraph with
      | some r => .next (if c.below r.gid 7 gid then live s else s)
      | none =>
        let before := c.waiting.takeWhile (fun h => h.gid != gid)
        if (if c.det then !before.isEmpty else before.any (fun h => (s.reserveSlots slot h.stages).isSome)) then .next s
        else match s.reserveSlots slot g.stages with
          | none => .next s
          | some m => .next (live (s.bind gid m))

/-! ### Runnable and resident logical cores (R108-R111) -/

/-- Whether a logical core has a ready strand, or an idle assigned slot with an unstarted firing of its stage (R108). -/
def State.hasWork (s : State) (l : Nat) : Bool :=
  (strandsOf l).any (fun t => !s.heldBack t && ((s.strand t).isReady || (s.startOf t).isSome))

/-- Whether a logical core is runnable (R108): its context runs, and it has work; or one of its strands has a satisfied barrier or a
released DGST to issue before the stop of its context (R453). -/
def State.runnable (s : State) (l : Nat) : Bool := (s.active (slotOf l) && s.hasWork l) || (strandsOf l).any s.finishing

/-- Whether no store of a logical core's engines to another die is unacknowledged. -/
def State.pushesIdle (s : State) (l : Nat) : Bool :=
  s.txns.all (fun t => t.purpose.engineOf != some l) && s.outq.all (fun h => h.purpose.engineOf != some l)

/-- Whether nothing of a logical core's strands and engines is on the fabric: the fence of a move is complete, and it may run in a new
place (R234). -/
def State.movable (s : State) (l : Nat) : Bool := s.pushesIdle l && (strandsOf l).all s.fabricIdle

/-- Whether a logical core waits for a physical core. -/
def State.waits (s : State) (l : Nat) : Bool := (s.lc l).used && (s.lc l).core.isNone && s.runnable l

/-- Whether a logical core that is not runnable has engine commands to carry on with: it gets a core that no runnable one waits for
(log entry 18). -/
def State.lingers (s : State) (l : Nat) : Bool :=
  (s.lc l).used && (s.lc l).core.isNone && !s.runnable l && s.active (slotOf l) && (s.lc l).edt.any (fun k => k.fault.isNone)

/-- The slots of the contexts of the package, ascending. -/
def State.slots (s : State) : List Nat := s.ctxs.map (·.1)

/-- The logical cores of a context placed on a die. -/
def State.lcsOn (s : State) (x d : Nat) : List Nat := (s.lcKeys x).filter (fun l => (s.lc l).used && (s.lc l).die == d)

/-- The base priority that a die goes by: a SETPRIO takes effect at its own next rebalance (R112). -/
def Ctx.basePrio (c : Ctx) (d : Nat) : Nat :=
  match tget 0 c.diePrio d with
  | 0 => c.prio
  | p + 1 => p

/-- Effective priority on a die (R108). -/
def Ctx.effPrio (c : Ctx) (d : Nat) : Nat := min (min (c.basePrio d + c.aging) (c.basePrio d + 8)) 127

/-- A die takes up a new base priority; once every die has, it is the context's (R112). -/
def Ctx.takePrio (c : Ctx) (d : Nat) : Ctx :=
  match c.newPrio with
  | none => c
  | some p =>
    let t := tset 0 c.diePrio d (p + 1)
    if (List.range 8).all (fun k => tget 0 t k == p + 1) then { c with prio := p, newPrio := none, diePrio := [] }
    else { c with diePrio := t }

/-- A free core in service of a die. -/
def State.freeCore (s : State) (d : Nat) : Option Nat :=
  ((s.inService d).map (fun n => d * Config.coresPhys + n)).find? (fun n => tget 0 s.busy n == 0)

/-- A logical core becomes resident on a physical core; one that a pre-emption has stopped stays stopped (R23). -/
def State.attach (s : State) (l n : Nat) : State :=
  let s := { s with busy := tset 0 s.busy n (l + 1) }
  s.modLc l (fun c => { c with core := some n, grantedAt := s.cycle, held := 0, expired := false, issuing := none })

/-- Strand-microseconds for which a logical core's slots have held firings since it became resident (R109). -/
def State.heldTime (s : State) (l : Nat) : Nat :=
  let c := s.lc l
  ((strandsOf l).foldl (fun a t =>
    if (s.strand t).occ then a + (s.cycle - max (s.strand t).began c.grantedAt) else a) c.held) / 1250

/-- The strands of a logical core that stops: issued register writes complete (R128, R306), and what runs on later, engine commands
included, sees every store performed by now (R234). -/
def State.settleLc (s : State) (l : Nat) : State :=
  ((strandsOf l).foldl (fun s t => if (s.strand t).occ then s.modStrand t Strand.settle else s) s).fenceLc l

/-- A logical core leaves its physical core. -/
def State.detach (s : State) (l : Nat) : State :=
  match (s.lc l).core with
  | none => s
  | some n =>
    let t := s.heldTime l
    let s := s.settleLc l
    let s := s.modCtx (slotOf l) (fun c =>
      { c with deficit := tset 0 c.deficit (s.lc l).die (tget 0 c.deficit (s.lc l).die - (t : Int)) })
    let s := { s with busy := tset 0 s.busy n 0 }
    s.modLc l (fun c => { c with core := none, issuing := none, expired := false, held := 0 })

/-- Gives cores to a visited context while it has credit (R109). -/
def State.grantTo (d x : Nat) : Nat → State → State
  | 0, s => s
  | n + 1, s =>
    match s.freeCore d, (s.lcsOn x d).find? (fun l => s.waits l && s.movable l) with
    | some core, some l => if 0 < tget 0 (s.ctx x).deficit d then State.grantTo d x n (s.attach l core) else s
    | _, _ => s

/-- The context that the round-robin of a die visits next: of those with a waiting logical core, the highest effective priority,
and within it the next slot after the one of that priority visited last (R109). -/
def State.nextVisit (s : State) (d : Nat) : Option Nat :=
  let ws := s.slots.filter (fun x => (s.lcsOn x d).any (fun l => s.waits l && s.movable l))
  let top := (ws.map (fun x => (s.ctx x).effPrio d)).foldl max 0
  let cs := ws.filter (fun x => (s.ctx x).effPrio d == top)
  let last := tget 0 s.rr (d * 128 + top)
  match cs.find? (fun x => decide (last < x + 1)) with
  | some x => some x
  | none => cs.head?

/-- RESIDENCY_GRANT: visits in turn while a core is free and a logical core waits (R109). -/
def State.grant (d : Nat) : Nat → State → State
  | 0, s => s
  | n + 1, s =>
    match s.freeCore d, s.nextVisit d with
    | some _, some x =>
      let s := s.modCtx x (fun c => { c with deficit := tset 0 c.deficit d (tget 0 c.deficit d + (Config.drrQuantum : Int)) })
      let s := State.grantTo d x ((s.ctx x).nlc + 1) { s with rr := tset 0 s.rr (d * 128 + (s.ctx x).effPrio d) (x + 1) }
      State.grant d n s
    | _, _ => s

/-- Deficits return to 0 where nothing is runnable (R109); aging to 0 where every runnable logical core is resident (R108). -/
def State.settleCredit (s : State) (d : Nat) : State :=
  s.slots.foldl (fun s x =>
    let s := if (s.lcsOn x d).any s.runnable then s else s.modCtx x (fun c => { c with deficit := tset 0 c.deficit d 0 })
    if (s.lcKeys x).any s.waits then s else s.modCtx x (fun c => { c with aging := 0, agingFrom := s.cycle })) s

/-- Cores that no runnable logical core waits for go to those that only have engine commands to carry on with (log entry 18). -/
def State.grantRest (s : State) (d : Nat) : State :=
  ((s.slots.flatMap (fun x => s.lcsOn x d)).filter (fun l => s.lingers l && s.movable l)).foldl (fun s l =>
    match s.freeCore d with
    | some n => s.attach l n
    | none => s) s

/-- The grants of one rebalance or swap. -/
def State.grants (s : State) (d : Nat) : State := ((State.grant d 4096 (s.settleCredit d)).settleCredit d).grantRest d

/-- The residents of a die. -/
def State.residents (s : State) (d : Nat) : List Nat :=
  s.slots.flatMap (fun x => (s.lcsOn x d).filter (fun l => (s.lc l).core.isSome))

/-- Whether R110 takes a resident logical core's place. -/
def State.mustYield (s : State) (l : Nat) : Bool :=
  let d := (s.lc l).die
  let me := (s.ctx (slotOf l)).effPrio d
  let ws := (s.slots.flatMap (fun x => (s.lcsOn x d).filter s.waits)).map (fun k => (s.ctx (slotOf k)).effPrio d)
  ((s.lc l).expired && ws.any (fun p => decide (me ≤ p)))
    || (ws.any (fun p => decide (me < p)) && (s.residents d).all (fun k => decide (me ≤ (s.ctx (slotOf k)).effPrio d)))
    || (!s.runnable l && !ws.isEmpty)
    || (!s.runnable l && (s.lc l).edt.all (fun k => k.fault.isSome) && s.slots.any (fun x => (s.lcsOn x d).any s.lingers))

/-- Whether a strand waits after issue for the comparison of its checkpoint and for nothing else. -/
def Strand.parked (st : Strand) : Bool := st.dgstOut && st.blk == .after && st.late.isNone && st.stepWait.isNone

/-- Whether a logical core stands at a point where it may be stopped (R127, R128, R131): no bundle blocked after issue, no channel
slot reserved by its strands, no epilogue run under way; a move is a full fence (R234), so nothing of its strands or engines is
unperformed. One whose DGST is being compared waits for other firings, and may be stopped meanwhile. -/
def State.stopPoint (s : State) (l : Nat) : Bool :=
  s.pushesIdle l && (strandsOf l).all (fun t => ((s.strand t).blk != .after || (s.strand t).parked) && (s.strand t).acc.isEmpty && s.fabricIdle t
    && (s.ctx (slotOf l)).graphs.all (fun g => g.cst.all (fun r => r.slots.all (fun e =>
      match e.2 with
      | .reserved _ u _ => u != t
      | .empty => true
      | .published _ _ => true
      | .claimed => true))))
    && ((s.lc l).epi.all (fun e => e.op == 0))

/-- Whether a strand of a logical core waits for the comparison of its checkpoint, which firings of others may have to issue for. -/
def State.awaitsCheck (s : State) (l : Nat) : Bool := (strandsOf l).any (fun t => (s.strand t).parked)

/-- Whether a logical core has stopped for a pre-emption of its context: its strands, matrix array and BTE have acknowledged (R130). -/
def State.stoppedLc (s : State) (l : Nat) : Bool :=
  match (s.ctx (slotOf l)).coll with
  | none => false
  | some c => !c.waiting.contains (.strands l) && !c.waiting.contains (.matrix l) && !c.waiting.contains (.bte l)

/-- RESIDENCY_SWAP: the logical core leaves its core, and the cores free are handed out (R109-R111). One that a pre-emption is stopping
leaves only once it has stopped, or while it waits for a checkpoint. -/
def execResidencySwap (lc : Nat) (s : State) : Out :=
  if (s.lc lc).core.isNone || !(s.active (slotOf lc) || s.stoppedLc lc || s.awaitsCheck lc) || !s.mustYield lc || !s.stopPoint lc then .next s
  else .next ((s.detach lc).grants (s.lc lc).die)

/-- QUANTUM_EXPIRY: the 200 us of a resident logical core are over (R110). -/
def execQuantumExpiry (lc : Nat) (s : State) : Out :=
  let c := s.lc lc
  .next (if c.core.isSome && decide (c.grantedAt + Config.quantumCycles ≤ s.cycle) then s.modLc lc (fun c => { c with expired := true })
    else s)

/-- AGING_TICK: another 10 ms with a runnable logical core that is not resident (R108). -/
def execAgingTick (slot : Nat) (s : State) : Out :=
  let c := s.ctx slot
  .next (if c.used && (s.lcKeys slot).any s.waits && decide (c.agingFrom + Config.agingCycles ≤ s.cycle) then
      s.modCtx slot (fun c => { c with aging := min 8 (c.aging + 1), agingFrom := c.agingFrom + Config.agingCycles })
    else s)

/-- DEADLOCK_TIMEOUT: 100 ms of accounted time without progress, reported once for each episode (R114). -/
def execDeadlockTimeout (slot gid : Nat) (s : State) : Out :=
  match (s.ctx slot).graph? gid with
  | none => .next s
  | some g =>
    if !g.live || g.reported || !decide (g.lastProgress + Config.deadlockCycles ≤ s.cycle) then .next s
    else match (List.range g.stages.length).find? (fun i => decide ((g.stageS i).ended < g.nfire i)) with
      | none => .next s
      | some i =>
        let s := s.report evDEADLOCK (s.ctxid slot) 0 srcPackage 0 g.launch i 0
        .next (s.modGraph slot gid (fun g => { g with reported := true }))

/-- Whether time is accounted to a context's graphs: every logical core with work is resident (R114). -/
def State.accounted (s : State) (x : Nat) : Bool := (s.lcKeys x).all (fun l => !(s.lc l).used || (s.lc l).core.isSome || !s.hasWork l)

/-- What `n` cycles that pass mean for a context: with a runnable logical core that is not resident the time is not accounted to its graphs
(R114); without one the time of such a wait has not begun, and aging is 0 (R108). -/
def State.elapsed (s : State) (x n : Nat) (c : Ctx) : Ctx :=
  let c := if s.accounted x then c else { c with graphs := c.graphs.map (fun g => { g with lastProgress := g.lastProgress + n }) }
  if (s.lcKeys x).any s.waits then c else { c with aging := 0, agingFrom := s.cycle + n }

/-- `n` cycles pass. -/
def State.advance (s : State) (n : Nat) : State :=
  { s with cycle := s.cycle + n, ctxs := s.ctxs.map (fun e => if e.2.used then (e.1, s.elapsed e.1 n e.2) else e) }

/-! ### The rebalance (R106) -/

/-- FULL of a channel: published entries, on an ORDERED one all of them, otherwise those at the head of the ring (R98, R144). -/
def Graph.chFull (g : Graph) (c : Nat) : Nat :=
  let r := g.chrec c
  let n := g.cap c
  if g.isOrdered c then (r.slots.filter (fun e => e.2.full none)).length
  else ((List.range (min n r.slots.length)).takeWhile (fun i => (r.slot ((r.head + i) % n)).full none)).length

/-- The smaller of two fractions. -/
def fracMin (a b : Nat × Nat) : Nat × Nat := if a.1 * b.2 ≤ b.1 * a.2 then a else b

/-- inFill or outFree of a stage, as a fraction. -/
def Graph.share (g : Graph) (mask : W64) (f : Nat → Nat) : Nat × Nat :=
  ((List.range g.chans.length).filter (fun c => mask.getLsbD c)).foldl (fun a c => fracMin a (f c, g.cap c)) (1, 1)

/-- want of a stage (R106). -/
def Graph.want (g : Graph) (i : Nat) : Nat :=
  match g.stages[i]? with
  | none => 0
  | some d =>
    let a := g.share d.inmask g.chFull
    let b := g.share d.outmask g.chFree
    let left := d.nfire - (g.stageS i).ended
    let m := fracMin a b
    let w := if a.1 = 0 ∨ b.1 = 0 then d.mins else min (max (cdiv (d.maxs * m.1) m.2) d.mins) d.maxs
    min w (max left d.mins)

/-- A stage in a rebalance: graph, stage, the slots it is to have on the die, the slots it has, its group's members. -/
structure Quota where
  gid : Nat
  stage : Nat
  due : Nat
  have' : Nat
  members : List Nat
  deriving DecidableEq, Repr

/-- The stages of a context on a die, ascending (graph number, stage index). -/
def State.quotas (s : State) (x d : Nat) : List Quota :=
  let c := s.ctx x
  let here := s.lcsOn x d
  (sortGraphs (c.graphs.filter (·.live))).flatMap (fun g =>
    ((List.range g.stages.length).filter (fun i => decide ((g.stageS i).ended < g.nfire i))).map (fun i =>
      let ms := c.members (pgrpOf g.stages i)
      let on := ms.filter (fun m => here.contains (lcKey x m))
      { gid := g.gid, stage := i, due := cdiv (g.want i * on.length) ms.length,
        have' := ((here.flatMap strandsOf).filter (fun t => (s.strand t).assign == some (g.gid, i))).length,
        members := ms.map (lcKey x) }))

/-- Marks slots of a stage for release, from the highest (logical core, strand) down. DESIGN CHOICE (log entry 89): one that holds no firing
is idle at once, so that this rebalance may hand it out; the spec says when a marked slot with a firing becomes idle. -/
def State.markDown (slots : List Nat) (q : Quota) (s : State) : State :=
  let mine := slots.filter (fun t => (s.strand t).assign == some (q.gid, q.stage))
  let old := (mine.filter (fun t => (s.strand t).marked)).length
  let can := (mine.filter (fun t => !(s.strand t).reserved && !(s.strand t).marked)).reverse
  (can.take (q.have' - old - q.due)).foldl (fun s t =>
    s.modStrand t (fun st => if st.occ then { st with marked := true } else { st with assign := none })) s

/-- The stage with the largest shortfall that can use an idle slot; ties to the lower graph number and stage. -/
def pickQuota (idle : List Nat) (qs : List Quota) : Option Quota :=
  qs.foldl (fun best q =>
    if q.have' < q.due && idle.any (fun t => q.members.contains (lcOf t)) then
      match best with
      | some b => if b.due - b.have' < q.due - q.have' then some q else best
      | none => some q
    else best) none

/-- Hands idle slots to the stages that lack most. -/
def State.handOut : Nat → List Nat → List Quota → State → State
  | 0, _, _, s => s
  | n + 1, idle, qs, s =>
    match pickQuota idle qs with
    | none => s
    | some q =>
      match idle.find? (fun t => q.members.contains (lcOf t)) with
      | none => s
      | some t =>
        State.handOut n (idle.filter (fun u => u != t))
          (qs.map (fun r => if r.gid = q.gid ∧ r.stage = q.stage then { r with have' := r.have' + 1 } else r))
          (s.modStrand t (fun st => { st with assign := some (q.gid, q.stage) }))

/-- The slot assignment of a context on a die (R106); an assigned slot with no unstarted firing left is idle again. -/
def State.reassign (s : State) (x d : Nat) : State :=
  let slots := (s.lcsOn x d).flatMap strandsOf
  let qs := s.quotas x d
  let s := qs.foldl (fun s q => if q.due < q.have' then State.markDown slots q s else s) s
  let qs := (s.quotas x d)
  let idle := slots.filter (fun t => (s.strand t).assign.isNone && !(s.strand t).occ)
  qs.foldl (fun s q => s.dropSpare x q.gid q.stage) (State.handOut (idle.length + 1) idle qs s)

/-- The die on which a logical core is placed: of those with a free core, or, where there are none, with cores in service, the one that the
package's placement list names for its number; else the lowest with a free core; else dies taken in turn, those without a core passed
over. The spec leaves the choice to the Stage Scheduler (R66, R81, R148; log entry 74). -/
def State.placeDie (s : State) (l : Nat) : Nat :=
  let able := (List.range 8).filter (fun d => !(s.inService d).isEmpty)
  let room := able.filter (fun d => (s.freeCore d).isSome)
  let fits := if room.isEmpty then able else room
  match (s.env.places[lcNum l]?).filter (fun d => fits.contains d) with
  | some d => d
  | none => room.headD (able.getD (lcNum l % able.length) 0)

/-- Places a logical core, resident where its die has a free core (R66, R148). -/
def State.placeOne (s : State) (l : Nat) : State :=
  let d := s.placeDie l
  let s := s.modLc l (fun c => { c with used := true, die := d })
  match s.freeCore d with
  | some n => if s.movable l then s.attach l n else s
  | none => s

/-- Logical cores of a die that has no core in service any more are placed anew (R22, R81). -/
def State.rehome (s : State) (d : Nat) : State :=
  if !(s.inService d).isEmpty then s
  else (s.slots.flatMap (fun x => (s.lcsOn x d).filter (fun l => (s.lc l).core.isNone))).foldl (fun s l => s.placeOne l) s

/-- The rebalance of a die (R106, R109, R112), once the conditions of the blocked strands of non-resident logical cores have been
looked at (R111): `isOver` says which have come true. -/
def State.rebalance (s : State) (d : Nat) (isOver : Nat → State → Bool) : State :=
  let s := (s.slots.foldl (fun s x => s.modCtx x (fun c => c.takePrio d)) s).rehome d
  let away := (s.slots.flatMap (fun x => (s.lcsOn x d).filter (fun l => (s.lc l).core.isNone))).flatMap strandsOf
  let s := away.foldl (fun s t =>
    if (s.strand t).occ && s.mayRun t && ((s.strand t).blk == .yielded || ((s.strand t).blk == .before && isOver t s)) then s.modStrand t (fun st => { st with blk := .ready }) else s) s
  let s := s.slots.foldl (fun s x => if s.active x && (s.ctx x).serialGraph.isNone then s.reassign x d else s) s
  let s := s.grants d
  { s with nextReb := tset 0 s.nextReb d (s.cycle + Config.rebalanceCycles) }

/-! ### Strand switches (R84) -/

/-- SPRI of a strand's stage. -/
def State.spri (s : State) (t : Nat) : Nat :=
  let st := s.strand t
  (((s.ctx (slotOfStrand t)).graph? st.gid).bind (fun g => g.stages[st.stage]?)).map (·.spri) |>.getD 0

/-- Whether strand `a` is chosen before `b`: SPRI, then the earlier block, then the lower slot (R84). -/
def State.goesFirst (s : State) (a b : Nat) : Bool :=
  let p := s.spri a
  let q := s.spri b
  decide (q < p) || (p == q && (decide ((s.strand a).since < (s.strand b).since)
    || ((s.strand a).since == (s.strand b).since && decide (a < b))))

/-- The first of some strands by that order. -/
def State.firstOfThese (s : State) (ts : List Nat) : Option Nat :=
  ts.foldl (fun best t =>
    match best with
    | some b => if s.goesFirst t b then some t else best
    | none => some t) none

/-- The strand that a core switches to: a ready one, or, where there is none, one that YIELD has blocked for this switch (R84, R345). -/
def State.choose (s : State) (l : Nat) : Option Nat :=
  match s.firstOfThese ((strandsOf l).filter (fun t => (s.strand t).isReady && s.mayRun t)) with
  | some t => some t
  | none => s.firstOfThese ((strandsOf l).filter (fun t => (s.strand t).occ && (s.strand t).blk == .yielded && s.mayRun t))

/-- STRAND_SWITCH: two cycles in which no bundle issues, then the strand chosen; a strand blocked by YIELD is ready again after the
switch (R84, R345). -/
def execStrandSwitch (lc : Nat) (s : State) : Out :=
  let c := s.lc lc
  let now := match c.issuing with
    | some i => (s.strand (lc * 4 + i)).isReady && s.mayRun (lc * 4 + i)
    | none => false
  if c.core.isNone || now || !(strandsOf lc).any s.mayRun then .next s
  else
    let pick := s.choose lc
    let back := (strandsOf lc).filter (fun t => (s.strand t).blk == .yielded)
    if pick.isNone && back.isEmpty then .next s
    else
      let s := s.modLc lc (fun c => { c with issuing := pick.map (· % 4) })
      let s := back.foldl (fun s t => s.modStrand t (fun st => { st with blk := .ready })) s
      .next (s.advance 2)

/-! ### The Damper (R116, R117) -/

/-- DAMPER_WINDOW: a window of 1,250 cycles of a physical core ends. Its count follows the row-steps that the core's sequencers had
ready in it, within its limits: of the row-steps of the core's commands that no window has counted yet, how many were ready in this one is
timing, and given (log entry 75). A core without any has only what the floor demands (R117). -/
def execDamperWindow (core demand : Nat) (s : State) : Out :=
  if s.cycle < tget 0 s.damperAt core + 1250 then .next s
  else
    let k := s.env.damperK.getD (core / Config.coresPhys) 10
    let n := tget 0 s.damper core
    let delta := k * 125
    let left := tget 0 s.rowSteps core
    let real := min demand left
    let m := if k = 80 then min real 10000 else min 10000 (min (n + delta) (max (n - delta) real))
    .next { s with damper := tset 0 s.damper core m, rowSteps := tset 0 s.rowSteps core (left - min real m),
                   damperAt := tset 0 s.damperAt core (tget 0 s.damperAt core + 1250) }

end Sys2Proof.Machine
end

