-- ==== Sys2Proof/Machine/Bellows.lean ====
section
/-! DEFINITION. Bellows (R224-R230, R446, R447): matching, the ring steps of a bucket, the reductions, and completion; the integers
of exact-add (R180). A bucket's ring steps start once every participant has signalled it (log entry 17); `Cmd.pos` is the
command's match number on its group. -/

namespace Sys2Proof.Machine

/-! ### Exact-add cells (R180) -/

/-- SATV: a cell that has saturated or received a NaN or an infinity (R180). -/
def satv : Nat := 2 ^ 63

/-- The integer q of an FP32 value at an anchor (R180); none for NaN and Inf. -/
def xaddQ (v : W32) (n : Int) : Option Int :=
  match val32 v with
  | .nan _ => none
  | .inf _ => none
  | .fin _ x => some (roundNE (x.scale (-n)))

/-- XAddCell (R180) with q computed: none for a NaN or Inf. -/
def xaddCell (cell : Nat) (q : Option Int) : Nat :=
  if cell = satv then satv
  else match q with
    | none => satv
    | some q =>
      let t := sgn 64 cell + q
      if ((2 ^ 63 : Nat) : Int) - 1 < t ∨ t < -(((2 ^ 63 : Nat) : Int) - 1) then satv else unsg 64 t


/-! ### Descriptors (R224) -/

/-- Fields of a collective descriptor. -/
def clOp (d : List Byte) : Nat := fld d 0 1 % 8
def clEt (d : List Byte) : Nat := fld d 1 1 % 4
def clGrp (d : List Byte) : Nat := fld d 2 1
def clRoot (d : List Byte) : Nat := fld d 4 2
def clNbkt (d : List Byte) : Nat := fld d 6 2
def clBktel (d : List Byte) : Nat := fld d 8 4
def clAnch (d : List Byte) : Int := sgn 10 (fld d 12 2)
def clSrc (d : List Byte) : Nat := fld d 16 8
def clDst (d : List Byte) : Nat := fld d 24 8
def clRes (d : List Byte) : Nat := fld d 32 8
def clArb (d : List Byte) : Nat := fld d 40 4

/-- Whether the fields are within their limits. -/
def clOk (d : List Byte) : Bool :=
  decide (clOp d ≤ 3) && decide (1 ≤ clNbkt d) && decide (clNbkt d ≤ 32) && decide (1 ≤ clBktel d) && decide (clBktel d ≤ 2 ^ 24)
    && (clEt d != 3 || clBktel d % 32 == 0)

/-- Whether two commands agree in what matched ones must (R225). -/
def clSame (d e : List Byte) : Bool :=
  clOp d == clOp e && clEt d == clEt e && clRoot d == clRoot e && clNbkt d == clNbkt e && clBktel d == clBktel e && clAnch d == clAnch e

/-! ### What a rank sends (R226) -/

/-- Elements of a chunk: C, rounded up to a multiple of 32 for ETYPE 3. -/
def clChunk (d : List Byte) (p : Nat) : Nat :=
  let c := cdiv (clBktel d) p
  if clEt d = 3 then cdiv c 32 * 32 else c

/-- Ring steps of a bucket. -/
def clSteps (d : List Byte) (p : Nat) : Nat := if clOp d = 0 then 2 * (p - 1) else p - 1

/-- Elements of one segment of a reduction or a copy (R229). -/
def clPer (d : List Byte) : Nat := if clEt d = 3 then 224 else if clEt d = 1 ∧ clOp d ≤ 1 then 16 else 32

/-- What rank `r` sends in ring step `t`: the chunk or the rank whose data it is, and its elements within the bucket; none where
it sends nothing. -/
def clItem (d : List Byte) (p t r : Nat) : Option (Nat × Nat × Nat) :=
  let n := clBktel d
  let c := clChunk d p
  let chunk := fun (j : Nat) => some (j, min (j * c) n, min ((j + 1) * c) n)
  match clOp d with
  | 2 => some ((r + p - t % p) % p, 0, n)
  | 3 => if (clRoot d + t) % p = r then some (clRoot d, 0, n) else none
  | _ => if t < p - 1 then chunk ((r + p - (t + 1) % p) % p) else chunk ((r + p - (t - (p - 1)) % p) % p)

/-- Segments that rank `r` sends in step `t`. -/
def clSegs (d : List Byte) (p t r : Nat) : Nat :=
  match clItem d p t r with
  | some (_, lo, hi) => cdiv (hi - lo) (clPer d)
  | none => 0

/-- Segments that rank `r` sends for a bucket. -/
def clTotal (d : List Byte) (p r : Nat) : Nat := ((List.range (clSteps d p)).map (fun t => clSegs d p t r)).foldl (· + ·) 0

/-! ### Participants -/

/-- The members of a command's group. -/
def State.collMembers (s : State) (l : Nat) (k : Cmd) : List Nat := (s.ctx (slotOf l)).members (clGrp k.snap)

/-- The command matched with match number `n` on group `g` at logical core `l` (R225). -/
def State.matched (s : State) (l g n : Nat) : Option Cmd :=
  (s.lc l).edt.find? (fun k => k.kind == .coll && k.snapped && clGrp k.snap == g && k.pos == n)

/-- Whether the participant at logical core `l` has completed its command of a collective. -/
def State.collOver (s : State) (l g n : Nat) : Bool := (s.matched l g n).isNone && decide (n < tget 0 (s.lc l).collCount g)

/-- The logical cores of a command's participants in rank order. -/
def State.collRing (s : State) (l : Nat) (k : Cmd) : List Nat := (s.collMembers l k).map (lcKey (slotOf l))

/-- The rank of a logical core's participant (R89). -/
def State.collRank (s : State) (l : Nat) (k : Cmd) : Nat := (s.ctx (slotOf l)).rank (clGrp k.snap) (lcNum l)

/-- Changes the commands of all participants that hold theirs. -/
def State.collAll (s : State) (l : Nat) (k : Cmd) (f : Cmd → Cmd) : State :=
  (s.collRing l k).foldl (fun s m =>
    match s.matched m (clGrp k.snap) k.pos with
    | some c => s.modCmd m c.id f
    | none => s) s

/-- Segments that rank `r` has sent for a bucket before segment `i` of step `t` (R141: ring step, then segment index). -/
def clPos (d : List Byte) (p t i r : Nat) : Nat := ((List.range t).map (fun u => clSegs d p u r)).foldl (· + ·) 0 + i

/-- A bucket of a command. -/
def Cmd.bucket (k : Cmd) (b : Nat) : Bucket := k.buckets.getD b { signal := false, run := 0, sent := 0, got := 0 }

/-- Changes a bucket. -/
def State.modBucket (s : State) (l id b : Nat) (f : Bucket → Bucket) : State :=
  s.modCmd l id (fun k => { k with buckets := lmod f k.buckets b })

/-- Why an access of a collective failed, and what kind of access it was (R186). -/
abbrev CollErr := Fail × Acc

/-- A COLL fails on an access: EFLT, or the kill of R43. -/
def State.collFail (s : State) (l id : Nat) (e : CollErr) : State :=
  match e.1 with
  | .fault _ r lv va => s.faultCmd l id va (xlInfo e.2 r lv)
  | .mem pa st => s.failAt (.bellows l) pa st

/-- Every participant of a collective learns that an element has saturated (R226). -/
def State.collSat (s : State) (l : Nat) (k : Cmd) : State := s.collAll l k (fun c => { c with sat := true })

/-! ### Elements -/

/-- The words that a read of an array gave. -/
def collWords (n : Nat) : Except Fail (List Byte) × State → Except CollErr (List W32) × State
  | (.error e, s) => (.error (e, .read), s)
  | (.ok b, s) => (.ok ((List.range n).map (fun i => BitVec.ofNat 32 (fld b (4 * i) 4))), s)

/-- Words of an array of a collective's own results in memory. -/
def State.collRead (s : State) (l va n : Nat) : Except CollErr (List W32) × State := collWords n (s.vread l va (4 * n))

/-- Words of a collective's input. -/
def State.collInput (s : State) (l : Nat) (k : Cmd) (va n : Nat) : Except CollErr (List W32) × State := collWords n (s.cmdRead l k va (4 * n))

/-- The pieces of an array where `n` words are to be written, or why they cannot be (R189). -/
def State.collPlaces (s : State) (l va n : Nat) : Except CollErr (List (Loc × Nat)) × State :=
  match s.places l va (4 * n) with
  | (.error e, s) => (.error (e, .write), s)
  | (.ok ps, s) => (.ok ps, s)

/-- Writes words of an array in the pieces found for them and folds them into S (R154, R183). -/
def State.collPut (s : State) (l id va : Nat) (ps : List (Loc × Nat)) (ws : List W32) : State :=
  let bs := ws.flatMap (fun w => leBytes 4 w.toNat)
  let s := s.vput l va ps bs
  if Config.windowBase ≤ va then s else s.modCmd l id (fun k => { k with spart := foldS k.spart va bs })

/-- Writes words of an array. -/
def State.collWrite (s : State) (l id va : Nat) (ws : List W32) : Except CollErr Unit × State :=
  match s.collPlaces l va ws.length with
  | (.error e, s) => (.error e, s)
  | (.ok ps, s) => (.ok (), s.collPut l id va ps ws)

/-- FP32 sum to nearest even. -/
def fpAdd (a b : W32) : W32 := BitVec.ofNat 32 (addV fp32 .rne (val32 a) (val32 b)).1
/-- FP32 difference to nearest even. -/
def fpSub (a b : W32) : W32 := BitVec.ofNat 32 (subV fp32 .rne (val32 a) (val32 b)).1

/-- Bytes of quantised blocks: 16 data bytes and a scale byte each (R229). -/
def quantBytes : Nat → List W32 → List Byte
  | 0, _ => []
  | n + 1, ws =>
    let q := quantMX 0 .rne ((ws.take 32).map val32)
    blockBytes 0 q.1 ++ [BitVec.ofNat 8 q.2] ++ quantBytes n (ws.drop 32)

/-- The FP32 values of quantised blocks. -/
def quantVals : Nat → List Byte → List W32
  | 0, _ => []
  | n + 1, bs =>
    let sc := ((bs.drop 16).headD 0).toNat
    (blockCodes 0 (bs.take 16)).map (fun c => BitVec.ofNat 32 (dequant 0 sc c).1) ++ quantVals n (bs.drop 17)

/-- Forming a segment of ETYPE 3 from values, with error feedback (R227): its bytes, and RES written once. -/
def State.formMx (s : State) (l id res : Nat) (y : List W32) : Except CollErr (List Byte) × State :=
  match s.collRead l res y.length with
  | (.error e, s) => (.error e, s)
  | (.ok r, s) =>
    let v := List.zipWith fpAdd y r
    let q := quantBytes (y.length / 32) v
    match s.collWrite l id res (List.zipWith fpSub v (quantVals (y.length / 32) q)) with
    | (.error e, s) => (.error e, s)
    | (.ok _, s) => (.ok q, s)

/-- FIX64 cells of FP32 values at an anchor, from zero cells (R226). -/
def fixCells (n : Int) (ws : List W32) : List Nat := ws.map (fun w => xaddCell 0 (xaddQ w n))
/-- Cells of a payload. -/
def cellsOfBytes (bs : List Byte) : List Nat := (List.range (bs.length / 8)).map (fun i => fld bs (8 * i) 8)
/-- Words of a payload. -/
def wordsOfBytes (bs : List Byte) : List W32 := (List.range (bs.length / 4)).map (fun i => BitVec.ofNat 32 (fld bs (4 * i) 4))
/-- Words as bytes. -/
def bytesOfWords (ws : List W32) : List Byte := ws.flatMap (fun w => leBytes 4 w.toNat)
/-- Cells as bytes. -/
def bytesOfCells (cs : List Nat) : List Byte := cs.flatMap (fun c => leBytes 8 c)
/-- The FP32 value of a cell: SATV gives the canonical NaN (R226). -/
def cellWord (n : Int) (c : Nat) : W32 :=
  if c = satv then 0x7FC00000 else BitVec.ofNat 32 (fp32.ofDy .rne { n := sgn 64 c, e := n } false).1

/-- The output words that a segment's payload stands for. -/
def clWords (d : List Byte) (bs : List Byte) : List W32 :=
  if clEt d = 3 then quantVals (bs.length / 17) bs
  else if clEt d = 1 ∧ clOp d ≤ 1 then (cellsOfBytes bs).map (cellWord (clAnch d))
  else wordsOfBytes bs

/-- A rank's own values as the first segment of a sum or a copy; saturation where FIX64 saturates at once. ETYPE 3 forms it. -/
def State.clFirst (s : State) (l : Nat) (k : Cmd) (res : Nat) (y : List W32) : Except CollErr (List Byte × Bool) × State :=
  let d := k.snap
  if clEt d = 3 then
    match s.formMx l k.id res y with
    | (.error e, s) => (.error e, s)
    | (.ok q, s) => (.ok (q, false), s)
  else if clEt d = 1 ∧ clOp d ≤ 1 then
    let cs := fixCells (clAnch d) y
    (.ok (bytesOfCells cs, cs.contains satv), s)
  else (.ok (bytesOfWords y, false), s)

/-- Add of R226 on a received payload and a rank's own values: the sum as a payload (ETYPE 3: as words), and whether it saturates. -/
def clAdd (d : List Byte) (bs : List Byte) (y : List W32) : List Byte × Bool :=
  match clEt d with
  | 0 =>
    let r := List.zipWith (fun (a b : W32) =>
      let t := a.toInt + b.toInt
      (max (-((2 ^ 31 : Nat) : Int)) (min (((2 ^ 31 : Nat) : Int) - 1) t), t)) (wordsOfBytes bs) y
    (bytesOfWords (r.map (fun e => BitVec.ofInt 32 e.1)), r.any (fun e => e.1 != e.2))
  | 1 =>
    let cs := List.zipWith (fun a w => xaddCell a (xaddQ w (clAnch d))) (cellsOfBytes bs) y
    (bytesOfCells cs, cs.contains satv)
  | 2 => (bytesOfWords (List.zipWith fpAdd (wordsOfBytes bs) y), false)
  | _ => (bytesOfWords (List.zipWith fpAdd (quantVals (bs.length / 17) bs) y), false)

/-! ### Sending -/

/-- The header note of a BSEG: the receiver, the context's identity, the match number, and the sender's BWW, by which ports weigh the
collective (R34; log entry 16). -/
def bsegNote (ctxid l n bww : Nat) : Nat := l + 2 ^ 24 * ctxid + 2 ^ 48 * (n % 2 ^ 32) + 2 ^ 80 * bww

/-- BWW of a descriptor (R224). -/
def clBww (d : List Byte) : Nat := fld d 3 1 % 16

/-- Segment `i` of step `t` of a bucket, from the rank of logical core `l` to the next (R229). -/
def State.segFlit (s : State) (l : Nat) (k : Cmd) (next b t i : Nat) (bs : List Byte) : Flit :=
  let d := k.snap
  let p := (s.collMembers l k).length
  let x := slotOf l
  let sat := match (s.lc l).cmd? k.id with
    | some c => c.sat
    | none => false
  { zeroFlit with
    typ := 7, tc := 2, len := bs.length - 1, op := clEt d + (if sat then 4 else 0), src := s.fid (s.lc l).die,
    flag := i, payload := bs, note := bsegNote (s.ctxid x) next k.pos (clBww d),
    addr := s.fid (s.lc next).die + t * 2 ^ 19 + (if clOp d = 2 ∨ (clOp d = 0 ∧ p - 1 ≤ t) then 2 ^ 32 else 0) + b * 2 ^ 33 + clGrp d * 2 ^ 38 + x * 2 ^ 46 }

/-- Sends a segment. Two participants of one die exchange it inside the die. -/
def State.sendSeg (s : State) (l : Nat) (k : Cmd) (next b t i : Nat) (bs : List Byte) : State :=
  let f := s.segFlit l k next b t i bs
  let die := (s.lc l).die
  let toDie := (s.lc next).die
  let s := s.modBucket l k.id b (fun c => { c with sent := c.sent + 1 })
  if toDie = die then { s with inbox := s.inbox ++ [(die, f)] } else s.wait (.die die) f false

/-- DST element of the data of chunk or rank `q` of bucket `b`, from element `e` of the bucket on. -/
def clDstAddr (d : List Byte) (p b q e : Nat) : Nat :=
  let base := if clOp d = 2 then (b * p + q) * clBktel d else b * clBktel d
  (clDst d + 4 * (base + e)) % 2 ^ 64

/-- SRC and RES addresses of element `e` of bucket `b`. -/
def clSrcAddr (d : List Byte) (b e : Nat) : Nat := (clSrc d + 4 * (b * clBktel d + e)) % 2 ^ 64
def clResAddr (d : List Byte) (b e : Nat) : Nat := (clRes d + 4 * (b * clBktel d + e)) % 2 ^ 64

/-- Runs steps one after another until one fails. -/
def tryAll (f : State → Nat → Except CollErr Unit × State) : List Nat → State → Except CollErr Unit × State
  | [], s => (.ok (), s)
  | i :: t, s =>
    match f s i with
    | (.error e, s) => (.error e, s)
    | (.ok _, s) => tryAll f t s

/-- A segment's words are written in pieces of the rank's own DST, and it is sent on as segment `i` of step `t` where there is one. -/
def State.clPut (s : State) (l next : Nat) (k : Cmd) (dst b t i : Nat) (more : Bool) (ps : List (Loc × Nat)) (bs : List Byte) : State :=
  let s := s.collPut l k.id dst ps (clWords k.snap bs)
  if more then s.sendSeg l k next b t i bs else s

/-- A segment's words are written to the rank's own DST, and it is sent on. -/
def State.clKeep (s : State) (l next : Nat) (k : Cmd) (dst b t i : Nat) (more : Bool) (bs : List Byte) : Except CollErr Unit × State :=
  match s.collPlaces l dst (clWords k.snap bs).length with
  | (.error f, s) => (.error f, s)
  | (.ok ps, s) => (.ok (), s.clPut l next k dst b t i more ps bs)

/-- A segment of ETYPE 3 is formed from values, kept in DST and sent on. Its pieces of DST are found before RES is written, and no other
are looked for after: nothing fails between the two, and no segment is formed twice (R48, R189, R227). -/
def State.clForm (s : State) (l next : Nat) (k : Cmd) (res dst b t i : Nat) (more : Bool) (y : List W32) : Except CollErr Unit × State :=
  match s.collPlaces l dst y.length with
  | (.error f, s) => (.error f, s)
  | (.ok ps, s) =>
    match s.formMx l k.id res y with
    | (.error f, s) => (.error f, s)
    | (.ok g, s) => (.ok (), s.clPut l next k dst b t i more ps g)

/-- The final value of part `i` of a chunk at its owner: written to DST, and for an all-reduce formed and sent on (R226, R227).
`sum` is the payload of the sum, for ETYPE 3 its words. -/
def State.clOwn (s : State) (l next : Nat) (k : Cmd) (p b q e i : Nat) (sum : List Byte) : Except CollErr Unit × State :=
  let d := k.snap
  let dst := clDstAddr d p b q e
  if clOp d = 1 then s.collWrite l k.id dst (if clEt d = 3 then wordsOfBytes sum else clWords d sum)
  else if clEt d = 3 then s.clForm l next k (clResAddr d b e) dst b (p - 1) i (decide (1 < p)) (wordsOfBytes sum)
  else s.clKeep l next k dst b (p - 1) i (decide (1 < p)) sum

/-- Part `i` of what rank `r` sends first in a bucket: formed from its own values, written to its own DST where it is a copy. -/
def State.clStartSeg (s : State) (l next : Nat) (k : Cmd) (p b q lo hi i : Nat) : Except CollErr Unit × State :=
  let d := k.snap
  let e := lo + i * clPer d
  let n := min (clPer d) (hi - e)
  match s.collInput l k (clSrcAddr d b e) n with
  | (.error f, s) => (.error f, s)
  | (.ok y, s) =>
    if clOp d ≤ 1 ∧ p = 1 ∧ clEt d = 3 then s.clOwn l next k p b q e i (bytesOfWords y)
    else if clOp d ≤ 1 then
      match s.clFirst l k (clResAddr d b e) y with
      | (.error f, s) => (.error f, s)
      | (.ok (bs, sat), s) =>
        let s := if sat then s.collSat l k else s
        if p = 1 then s.clOwn l next k p b q e i bs else (.ok (), s.sendSeg l k next b 0 i bs)
    else
      let dst := clDstAddr d p b q e
      if clEt d = 3 then s.clForm l next k (clResAddr d b e) dst b 0 i (decide (1 < p)) y
      else s.clKeep l next k dst b 0 i (decide (1 < p)) (bytesOfWords y)

/-- Translates what a participant's part of a bucket touches: SRC, DST and RES (R189: a fault comes before any effect). -/
def State.clProbe (s : State) (l : Nat) (k : Cmd) (p b r : Nat) : Option CollErr × State :=
  let d := k.snap
  let n := clBktel d
  let c := clChunk d p
  let (lo, m) := if clOp d = 1 then (min (r * c) n, min ((r + 1) * c) n - min (r * c) n) else if clOp d = 2 then (0, p * n) else (0, n)
  let one := fun (s : State) (va m : Nat) (a : Acc) =>
    if m = 0 then ((none : Option CollErr), s)
    else match s.reach l va (4 * m) a with
      | (.error e, s) => (some (e, a), s)
      | (.ok ps, s) =>
        match s.hole l (a == .read) ps with
        | some (pa, st) => (some (.mem pa st, a), s)
        | none => (none, s)
  match one s (clSrcAddr d b 0) n .read with
  | (some e, s) => (some e, s)
  | (none, s) =>
    match one s (clDstAddr d p b 0 lo) m .write with
    | (some e, s) => (some e, s)
    | (none, s) => if clEt d = 3 then one s (clResAddr d b 0) n .write else (none, s)

/-- A bucket of a rank is finished when every segment due has been received. -/
def State.clFinished (s : State) (l : Nat) (k : Cmd) (p b r : Nat) : State :=
  match (s.lc l).cmd? k.id with
  | none => s
  | some c =>
    if (c.bucket b).run = 1 ∧ clTotal k.snap p ((r + p - 1) % p) ≤ (c.bucket b).got then s.modBucket l k.id b (fun c => { c with run := 2 })
    else s

/-- What rank `r` sends in its first step; alone in its group it keeps all parts itself. -/
def clFirstItem (d : List Byte) (p r : Nat) : Option (Nat × Nat × Nat) :=
  if clOp d ≤ 1 ∧ p = 1 then some (0, 0, clBktel d) else clItem d p 0 r

/-- The participant at logical core `l` begins a bucket: its first segments. One alone in its group counts its parts as sent (R141). -/
def State.clBegin (s : State) (l b : Nat) (k : Cmd) : State :=
  let ring := s.collRing l k
  let p := ring.length
  let r := s.collRank l k
  let next := ring.getD ((r + 1) % p) l
  let s := s.modCmd l k.id (fun c => { c with st := 2, buckets := lmod (fun b => { b with run := 1 }) c.buckets b })
  let s := match clFirstItem k.snap p r with
    | none => s
    | some (q, lo, hi) =>
      let n := cdiv (hi - lo) (clPer k.snap)
      match tryAll (fun s i => s.clStartSeg l next k p b q lo hi i) (List.range n) s with
      | (.error e, s) => s.collFail l k.id e
      | (.ok _, s) => if p = 1 then s.modBucket l k.id b (fun c => { c with sent := n }) else s
  s.clFinished l k p b r

/-- Whether a participant may take part now. -/
def State.collLive (s : State) (l : Nat) (k : Cmd) : Bool := k.fault.isNone && (s.ctx (slotOf l)).coll.isNone && !s.heldCmd l k

/-- Whether the participant at logical core `m` is ready to start a bucket of a collective with command `k`. -/
def State.clReady (s : State) (k : Cmd) (b m : Nat) : Bool :=
  match s.matched m (clGrp k.snap) k.pos with
  | some c => s.collLive m c && clSame c.snap k.snap && (c.bucket b).signal && (c.bucket b).run == 0
  | none => false

/-- Runs `f` for each participant's command. -/
def State.clEach (s : State) (l : Nat) (k : Cmd) (f : State → Nat → Cmd → State) : State :=
  (s.collRing l k).foldl (fun s m =>
    match s.matched m (clGrp k.snap) k.pos with
    | some c => f s m c
    | none => s) s

/-- A bucket starts once every participant has signalled it, all agree, and every page it touches is there (R225, R228; log entry
17). -/
def State.clStart (s : State) (l : Nat) (k : Cmd) (b : Nat) : State :=
  let ring := s.collRing l k
  if !ring.all (s.clReady k b) then s
  else
    let s := s.clEach l k (fun s m c =>
      match s.clProbe m c ring.length b (s.collRank m c) with
      | (some e, s) => s.collFail m c.id e
      | (none, s) => s)
    if ring.all (s.clReady k b) then s.clEach l k (fun s m c => s.clBegin m b c) else s

/-! ### Disagreement (R225) -/

/-- Whether rank `r` would send a segment of a collective whose commands do not all agree: of a broadcast, ROOT, or a rank that
would pass on what matched. -/
def clSends (p : Nat) (at' : Nat → Option Cmd) : Nat → Nat → Bool
  | 0, _ => false
  | fuel + 1, r =>
    match at' r with
    | none => false
    | some k =>
      let d := k.snap
      if k.fault.isSome || !k.buckets.any (·.signal) then false
      else if clOp d ≠ 3 then true
      else if (r + 1) % p = clRoot d then false
      else if r = clRoot d then true
      else match at' ((r + p - 1) % p) with
        | none => false
        | some j => clSame d j.snap && clSends p at' fuel ((r + p - 1) % p)

/-- The first segment that each rank sends to a next rank that disagrees with it: that one faults with reason 15. -/
def State.clDisagree (s : State) (l : Nat) (k : Cmd) : State :=
  let x := slotOf l
  let ms := s.collMembers l k
  let p := ms.length
  let at' := fun (r : Nat) => s.matched (lcKey x (ms.getD r 0)) (clGrp k.snap) k.pos
  (List.range p).foldl (fun s r =>
    let q := (r + 1) % p
    match at' r, at' q with
    | some j, some c =>
      if clSends p at' p r && !clSame j.snap c.snap && j.buckets.all (fun b => b.sent == 0) && j.st != 3 then
        s.sendSeg (lcKey x (ms.getD r 0)) j (lcKey x (ms.getD q 0)) ((j.buckets.findIdx? (·.signal)).getD 0) 0 0 [0]
      else s
    | _, _ => s) s

/-- Bellows looks at a command's collective: buckets that may start do, and commands that disagree exchange a segment. -/
def State.collPoll (s : State) (l id : Nat) : State :=
  match (s.lc l).cmd? id with
  | none => s
  | some k =>
    if !k.snapped || k.fault.isSome || (s.ctx (slotOf l)).coll.isSome then s
    else
      let s := s.clDisagree l k
      (List.range k.buckets.length).foldl (fun s b => s.clStart l k b) s

/-! ### Steps -/

/-- Acceptance of a COLL (R224, R225, R446), with the bucket marks held for it (R447). One that fails keeps the descriptor read: it names
the record whose wait reports the fault (R203). -/
def State.collTake (s : State) (l : Nat) (k : Cmd) : State :=
  let x := slotOf l
  match s.cbRead l k k.a.toNat 64 with
  | (.error e, s) => s.collFail l k.id (e, .read)
  | (.ok d, s) =>
    let s := s.modCmd l k.id (fun c => { c with snap := d })
    let ms := (s.ctx x).members (clGrp d)
    let fail := fun (r : Nat) => s.faultCmd l k.id k.a.toNat r
    if !clOk d then fail 10
    else if bitOf (clArb d) 31 && bitOf (clArb d) 30 && decide ((s.ctx x).nlc ≤ bitsOf (clArb d) 29 18) then fail 14
    else if !ms.contains (lcNum l) then fail 15
    else if clOp d = 3 ∧ ms.length ≤ clRoot d then fail 10
    else
      let n := tget 0 (s.lc l).collCount (clGrp d)
      let held := ((s.lc l).csig.filter (fun e => e.1 == k.id)).map (·.2)
      let s := s.modLc l (fun c =>
        { c with collCount := tset 0 c.collCount (clGrp d) (n + 1), csig := c.csig.filter (fun e => e.1 != k.id) })
      let s := s.modCmd l k.id (fun c =>
        { c with
          st := 1, snapped := true, snap := d, pos := n,
          buckets := (List.range (clNbkt d)).map (fun b => { signal := held.contains b, run := 0, sent := 0, got := 0 }) })
      if held.any (fun b => decide (clNbkt d ≤ b)) then s.faultCmd l k.id k.a.toNat 15 else s

/-- Whether an older COLL of a logical core is still to be accepted: they are matched in the order in which they were issued (R225). -/
def LCore.collWaits (c : LCore) (id : Nat) : Bool := (c.older id).any (fun k => k.kind == .coll && !k.snapped)

/-- COLL_ACCEPT (R446): acceptance, and the buckets that may start then (R228). -/
def execCollAccept (lc cmd : Nat) (s : State) : Out :=
  match (s.engLc lc).cmd? cmd with
  | none => .next s
  | some k =>
    let c := s.engLc lc
    if !s.mayBegin lc || k.kind != .coll || !k.queued || k.fault.isSome || c.collWaits cmd then .next s
    else .next ((if k.snapped then s else s.collTake lc k).collPoll lc cmd)

/-- Rank `r` takes segment `i` of step `t` of a bucket: adds and passes on, or writes and passes on (R226, R227). -/
def State.clReceive (s : State) (l next : Nat) (k : Cmd) (p r b t i : Nat) (bs : List Byte) : Except CollErr Unit × State :=
  let d := k.snap
  match clItem d p t ((r + p - 1) % p) with
  | none => (.ok (), s)
  | some (q, lo, hi) =>
    let e := lo + i * clPer d
    let n := min (clPer d) (hi - e)
    if clOp d ≤ 1 ∧ t < p - 1 then
      match s.collInput l k (clSrcAddr d b e) n with
      | (.error f, s) => (.error f, s)
      | (.ok y, s) =>
        let (sum, sat) := clAdd d bs y
        let s := if sat then s.collSat l k else s
        if r = q then s.clOwn l next k p b q e i sum
        else if clEt d = 3 then
          match s.formMx l k.id (clResAddr d b e) (wordsOfBytes sum) with
          | (.error f, s) => (.error f, s)
          | (.ok g, s) => (.ok (), s.sendSeg l k next b (t + 1) i g)
        else (.ok (), s.sendSeg l k next b (t + 1) i sum)
    else s.clKeep l next k (clDstAddr d p b q e) b (t + 1) i (decide (t + 1 < clSteps d p)) bs

/-- Whether a segment of step `t` that has reached its target stays there while the context is being stopped: Bellows stops at a segment
boundary, and passing it on would send another (R127). Segments of an MXFP4 reduction are passed on until they are summed, since what
they hold is nowhere else (R48; log entry 35). -/
def clHeld (d : List Byte) (p t : Nat) : Bool := decide (t + 1 < clSteps d p) && !(clEt d == 3 && decide (clOp d ≤ 1) && decide (t < p - 1))

/-- Whether a segment that has reached its receiver is the next of its bucket there, and goes on from there now. -/
def State.segDue (s : State) (l : Nat) (k : Cmd) (f : Flit) : Bool :=
  let p := (s.collRing l k).length
  let t := bitsOf f.addr 31 19
  let c := k.bucket (bitsOf f.addr 37 33)
  k.fault.isNone && !s.heldCmd l k && c.run != 0 && clPos k.snap p t f.flag ((s.collRank l k + p - 1) % p) == c.got
    && !((s.ctx (slotOf l)).coll.isSome && clHeld k.snap p t)

/-- BSEG: the segment at inbox position `i` is received, in the order in which its sender sent those of the bucket (R141, R225, R229). One
of a context that is gone is dropped; one whose receiver has faulted, or has not begun the bucket, waits. -/
def execBseg (i : Nat) (s : State) : Out :=
  match s.inbox[i]? with
  | none => .next s
  | some (_, f) =>
    if f.typ ≠ 7 then .next s
    else
      let l := f.note % 2 ^ 24
      let x := slotOf l
      let gone := { s with inbox := ldel s.inbox i }
      let b := bitsOf f.addr 37 33
      let t := bitsOf f.addr 31 19
      if !(s.ctx x).used || s.ctxid x != bitsOf f.note 47 24 then .next gone
      else match s.matched l (bitsOf f.addr 45 38) (bitsOf f.note 79 48) with
        | none => .next (if s.collOver l (bitsOf f.addr 45 38) (bitsOf f.note 79 48) then gone else s)
        | some k =>
          if k.fault.isSome then .next s
          else
            let ring := s.collRing l k
            let p := ring.length
            let r := s.collRank l k
            let agree := match s.matched (ring.getD ((r + p - 1) % p) l) (clGrp k.snap) k.pos with
              | some j => clSame j.snap k.snap
              | none => true
            if !agree then .next (gone.faultCmd l k.id k.a.toNat 15)
            else if !s.segDue l k f then .next s
            else
              let s := if bitOf f.op 2 then s.collSat l k else s
              match s.clReceive l (ring.getD ((r + 1) % p) l) k p r b t f.flag f.payload with
              | (.error e, s) => .next (s.collFail l k.id e)
              | (.ok _, s) =>
                let s := s.modBucket l k.id b (fun c => { c with got := c.got + 1 })
                .next ({ s with inbox := ldel s.inbox i }.clFinished l k p b r)

/-! ### Segments after a RESUME (R141, R149) -/

/-- The values of rank `r` that a part of a bucket covers: of its input, or of its output where `out` says so. -/
def State.clValues (s : State) (l : Nat) (k : Cmd) (b r q e n : Nat) (out : Bool) : Option (List W32) × State :=
  let ring := s.collRing l k
  let m := ring.getD (r % ring.length) l
  match s.matched m (clGrp k.snap) k.pos with
  | none => (none, s)
  | some c =>
    match (if out then s.collRead m (clDstAddr c.snap ring.length b q e) n else s.collInput m c (clSrcAddr c.snap b e) n) with
    | (.ok y, s) => (some y, s)
    | (.error _, s) => (none, s)

/-- Bytes that nothing determines. -/
def State.freeBytes (s : State) (n : Nat) : List Byte × State :=
  ((List.range n).map (fun i => Config.foreignByte (s.fresh * 2 ^ 52 + i)), { s with fresh := s.fresh + 1 })

/-- The payload of segment `i` of step `t` that rank `r` sent before its context was frozen, made again: of a copy or a gather, from the
output that holds it; of a sum, from the inputs in the order of R226; of an MXFP4 sum, which nothing holds, free bytes (log entry 35). -/
def State.clRemake (s : State) (l : Nat) (k : Cmd) (b t i r : Nat) : List Byte × State :=
  let d := k.snap
  let p := (s.collRing l k).length
  match clItem d p t r with
  | none => ([], s)
  | some (q, lo, hi) =>
    let e := lo + i * clPer d
    let n := min (clPer d) (hi - e)
    if 2 ≤ clOp d ∨ p - 1 ≤ t then
      match s.clValues l k b r q e n true with
      | (none, s) => s.freeBytes (n * 4)
      | (some y, s) =>
        (if clEt d = 3 then quantBytes (n / 32) y else if clEt d = 1 ∧ clOp d = 0 then bytesOfCells (fixCells (clAnch d) y) else bytesOfWords y, s)
    else if clEt d = 3 then s.freeBytes (n / 32 * 17)
    else
      (List.range (t + 1)).foldl (fun (a : List Byte × State) u =>
        match a.2.clValues l k b (r + p - t % p + u) q e n false with
        | (none, s) => s.freeBytes a.1.length
        | (some y, s) =>
          if u = 0 then (if clEt d = 1 then bytesOfCells (fixCells (clAnch d) y) else bytesOfWords y, s) else ((clAdd d a.1 y).1, s)) ([], s)

/-- A bucket of a resumed collective: its ring steps have begun where any participant has sent something; a participant has received what
it has passed on, and, where it has passed on everything and has not faulted, all that was sent to it. The segments between are with it
again. One that has completed its command has sent everything, and all of it was accepted. -/
def State.clRevive (s : State) (l : Nat) (k : Cmd) (b : Nat) : State :=
  let ring := s.collRing l k
  let p := ring.length
  let d := k.snap
  let sent := fun (m : Nat) =>
    match s.matched m (clGrp d) k.pos with
    | some c => (c.bucket b).sent
    | none => clTotal d p ((ring.findIdx? (fun n => n == m)).getD 0)
  if !ring.all (fun m => (s.matched m (clGrp d) k.pos).isSome || s.collOver m (clGrp d) k.pos) || ring.all (fun m => sent m == 0) then s
  else
    (List.range p).foldl (fun s r =>
      let m := ring.getD r l
      let prev := (r + p - 1) % p
      match s.matched m (clGrp d) k.pos with
      | none => s
      | some c =>
        let due := if p = 1 then 0 else sent (ring.getD prev l)
        let got := if p = 1 ∨ (clTotal d p r ≤ sent m ∧ c.fault.isNone) then due else min due (sent m - clSegs d p 0 r)
        let s := s.modBucket m c.id b (fun x => { x with run := 1, got := got })
        let s := (List.range (clSteps d p)).foldl (fun s t =>
          (List.range (clSegs d p t prev)).foldl (fun s i =>
            if got ≤ clPos d p t i prev ∧ clPos d p t i prev < due then
              let (bs, s) := s.clRemake l k b t i prev
              match s.matched (ring.getD prev l) (clGrp d) k.pos with
              | none => s
              | some j => { s with inbox := s.inbox ++ [((s.lc m).die, s.segFlit (ring.getD prev l) j m b t i bs)] }
            else s) s) s
        s.clFinished m c p b r) s

/-- Whether a flit is a segment of a context's collective with match number `n` on group `g`. -/
def State.isSeg (s : State) (x g n : Nat) (f : Flit) : Bool :=
  f.typ == 7 && bitsOf f.note 47 24 == s.ctxid x && bitsOf f.note 79 48 == n && bitsOf f.addr 45 38 == g

/-- Whether a flit that some test accepts is on its way through the fabric. -/
def State.onTheWay (s : State) (mine : Flit → Bool) : Bool :=
  s.waitq.any (fun w => mine w.flit) || s.wires.any (fun w => mine w.flit) || s.exits.any (fun e => mine e.flit) || s.recov.any (fun r => mine r.sent)

/-- Whether a segment sent to logical core `l` for a match number has not been accepted yet (R230). -/
def State.segFlying (s : State) (l g n : Nat) : Bool :=
  let mine := fun (f : Flit) => s.isSeg (slotOf l) g n f && f.note % 2 ^ 24 == l
  s.inbox.any (fun e => mine e.2) || s.onTheWay mine

/-- Whether a participant's part of a collective is over: its buckets are finished, and every segment that it sent has been accepted
(R230). A reduce-scatter has no gather that would carry SAT, so it ends for all at once (R226; log entry 16). -/
def State.collDone (s : State) (l : Nat) (k : Cmd) : Bool :=
  let ring := s.collRing l k
  let p := ring.length
  k.buckets.all (fun b => b.run == 2) && !s.segFlying (ring.getD ((s.collRank l k + 1) % p) l) (clGrp k.snap) k.pos &&
    (clOp k.snap != 1 || ring.all (fun m =>
      match s.matched m (clGrp k.snap) k.pos with
      | some c => c.buckets.all (fun b => b.run == 2)
      | none => s.collOver m (clGrp k.snap) k.pos))

/-- The record that a COLL's ARB names: a logical core and an address (R208). -/
def clRecord (l : Nat) (d : List Byte) : Option (Nat × Nat) :=
  let a := clArb d
  if bitOf a 31 then some (if bitOf a 30 then lcKey (slotOf l) (bitsOf a 29 18) else l, a % 2 ^ 15 * 32) else none

/-- Sets SAT in an arrival record. -/
def State.arSat (s : State) (l a : Nat) : State :=
  let s := s.ltouch l a 32
  let r := s.arAt l a
  s.lwrite l a (arBytes { r with w3 := r.w3 ||| 0x2000000000000000#64 })

/-- COLL_COMPLETE (R230): SAT where an element saturated, then one arrival. -/
def execCollComplete (lc cmd : Nat) (s : State) : Out :=
  match (s.engLc lc).cmd? cmd with
  | none => .next s
  | some k =>
    let c := s.engLc lc
    if c.core.isNone || c.stopping || k.kind != .coll || !k.snapped || k.fault.isSome || !s.collDone lc k || !s.outIdle lc then .next s
    else
      let s := match clRecord lc k.snap with
        | none => s
        | some (r, a) => (if k.sat then s.arSat r a else s).arStep r a 0 1 0
      .next (s.finish lc cmd)

end Sys2Proof.Machine
end

