-- ==== Sys2Proof/Machine/Flags.lean ====
section
/-! DEFINITION. Results with their AFLAGS bits (R272): saturation of integers, and the FP32 and BF16 operations on words. The bits
are fNV 1, fDZ 2, fOF 4, fUF 8, fNX 16, fISAT 32. -/

namespace Sys2Proof.Machine

/-- Clamps to the signed `w`-bit range; ISAT on a clamp. -/
def satS (w : Nat) (x : Int) : Int × Nat :=
  let hi : Int := ((2 ^ (w - 1) : Nat) : Int) - 1
  let lo : Int := -((2 ^ (w - 1) : Nat) : Int)
  if x < lo then (lo, fISAT) else if hi < x then (hi, fISAT) else (x, 0)

/-- Clamps to the unsigned `w`-bit range; ISAT on a clamp. -/
def satU (w : Nat) (x : Int) : Int × Nat :=
  let hi : Int := ((2 ^ w : Nat) : Int) - 1
  if x < 0 then (0, fISAT) else if hi < x then (hi, fISAT) else (x, 0)

/-- A 64-bit result with its flags. -/
def res64 (r : Int × Nat) : W64 × Nat := (w64 r.1, r.2)
/-- A 32-bit result with its flags. -/
def res32 (r : Int × Nat) : W32 × Nat := (w32 r.1, r.2)
/-- A 32-bit pattern in [31:0] of a G register, [63:32] cleared (R371). -/
def resF (r : Nat × Nat) : W64 × Nat := (BitVec.ofNat 64 r.1, r.2)
/-- A 32-bit result sign-extended to 64 bits (R357). -/
def sext32 (x : W32) : W64 := x.signExtend 64

/-- The rounding that fn[0] selects in the scalar slots: 0 to nearest even, 1 toward zero (R371). -/
def fnMode (fn : Nat) : RMode := if fn % 2 = 1 then .rtz else .rne

/-- Sat32 (R8). -/
def sat32 (x : Int) : Int := (satS 32 x).1

/-- A BF16 datum in bits [15:0] (R399). -/
def valB (x : W32) : FVal := bf16.val (x.toNat % 65536)

/-- Binary floating-point operation on 32-bit lanes for the types 0 FP32, 1 FP32 toward zero, 2 BF16 (R312, R400). -/
def fpLane (op : FFmt → RMode → FVal → FVal → Nat × Nat) (fn : Nat) (a b : W32) : W32 × Nat :=
  if fn = 2 then lane (op bf16 .rne (valB a) (valB b)) else lane (op fp32 (fnMode fn) (val32 a) (val32 b))

/-- Fused multiply-add on lanes (R401). -/
def fmaLane (fn : Nat) (a b d : W32) : W32 × Nat :=
  if fn = 2 then lane (fmaV bf16 .rne (valB a) (valB b) (valB d)) else lane (fmaV fp32 (fnMode fn) (val32 a) (val32 b) (val32 d))

/-- Integer operation on lanes for the types 3 signed, 4 unsigned, 5 signed saturating, 6 unsigned saturating (R312, R400). -/
def intLane (op : Int → Int → Int) (fn : Nat) (a b : W32) : W32 × Nat :=
  match fn with
  | 3 => (w32 (op a.toInt b.toInt), 0)
  | 4 => (w32 (op a.toNat b.toNat), 0)
  | 5 => res32 (satS 32 (op a.toInt b.toInt))
  | _ => res32 (satU 32 (op a.toNat b.toNat))

end Sys2Proof.Machine
end

