-- ==== Sys2Proof/Machine/Scalar.lean ====
section
/-! DEFINITION. The integer instructions of the S slots, predicates, selection and special registers (R350-R353, R357-R370). -/

namespace Sys2Proof.Machine

/-! ### Results -/

/-- ADD and SUB (R358) of the exact sum or difference `x` of 64-bit operands and `y` of their low halves. -/
def addRes (fn : Nat) (op : Int → Int → Int) (a b : W64) : W64 × Nat :=
  match fn with
  | 0 => (w64 (op a.toInt b.toInt), 0)
  | 1 => (sext32 (w32 (op (lo32 a).toInt (lo32 b).toInt)), 0)
  | _ => res64 (satS 64 (op a.toInt b.toInt))

/-- MUL (R360). -/
def mulRes (fn : Nat) (a b : W64) : W64 :=
  match fn with
  | 0 => a * b
  | 1 => w64 ((a.toInt * b.toInt) / ((2 ^ 64 : Nat) : Int))
  | 2 => BitVec.ofNat 64 ((a.toNat * b.toNat) / 2 ^ 64)
  | _ => sext32 (lo32 a * lo32 b)

/-- DIV (R361): quotients round toward zero, a remainder has the dividend's sign. -/
def divRes (fn : Nat) (a b : W64) : W64 × Nat :=
  let ovf := a.toInt == -((2 ^ 63 : Nat) : Int) && b.toInt == -1
  match fn with
  | 0 => if b = 0 then (ones64, fDZ) else if ovf then (a, fISAT) else (w64 (Int.tdiv a.toInt b.toInt), 0)
  | 1 => if b = 0 then (ones64, fDZ) else (BitVec.ofNat 64 (a.toNat / b.toNat), 0)
  | 2 => if b = 0 then (a, fDZ) else if ovf then (0, fISAT) else (w64 (Int.tmod a.toInt b.toInt), 0)
  | _ => if b = 0 then (a, fDZ) else (BitVec.ofNat 64 (a.toNat % b.toNat), 0)

/-- The shifts of R363. -/
inductive Shift where
  | shl | shr | sar | rotr
  deriving DecidableEq, Repr

/-- A shift of a 64-bit value. -/
def shift64 (k : Shift) (a : W64) (n : Nat) : W64 :=
  match k with
  | .shl => a <<< n
  | .shr => a >>> n
  | .sar => a.sshiftRight n
  | .rotr => a.rotateRight n

/-- A shift of a 32-bit value. -/
def shift32 (k : Shift) (a : W32) (n : Nat) : W32 :=
  match k with
  | .shl => a <<< n
  | .shr => a >>> n
  | .sar => a.sshiftRight n
  | .rotr => a.rotateRight n

/-- A shift with its form (R363): fn[0] 32-bit. `c` is the count before it is cut to the form's width. -/
def shiftRes (k : Shift) (fn : Nat) (a : W64) (c : Nat) : W64 :=
  if fn % 2 = 1 then sext32 (shift32 k (lo32 a) (c % 32)) else shift64 k a (c % 64)

/-- Leading zeros of the low `w` bits (R365). -/
def clzN (w x : Nat) : Nat := if x = 0 then w else w - 1 - Nat.log2 x
/-- Trailing zeros of the low `w` bits (R365). -/
def ctzN (w x : Nat) : Nat := ((List.range w).find? (fun i => bitOf x i)).getD w
/-- Set bits of the low `w` bits (R365). -/
def popN (w x : Nat) : Nat := ((List.range w).filter (fun i => bitOf x i)).length

/-- The operand of a counting instruction and its width (R365). -/
def countOf (f : Nat → Nat → Nat) (fn : Nat) (a : W64) : W64 :=
  if fn = 1 then BitVec.ofNat 64 (f 32 (lo32 a).toNat) else BitVec.ofNat 64 (f 64 a.toNat)

/-- The position of a bit field control (R366). -/
def bfPos (b : W64) : Nat := b.toNat % 64
/-- The width of a bit field control: at most what is left above the position (R366). -/
def bfWidth (b : W64) : Nat := min (bitsOf b.toNat 14 8) (64 - bfPos b)

/-- EXTR (R366). -/
def extrRes (fn : Nat) (a b : W64) : W64 :=
  let w := bfWidth b
  if w = 0 then 0
  else
    let f := (a.toNat >>> bfPos b) % 2 ^ w
    if fn % 2 = 1 then w64 (sgn w f) else BitVec.ofNat 64 f

/-- INSR (R366). -/
def insrRes (d a b : W64) : W64 :=
  let w := bfWidth b
  let p := bfPos b
  let m : W64 := BitVec.ofNat 64 ((2 ^ w - 1) <<< p)
  (d &&& ~~~m) ||| ((a <<< p) &&& m)

/-- CMP conditions (R367). -/
def cmpRes (fn : Nat) (a b : W64) : Bool :=
  match fn with
  | 0 => a == b
  | 1 => a != b
  | 2 => a.slt b
  | 3 => a.sle b
  | 4 => b.slt a
  | 5 => b.sle a
  | 6 => a.ult b
  | 7 => a.ule b
  | 8 => b.ult a
  | _ => b.ule a

/-! ### Meanings: integer arithmetic (R358-R361) -/

/-- ADD. -/
def execAdd (g : Guard) (d a b : R6) (fn : F4) (s : State) : Out :=
  act g s fun s => let r := addRes fn.toNat (· + ·) (s.gv a) (s.gv b); (s.wG d r.1 1).flag r.2 1
/-- SUB. -/
def execSub (g : Guard) (d a b : R6) (fn : F4) (s : State) : Out :=
  act g s fun s => let r := addRes fn.toNat (· - ·) (s.gv a) (s.gv b); (s.wG d r.1 1).flag r.2 1
/-- MUL. -/
def execMul (g : Guard) (d a b : R6) (fn : F4) (s : State) : Out :=
  act g s fun s => s.wG d (mulRes fn.toNat (s.gv a) (s.gv b)) 3
/-- DIV. -/
def execDiv (g : Guard) (d a b : R6) (fn : F4) (s : State) : Out :=
  act g s fun s => let r := divRes fn.toNat (s.gv a) (s.gv b); (s.wG d r.1 18).flag r.2 18
/-- LEA. -/
def execLea (g : Guard) (d a b : R6) (fn : F4) (s : State) : Out :=
  act g s fun s => s.wG d (s.gv a + (s.gv b <<< fn.toNat)) 1
/-- ADDI. -/
def execAddi (g : Guard) (d a : R6) (imm : BitVec 10) (s : State) : Out :=
  act g s fun s => s.wG d (s.gv a + imm.signExtend 64) 1
/-- MOVI. -/
def execMovi (g : Guard) (d : R6) (imm : W16) (s : State) : Out :=
  act g s fun s => s.wG d (imm.signExtend 64) 1

/-! ### Logic, shifts and bit fields (R362-R366) -/

/-- AND. -/
def execAnd (g : Guard) (d a b : R6) (_fn : F4) (s : State) : Out :=
  act g s fun s => s.wG d (s.gv a &&& s.gv b) 1
/-- OR. -/
def execOr (g : Guard) (d a b : R6) (_fn : F4) (s : State) : Out :=
  act g s fun s => s.wG d (s.gv a ||| s.gv b) 1
/-- XOR. -/
def execXor (g : Guard) (d a b : R6) (_fn : F4) (s : State) : Out :=
  act g s fun s => s.wG d (s.gv a ^^^ s.gv b) 1
/-- ANDN. -/
def execAndn (g : Guard) (d a b : R6) (_fn : F4) (s : State) : Out :=
  act g s fun s => s.wG d (s.gv a &&& ~~~(s.gv b)) 1

/-- The count of a shift: the b field itself where fn[1] is set, else a G register (R363). -/
def State.shiftCount (s : State) (b : R6) (fn : F4) : Nat :=
  if (fn.toNat / 2) % 2 = 1 then b.toNat else (s.gv b).toNat

/-- SHL. -/
def execShl (g : Guard) (d a b : R6) (fn : F4) (s : State) : Out :=
  act g s fun s => s.wG d (shiftRes .shl fn.toNat (s.gv a) (s.shiftCount b fn)) 1
/-- SHR. -/
def execShr (g : Guard) (d a b : R6) (fn : F4) (s : State) : Out :=
  act g s fun s => s.wG d (shiftRes .shr fn.toNat (s.gv a) (s.shiftCount b fn)) 1
/-- SAR. -/
def execSar (g : Guard) (d a b : R6) (fn : F4) (s : State) : Out :=
  act g s fun s => s.wG d (shiftRes .sar fn.toNat (s.gv a) (s.shiftCount b fn)) 1
/-- ROTR. -/
def execRotr (g : Guard) (d a b : R6) (fn : F4) (s : State) : Out :=
  act g s fun s => s.wG d (shiftRes .rotr fn.toNat (s.gv a) (s.shiftCount b fn)) 1
/-- MIN. -/
def execMin (g : Guard) (d a b : R6) (fn : F4) (s : State) : Out :=
  act g s fun s =>
    let x := s.gv a
    let y := s.gv b
    s.wG d (if (if fn = 1 then x.ule y else x.sle y) then x else y) 1
/-- MAX. -/
def execMax (g : Guard) (d a b : R6) (fn : F4) (s : State) : Out :=
  act g s fun s =>
    let x := s.gv a
    let y := s.gv b
    s.wG d (if (if fn = 1 then x.ule y else x.sle y) then y else x) 1
/-- CLZ. -/
def execClz (g : Guard) (d a _b : R6) (fn : F4) (s : State) : Out :=
  act g s fun s => s.wG d (countOf clzN fn.toNat (s.gv a)) 1
/-- CTZ. -/
def execCtz (g : Guard) (d a _b : R6) (fn : F4) (s : State) : Out :=
  act g s fun s => s.wG d (countOf ctzN fn.toNat (s.gv a)) 1
/-- POPC. -/
def execPopc (g : Guard) (d a _b : R6) (fn : F4) (s : State) : Out :=
  act g s fun s => s.wG d (countOf popN fn.toNat (s.gv a)) 1
/-- EXTR. -/
def execExtr (g : Guard) (d a b : R6) (fn : F4) (s : State) : Out :=
  act g s fun s => s.wG d (extrRes fn.toNat (s.gv a) (s.gv b)) 1
/-- INSR reads its destination as well. -/
def execInsr (g : Guard) (d a b : R6) (_fn : F4) (s : State) : Out :=
  act g s fun s => s.wG d (insrRes (s.op.gGet d.toNat) (s.gv a) (s.gv b)) 1

/-! ### Predicates and selection (R367-R369) -/

/-- CMP. -/
def execCmp (g : Guard) (d a b : R6) (fn : F4) (s : State) : Out :=
  act g s fun s => s.wP d.toNat (cmpRes fn.toNat (s.gv a) (s.gv b)) 1
/-- SEL. -/
def execSel (g : Guard) (d a b : R6) (fn : F4) (s : State) : Out :=
  act g s fun s => s.wG d (if s.op.pGet (fn.toNat % 8) != decide (8 ≤ fn.toNat) then s.gv a else s.gv b) 1
/-- PLOG: bit 2 P[a] + P[b] of the table. -/
def execPlog (g : Guard) (d a b : R6) (fn : F4) (s : State) : Out :=
  act g s fun s =>
    s.wP d.toNat (fn.getLsbD (2 * (s.op.pGet a.toNat).toNat + (s.op.pGet b.toNat).toNat)) 1

/-! ### Special registers (R350-R353, R370) -/

/-- STATUS (R352). -/
def State.status (s : State) (t : Nat) (st : Strand) : W64 :=
  let c := s.ctx (slotOfStrand t)
  BitVec.ofNat 64 ((if c.det then 2 ^ 11 else 0) + (if c.spec then 2 ^ 10 else 0) + (if c.pager then 2 ^ 9 else 0)
    + (if c.debug then 2 ^ 8 else 0) + (if st.sdrain then 4 else 0) + (if st.sstep then 2 else 0) + (if st.tm then 1 else 0))

/-- SPECST (R119). -/
def State.specst (s : State) (l : Nat) : W64 :=
  let c := s.ctx (slotOf l)
  BitVec.ofNat 64 ((if c.spec then c.specsz else 0) * 256 + (if (s.lc l).sel then 2 else 0) + (if (s.lc l).act then 1 else 0))

/-- FIRING (R86). -/
def firingWord (st : Strand) : W64 :=
  BitVec.ofNat 64 (st.q * 2 ^ 32 + st.stage * 2 ^ 26 + st.depth * 2 ^ 23 + st.call)

/-- AANCn (R288). -/
def aancWord (c : LCore) (n : Nat) : W64 :=
  BitVec.ofNat 64 ((if c.sat.contains n then 2 ^ 16 else 0) + unsg 16 (tget 0 c.anchor n))

/-- A special register of strand `t` with registers `st` (R350, R351). -/
def State.specRead (s : State) (t : Nat) (st : Strand) (n : Nat) : W64 :=
  if n = 0x000 then s.status t st
  else if n = 0x001 then st.tvb
  else if n = 0x002 then st.epc
  else if n = 0x003 then st.ecause
  else if n = 0x004 then st.eaddr
  else if n = 0x005 then st.einfo
  else if n = 0x006 then st.aflags
  else if n = 0x007 then st.amask
  else if n ≤ 0x00A then tget 0 st.xv (n - 7)
  else if n = 0x00B then BitVec.ofNat 64 st.lnkd
  else if n ≤ 0x017 then tget 0 st.tcfg (n - 0x10)
  else if n ≤ 0x01D then tget 0 st.lcnt (n - 0x18)
  else if n = 0x01E then (if (s.ctx (slotOfStrand t)).det then st.dgsta else 0)
  else if n = 0x01F then BitVec.ofNat 64 (s.cycle - s.since)
  else if n ≤ 0x02F then tget 0 st.lnk (n - 0x20)
  else if n = 0x030 then BitVec.ofNat 64 (t % 4)
  else if n = 0x031 then BitVec.ofNat 64 (lcNum (lcOf t))
  else if n = 0x032 then BitVec.ofNat 64 (s.ctx (slotOfStrand t)).nlc
  else if n = 0x033 then BitVec.ofNat 64 (s.ctxid (slotOfStrand t))
  else if n = 0x034 then firingWord st
  else if n = 0x035 then s.specst (lcOf t)
  else aancWord (s.lc (lcOf t)) (n - 0x36)

/-- Whether an MTS needs trap mode (R351). -/
def mtsTrapOnly (n : Nat) : Bool :=
  n ≤ 0x005 || n == 0x00B || (decide (0x18 ≤ n) && decide (n ≤ 0x1D)) || (decide (0x20 ≤ n) && decide (n ≤ 0x2F))

/-- Whether no MTS may write a register (R351). -/
def mtsNever (n : Nat) : Bool := n == 0x01E || n == 0x01F || decide (0x30 ≤ n)

/-- PRIV of an MTS, with the register number in EINFO (R351). -/
def State.mtsPriv (s : State) (n : Nat) (v : W64) : Option Trap :=
  if mtsNever n then some (trap0 cPRIV n)
  else if mtsTrapOnly n && !s.op.tm then some (trap0 cPRIV n)
  else if n = 0 ∧ v.getLsbD 2 ∧ !s.myCtx.debug then some (trap0 cPRIV n)
  else none

/-- Bytes of an element of a tile type (R160). -/
def etSize (e : Nat) : Nat := if e = 0 ∨ e = 2 then 4 else if e = 1 ∨ e = 3 then 2 else 1
/-- ROWS, COLS and ETYPE of a TCFG value. -/
def tcRows (v : W64) : Nat := bitsOf v.toNat 5 0
def tcCols (v : W64) : Nat := bitsOf v.toNat 13 8
def tcType (v : W64) : Nat := bitsOf v.toNat 21 18

/-- Whether a TCFG value is in its limits (R161). -/
def tcfgOk (v : W64) : Bool :=
  v.toNat >>> 22 == 0 && bitsOf v.toNat 17 14 == 0 && bitsOf v.toNat 7 6 == 0 && decide (tcType v ≤ 4) && decide (tcRows v ≤ 32)
    && (tcRows v == 0 || (decide (1 ≤ tcCols v) && decide (tcCols v ≤ 32)
      && decide (tcRows v * tcCols v * etSize (tcType v) ≤ 1024)))

/-- Whether an MTS value is in its register's limits (R161, R258, R335, R352, R353). -/
def State.mtsOk (s : State) (n : Nat) (v : W64) : Bool :=
  if n = 0x000 then (v ^^^ s.status s.cur s.op) &&& ~~~6#64 == 0
  else if n = 0x003 then decide (v.toNat < 256)
  else if 0x008 ≤ n ∧ n ≤ 0x00A then decide (v.toNat < 32) && v.toNat != 16
  else if n = 0x00B then decide (v.toNat ≤ 16)
  else if 0x010 ≤ n ∧ n ≤ 0x017 then tcfgOk v
  else true

/-- Writes a special register; reserved bits of AFLAGS, AMASK and TVB ignore writes. A TCFG write zeroes the tile (R161). -/
def Strand.specWrite (st : Strand) (n : Nat) (v : W64) : Strand :=
  if n = 0x000 then { st with sstep := v.getLsbD 1, sdrain := v.getLsbD 2 }
  else if n = 0x001 then { st with tvb := v &&& ~~~63#64 }
  else if n = 0x002 then { st with epc := v }
  else if n = 0x003 then { st with ecause := v }
  else if n = 0x004 then { st with eaddr := v }
  else if n = 0x005 then { st with einfo := v }
  else if n = 0x006 then { st with aflags := v &&& 63#64 }
  else if n = 0x007 then { st with amask := v &&& 63#64 }
  else if n ≤ 0x00A then { st with xv := tset 0 st.xv (n - 7) v }
  else if n = 0x00B then { st with lnkd := v.toNat % 32 }
  else if n ≤ 0x017 then
    { st with tcfg := tset 0 st.tcfg (n - 0x10) v, td := tclear st.td ((n - 0x10) * 1024) 1024,
              tst := tset 0 st.tst (n - 0x10) (if tcRows v = 0 then 0 else 1) }
  else if n ≤ 0x01D then { st with lcnt := tset 0 st.lcnt (n - 0x18) v }
  else if 0x020 ≤ n ∧ n ≤ 0x02F then { st with lnk := tset 0 st.lnk (n - 0x20) v }
  else st

/-- MFS: the register as it stood before the bundle; latency 2. -/
def execMfs (g : Guard) (d : R6) (num : BitVec 12) (s : State) : Out :=
  act g s fun s => s.wG d (s.specRead s.cur s.op num.toNat) 2
/-- MTS: PRIV or ILLOP as R351 and R370 give, else the write. -/
def execMts (g : Guard) (num : BitVec 12) (a : R6) (s : State) : Out :=
  act g s fun s =>
    let n := num.toNat
    let v := s.gv a
    s.checked (firstOf [s.mtsPriv n v, if s.mtsOk n v then none else some (illop s.latch.slot 0)])
      fun s => s.onMe (fun st =>
        let st := (st.specWrite n v).latency (.sp n) 1
        if 0x010 ≤ n ∧ n ≤ 0x017 then st.latency (.t (n - 0x10)) 1 else st)

end Sys2Proof.Machine
end

