-- ==== Sys2Proof/Machine/Tags.lean ====
section
/-! DEFINITION. The frame owner table: the writable mappings of frames, found by walking a context's page tables (R190). -/

namespace Sys2Proof.Machine

/-- A leaf of a context: virtual address, value, level. -/
structure LeafAt where
  va : Nat
  e : Nat
  level : Nat
  deriving DecidableEq, Repr

/-- The indices of a table's entries that hold a byte other than zero; of a table in another package's memory, whose bytes are free values,
all of them. -/
def State.tableIdx (s : State) (table : Nat) : List Nat :=
  if table < 2 ^ 51 ∧ !s.ownFid (table >>> 37) then List.range 1024
  else (s.mem.filter (fun c => decide (table ≤ c.1) && decide (c.1 < table + 8192))).foldl (fun l c => sins ((c.1 - table) / 8) l) []

/-- The leaves that a table at a level leads to, from virtual address `va` on. -/
def State.leavesFrom (s : State) (va : Nat) : Nat → Nat → List LeafAt
  | 0, table => (s.tableIdx table).filterMap (fun i =>
      let e := leNat (s.pread (table + 8 * i) 8)
      if bitOf e 0 && bitOf e 9 then some { va := va + i * pageSize 0, e := e, level := 0 } else none)
  | n + 1, table => (s.tableIdx table).flatMap (fun i =>
      let e := leNat (s.pread (table + 8 * i) 8)
      let va := va + i * pageSize (n + 1)
      if !bitOf e 0 then []
      else if bitOf e 9 then (if n + 1 = 3 then [] else [{ va := va, e := e, level := n + 1 }])
      else s.leavesFrom va n (bitsOf e 51 13 * 8192))

/-- Whether a walk from a table at a level down meets a block of HBM that cannot be read (R185, R193). -/
def State.tablesBad (s : State) : Nat → Nat → Bool
  | 0, table => s.spoilt table 8192
  | n + 1, table => s.spoilt table 8192 || (s.tableIdx table).any (fun i =>
      let e := leNat (s.pread (table + 8 * i) 8)
      bitOf e 0 && !bitOf e 9 && s.tablesBad n (bitsOf e 51 13 * 8192))

/-- The leaves of a context's tables. -/
def State.leaves (s : State) (root : Nat) : List LeafAt := s.leavesFrom 0 3 root

/-- The tag of a writable leaf of HBM or Hearth of this package (R190). -/
def State.leafTag (s : State) (x : Nat) (l : LeafAt) : Option Tag :=
  let pa := leafFrame l.e
  if leafW l.e && leafKind l.e != 3 && pa % pageSize l.level == 0 && (isHbm pa || isHearth pa) && s.ownFid (pa >>> 37) then
    some { frame := pa / 65536, count := pageSize l.level / 65536, slot := x, va := l.va }
  else none

/-- The tags of a context whose tables have this root. -/
def State.tagsOf (s : State) (x root : Nat) : List Tag := (s.leaves root).filterMap (s.leafTag x)

/-- Whether two tags share a frame. -/
def Tag.meets (a b : Tag) : Bool := decide (a.frame < b.frame + b.count) && decide (b.frame < a.frame + a.count)

/-- Whether some frame has a third writable mapping (R190). -/
def tagsCrowded (ts : List Tag) : Bool :=
  ts.any (fun t => decide (3 ≤ (ts.filter (fun u => decide (u.frame ≤ t.frame) && decide (t.frame < u.frame + u.count))).length))

/-- The tags after a context's tables have been walked whole (CREATE, RESUME, TINV.ALL); none if a frame would gain a third. -/
def State.retagAll (s : State) (x root : Nat) : Option (List Tag) :=
  let ts := s.tags.filter (fun t => t.slot != x) ++ s.tagsOf x root
  if tagsCrowded ts then none else some ts

/-- A leaf as the frame owner table remembers it. -/
def LeafAt.known (l : LeafAt) : CachedLeaf := { va := l.va, level := l.level, e := l.e, epa := 0 }

/-- The leaves of a context, remembered by CREATE, RESUME and TINV.ALL. -/
def State.knownOf (s : State) (root : Nat) : List CachedLeaf := (s.leaves root).map LeafAt.known

/-- The 64 KiB frames of a leaf: the first and the one after the last. -/
def CachedLeaf.frames (c : CachedLeaf) : Nat × Nat := (leafFrame c.e / 65536, leafFrame c.e / 65536 + pageSize c.level / 65536)

/-- The part of a tag in a range of frames. -/
def Tag.within (t : Tag) (r : Nat × Nat) : Option Tag :=
  let lo := max t.frame r.1
  let hi := min (t.frame + t.count) r.2
  if lo < hi then some { t with frame := lo, count := hi - lo, va := t.va + (lo - t.frame) * 65536 } else none

/-- What is left of a tag without a range of frames. -/
def Tag.without (t : Tag) (r : Nat × Nat) : List Tag :=
  [t.within (0, r.1), t.within (max r.1 r.2, t.frame + t.count)].filterMap id

/-- The tags of a context outside two ranges of frames, and what its tables now make of those frames (R190). -/
def State.retagFrames (s : State) (x root : Nat) (rs : List (Nat × Nat)) : Option (List Tag) :=
  let keep := (s.tags.filter (fun t => t.slot != x)) ++ rs.foldl (fun ts r => ts.flatMap (fun t => t.without r)) (s.tags.filter (fun t => t.slot == x))
  let now := s.tagsOf x root
  let fresh := match rs with
    | [] => []
    | r :: rest => now.filterMap (fun t => t.within r) ++ rest.flatMap (fun q => now.flatMap (fun t => ((t.within q).toList.flatMap (fun u => u.without r))))
  let ts := keep ++ fresh
  if rs.any (fun r => tagsCrowded (ts.filterMap (fun t => t.within r))) then none else some ts

/-- The leaf that covers an address among some. -/
def leafFor (ls : List CachedLeaf) (va : Nat) : Option CachedLeaf := ls.find? (fun c => c.covers va)

/-- The tags after TINV.PAGE of an address: those of the frames of the old and the new leaf are rebuilt, of no other frame; and the
leaves remembered after it. -/
def State.retagPage (s : State) (x root va : Nat) : Option (List Tag × List CachedLeaf) :=
  let old := leafFor (s.ctx x).known va
  let new := leafFor (s.knownOf root) va
  let rs := (old.map (·.frames)).toList ++ (new.map (·.frames)).toList
  (s.retagFrames x root rs).map (fun ts => (ts, new.toList ++ (s.ctx x).known.filter (fun c => !c.covers va)))

end Sys2Proof.Machine
end

