-- ==== Sys2Proof/Machine/MemSlot.lean ====
section
/-! DEFINITION. The M-slot instructions (R377-R397, R442). A scratchpad access is performed at issue (R168); a global access is
checked and translated at issue and stands as a pending access until GLOBAL_ACCESS_PERFORMED performs it (R236); a remote
operation becomes a flit (R391-R393). -/

namespace Sys2Proof.Machine

/-! ### Scratchpad (R381-R385) -/

/-- An `n`-byte number as a 64-bit value, zero-extended or sign-extended. -/
def extend (sx : Bool) (n x : Nat) : W64 := if sx then w64 (sgn (8 * n) x) else BitVec.ofNat 64 (x % 2 ^ (8 * n))

/-- Bytes of the speculable range of the issuing strand's logical core. -/
def State.myS (s : State) : Nat := s.specS s.myLc

/-- A strand's read of local memory: lines of an open region are filled first (R120). -/
def State.sread (s : State) (a n : Nat) : List Byte × State :=
  let s := s.ltouch s.myLc a n
  (s.lread s.myLc a n, s)

/-- A word of core control (R165). -/
def LCore.control (c : LCore) (off : Nat) : W64 :=
  if off = 0 then BitVec.ofNat 64 (edtSize - c.edt.length)
  else if off = 8 then
    BitVec.ofNat 64 ((List.range 8).foldl (fun a i =>
      if c.edt.any (fun k => k.kind == .bte && k.st != 0 && k.word.toNat / 64 == i) then a + 2 ^ i else a) 0)
  else if off = 16 then BitVec.ofNat 64 c.mq.length
  else 0

/-- LDS (R381): core control by an 8-byte aligned LDS.8, else scratchpad or side bank; latency 5. -/
def execLds (g : Guard) (d a b : R6) (fn : F4) (s : State) : Out :=
  act g s fun s =>
    let va := (s.gv a + s.gv b).toNat
    let n := 2 ^ (fn.toNat % 4)
    if 0x300000 ≤ va ∧ va < 0x300040 ∧ n = 8 ∧ va % 8 = 0 then s.wG d ((s.lc s.myLc).control (va - 0x300000)) 5
    else s.checked (locCheck s.myS false n n [(0, va)]) fun s =>
      let (bs, s) := s.sread va n
      s.wG d (extend (fn.getLsbD 2) n (leNat bs)) 5

/-- Whether an address starts a BTE channel (R442). -/
def isAperture (va : Nat) : Bool := decide (0x200000 ≤ va) && decide (va < 0x200200) && va % 64 == 0

/-- An STS (R381): a BTE start at the aperture (R442), else a store performed at issue. -/
def State.storeScalar (s : State) (d a b : R6) (fn : F4) : State :=
  let va := (s.gv a + s.gv b).toNat
  let n := 2 ^ (fn.toNat % 4)
  if isAperture va && n == 8 then
    let datum := s.gv d
    s.place1 .bte (fun k => { k with word := BitVec.ofNat 32 (va - 0x200000), a := datum, rd1 := wholeRange, wr := wholeRange })
  else s.checked (locCheck s.myS true n n [(0, va)]) fun s => s.lwrite s.myLc va (leBytes n (s.gv d).toNat)

/-- STS of 1, 2 or 4 bytes (R381). -/
def execSts (g : Guard) (d a b : R6) (fn : F4) (s : State) : Out := act g s fun s => s.storeScalar d a b fn
/-- STS.8: at 0x20_0000 + 64c a BTE start (R442), elsewhere an 8-byte store. -/
def execBteStart (g : Guard) (d a b : R6) (fn : F4) (s : State) : Out := act g s fun s => s.storeScalar d a b fn

/-- The lanes of a vector scratchpad access with their addresses (R382). -/
def State.spLanes (s : State) (form : Nat) (a b : R6) : List (Nat × Nat) :=
  match form with
  | 0 => lanes64.map (fun l => (l, laneAddr 0 (s.gv a + s.gv b).toNat 0 [] l))
  | 1 => lanes64.map (fun l => (l, laneAddr 1 (s.gv a).toNat (s.gv b).toInt [] l))
  | _ => lanes64.map (fun l => (l, laneAddr 2 (s.gv a).toNat 0 (s.vv b) l))

/-- The checks of a vector scratchpad access: R377 for every active lane, then BANKC (R170), which a contiguous form never raises
(R382). -/
def State.laneCheck (s : State) (wr contiguous : Bool) (lanes : List (Nat × Nat)) : Option Trap :=
  firstOf [locCheck s.myS wr 4 4 lanes, if contiguous then none else bankCheck lanes]

/-- Reads the active lanes into a vector; other lanes are zero. -/
def State.gather (s : State) (lanes : List (Nat × Nat)) : List W32 × State :=
  lanes.foldl (fun r e =>
    let (bs, s) := r.2.sread e.2 4
    (r.1.set e.1 (BitVec.ofNat 32 (leNat bs)), s)) (List.replicate 64 0, s)

/-- Stores the active lanes in ascending order: of several lanes that name one byte the highest stands (R384). -/
def State.scatter (s : State) (lanes : List (Nat × Nat)) (v : List W32) : State :=
  lanes.foldl (fun s e => s.lwrite s.myLc e.2 (leBytes 4 (v.getD e.1 0).toNat)) s

/-- VLDS (R382). -/
def execVlds (g : Guard) (d a b : R6) (fn : F4) (s : State) : Out :=
  act g s fun s =>
    let lanes := s.spLanes fn.toNat a b
    s.checked (s.laneCheck false (fn == 0) lanes) fun s =>
      let (v, s) := s.gather lanes
      s.wV d v 6

/-- VSTS (R382). -/
def execVsts (g : Guard) (d a b : R6) (fn : F4) (s : State) : Out :=
  act g s fun s =>
    let lanes := s.spLanes fn.toNat a b
    s.checked (s.laneCheck true (fn == 0) lanes) fun s => s.scatter lanes (s.vv d)

/-- The active lanes of a masked contiguous form (R383): lanes whose bit of Q[fn mod 8] is clear are not checked. -/
def State.maskLanes (s : State) (a b : R6) (fn : F4) : List (Nat × Nat) :=
  let q := s.op.qGet (fn.toNat % 8)
  (s.spLanes 0 a b).filter (fun e => q.getLsbD e.1)

/-- VLDM (R383). -/
def execVldm (g : Guard) (d a b : R6) (fn : F4) (s : State) : Out :=
  act g s fun s =>
    let lanes := s.maskLanes a b fn
    s.checked (s.laneCheck false true lanes) fun s =>
      let old := s.op.vGet d.toNat
      let (v, s) := s.gather lanes
      s.wV d (mergeLanes (s.op.qGet (fn.toNat % 8)) (fn.getLsbD 3) old v) 6

/-- VSTM (R383). -/
def execVstm (g : Guard) (d a b : R6) (fn : F4) (s : State) : Out :=
  act g s fun s =>
    let lanes := s.maskLanes a b fn
    s.checked (s.laneCheck true true lanes) fun s => s.scatter lanes (s.vv d)

/-- Bytes of a row of a tile with this TCFG value (R160). -/
def rowBytes (v : W64) : Nat := tcCols v * etSize (tcType v)
/-- The pitch of a tile's rows in scratchpad (R385). -/
def rowPitch (v : W64) : Nat := if rowBytes v ≤ 64 then 64 else 128

/-- TCFGU of a tile: 0 unconfigured, 1 outside the shape (R162). -/
def tcfgu (n out : Nat) : Trap := trap0 cTCFGU (n * 2 + out)

/-- The checks of TLDS and TSTS, in the order of R385. -/
def State.tileCheck (s : State) (wr : Bool) (t a : Nat) : Option Trap :=
  let v := tget 0 s.op.tcfg t
  if 2 ^ 24 ≤ a then some (locProt a wr)
  else if a % 64 ≠ 0 then some (trapA cALIGN (BitVec.ofNat 64 a) 0)
  else if tcRows v = 0 then some (tcfgu t 0)
  else locCheck s.myS wr (rowBytes v) 1 ((List.range (tcRows v)).map (fun r => (r, a + rowPitch v * r)))

/-- TLDS (R385): sets the dirty bit; latency 6. -/
def execTlds (g : Guard) (d a b : R6) (_fn : F4) (s : State) : Out :=
  act g s fun s =>
    let va := (s.gv a + s.gv b).toNat
    let v := tget 0 s.op.tcfg d.toNat
    s.checked (s.tileCheck false d.toNat va) fun s =>
      (List.range (tcRows v)).foldl (fun s r =>
        let (bs, s) := s.sread (va + rowPitch v * r) (rowBytes v)
        s.onMe (fun st => (st.tWrite d.toNat (r * rowBytes v) bs).latency (.t d.toNat) 6)) s

/-- TSTS (R385). -/
def execTsts (g : Guard) (d a b : R6) (_fn : F4) (s : State) : Out :=
  act g s fun s =>
    let va := (s.gv a + s.gv b).toNat
    let v := tget 0 s.op.tcfg d.toNat
    s.checked (s.tileCheck true d.toNat va) fun s =>
      (List.range (tcRows v)).foldl (fun s r =>
        s.lwrite s.myLc (va + rowPitch v * r) (s.op.tBytes d.toNat (r * rowBytes v) (rowBytes v))) s

/-! ### Global accesses: checks and issue (R378, R386-R390) -/

/-- Translates lanes in ascending order (R378). -/
def State.reachLanes (a : Acc) : State → List (Nat × Nat) → Except Trap (List (Nat × Nat × Loc)) × State
  | s, [] => (.ok [], s)
  | s, (l, va) :: t =>
    match s.reach1 s.myLc va a with
    | (.error e, s) => (.error (e.trap a), s)
    | (.ok loc, s) =>
      match State.reachLanes a s t with
      | (.error e, s) => (.error e, s)
      | (.ok r, s) => (.ok ((l, va, loc) :: r), s)

/-- THE CHECKS OF A GLOBAL ACCESS on (lane, address) pairs of `n` bytes (R378): alignment of every lane, then translation lane by
lane, then memory at every address (R177). A trap leaves everything else as it was. -/
def State.globals (s : State) (n : Nat) (a : Acc) (lanes : List (Nat × Nat)) (f : List (Nat × Nat × Loc) → State → State) : State :=
  match lanes.find? (fun e => e.2 % n != 0) with
  | some e => s.raise (trapA cALIGN (BitVec.ofNat 64 e.2) (e.1 * 256))
  | none =>
    match State.reachLanes a s lanes with
    | (.error t, _) => s.raise t
    | (.ok r, s') =>
      match s'.hole s.myLc (a != .write) (r.map (fun e => (e.2.2, n))) with
      | some (pa, st) => s.raise ((Fail.mem pa st).trap a)
      | none => f r s'

/-- The strongest of several kinds, in the order SO, RC, UO (R247). -/
def strongest (ks : List Nat) : Nat := if ks.contains 1 then 1 else if ks.contains 0 then 0 else 2

/-- LDG (R386): blocks after issue until its value is written. -/
def execLdg (g : Guard) (d a : R6) (scope : F4) (cls fn : F3) (s : State) : Out :=
  act g s fun s =>
    let n := 2 ^ (fn.toNat % 4)
    let va := (s.gv a).toNat
    s.globals n .read [(0, va)] fun r s =>
      (s.pend (r.map (fun e =>
        s.access .load va n cls.toNat scope.toNat 0 0 (.g d.toNat (fn.getLsbD 2)) e.2.2.kind e.2.2))).blockAfter

/-- STG (R386): does not wait; its digest folds in program order (R154). -/
def execStg (g : Guard) (d a : R6) (scope : F4) (cls fn : F3) (s : State) : Out :=
  act g s fun s =>
    let n := 2 ^ (fn.toNat % 4)
    let va := (s.gv a).toNat
    let x := (s.gv d).toNat % 2 ^ (8 * n)
    s.globals n .write [(0, va)] fun r s =>
      (s.pend (r.map (fun e => s.access .store va n cls.toNat scope.toNat x 0 .none e.2.2.kind e.2.2))).foldMine va (leBytes n x)

/-- The lanes of a vector global access with their addresses: contiguous, strided by K, or indexed by V[K] (R387). -/
def State.glLanes (s : State) (a : R6) (fn : F3) : List (Nat × Nat) :=
  let base := (s.gv a).toNat
  match fn.toNat with
  | 0 => lanes64.map (fun l => (l, laneAddr 0 base 0 [] l))
  | 1 => lanes64.map (fun l => (l, laneAddr 1 base s.kLit.toInt [] l))
  | _ => lanes64.map (fun l => (l, laneAddr 2 base 0 (s.op.vGet (s.kLit.toNat % 32)) l))

/-- VLDG (R387): one access of 4 bytes a lane, each ordered by the strongest kind of page the whole access touches (R247). -/
def execVldg (g : Guard) (d a : R6) (scope : F4) (cls fn : F3) (s : State) : Out :=
  act g s fun s =>
    s.globals 4 .read (s.glLanes a fn) fun r s =>
      let k := strongest (r.map (fun e => e.2.2.kind))
      (s.pend (r.map (fun e =>
        s.access .load e.2.1 4 cls.toNat scope.toNat 0 0 (.lane d.toNat e.1) k e.2.2))).blockAfter

/-- VSTG (R387): of two lanes that name one byte the higher is later in coherence order. -/
def execVstg (g : Guard) (d a : R6) (scope : F4) (cls fn : F3) (s : State) : Out :=
  act g s fun s =>
    let v := s.vv d
    s.globals 4 .write (s.glLanes a fn) fun r s =>
      let k := strongest (r.map (fun e => e.2.2.kind))
      let s := s.pend (r.map (fun e =>
        s.access .store e.2.1 4 cls.toNat scope.toNat (v.getD e.1 0).toNat 0 .none k e.2.2))
      r.foldl (fun s e => s.foldMine e.2.1 (leBytes 4 (v.getD e.1 0).toNat)) s

/-- A G register pair's second operand (R388). -/
def State.pairHi (s : State) (d : R6) : W64 := s.op.gGet (d.toNat + 1)

/-- The digest folds of an atomic: the operand, and for a CAS the new value after it (R154). -/
def State.foldAtomic (s : State) (a n op x y : Nat) : State :=
  let s := s.foldMine a (leBytes n x)
  if op = 5 then s.foldMine a (leBytes n y) else s

/-- ATG (R388): blocks after issue until the old value is written; K[3:0] is the operation. -/
def execAtg (g : Guard) (d a : R6) (scope : F4) (cls fn : F3) (s : State) : Out :=
  act g s fun s =>
    let n := if fn.getLsbD 0 then 4 else 8
    let va := (s.gv a).toNat
    let op := s.kLit.toNat
    let x := (s.op.gGet d.toNat).toNat % 2 ^ (8 * n)
    let y := (s.pairHi d).toNat % 2 ^ (8 * n)
    if !(Instr.atg g d a scope cls fn).kOk s.kLit then s.raise (illop 3 0)
    else s.globals n .atomic [(0, va)] fun r s =>
      ((s.pend (r.map (fun e =>
        s.access (.atomic op) va n cls.toNat scope.toNat x y (.g d.toNat false) e.2.2.kind e.2.2))).foldAtomic va n op x y).blockAfter

/-- XADD (R390): an exact-add at the anchor of the leaf used; writes no register and does not wait. -/
def execXadd (g : Guard) (d a : R6) (scope : F4) (cls _fn : F3) (s : State) : Out :=
  act g s fun s =>
    let va := (s.gv a).toNat
    let x := (lo32 (s.gv d)).toNat
    s.globals 8 .xadd [(0, va)] fun r s =>
      (s.pend (r.map (fun e =>
        s.access (.xadd (leafAnchor e.2.2.leaf)) va 8 cls.toNat scope.toNat x 0 .none e.2.2.kind e.2.2))).foldMine va (leBytes 4 x)

/-! ### Remote operations (R391-R393) -/

/-- The checks of a physical address range of a remote operation (R391): PROT for bits [63:52], ALIGN for a range that leaves its
128-byte block or a misaligned address. -/
def remoteCheck (p n al : Nat) (wr : Bool) : Option Trap :=
  if 2 ^ 52 ≤ p then some (locProt p wr)
  else if p / 128 ≠ (p + n - 1) / 128 ∨ p % al ≠ 0 then some (trapA cALIGN (BitVec.ofNat 64 p) 0)
  else none

/-- Issues a remote request to physical address `p`: outside die space it completes with ADDRERR (R177); with no free tag, what `wait`
says. -/
def State.remote (s : State) (p : Nat) (f : Flit) (why : TxnFor) (wait after : State → State) : State :=
  if 2 ^ 51 ≤ p then s.raise ((Fail.mem p opADDRERR).trap .read)
  else
    let d := (s.lc s.myLc).die
    match s.freeTag d with
    | none => wait s
    | some tag => after ((s.request d tag s.mySlot f why).onMe (fun st => { st with accNo := st.accNo + 1 }))

/-- A remote operation that waits, issued, for a tag (R380). -/
def State.pendRemote (s : State) (op : AccOp) (p n x y : Nat) (dst : AccDst) : State :=
  s.pend [s.access op p n 1 7 x y dst 0 (.phys p 0)]

/-- RST (R391): the source bytes are read at issue. -/
def execRst (g : Guard) (d a : R6) (scope : F4) (cls fn : F3) (s : State) : Out :=
  act g s fun s =>
    let k := s.kLit.toNat
    let n := k % 128 + 1
    let p := (s.gv a).toNat
    let src := (s.op.gGet d.toNat).toNat
    let c := s.pairHi d
    s.checked (firstOf [if (Instr.rst g d a scope cls fn).kOk s.kLit then none else some (illop 3 0), remoteCheck p n 1 true,
        locCheck s.myS false n 1 [(0, src)]]) fun s =>
      let (bs, s) := s.sread src n
      s.remote p (rstFlit 0 (bitOf k 7) p (c.getLsbD 63) (c.getLsbD 62).toNat (c.toNat % 2 ^ 23) bs) (.rst s.cur s.me.gid) State.stall
        fun s => s.foldMine p bs

/-- RLD (R392): blocks until the bytes are in scratchpad. -/
def execRld (g : Guard) (d a : R6) (scope : F4) (cls fn : F3) (s : State) : Out :=
  act g s fun s =>
    let k := s.kLit.toNat
    let n := k % 128 + 1
    let p := (s.gv a).toNat
    let dst := (s.gv d).toNat
    s.checked (firstOf [if (Instr.rld g d a scope cls fn).kOk s.kLit then none else some (illop 3 0), remoteCheck p n 1 false,
        locCheck s.myS true n 1 [(0, dst)]]) fun s =>
      s.remote p (rldFlit p n) (.rld s.cur dst) (fun s => (s.pendRemote (.rld dst) p n 0 0 .none).blockAfter) fun s => s.blockAfter

/-- RAT (R393): an 8-byte atomic of R40; the old value comes with RATDATA. -/
def execRat (g : Guard) (d a : R6) (scope : F4) (cls fn : F3) (s : State) : Out :=
  act g s fun s =>
    let op := s.kLit.toNat
    let p := (s.gv a).toNat
    let x := (s.op.gGet d.toNat).toNat
    let y := (s.pairHi d).toNat
    s.checked (firstOf [if (Instr.rat g d a scope cls fn).kOk s.kLit then none else some (illop 3 0), remoteCheck p 8 8 true])
      fun s =>
        s.remote p (ratFlit p op (leBytes 8 x ++ if op = 5 then leBytes 8 y else [])) (.rat s.cur d.toNat)
          (fun s => ((s.pendRemote (.rat op) p 8 x y (.g d.toNat false)).foldAtomic p 8 op x y).blockAfter)
          fun s => (s.foldAtomic p 8 op x y).blockAfter

/-! ### Fences and system memory instructions (R394-R397) -/

/-- Whether a fence may issue (R243, R394): an acquire waits for loads, which block their bundles; a release or full fence for remote
operations, and, beyond package scope, for every access that it orders. Up to package scope the agents of its scope wait for those
accesses (`State.owed`), as for those that a narrow release is performed ahead of. -/
def State.fenceReady (s : State) (kind scope : Nat) : Bool :=
  match kind with
  | 0 => true
  | 1 => if scope ≤ 5 then s.remotesIdle s.cur else s.me.drained && s.fabricIdle s.cur
  | _ => if scope ≤ 5 then s.remotesIdle s.cur else s.me.acc.isEmpty && s.fabricIdle s.cur

/-- FENCE (R394): blocks before issue until its order can hold. -/
def execFence (g : Guard) (_d _a : R6) (scope : F4) (_cls fn : F3) (s : State) : Out :=
  act g s fun s => if s.fenceReady fn.toNat scope.toNat then s.fenceView s.cur fn.toNat scope.toNat else s.block

/-- CBFENCE (R395): with every earlier store performed, the context's cached control-block lines are invalidated. -/
def execCbfence (g : Guard) (s : State) : Out :=
  act g s fun s =>
    if s.me.acc.isEmpty && s.fabricIdle s.cur then s.modCtx s.mySlot (fun c => { c with cbc := [] }) else s.block

/-- Buffer records (R205, R396). -/
def bufferRecords : Nat := 65536

/-- LBR (R396): a relaxed load at core scope of a word of a buffer record. -/
def execLbr (g : Guard) (d a b : R6) (fn : F4) (s : State) : Out :=
  act g s fun s =>
    let n := (s.gv a + s.gv b).toNat
    let rec32 := BitVec.ofNat 64 (Config.bufferBase + 32 * n)
    if bufferRecords ≤ n then s.raise (trapA cTRANSL rec32 0)
    else
      let va := rec32.toNat + 8 * fn.toNat
      s.globals 8 .read [(0, va)] fun r s =>
        (s.pend (r.map (fun e => s.access .load va 8 1 1 0 0 (.g d.toNat false) e.2.2.kind e.2.2))).blockAfter

/-- Whether an access may have used a translation of the 64 GiB region of `va`, or any translation (R397 step 4). -/
def Access.usedRegion (va : Option Nat) (k : Access) : Bool :=
  decide (k.pa < 2 ^ 52) && match va with
    | some v => k.va / 2 ^ 36 == v / 2 ^ 36
    | none => true

/-- Whether a store of an engine or of the launch unit of the context in slot `x` may have used a cached translation of `va`, or any: by the
address of its frame (R397 step 4). -/
def State.usedLeaf (s : State) (x : Nat) (va : Option Nat) (slot : Nat) (p : TxnFor) (pa : Nat) : Bool :=
  slot == x && p.engineOf.isSome && match va with
    | some v => (s.ctx x).tlb.any (fun c => c.covers v && decide (leafFrame c.e ≤ pa) && decide (pa < leafFrame c.e + pageSize c.level))
    | none => true

/-- Whether an access of the context in slot `x` that a TINV must wait for is pending. -/
def State.usesPage (s : State) (x : Nat) (va : Option Nat) : Bool :=
  s.strands.any (fun e => slotOfStrand e.1 == x && e.2.acc.any (Access.usedRegion va))
    || s.outq.any (fun h => s.usedLeaf x va h.slot h.purpose h.flit.addr) || s.txns.any (fun t => s.usedLeaf x va t.slot t.purpose t.addr)

/-- Marks those accesses. -/
def State.markStale (s : State) (x : Nat) (va : Option Nat) : State :=
  let mark := fun (k : Access) => if k.usedRegion va then { k with stale := true } else k
  { s with
    strands := s.strands.map (fun e => if slotOfStrand e.1 == x then (e.1, { e.2 with acc := e.2.acc.map mark }) else e)
    outq := s.outq.map (fun h => if s.usedLeaf x va h.slot h.purpose h.flit.addr then { h with stale := true } else h)
    txns := s.txns.map (fun t => if s.usedLeaf x va t.slot t.purpose t.addr then { t with stale := true } else t) }

/-- TINV (R397): PRIV outside trap mode or without PAGER. It blocks after issue: what it does follows as its pending access is
performed (`State.invalidate`). -/
def execTinv (g : Guard) (_d a : R6) (_scope : F4) (_cls fn : F3) (s : State) : Out :=
  act g s fun s =>
    if !s.op.tm || !s.myCtx.pager then s.raise (trap0 cPRIV 0x1FFF)
    else
      (s.pend [s.access (.tinv (fn == 1)) (s.gv a).toNat 0 0 0 s.latch.addr.toNat 0 .none 2 (.win 0 0)]).blockAfter

/-- Steps 2 and 3 of TINV at position `i` of strand `t` (R190, R397): the frame owner tags are rebuilt, or PROT with reason 9 is
raised at TINV's bundle for a third writable mapping (log entry 73); the translations of the page, or of the context, and every cached
non-leaf entry are invalidated; the access stays pending until those that used an invalidated translation are performed. The trap is one
of a bundle that issued in trap mode, so it kills the context though an ERET beside it has left that mode (R356, R484). -/
def State.invalidate (s : State) (t i : Nat) (e : Access) (all : Bool) : State :=
  let x := slotOfStrand t
  let c := s.ctx x
  let region := if all then none else some e.va
  let drop := fun (s : State) => s.modStrand t (fun st => { st with acc := ldel st.acc i })
  if s.tablesBad 3 c.ptroot then s.memErr (.strand t) c.ptroot opMEMERR
  else match (if all then (s.retagAll x c.ptroot).map (fun ts => (ts, s.knownOf c.ptroot)) else s.retagPage x c.ptroot e.va) with
  | none => (drop s).enterTrapAs t (trapA cPROT (if all then 0 else BitVec.ofNat 64 e.va) 9) (BitVec.ofNat 64 e.data) true
  | some (ts, ks) =>
    let wait := s.usesPage x region
    let s := if wait then (s.markStale x region).modStrand t (fun st => { st with acc := lmod (fun a => { a with sent := true }) st.acc i }) else drop s
    { s with tags := ts }.modCtx x (fun c =>
      { c with tlb := if all then [] else c.tlb.filter (fun l => !l.covers e.va), nodes := [], known := ks })

end Sys2Proof.Machine
end

