-- ==== Sys2Proof/Machine/Access.lean ====
section
/-! DEFINITION. GLOBAL_ACCESS_PERFORMED: when a pending access of a strand may be performed (R237-R247), and what performing it does
at its home (R40, R180, R252), at a local address (R183, R449), or as a request to another package (R389, R390). -/

namespace Sys2Proof.Machine

/-! ### Atomics -/

/-- AtOp of R40 on `w`-bit values: what memory becomes. -/
def atOp (op w old x y : Nat) : Nat :=
  match op with
  | 0 => (old + x) % 2 ^ w
  | 1 => old &&& x
  | 2 => old ||| x
  | 3 => old ^^^ x
  | 4 => x
  | 5 => if old = x then y else old
  | 6 => if sgn w x < sgn w old then x else old
  | 7 => if sgn w old < sgn w x then x else old
  | 8 => min old x
  | 9 => max old x
  | _ => old

/-- The 16-byte payload of an exact-add sent as an RAT (R390): q in bytes 0-7, and the mark of a NaN or Inf in bytes 8-15. A q that no
64-bit integer holds has no stated encoding: a free value (log entry 9). -/
def xaddPayload (q : Option Int) (free : W64) : List Byte :=
  match q with
  | some q =>
    if -((2 ^ 63 : Nat) : Int) ≤ q ∧ q < ((2 ^ 63 : Nat) : Int) then leBytes 8 (unsg 64 q) ++ leBytes 8 0
    else leBytes 8 free.toNat ++ leBytes 8 0
  | none => leBytes 8 0 ++ leBytes 8 satv

/-! ### Performing it -/

/-- Writes a value where an access's result goes. -/
def State.deliver (s : State) (t : Nat) (e : Access) (x : Nat) : State :=
  match e.dst with
  | .none => s
  | .g d sx => s.modStrand t (fun st => st.gSet d (extend sx e.size x))
  | .lane v l => s.modStrand t (fun st => { st with v := tset 0 st.v (v * 64 + l) (BitVec.ofNat 32 x) })
  | .loc a => s.lwrite (lcOf t) a (leBytes e.size x)
  | .flag => s.modStrand t (fun st => { st with flagGot := some (e.va, x) })

/-- The dirty bits of a strand's write through a translated address (R151, R183, R190). -/
def State.dirtyAcc (s : State) (t : Nat) (e : Access) : State :=
  if e.pa < 2 ^ 52 then s.modCtx (slotOfStrand t) (fun c => c.dirtied e.va e.size) else s

/-- Writes bytes for an access here. -/
def State.putAcc (s : State) (t : Nat) (e : Access) (bs : List Byte) : State :=
  (s.writeLoc (lcOf t) (keyLoc e.pa e.leaf) bs).dirtyAcc t e

/-- The marking of a bucket of a COLL (R447): held until the command is accepted; a bucket at or beyond NBKT faults it. Buckets
that may start do (R228). The command reads the bucket after it: its loads must see what has been performed by now (R251). -/
def State.markBucket (s : State) (l cmd b : Nat) : State :=
  match (s.lc l).cmd? cmd with
  | none => s
  | some k =>
    let s := s.modCmd l cmd (fun k => { k with view := { k.view with seen := s.vtime, sync := s.vtime } })
    if !k.snapped then s.modLc l (fun c => { c with csig := c.csig ++ [(cmd, b)] })
    else if k.buckets.length ≤ b then s.faultCmd l cmd k.a.toNat 15
    else
      let s := s.modCmd l cmd (fun k => { k with buckets := lmod (fun x => { x with signal := true }) k.buckets b })
      s.collPoll l cmd

/-- Whether an access of the context in slot `x` that used an invalidated translation is still pending (R397 step 4). -/
def State.staleUse (s : State) (x : Nat) : Bool :=
  s.strands.any (fun e => slotOfStrand e.1 == x && e.2.acc.any (·.stale)) || s.outq.any (fun h => h.slot == x && h.stale)
    || s.txns.any (fun t => t.slot == x && t.stale)

/-- A write of an access of strand `t`, and what it means for order: the versions it replaces, the strand's view, and the earlier accesses
that it is performed ahead of (R237, R240, R243). -/
def State.storeAcc (s : State) (t : Nat) (e : Access) (bs : List Byte) (rmw : Bool) : State :=
  ((s.putAcc t e bs).sawStore t e s.vtime rmw).overtake t e (e.pa / 8)

/-- Sends a remote operation that waited for a tag (R380). -/
def State.sendRemote (s : State) (t i : Nat) (e : Access) (f : Flit) (why : TxnFor) : State :=
  let d := (s.lc (lcOf t)).die
  match s.freeTag d with
  | none => s
  | some tag =>
    let s := s.request d tag (slotOfStrand t) f why
    { (s.retire t i) with txns := s.txns.map (fun x => if x.die == d && x.tag == tag then { x with num := e.num } else x) }

/-- Performs access `i` of strand `t` here: memory of its die, local memory, or the host's; a load passes over `v` stores if it may. -/
def State.performHere (s : State) (t i : Nat) (e : Access) (earlier : List Access) (v : Nat) : State :=
  match e.op with
  | .load =>
    let k := s.pass t e v
    (((s.sawLoad t e k).deliver t e (leNat (overlay earlier e.pa (s.version e k)))).retire t i)
  | .store => (s.storeAcc t e (leBytes e.size e.data) false).retire t i
  | .atomic op =>
    let old := leNat (s.version e 0)
    let s := s.sawLoad t e 0
    let s := if op = 5 ∧ old ≠ e.data then s else s.storeAcc t e (leBytes e.size (atOp op (8 * e.size) old e.data e.data2)) true
    (s.deliver t e old).retire t i
  | .xadd n => (s.storeAcc t e (leBytes 8 (xaddCell (leNat (s.version e 0)) (xaddQ (BitVec.ofNat 32 e.data) n))) true).retire t i
  | .pop gid ch slot bs =>
    let x := slotOfStrand t
    let s := match e.dst with
      | .loc a => s.lwrite (lcOf t) a bs
      | .none => s
      | .g _ _ => s
      | .lane _ _ => s
      | .flag => s
    (((s.modGraph x gid (fun g => g.freeSlot ch slot)).progress x gid).syncStrong t).retire t i
  | .arrive l a => (s.arStep l a 0 1 0).retire t i
  | .csig l cmd b => (s.markBucket l cmd b).retire t i
  | .tinv all =>
    if !e.sent then (if s.fabricIdle t then s.invalidate t i e all else s)
    else if s.staleUse (slotOfStrand t) then s else s.retire t i
  | .rld la => s.sendRemote t i e (rldFlit e.pa e.size) (.rld t la)
  | .rat op =>
    s.sendRemote t i e (ratFlit e.pa op (leBytes 8 e.data ++ if op = 5 then leBytes 8 e.data2 else [])) (.rat t (match e.dst with
      | .g d _ => d
      | _ => 0))

/-- Four bytes of an 8-byte unit replaced (R389). -/
def spliceHalf (unit off x : Nat) : Nat :=
  leNat ((leBytes 8 unit).take off ++ leBytes 4 x ++ (leBytes 8 unit).drop (off + 4))

/-- The flit that carries an access to another die (R177, R389, R390): a load as an RLD, a store as an RST, an 8-byte atomic as an RAT, a
4-byte one as a CAS on the enclosing unit, an exact-add as a 16-byte ADD. -/
def Access.flit (e : Access) (free : W64) : Flit :=
  match e.op with
  | .load => rldFlit e.pa e.size
  | .store => rstFlit 0 false e.pa false 0 0 (leBytes e.size e.data)
  | .atomic op =>
    if e.size = 8 then ratFlit e.pa op (leBytes 8 e.data ++ if op = 5 then leBytes 8 e.data2 else [])
    else
      let off := e.pa % 8
      let old := leNat (slice (leBytes 8 e.guess) off 4)
      ratFlit (e.pa - off) 5 (leBytes 8 e.guess ++ leBytes 8 (spliceHalf e.guess off (atOp op 32 old e.data e.data2)))
  | .xadd n => ratFlit e.pa 0 (xaddPayload (xaddQ (BitVec.ofNat 32 e.data) n) free)
  | _ => zeroFlit

/-- Whether an access may write memory. -/
def AccOp.writes : AccOp → Bool
  | .store => true
  | .atomic _ => true
  | .xadd _ => true
  | .load => false
  | .pop _ _ _ _ => false
  | .arrive _ _ => false
  | .csig _ _ _ => false
  | .tinv _ => false
  | .rld _ => false
  | .rat _ => false

/-- Sends access `i` of strand `t` to another die; of a store, the accesses that it goes ahead of are marked. -/
def State.sendAcc (s : State) (t i : Nat) (e : Access) : State :=
  let d := (s.lc (lcOf t)).die
  match s.freeTag d with
  | none => s
  | some tag =>
    let s := s.modStrand t (fun st => { st with acc := lmod (fun a => { a with sent := true }) st.acc i })
    let s := if e.op.writes then s.overtake t e (e.pa / 8) else s
    { (s.request d tag (slotOfStrand t) (e.flit (Config.freeWord s.fresh)) (.access t e.num)) with fresh := s.fresh + 1 }

/-- Whether the order of an access allows it to be performed now. -/
def State.mayGo (s : State) (t i : Nat) (e : Access) : Bool :=
  mayPerform ((s.strand t).acc.take i) e && !s.remoteFirst t e
    && (!e.releases || (if e.narrow then s.remotesIdle t else s.fabricIdle t)) && !(e.op.atMem && s.owed t e)

/-- Whether an access reads memory. -/
def AccOp.reads : AccOp → Bool
  | .load => true
  | .atomic _ => true
  | .xadd _ => true
  | .store => false
  | .pop _ _ _ _ => false
  | .arrive _ _ => false
  | .csig _ _ _ => false
  | .tinv _ => false
  | .rld _ => false
  | .rat _ => false

/-- GLOBAL_ACCESS_PERFORMED: an access of strand `t`, where its order allows it; a load passes over stores to its unit that it need not have
seen, as many as `p` says. -/
def execGlobalAccessPerformed (t : Nat) (p : Pick) (s : State) : Out :=
  let i := p.idx
  match (s.strand t).acc[i]? with
  | none => .next s
  | some e =>
    if (e.sent && !e.op.isTinv) || !s.mayGo t i e then .next s
    else if e.far && e.op.reads || e.far && e.op == .store then .next (s.sendAcc t i e)
    else if e.op.reads && decide (e.pa < 2 ^ 52) && s.spoilt e.pa e.size then .next (s.memErr (.strand t) e.pa opMEMERR)
    else .next (s.performHere t i e ((s.strand t).acc.take i) p.back)

end Sys2Proof.Machine
end

