-- ==== Sys2Proof/Machine/Branch.lean ====
section
/-! DEFINITION. The B-slot instructions (R331-R349). A transfer of control, a trap entered after the bundle and the leaving of a
loop nest are latched, and take effect at the bundle's end (R298). -/

namespace Sys2Proof.Machine

/-- Latches a taken transfer of control. -/
def State.jump (s : State) (target : W64) : State := { s with latch := { s.latch with target := some target, taken := true } }

/-- The address after the bundle. -/
def State.after (s : State) : W64 := s.latch.addr + BitVec.ofNat 64 s.latch.len

/-- Pushes the return address onto the return store and jumps (R336). -/
def State.callTo (s : State) (target : W64) : State :=
  let n := s.op.lnkd
  if n = 16 then s.raise (trap0 cCALLD 0)
  else (s.onMe (fun st => { st with lnk := tset 0 st.lnk n s.after, lnkd := n + 1 })).jump target

/-- NOP (R332). -/
def execNop (g : Guard) (s : State) : Out := act g s fun s => s
/-- BR (R333). -/
def execBr (g : Guard) (disp : BitVec 22) (s : State) : Out :=
  act g s fun s => s.jump (s.latch.addr + disp.signExtend 64)
/-- BRV (R334). -/
def execBrv (g : Guard) (q : F3) (disp : BitVec 19) (s : State) : Out :=
  act g s fun s =>
    let m := s.op.qGet q.toNat
    if m = ones64 then s.jump (s.latch.addr + disp.signExtend 64)
    else if m = 0 then s
    else s.raise (trap0 cNUNI q.toNat)
/-- BRI (R333). -/
def execBri (g : Guard) (a : R6) (s : State) : Out := act g s fun s => s.jump (s.gv a)
/-- CALL (R336). -/
def execCall (g : Guard) (disp : BitVec 22) (s : State) : Out :=
  act g s fun s => s.callTo (s.latch.addr + disp.signExtend 64)
/-- CALLI (R336). -/
def execCalli (g : Guard) (a : R6) (s : State) : Out := act g s fun s => s.callTo (s.gv a)
/-- RET (R337). -/
def execRet (g : Guard) (s : State) : Out :=
  act g s fun s =>
    let n := s.op.lnkd
    if n = 0 then s.raise (trap0 cRETE 0)
    else (s.onMe (fun st => { st with lnkd := n - 1 })).jump (tget 0 s.op.lnk (n - 1))

/-- The counts of a LOOP, innermost first: bits [31:0] of consecutive G registers (R339). -/
def State.loopCounts (s : State) (dims : F3) (c : R6) : List Nat :=
  (List.range dims.toNat).map (fun k => (s.op.gGet (c.toNat + k)).toNat % 2 ^ 32)

/-- LCNTk as LOOP leaves it: LIMIT and REM the count, 0 beyond the dimensions (R340). -/
def loopLcnt (counts : List Nat) : Tab W64 :=
  tlist 0 0 (counts.map (fun n => BitVec.ofNat 64 (n * 2 ^ 32 + n)))

/-- LOOP (R339, R340). -/
def execLoop (g : Guard) (dims : F3) (c : R6) (len : BitVec 9) (s : State) : Out :=
  act g s fun s =>
    if s.op.loopd ≠ 0 ∨ s.op.tm then s.raise (illop 0 0)
    else
      let cs := s.loopCounts dims c
      let start := s.after
      let fin := start + BitVec.ofNat 64 len.toNat
      let none := cs.any (fun n => n == 0)
      let s := s.onMe (fun st =>
        { st with lcnt := loopLcnt cs, loopd := if none then 0 else dims.toNat, loopStart := start, loopEnd := fin })
      if none then s.jump fin else s

/-- LEXIT (R343). -/
def execLexit (g : Guard) (s : State) : Out :=
  act g s fun s =>
    if s.op.loopd = 0 then s.raise (illop 0 0)
    else
      let s := s.onMe (fun st => { st with loopd := 0 })
      { s with latch := { s.latch with target := some s.op.loopEnd, taken := true, leave := true } }

/-- A WAITF of a flag whose value has been read: if that has reached the threshold, a load of the latest store and an acquire
(R237, R253, R344). -/
def State.flagTest (s : State) (e : Access) (v th : Nat) : State :=
  if v < th then s.block else (s.sawLoad s.cur e 0).syncStrong s.cur

/-- A WAITF of a flag in another die's memory: where a value that came with an RLD lets it issue, the flag is read again, as far as it is
memory of this package; where none has come, one is asked for (R177, R344). -/
def State.flagFar (s : State) (e : Access) (th : Nat) : State :=
  let ask := fun (s : State) => (s.pend [e]).block
  match s.me.flagGot with
  | some (a, v) =>
    let s := s.onMe (fun st => { st with flagGot := none })
    let now := if s.ownFid (e.pa >>> 37) then leNat (overlay s.me.acc e.pa (s.readLoc (keyLoc e.pa e.leaf) 8)) else v
    if a ≠ e.va ∨ v < th ∨ now < th then ask s else s.flagTest e now th
  | none => if s.me.acc.any (fun p => p.dst == .flag && p.va == e.va) then s.block else ask s

/-- WAITF (R344): the flag is read at every attempt to issue, as a relaxed load whose place among the strand's pending accesses allows
it (R237, R244). -/
def execWaitf (g : Guard) (a b : R6) (s : State) : Out :=
  act g s fun s =>
    let va := (s.gv a).toNat
    if va % 8 ≠ 0 then s.raise (trapA cALIGN (s.gv a) 0)
    else
      match s.reach1 s.myLc va .read with
      | (.error e, s) => s.raise (e.trap .read)
      | (.ok l, s) =>
        match s.hole s.myLc true [(l, 8)] with
        | some (pa, st) => s.raise ((Fail.mem pa st).trap .read)
        | none =>
          let e := { s.access .load va 8 1 7 0 0 .flag l.kind l with num := s.me.accNo }
          if e.far then s.flagFar e (s.gv b).toNat
          else if !mayPerform s.me.acc e || s.remoteFirst s.cur e || s.owed s.cur e then s.block
          else s.flagTest e (leNat (overlay s.me.acc l.key (s.readLoc l 8))) (s.gv b).toNat

/-- YIELD (R345): issues and blocks for one switch. -/
def execYield (g : Guard) (s : State) : Out :=
  act g s fun s => s.onMe (fun st => { st with blk := .yielded, since := s.cycle })

/-- The stage of the issuing strand's firing and its graph. -/
def State.myGraph (s : State) : Option Graph := s.myCtx.graph? s.me.gid

/-- Channels that the issuing bundle itself pushes to and pops from (R376): a HALT counts them as made. -/
def State.bundleIo (s : State) : W64 × W64 :=
  s.latch.peers.foldl (fun e i =>
    match i with
    | .qpush g a _ _ _ => if s.holds g then (e.1 ||| BitVec.ofNat 64 (2 ^ ((s.gv a).toNat % 64)), e.2) else e
    | .qpop g a _ _ _ => if s.holds g then (e.1, e.2 ||| BitVec.ofNat 64 (2 ^ ((s.gv a).toNat % 64))) else e
    | _ => e) (0, 0)

/-- The lowest ORDERED channel that a firing produces or consumes and has not pushed to or popped from (R101). -/
def haltChannel (gr : Graph) (stage : Nat) (opush opop : W64) : Option Nat :=
  match gr.stages[stage]? with
  | none => none
  | some sd =>
    (List.range gr.chans.length).find? (fun c =>
      (gr.chans[c]?.map (·.ordered)).getD false &&
        ((sd.outmask.getLsbD c && !opush.getLsbD c) || (sd.inmask.getLsbD c && !opop.getLsbD c)))

/-- Whether the issuing strand's firing holds its logical core's open speculation region (R122). -/
def State.holdsRegion (s : State) : Bool := (s.lc s.myLc).act && (s.lc s.myLc).opener == s.me.fkey

/-- HALT (R96, R101, R122, R346): the firing's obligations, then an unreported engine fault, then the slot holds the firing. -/
def execHalt (g : Guard) (s : State) : Out :=
  act g s fun s =>
    let io := s.bundleIo
    let ch := s.myGraph.bind (fun gr => haltChannel gr s.op.stage (s.op.opush ||| io.1) (s.op.opop ||| io.2))
    match ch with
    | some c => s.raise (trap0 cQERR (6 + c * 256))
    | none =>
      if s.holdsRegion then s.raise (trap0 cSPECX 0)
      else s.reporting (fun _ => true) fun s => s.onMe (fun st => { st with blk := .halted, tm := false, since := s.cycle })

/-- TRAP (R347): SYSC is entered after the bundle. -/
def execTrap (g : Guard) (code : W16) (s : State) : Out :=
  act g s fun s => { s with latch := { s.latch with late := some (trap0 cSYSC code.toNat) } }
/-- BRK (R347). -/
def execBrk (g : Guard) (code : W16) (s : State) : Out :=
  act g s fun s => { s with latch := { s.latch with late := some (trap0 cBRKP code.toNat) } }

/-- ERET (R348): PRIV outside trap mode; EPC is read at issue, and faulted commands that were reported continue (R189). -/
def execEret (g : Guard) (s : State) : Out :=
  act g s fun s =>
    if s.op.tm then ((s.leaveTrap s.cur s.op.epc).retryCmds s.cur).jump s.op.epc
    else s.raise (trap0 cPRIV 0x1FFF)

/-- TFENCE (R349): with every issued write complete, an unreported engine fault, then masked flags. -/
def execTfence (g : Guard) (s : State) : Out :=
  act g s fun s =>
    let s := s.onMe Strand.allFlags
    s.reporting (fun _ => true) fun s =>
      let f := s.me.aflags &&& s.op.amask
      if f ≠ 0 then s.raise (trap0 cARITH f.toNat) else s

end Sys2Proof.Machine
end

