-- ==== Sys2Proof/Machine/Engine.lean ====
section
/-! DEFINITION. The E-slot instructions (R422-R455): engine commands are checked and take an entry of the engine dependency table
(R425); arrival records, channels, child launches, barriers, speculation regions and digest checkpoints act at issue. -/

namespace Sys2Proof.Machine

/-! ### Operand checks -/

/-- A record that an engine command names, read only under its fn bit (R422, R423). -/
def State.recIf (s : State) (need : Bool) (c : R6) (wr : Bool) : Option Trap :=
  if need then recCheck (s.gv c).toNat wr else none

/-- A record that a strand reads or writes at issue: the shadow raises PROT as for any strand access (R119, R423). -/
def State.recMine (s : State) (x : Nat) (wr : Bool) : Option Trap :=
  firstOf [recCheck x wr, if shadowHit s.myS x 32 then some (locProt x wr) else none]

/-- ILLOP of field a, b or c (1, 2, 3) of an E-slot word unless the condition holds (R422). -/
def eField (field : Nat) (ok : Bool) : Option Trap := if ok then none else some (illop 6 field)
/-- ALIGN of an address that is not a multiple of `n`. -/
def alignIf (n a : Nat) : Option Trap := if a % n = 0 then none else some (trapA cALIGN (BitVec.ofNat 64 a) 0)
/-- PCWR with a reason (R282, R290, R428, R430). -/
def pcwr (reason : Nat) : Trap := trap0 cPCWR reason
/-- The first reason whose condition holds. -/
def pcwrOf : List (Bool × Nat) → Option Trap
  | [] => none
  | (b, r) :: t => if b then some (pcwr r) else pcwrOf t
/-- QERR with a code and, where the code is marked so, a channel (R496). -/
def qerr (code ch : Nat) : Trap := trap0 cQERR (code + ch * 256)

/-- Places an engine command that records its word, K and operand values (R425, R140). -/
def State.placeCmd (s : State) (kind : CmdKind) (i : Instr) (a b c : R6) (f : Cmd → Cmd) : State :=
  let va := s.gv a
  let vb := s.gv b
  let vc := s.gv c
  let kl := s.kLit
  s.place1 kind (fun k => f { k with word := encode i, k := kl, a := va, b := vb, c := vc })

/-! ### Matrix commands (R426-R433) -/

/-- Fields of an MMA's precision control word (R281). -/
def pcwBank (w : Nat) : Nat := bitsOf w 22 20
def pcwTile (w : Nat) : Nat := bitsOf w 19 18
def pcwXvs (w : Nat) : Nat := bitsOf w 17 16
def pcwF (w : Nat) : Nat := bitsOf w 12 8
def pcwA (w : Nat) : Nat := bitsOf w 7 4
def pcwW (w : Nat) : Nat := w % 16

/-- The rows M and the first tile row t0 of an operand (R426, R430). -/
def shapeM (b : Nat) : Nat := b % 64
def shapeT (b : Nat) : Nat := bitsOf b 12 8

/-- The checks of R282, in that table's order. -/
def pcwCheck (w b : Nat) (d : BankDecl) : Option Trap :=
  let m := shapeM b
  pcwrOf [(w >>> 23 != 0, 0), (decide (6 < pcwW w) || decide (6 < pcwA w), 1), (!d.loaded, 2), (pcwW w != d.fmt, 3),
    (decide (d.bud < pcwF w), 4), (pcwA w == 6 && decide (pcwW w ≤ 2), 5),
    (decide (m = 0) || decide (32 < m) || decide (32 < shapeT b + m), 6)]

/-- The extra value that a select names: XVn as it stood before the bundle (R258, R268). -/
def Strand.extra (st : Strand) (sel : Nat) : Nat := if sel = 0 then 0 else (tget 0 st.xv sel).toNat % 32

/-- MMA (R426). -/
def execMma (g : Guard) (a b c : R6) (fn : F4) (s : State) : Out :=
  act g s fun s =>
    let w := s.kLit.toNat
    let sp := (s.gv a).toNat
    let sh := (s.gv b).toNat
    let d := tget BankDecl.none (s.lc s.myLc).bdecl (pcwBank w)
    let n := shapeM sh * d.kbr
    let bytes := n * mxStride (pcwA w)
    let side := if pcwA w = 6 then 0 else n
    let xv := if pcwA w = 0 then s.op.extra (pcwXvs w) else 0
    s.checked (firstOf [spCheck sp, s.recIf (fn.getLsbD 0) c false, pcwCheck w sh d, rangeCheck false (spData sp) bytes,
        sideCheck false (spSide sp) side]) fun s =>
      s.placeCmd .mma (.mma g a b c fn) a b c fun k =>
        { k with xv := xv, rd1 := bothRange (spData sp) bytes (spSide sp) side, bank := d }

/-- Whether a bank declaration's fields are outside their limits (R428). -/
def declCheck (b : Nat) : Option Trap :=
  let fmt := bitsOf b 7 4
  let bud := bitsOf b 12 8
  pcwrOf [(b >>> 20 != 0 || bitsOf b 15 13 != 0 || bitOf b 3, 8), (decide (6 < fmt), 9),
    (decide (bud = 0) || decide (16 < bud) || (fmt == 4 && bud == 1), 10)]

/-- MLOADW (R428): declares its bank at issue. -/
def execMloadw (g : Guard) (a b c : R6) (fn : F4) (s : State) : Out :=
  act g s fun s =>
    let h := (s.gv a).toNat
    let w := (s.gv b).toNat
    s.checked (firstOf [alignIf 16 h, if 2 ^ 24 ≤ h ∨ locRange h = 2 then some (locProt h false) else none, declCheck w,
        s.recIf (fn.getLsbD 0) c false]) fun s =>
      if edtSize ≤ (s.lc s.myLc).edt.length then s.block
      else
        let d : BankDecl := { fmt := bitsOf w 7 4, bud := bitsOf w 12 8, kbr := bitsOf w 19 16 + 1, loaded := true }
        (s.placeCmd .mloadw (.mloadw g a b c fn) a b c (fun k => { k with rd1 := if h < 0x100000 then spadRange h 16 else bothRange 0 0 (h - 0x100000) 16, rd2 := wholeRange })).modLc s.myLc
          (fun l => { l with bdecl := tset BankDecl.none l.bdecl (w % 8) d })

/-- Fields of an MDRAIN's drain control word (R289). -/
def dcwFrow (w : Nat) : Nat := bitsOf w 22 18
def dcwRnd (w : Nat) : RMode := rmodeOf (bitsOf w 17 16)
def dcwClr (w : Nat) : Bool := bitOf w 15
def dcwEps (w : Nat) : Nat := bitsOf w 14 11
def dcwRows (w : Nat) : Nat := bitsOf w 10 6 + 1
def dcwOfmt (w : Nat) : Nat := bitsOf w 5 2
def dcwTile (w : Nat) : Nat := w % 4

/-- Bytes of a drained row (R291). -/
def drainRow (ofmt : Nat) : Nat :=
  match ofmt with
  | 0 => 512
  | 1 => 256
  | 2 => 64
  | 8 => 2048
  | _ => 128

/-- Whether an output format has scale bytes. -/
def drainMx (ofmt : Nat) : Bool := decide (2 ≤ ofmt) && decide (ofmt ≤ 7)

/-- The checks of R290 and R432. -/
def dcwCheck (w : Nat) (slots : List Nat) : Option Trap :=
  pcwrOf [(w >>> 23 != 0 || decide (8 < dcwEps w) || decide (8 < dcwOfmt w), 0), (decide (32 < dcwFrow w + dcwRows w), 1),
    (dcwOfmt w == 8 && dcwEps w != 0, 2), (dcwEps w != 0 && !slots.contains (dcwEps w - 1), 3)]

/-- The check of a mask destination (R432): none, or 16-byte records in the side bank. -/
def maskCheck (m n : Nat) : Option Trap :=
  if m = 0 then none
  else if m < 0x100000 ∨ 0x110000 < m + 16 * n then some (locProt m true)
  else alignIf 16 m

/-- MDRAIN (R432). -/
def execMdrain (g : Guard) (a b c : R6) (fn : F4) (s : State) : Out :=
  act g s fun s =>
    let w := s.kLit.toNat
    let sp := (s.gv a).toNat
    let m := (s.gv b).toNat
    let n := dcwRows w
    let bytes := n * drainRow (dcwOfmt w)
    let side := if drainMx (dcwOfmt w) then 4 * n else 0
    s.checked (firstOf [spCheck sp, maskCheck m n, s.recIf (fn.getLsbD 0) c true, dcwCheck w (s.lc s.myLc).epslot,
        rangeCheck true (spData sp) bytes, sideCheck true (spSide sp) side]) fun s =>
      s.placeCmd .mdrain (.mdrain g a b c fn) a b c fun k =>
        { k with wr := (bothRange (spData sp) bytes (spSide sp) side).hull (bothRange 0 0 (m - 0x100000) (if m = 0 then 0 else 16 * n)) }

/-- MZERO (R429): an anchor outside -512 to 511 raises ANCH with EINFO the value. -/
def execMzero (g : Guard) (a b c : R6) (fn : F4) (s : State) : Out :=
  act g s fun s =>
    let n := (s.gv a).toInt
    if n < -512 ∨ 511 < n then s.raise (trap0 cANCH (s.gv a).toNat)
    else s.placeCmd .mzero (.mzero g a b c fn) a b c id

/-- MACCLD (R430). -/
def execMaccld (g : Guard) (a b c : R6) (fn : F4) (s : State) : Out :=
  act g s fun s =>
    let sp := (s.gv a).toNat
    let sh := (s.gv b).toNat
    let n := shapeM sh
    s.checked (firstOf [spCheck sp, alignIf 16 (spData sp),
        pcwrOf [(decide (n = 0) || decide (32 < n) || decide (32 < shapeT sh + n), 6)], s.recIf (fn.getLsbD 2) c true,
        rangeCheck false (spData sp) (2048 * n)]) fun s =>
      s.placeCmd .maccld (.maccld g a b c fn) a b c fun k => { k with rd1 := spadRange (spData sp) (2048 * n) }

/-- EPLOAD (R431): declares its slot at issue. -/
def execEpload (g : Guard) (a b c : R6) (fn : F4) (s : State) : Out :=
  act g s fun s =>
    s.checked (firstOf [alignIf 32 (s.gv a).toNat, if b = 0 then none else alignIf 64 (s.gv b).toNat]) fun s =>
      if edtSize ≤ (s.lc s.myLc).edt.length then s.block
      else (s.placeCmd .epload (.epload g a b c fn) a b c id).modLc s.myLc
        (fun l => { l with epslot := sins (fn.toNat % 8) l.epslot })

/-! ### Arrival records (R437-R441) -/

/-- ARINIT (R437): one atomic step of the arrival unit at issue. -/
def execArinit (g : Guard) (a b c : R6) (_fn : F4) (s : State) : Out :=
  act g s fun s =>
    let x := (s.gv a).toNat
    let i := (s.gv b).toNat
    let w := (s.gv c).toNat
    s.checked (firstOf [s.recMine x true, eField 3 (bitsOf w 62 61 == 0 && bitsOf w 59 20 == 0), alignIf 512 (bitsOf w 19 0)])
      fun s =>
        s.lwrite s.myLc x (arBytes { pend := i % 2 ^ 48, arrv := i / 2 ^ 48, ipend := i % 2 ^ 48, iarrv := i / 2 ^ 48, chunk := 0,
                                     w3 := BitVec.ofNat 64 w })

/-- ARRIVE (R438): pending as a release; a window address names a record of another logical core (R183). -/
def execArrive (g : Guard) (a _b _c : R6) (_fn : F4) (s : State) : Out :=
  act g s fun s =>
    let x := (s.gv a).toNat
    if Config.windowBase ≤ x ∧ x < 2 ^ 56 then
      s.checked (alignIf 32 x) fun s =>
        match s.xlate s.myLc x .write with
        | (.window l o, s') =>
          if 0x100000 ≤ o then s.raise (locProt x true)
          else s'.pend [s'.access (.arrive l o) x 32 3 3 0 0 .none 0 (.win l o)]
        | (.fault cause r lv, _) => s.raise (trapA cause (s.gv a) (xlInfo .write r lv))
        | (.ok _ _ _ _, s') => s'
        | (.err _ _, s') => s'
    else
      s.checked (s.recMine x true) fun s =>
        s.pend [s.access (.arrive s.myLc x) x 32 3 3 0 0 .none 0 (.win s.myLc x)]

/-- The record of an ARB word that a command updates, as (logical core key, address) (R208). -/
def arbRec (l arb : Nat) : Option (Nat × Nat) :=
  if bitOf arb 31 then
    some ((if bitOf arb 30 then lcKey (slotOf l) (bitsOf arb 29 18) else l), bitsOf arb 14 0 * 32)
  else none

/-- The record that a command of logical core `l` updates; a template or descriptor names it once it has been read, though it be refused
(R203). -/
def Cmd.record (k : Cmd) (l : Nat) : Option (Nat × Nat) :=
  match k.kind with
  | .mdrain => if k.word.getLsbD 0 then some (l, k.c.toNat) else none
  | .maccld => if k.word.getLsbD 2 then some (l, k.c.toNat) else none
  | .skqry => if k.c.getLsbD 63 then some (l, bitsOf k.c.toNat 46 32 * 32) else none
  | .bte => if k.snap.isEmpty || k.a.getLsbD 12 then none else arbRec l (fld k.snap 108 4)
  | .coll => if k.snap.isEmpty then none else arbRec l (fld k.snap 40 4)
  | .mma => none
  | .mloadw => none
  | .mzero => none
  | .epload => none
  | .skupd => none
  | .skadd => none
  | .skclr => none

/-- A wait on a record at `x` (R439): a fault of a command bound to it is reported, else the bundle blocks until the condition
holds. -/
def State.arWait (s : State) (x : Nat) (cond : ArRec → Bool) : State :=
  s.checked (s.recMine x false) fun s =>
    s.reporting (fun k => k.record s.myLc == some (s.myLc, x)) fun s =>
      let s' := s.ltouch s.myLc x 32
      if cond (s'.arAt s.myLc x) then s'.syncAll s.cur else s.block

/-- ARWAIT (R439). -/
def execArwait (g : Guard) (a _b _c : R6) (fn : F4) (s : State) : Out :=
  act g s fun s => s.arWait (s.gv a).toNat (fun r => r.done (fn.getLsbD 0))
/-- ARWAITM (R439). -/
def execArwaitm (g : Guard) (a b _c : R6) (fn : F4) (s : State) : Out :=
  act g s fun s => let k := s.gv b; s.arWait (s.gv a).toNat (fun r => r.doneM (fn.getLsbD 0) k)

/-- A test of a record at `x` into a predicate, latency 3 (R440); a true answer is an acquire (R250). -/
def State.arTest (s : State) (x d : Nat) (cond : ArRec → Bool) : State :=
  s.checked (s.recMine x false) fun s =>
    let s := s.ltouch s.myLc x 32
    let yes := cond (s.arAt s.myLc x)
    (if yes then s.syncAll s.cur else s).wP d yes 3

/-- ARTEST (R440). -/
def execArtest (g : Guard) (a _b _c : R6) (fn : F4) (s : State) : Out :=
  act g s fun s => s.arTest (s.gv a).toNat (fn.toNat / 2) (fun r => r.done (fn.getLsbD 0))
/-- ARTESTM (R440). -/
def execArtestm (g : Guard) (a b _c : R6) (fn : F4) (s : State) : Out :=
  act g s fun s => let k := s.gv b; s.arTest (s.gv a).toNat (fn.toNat / 2) (fun r => r.doneM (fn.getLsbD 0) k)

/-- EFENCE (R441). -/
def execEfence (g : Guard) (_a _b _c : R6) (_fn : F4) (s : State) : Out :=
  act g s fun s =>
    s.reporting (fun _ => true) fun s =>
      if (s.lc s.myLc).edt.any (fun k => k.strand == s.cur % 4) then s.block else s.syncAll s.cur

/-! ### Sketch commands and collectives (R443-R447) -/

/-- Bytes of a key: fn[0] selects 64-bit keys. -/
def keySize (fn : F4) : Nat := if fn.getLsbD 0 then 8 else 4

/-- SKUPD (R443). -/
def execSkupd (g : Guard) (a b c : R6) (fn : F4) (s : State) : Out :=
  act g s fun s =>
    let w := (s.gv b).toNat
    let n := (s.gv c).toNat
    let keys := w % 2 ^ 20
    let vals := bitsOf w 51 32
    let z := keySize fn
    s.checked (firstOf [alignIf 64 (s.gv a).toNat, eField 2 (bitsOf w 31 20 == 0 && w >>> 52 == 0),
        eField 3 (decide (1 ≤ n) && decide (n ≤ 16384)), alignIf z keys, alignIf 4 vals, rangeCheck false keys (z * n),
        rangeCheck false vals (4 * n)]) fun s =>
      s.placeCmd .skupd (.skupd g a b c fn) a b c fun k =>
        { k with rd1 := spadRange keys (z * n), rd2 := spadRange vals (4 * n) }

/-- SKQRY (R444). -/
def execSkqry (g : Guard) (a b c : R6) (fn : F4) (s : State) : Out :=
  act g s fun s =>
    let w := (s.gv b).toNat
    let r := (s.gv c).toNat
    let keys := w % 2 ^ 20
    let n := bitsOf w 45 32 + 1
    let out := r % 2 ^ 20
    let z := keySize fn
    s.checked (firstOf [alignIf 64 (s.gv a).toNat, eField 2 (bitsOf w 31 20 == 0 && w >>> 46 == 0),
        eField 3 (bitsOf r 31 20 == 0 && bitsOf r 62 47 == 0), alignIf z keys, alignIf 4 out, rangeCheck false keys (z * n),
        rangeCheck true out (4 * n)]) fun s =>
      s.placeCmd .skqry (.skqry g a b c fn) a b c fun k =>
        { k with rd1 := spadRange keys (z * n), wr := spadRange out (4 * n) }

/-- SKADD (R445). -/
def execSkadd (g : Guard) (a b c : R6) (fn : F4) (s : State) : Out :=
  act g s fun s =>
    s.checked (firstOf [alignIf 64 (s.gv a).toNat, alignIf 64 (s.gv b).toNat]) fun s =>
      s.placeCmd .skadd (.skadd g a b c fn) a b c id
/-- SKCLR (R445). -/
def execSkclr (g : Guard) (a b c : R6) (fn : F4) (s : State) : Out :=
  act g s fun s => s.checked (alignIf 64 (s.gv a).toNat) fun s => s.placeCmd .skclr (.skclr g a b c fn) a b c id
/-- COLL (R446). -/
def execColl (g : Guard) (a b c : R6) (fn : F4) (s : State) : Out :=
  act g s fun s => s.checked (alignIf 64 (s.gv a).toNat) fun s => s.placeCmd .coll (.coll g a b c fn) a b c id

/-- CSIG (R447): pending as a release on the oldest COLL outstanding on the descriptor address. -/
def execCsig (g : Guard) (a b _c : R6) (_fn : F4) (s : State) : Out :=
  act g s fun s =>
    let n := (s.gv b).toNat
    let l := s.myLc
    s.checked (eField 2 (decide (n < 32))) fun s =>
      match (s.lc l).edt.find? (fun k => k.kind == .coll && k.a == s.gv a) with
      | none => s.raise (qerr 1 0)
      | some k => s.pend [s.access (.csig l k.id n) 0 1 3 5 0 0 .none 0 (.win l 0)]

/-! ### Channels (R448-R450) -/

/-- The checks that channel instructions share: an index of 64 or more is ILLOP; a channel that the stage's mask does not name is
QERR with the code given (R101, R448, R450). -/
def State.chanCheck (s : State) (ch : Nat) (out : Bool) (code : Nat) : Option Trap :=
  if 64 ≤ ch then some (illop 6 1)
  else
    let sd := (s.myGraph.bind (fun gr => gr.stages[s.op.stage]?))
    let mask := match sd with
      | some d => if out then d.outmask else d.inmask
      | none => 0
    if mask.getLsbD ch then none else some (qerr code ch)

/-- The bit of a channel. -/
def chBit (ch : Nat) : W64 := BitVec.ofNat 64 (2 ^ ch)

/-- QPUSH (R448): reserves a slot and holds the source bytes until publication. -/
def execQpush (g : Guard) (a b _c : R6) (_fn : F4) (s : State) : Out :=
  act g s fun s =>
    let ch := (s.gv a).toNat
    let src := (s.gv b).toNat
    s.checked (s.chanCheck ch true 0) fun s =>
      match s.myGraph with
      | none => s
      | some gr =>
        let ord := gr.isOrdered ch
        s.checked (firstOf [if ord && s.op.opush.getLsbD ch then some (qerr 5 ch) else none,
            locCheck s.myS false (gr.esz ch) 16 [(0, src)]]) fun s =>
          if !gr.pushOk ch s.op.q then s.block
          else
            let (bs, s) := s.sread src (gr.esz ch)
            let t := s.cur
            (s.modGraph s.mySlot gr.gid (fun gr => gr.reserve ch (s.op.q) t bs)).onMe
              (fun st => if ord then { st with opush := st.opush ||| chBit ch } else st)

/-- QPOP (R449): claims the entry and blocks after issue until its copy is complete. -/
def execQpop (g : Guard) (a b _c : R6) (_fn : F4) (s : State) : Out :=
  act g s fun s =>
    let ch := (s.gv a).toNat
    let dst := (s.gv b).toNat
    s.checked (s.chanCheck ch false 0) fun s =>
      match s.myGraph with
      | none => s
      | some gr =>
        let ord := gr.isOrdered ch
        s.checked (firstOf [if gr.popHopeless ch then some (qerr 4 ch) else none,
            if ord && s.op.opop.getLsbD ch then some (qerr 5 ch) else none, locCheck s.myS true (gr.esz ch) 16 [(0, dst)]]) fun s =>
          if !gr.popOk ch s.op.q then (s.onMe (fun st => { st with popWait := some ch })).block
          else
            let i := gr.popSlot ch s.op.q
            let bs := s.entryBytes s.mySlot gr ch i
            let s := s.modGraph s.mySlot gr.gid (fun gr => gr.claim ch s.op.q)
            let s := s.onMe (fun st => if ord then { st with opop := st.opop ||| chBit ch } else st)
            (s.pend [s.access (.pop gr.gid ch i bs) dst (gr.esz ch) 2 3 0 0 (.loc dst) 0 (.win s.myLc dst)]).blockAfter

/-- QTRY (R450): latency 3. -/
def execQtry (g : Guard) (a _b _c : R6) (fn : F4) (s : State) : Out :=
  act g s fun s =>
    let ch := (s.gv a).toNat
    let pop := fn.getLsbD 0
    s.checked (s.chanCheck ch (!pop) 7) fun s =>
      match s.myGraph with
      | none => s
      | some gr => s.wP (fn.toNat / 2) (if pop then gr.popOk ch s.op.q else gr.pushOk ch s.op.q) 3

/-! ### LAUNCH (R102, R451) -/

/-- Children that a context's pending store holds (R424). -/
def pendingStore : Nat := 256

/-- The state whose memory the launch unit reads: the issuing logical core's local memory as before the bundle (R451). -/
def State.beforeBundle (s : State) : State :=
  match s.latch.memBefore with
  | some m => s.modLc s.myLc (fun c => { c with loc := m })
  | none => s

/-- LAUNCH (R451): the descriptor is read after every access of earlier bundles, checked, and the child recorded as pending; the strand
blocks after issue (R83). -/
def execLaunch (g : Guard) (a b _c : R6) (_fn : F4) (s : State) : Out :=
  act g s fun s =>
    let x := s.mySlot
    let va := (s.gv a).toNat
    let c := s.myCtx
    if s.op.depth = 7 ∨ 65536 ≤ s.op.nchild then s.raise (qerr 2 0)
    else if pendingStore ≤ c.pending.length || !s.op.acc.isEmpty || !s.latch.calm then s.block
    else if va % 64 ≠ 0 then s.raise (qerr 0x30 0)
    else
      let found := (s.beforeBundle.readGraph x va).1
      let s := (s.readGraph x va).2
      match found with
      | .error e => s.raise (e.trap .read)
      | .ok d =>
        match s.graphCheck x d with
        | some n => s.raise (qerr (0x30 + n) 0)
        | none =>
          if !s.hearthRoom d.chans then s.raise (qerr 0x36 0)
          else
            match s.myGraph with
            | none => s
            | some gr =>
              let st := s.op
              let child := graphOf d c.nextGid false gr.launch (gr.path ++ [(st.stage, st.q, st.nchild)]) (some gr.gid)
                (graphKeyChild st.fkey st.nchild) (s.gv b) s.cycle
              ((s.addGraph x { child with wide := c.serialGraph.isSome }).onMe (fun st => { st with nchild := st.nchild + 1 })).blockAfter

/-! ### GBAR (R452) -/

/-- Every member's bit of a group's barrier is set: the bits are cleared and the waiting strands' GBARs are satisfied. -/
def State.barrierDone (s : State) (x g : Nat) : State :=
  let s := s.modCtx x (fun c => { c with gbar := tset [] c.gbar g [] })
  { s with strands := s.strands.map (fun e =>
      if slotOfStrand e.1 == x then
        (e.1, { e.2 with gbar := e.2.gbar.map (fun m => if m.group == g then { m with met := true } else m) })
      else e) }

/-- GBAR (R452): a satisfied one issues; a first arrival, once the strand's earlier accesses are performed, sets its logical core's
bit. -/
def execGbar (g : Guard) (a _b _c : R6) (_fn : F4) (s : State) : Out :=
  act g s fun s =>
    let n := (s.gv a).toNat
    let x := s.mySlot
    let me := lcNum s.myLc
    s.checked (firstOf [eField 1 (decide (n < 256)), if (s.myCtx.members n).contains me then none else some (qerr 3 0)]) fun s =>
      match s.me.gbar.find? (fun m => m.group == n) with
      | some m =>
        if m.met then (s.onMe (fun st => { st with gbar := st.gbar.filter (fun m => m.group != n) })).syncStrong s.cur else s.block
      | none =>
        if !s.op.drained || !s.latch.calm then s.block
        else
          let bits := sins me (tget [] s.myCtx.gbar n)
          if (s.myCtx.members n).all (fun m => bits.contains m) then (s.barrierDone x n).syncStrong s.cur
          else
            let mark : BarMark := { group := n, met := false, tm := s.me.tm }
            ((s.modCtx x (fun c => { c with gbar := tset [] c.gbar n bits })).onMe (fun st => { st with gbar := mark :: st.gbar })).block

/-! ### Speculation (R120-R122, R454) -/

/-- Whether some engine command's footprint touches the speculable range. -/
def State.specBusy (s : State) : Bool :=
  let z := s.myS
  let r := spadRange 0 z
  (s.lc s.myLc).edt.any (fun k => r.meets k.rd1 || r.meets k.rd2 || r.meets k.wr)

/-- SPECB opens a region. -/
def execSpecb (g : Guard) (_a _b _c : R6) (_fn : F4) (s : State) : Out :=
  act g s fun s =>
    if !s.myCtx.spec || (s.lc s.myLc).act then s.raise (trap0 cSPECX 0)
    else if s.specBusy then s.block
    else let k := s.op.fkey; s.modLc s.myLc (fun c => { c with act := true, opener := k, fill := [] })

/-- Closes the region: SPECC inverts SEL, after which the uncommitted copy's lines never touched read as the committed copy's do
(R120, R121). -/
def State.closeRegion (s : State) (commit : Bool) : State :=
  if !s.myCtx.spec || !s.holdsRegion then s.raise (trap0 cSPECX 0)
  else if s.specBusy then s.block
  else
    let s := if commit then s.ltouch s.myLc 0 s.myS else s
    s.modLc s.myLc (fun c => { c with act := false, sel := c.sel != commit, fill := [], opener := 0 })

/-- SPECC. -/
def execSpecc (g : Guard) (_a _b _c : R6) (_fn : F4) (s : State) : Out := act g s fun s => s.closeRegion true
/-- SPECA. -/
def execSpeca (g : Guard) (_a _b _c : R6) (_fn : F4) (s : State) : Out := act g s fun s => s.closeRegion false

/-! ### DGST (R155, R455) -/

/-- DGST: with DET set, waits at its checkpoint until DGST_CHECKPOINT lets it issue, and then blocks its strand after issue while the
checkpoint is compared (R83, R455). In a serial
re-execution no firing waits there: the first pass of the checkpoint in question, its commands complete, adds the firing's term to V
(R156). -/
def execDgst (g : Guard) (a _b _c : R6) (_fn : F4) (s : State) : Out :=
  act g s fun s =>
    let n := (s.gv a).toNat
    s.checked (eField 1 (decide (n < 65536))) fun s =>
      if !s.myCtx.det then s
      else match s.myCtx.serialGraph with
        | some gr =>
          if (gr.serial.map (·.n)) != some n || s.me.dgstGo then s
          else if (s.lc s.myLc).edt.any (fun k => k.strand == s.cur % 4) then s.block
          else
            let d := s.op.digestTerm
            (s.modGraph s.mySlot gr.gid (fun gr => { gr with serial := gr.serial.map (fun r => { r with v := r.v + d }) })).onMe
              (fun st => { st with dgstGo := true })
        | none =>
          if s.me.dgstGo then (s.onMe (fun st => { st with dgst := some n, dgstAt := s.latch.addr })).blockAfter
          else (s.onMe (fun st => { st with dgst := some n })).block

end Sys2Proof.Machine
end

