-- ==== Sys2Proof/Machine/Tables.lean ====
section
/-! DEFINITION. The table-interpolated functions (R403-R409). A knot is the FP32 value nearest a real function's value (R403), found
here from a fixed-point value with 320 fraction bits, whose error stays below 2^-250: far below the distance of any knot's value
from a tie between two FP32 values (log entry 12). -/

namespace Sys2Proof.Machine

/-! ### Fixed point -/

/-- A real times 2^320, rounded down. -/
abbrev Fx := Int

/-- 1. -/
def fxOne : Fx := ((2 ^ 320 : Nat) : Int)
/-- The rational n / d. -/
def fxRat (n : Int) (d : Nat) : Fx := n * fxOne / (d : Int)
/-- Product. -/
def fxMul (a b : Fx) : Fx := a * b / fxOne
/-- Quotient by a positive number. -/
def fxDiv (a b : Fx) : Fx := a * fxOne / b
/-- Square root. -/
def fxSqrt (a : Fx) : Fx := (isqrt (a.toNat * 2 ^ 320) : Int)

/-- A series in Horner's form: `f n` takes the tail from term `n` on to the tail from term `n - 1` on. -/
def horner (f : Nat → Fx → Fx) : Nat → Fx → Fx
  | 0, acc => acc
  | n + 1, acc => horner f n (f (n + 1) acc)

/-- Squares `n` times. -/
def fxSquares : Nat → Fx → Fx
  | 0, x => x
  | n + 1, x => fxSquares n (fxMul x x)

/-- e^x for |x| at most 64. -/
def fxExp (x : Fx) : Fx :=
  let y := x / 65536
  fxSquares 16 (horner (fun n r => fxOne + fxMul y r / (n : Int)) 32 fxOne)

/-- The series of atanh (sign 1) or atan (sign -1) of y. -/
def fxAtan (sign : Int) (terms : Nat) (y : Fx) : Fx :=
  let q := sign * fxMul y y
  fxMul y (horner (fun n r => fxOne / ((2 * n - 1 : Nat) : Int) + fxMul q r) terms 0)

/-- ln 2. -/
def fxLn2 : Fx := 2 * fxAtan 1 110 (fxRat 1 3)
/-- ln of a number in [1, 2]. -/
def fxLnM (m : Fx) : Fx := 2 * fxAtan 1 110 (fxDiv (m - fxOne) (m + fxOne))
/-- ln of a number of at least 1. -/
def fxLn (y : Fx) : Fx :=
  let k := Nat.log2 y.toNat - 320
  fxLnM (y / ((2 ^ k : Nat) : Int)) + (k : Int) * fxLn2
/-- pi, by Machin's formula. -/
def fxPi : Fx := 16 * fxAtan (-1) 80 (fxRat 1 5) - 4 * fxAtan (-1) 30 (fxRat 1 239)

/-- sin x for |x| at most 2 pi. -/
def fxSin (x : Fx) : Fx :=
  let q := fxMul x x
  fxMul x (horner (fun n r => fxOne - fxMul q r / ((2 * n * (2 * n + 1) : Nat) : Int)) 70 fxOne)
/-- cos x for |x| at most 2 pi. -/
def fxCos (x : Fx) : Fx :=
  let q := fxMul x x
  horner (fun n r => fxOne - fxMul q r / (((2 * n - 1) * (2 * n) : Nat) : Int)) 70 fxOne
/-- erf z for |z| at most 6. -/
def fxErf (z : Fx) : Fx :=
  let q := fxMul z z
  let series := fxMul z (horner (fun n r => fxOne + 2 * fxMul q r / ((2 * n + 1 : Nat) : Int)) 260 fxOne)
  fxMul (fxMul (fxDiv (2 * fxOne) (fxSqrt fxPi)) (fxExp (-q))) series

/-- The logistic function. -/
def fxSigma (z : Fx) : Fx := fxDiv fxOne (fxOne + fxExp (-z))
/-- tanh z. -/
def fxTanh (z : Fx) : Fx := let e := fxExp (2 * z); fxDiv (e - fxOne) (e + fxOne)
/-- The normal distribution function. -/
def fxPhi (z : Fx) : Fx := (fxOne + fxErf (fxDiv z (fxSqrt (2 * fxOne)))) / 2
/-- The normal density. -/
def fxDens (z : Fx) : Fx := fxDiv (fxExp (-(fxMul z z) / 2)) (fxSqrt (2 * fxPi))

/-- The FP32 value nearest a real, as a dyadic: a zero is +0 (R403). -/
def knot (v : Fx) : Dy :=
  match fp32.val (fp32.ofDy .rne { n := v, e := -320 } false).1 with
  | .fin _ d => d
  | .inf _ => { n := 0, e := 0 }
  | .nan _ => { n := 0, e := 0 }

/-! ### Interpolation (R403) -/

/-- RoundNE to FP32, as a dyadic. -/
def rd32 (a : Dy) : Dy :=
  match fp32.val (fp32.ofDy .rne a false).1 with
  | .fin _ d => d
  | .inf _ => a
  | .nan _ => a

/-- T[i] + phi (T[i+1] - T[i]) with the difference rounded and one rounding of the exact value: `last` is the last interval. -/
def interp (t : Nat → Dy) (last : Nat) (u : Dy) : Dy :=
  let i := min u.floor.toNat last
  let a := t i
  rd32 (a.add ((u.sub (Dy.ofInt i)).mul (rd32 ((t (i + 1)).sub a))))

/-- Knots of 1/z at 1 + i/128. -/
def tRcp (i : Nat) : Dy := knot (fxRat 128 (128 + i))
/-- Knots of 1/sqrt z at 1 + i/128. -/
def tRsqA (i : Nat) : Dy := knot (fxDiv fxOne (fxSqrt (fxRat (128 + i) 128)))
/-- Knots of 1/sqrt z at 2 + i/64. -/
def tRsqB (i : Nat) : Dy := knot (fxDiv fxOne (fxSqrt (fxRat (128 + i) 64)))
/-- Knots of 2^z at i/128. -/
def tExp (i : Nat) : Dy := knot (fxExp (fxMul (fxRat i 128) fxLn2))
/-- Knots of log2 z at 1 + i/128. -/
def tLog (i : Nat) : Dy := if i = 0 then { n := 0, e := 0 } else knot (fxDiv (fxLnM (fxRat (128 + i) 128)) fxLn2)

/-- A final scaling's flags: NX is never set (R403). -/
def noNX (r : Nat × Nat) : W32 × Nat := (BitVec.ofNat 32 r.1, r.2 &&& 15)

/-- The canonical NaN with NV for a signalling operand. -/
def nanOf (q : Bool) : W32 × Nat := (0x7FC00000, if q then fNV else 0)

/-- |x| as m * 2^e with m in [1, 2). -/
def normM (v : Dy) : Dy × Int :=
  let e := v.log2
  ({ n := (v.n.natAbs : Int), e := v.e - e }, e)

/-- VRCP of one lane (R404). -/
def rcpLane (x : W32) : W32 × Nat :=
  match val32 x with
  | .nan q => nanOf q
  | .inf s => (BitVec.ofNat 32 (fp32.sign s), 0)
  | .fin s v =>
    if v.n = 0 then (BitVec.ofNat 32 (fp32.sign s + fp32.inf), fDZ)
    else
      let (m, e) := normM v
      let r := interp tRcp 127 ((m.sub (Dy.ofInt 1)).scale 7)
      noNX (fp32.ofDy .rne (if s then (r.scale (-e)).neg else r.scale (-e)) s)

/-- VRSQ of one lane (R405). -/
def rsqLane (x : W32) : W32 × Nat :=
  match val32 x with
  | .nan q => nanOf q
  | .inf s => if s then (0x7FC00000, fNV) else (0, 0)
  | .fin s v =>
    if v.n = 0 then (BitVec.ofNat 32 (fp32.sign s + fp32.inf), fDZ)
    else if s then (0x7FC00000, fNV)
    else
      let (m, e) := normM v
      let (r, k) :=
        if e % 2 = 0 then (interp tRsqA 127 ((m.sub (Dy.ofInt 1)).scale 7), e)
        else (interp tRsqB 127 (((m.scale 1).sub (Dy.ofInt 2)).scale 6), e - 1)
      noNX (fp32.ofDy .rne (r.scale (-(k / 2))) false)

/-- VEXP2 of one lane (R406). -/
def exp2Lane (x : W32) : W32 × Nat :=
  match val32 x with
  | .nan q => nanOf q
  | .inf s => if s then (0, 0) else (0x7F800000, 0)
  | .fin _ v =>
    if !v.lt (Dy.ofInt 128) then (0x7F800000, fOF)
    else if v.lt (Dy.ofInt (-150)) then (0, fUF)
    else
      let n := v.floor
      let r := interp tExp 127 ((v.sub (Dy.ofInt n)).scale 7)
      noNX (fp32.ofDy .rne (r.scale n) false)

/-- VLOG2 of one lane (R407). -/
def log2Lane (x : W32) : W32 × Nat :=
  match val32 x with
  | .nan q => nanOf q
  | .inf s => if s then (0x7FC00000, fNV) else (0x7F800000, 0)
  | .fin s v =>
    if v.n = 0 then (0xFF800000, fDZ)
    else if s then (0x7FC00000, fNV)
    else
      let (m, e) := normM v
      let r := interp tLog 127 ((m.sub (Dy.ofInt 1)).scale 7)
      noNX (fp32.ofDy .rne (r.add (Dy.ofInt e)) false)

/-! ### VLUT (R408, R409) -/

/-- The function of table n. -/
def lutFn (n : Nat) (z : Fx) : Fx :=
  match n with
  | 0 => fxSigma z
  | 1 => fxTanh z
  | 2 => fxErf z
  | 3 => fxMul z (fxPhi z)
  | 4 => fxMul z (fxSigma z)
  | 5 => fxLn (fxOne + fxExp z)
  | 6 => let w := fxOne + fxExp z; let q := fxMul w w; fxMul z (fxDiv (q - fxOne) (q + fxOne))
  | 7 => fxExp z - fxOne
  | 8 => fxSin (fxMul (2 * fxPi) z)
  | 9 => fxCos (fxMul (2 * fxPi) z)
  | 10 => let s := fxSigma z; fxMul s (fxOne - s)
  | 11 => let t := fxTanh z; fxOne - fxMul t t
  | 12 => fxPhi z + fxMul z (fxDens z)
  | 13 => let s := fxSigma z; s + fxMul z (fxMul s (fxOne - s))
  | 14 => fxPhi z
  | _ => fxExp z

/-- lo and k of a table's domain (R409): hi - lo = 2^k. The periodic tables have the period [0, 1]. -/
def lutDom (n : Nat) : Int × Nat :=
  match n with
  | 1 => (-8, 4)
  | 2 => (-4, 3)
  | 3 => (-8, 4)
  | 7 => (-16, 4)
  | 8 => (0, 0)
  | 9 => (0, 0)
  | 11 => (-8, 4)
  | 12 => (-8, 4)
  | 14 => (-8, 4)
  | 15 => (-16, 4)
  | _ => (-16, 5)

/-- Knot j of table n. -/
def lutKnot (n j : Nat) : Dy :=
  let (lo, k) := lutDom n
  knot (lutFn n (fxRat (lo * 256 + (j : Int) * ((2 ^ k : Nat) : Int)) 256))

/-- Whether a table's rule below lo is zero, not clamp. -/
def lutZero (n : Nat) : Bool := n == 3 || n == 4 || n == 5 || n == 6
/-- Whether a table's rule at or above hi is identity, not clamp. -/
def lutIdent (n : Nat) : Bool := n == 3 || n == 4 || n == 5 || n == 6 || n == 7

/-- An FP32 lane of an exact dyadic. -/
def lane32 (a : Dy) : W32 := BitVec.ofNat 32 (fp32.ofDy .rne a false).1

/-- The interpolated value at table position t in [0, 256]. -/
def lutAt (n : Nat) (t : Dy) : W32 := lane32 (interp (lutKnot n) 255 t)

/-- VLUT of one lane (R408). -/
def lutLane (n : Nat) (x : W32) : W32 × Nat :=
  match val32 x with
  | .nan q => nanOf q
  | .inf s =>
    if n = 8 ∨ n = 9 then (0x7FC00000, fNV)
    else if s then (if lutZero n then 0 else lane32 (lutKnot n 0), 0)
    else (if lutIdent n then x else lane32 (lutKnot n 256), 0)
  | .fin _ v =>
    if n = 8 ∨ n = 9 then (lutAt n ((v.sub (Dy.ofInt v.floor)).scale 8), 0)
    else
      let (lo, k) := lutDom n
      let hi := lo + ((2 ^ k : Nat) : Int)
      if v.lt (Dy.ofInt lo) then (if lutZero n then 0 else lane32 (lutKnot n 0), 0)
      else if !v.lt (Dy.ofInt hi) then (if lutIdent n then x else lane32 (lutKnot n 256), 0)
      else (lutAt n ((rd32 (v.sub (Dy.ofInt lo))).scale (8 - (k : Int))), 0)

end Sys2Proof.Machine
end

