-- ==== Sys2Proof/Machine/Epilogue.lean ====
section
/-! DEFINITION. The epilogue operations (R293, R434-R436): each is one operation of the run that the current logical core's epilogue
processor is making, on all 128 columns. -/

namespace Sys2Proof.Machine

/-- Columns of the array (R277). -/
def columns : Nat := 128

/-- The registers of one column: E0-E7, the working value X and the mask bit M. -/
structure EpiLane where
  e : List W32
  x : W32
  m : Bool
  deriving DecidableEq, Repr

/-- A register by its code: E0-E7, X for 8 (R436). -/
def EpiLane.get (l : EpiLane) (n : F4) : W32 := if n.toNat < 8 then l.e.getD n.toNat 0 else l.x
/-- Writes a register. -/
def EpiLane.put (l : EpiLane) (n : F4) (v : W32) : EpiLane :=
  if n.toNat < 8 then { l with e := l.e.set n.toNat v } else { l with x := v }

/-- Column `c` of a run. -/
def laneOf (regs : Tab W32) (r : EpiRun) (c : Nat) : EpiLane :=
  { e := tread 0 regs (c * 8) 8, x := tget 0 r.x c, m := r.m.contains c }

/-- The E registers of all columns, from their lanes. -/
def lanesRegs (ls : List EpiLane) : Tab W32 := tlist 0 0 (ls.flatMap (·.e))

/-- One operation on every column of the current logical core's run; the run goes to its next operation, and ends after the
sixteenth with X as its output (R293). -/
def State.epiEach (s : State) (f : EpiLane → EpiLane) : State :=
  let l := s.myLc
  match (s.lc l).epi with
  | none => s
  | some r =>
    if r.out.isSome || (s.lc l).core.isNone || (s.lc l).mstop then s
    else
      let ls := (List.range columns).map (fun c => f (laneOf (s.lc l).ereg r c))
      let x := tlist 0 0 (ls.map (·.x))
      let r := { r with op := r.op + 1, x := x,
                        m := (List.range columns).filter (fun c => match ls[c]? with
                          | some k => k.m
                          | none => false),
                        out := if 16 ≤ r.op + 1 then some x else none }
      s.modLc l (fun k => { k with ereg := lanesRegs ls, epi := some r })

/-- Ends the run with an output taken from each lane. -/
def State.epiEnd (s : State) (f : EpiLane → W32) : State :=
  let l := s.myLc
  match (s.lc l).epi with
  | none => s
  | some r =>
    if r.out.isSome || (s.lc l).core.isNone || (s.lc l).mstop then s
    else
      let out := tlist 0 0 ((List.range columns).map (fun c => f (laneOf (s.lc l).ereg r c)))
      s.modLc l (fun k => { k with epi := some { r with op := r.op + 1, out := some out } })

/-- The constant C[k] (R435). -/
def epiConst (k : F4) : W32 :=
  match k.toNat with
  | 0 => 0x00000000
  | 1 => 0x3F800000
  | 2 => 0xBF800000
  | 3 => 0x3F000000
  | 4 => 0x40000000
  | 5 => 0x3E800000
  | 6 => 0x40800000
  | 7 => 0x3E000000
  | 8 => 0x41000000
  | 9 => 0x40C00000
  | 10 => 0x43E00000
  | 11 => 0x47600000
  | 12 => 0x42FE0000
  | 13 => 0xC2FE0000
  | 14 => 0x7F800000
  | _ => 0xFF800000

/-- The pattern of a result. -/
def epiVal (r : Nat × Nat) : W32 := BitVec.ofNat 32 r.1

/-- A comparison of MASKW: GT, GE, EQ, NE, LT, LE; unordered gives false, except NE. -/
def maskCond (c : Nat) (a b : FVal) : Bool :=
  if a.isNan || b.isNan then c == 3
  else match c with
    | 0 => ltV b a
    | 1 => !ltV a b
    | 2 => eqV a b
    | 3 => !eqV a b
    | 4 => ltV a b
    | _ => !ltV b a

/-- ENDP: ends the program; the output is X. -/
def execEndp (_x _y _z : F4) (s : State) : Out := .next (s.epiEnd (·.x))
/-- CVT: rounds to an integral value. -/
def execCvt (x y z : F4) (s : State) : Out := .next (s.epiEach fun l => l.put x (roundIntegral z.toNat (l.get y)))
/-- ADDV. -/
def execAddv (x y z : F4) (s : State) : Out :=
  .next (s.epiEach fun l => l.put x (epiVal (addV fp32 .rne (val32 (l.get y)) (val32 (l.get z)))))
/-- MULV. -/
def execMulv (x y z : F4) (s : State) : Out :=
  .next (s.epiEach fun l => l.put x (epiVal (mulV fp32 .rne (val32 (l.get y)) (val32 (l.get z)))))
/-- FMAV: rounded once. -/
def execFmav (x y z : F4) (s : State) : Out :=
  .next (s.epiEach fun l => l.put x (epiVal (fmaV fp32 .rne (val32 (l.get y)) (val32 (l.get z)) (val32 (l.get x)))))
/-- ADDS: adds a constant. -/
def execAdds (x y z : F4) (s : State) : Out :=
  .next (s.epiEach fun l => l.put x (epiVal (addV fp32 .rne (val32 (l.get y)) (val32 (epiConst z)))))
/-- MULS: multiplies by a constant. -/
def execMuls (x y z : F4) (s : State) : Out :=
  .next (s.epiEach fun l => l.put x (epiVal (mulV fp32 .rne (val32 (l.get y)) (val32 (epiConst z)))))
/-- RELUM: M and x from y > +0. -/
def execRelum (x y _z : F4) (s : State) : Out :=
  .next (s.epiEach fun l =>
    let v := l.get y
    let m := ltV (val32 0) (val32 v)
    ({ l with m := m } : EpiLane).put x (if m then v else 0))
/-- CLAMP: Min(Max(x, y), z), as FMIN and FMAX. -/
def execClamp (x y z : F4) (s : State) : Out :=
  .next (s.epiEach fun l =>
    l.put x (epiVal (minmax fp32 false (minmax fp32 true (l.get x).toNat (l.get y).toNat).1 (l.get z).toNat)))
/-- LUTP: the VLUT table z (R408, R409). -/
def execLutp (x y z : F4) (s : State) : Out := .next (s.epiEach fun l => l.put x (lutLane z.toNat (l.get y)).1)
/-- MAXE, as FMAX. -/
def execMaxe (x y z : F4) (s : State) : Out :=
  .next (s.epiEach fun l => l.put x (epiVal (minmax fp32 true (l.get y).toNat (l.get z).toNat)))
/-- MINE, as FMIN. -/
def execMine (x y z : F4) (s : State) : Out :=
  .next (s.epiEach fun l => l.put x (epiVal (minmax fp32 false (l.get y).toNat (l.get z).toNat)))
/-- MOVE: bits unchanged. -/
def execMove (x y _z : F4) (s : State) : Out := .next (s.epiEach fun l => l.put x (l.get y))
/-- CVTB: rounds to BF16 precision, kept as FP32. -/
def execCvtb (x y z : F4) (s : State) : Out :=
  .next (s.epiEach fun l => l.put x (BitVec.ofNat 32 ((convV bf16 (rmodeOf z.toNat) (val32 (l.get y))).1 * 65536)))
/-- MASKW: M by a comparison. -/
def execMaskw (x y z : F4) (s : State) : Out :=
  .next (s.epiEach fun l => { l with m := maskCond x.toNat (val32 (l.get y)) (val32 (l.get z)) })
/-- QOUT: the output is x, and the program ends. -/
def execQout (x _y _z : F4) (s : State) : Out := .next (s.epiEnd fun l => l.get x)

end Sys2Proof.Machine
end

