-- ==== Sys2Proof/Machine/Matrix.lean ====
section
/-! DEFINITION. The passing of engine commands to their queues (R196) and the matrix array: the queue (R286, R287), weight banks
(R278, R279), the exact multiply-accumulate (R265, R283, R284), accumulator loads (R430) and drains (R291, R433, R434). -/

namespace Sys2Proof.Machine

/-! ### Passing to an engine -/

/-- Whether a command runs on the matrix engine queue (R286). -/
def CmdKind.matrix : CmdKind → Bool
  | .mma => true
  | .mloadw => true
  | .mdrain => true
  | .mzero => true
  | .maccld => true
  | .epload => true
  | .skupd => false
  | .skqry => false
  | .skadd => false
  | .skclr => false
  | .coll => false
  | .bte => false

/-- The engine of a command: 0 the matrix array, 1 the BTE, 2 a sketch unit, 3 Bellows. -/
def CmdKind.engine : CmdKind → Nat
  | .mma => 0
  | .mloadw => 0
  | .mdrain => 0
  | .mzero => 0
  | .maccld => 0
  | .epload => 0
  | .bte => 1
  | .skupd => 2
  | .skqry => 2
  | .skadd => 2
  | .skclr => 2
  | .coll => 3

/-- Whether a command in the table is ready: it has not passed, every edge is gone (R196), and the strand's accesses before it have been
performed (R249). A BTE start has no edges before its snapshot (R204). -/
def State.isReadyCmd (s : State) (l : Nat) (k : Cmd) : Bool :=
  !k.queued && k.fault.isNone && s.settled (l * 4 + k.strand) && ((k.kind == .bte && !k.snapped) || (s.engLc l).clear k)

/-- Whether a command may pass to its engine: it is ready, and no older command of the engine is (R196). Matrix commands pass in issue
order, ready or not (R287, log entry 15). A context under serial re-execution holds the commands of its other graphs (R156). -/
def State.mayPass (s : State) (l : Nat) (k : Cmd) : Bool :=
  let c := s.engLc l
  c.core.isSome && !c.stopping && s.isReadyCmd l k
    && (c.older k.id).all (fun x => x.kind.engine != k.kind.engine || (if k.kind.matrix then x.queued else !s.isReadyCmd l x))

/-- The start of a range of an engine command that touches the shadow (R119); a provisional range is not looked at. -/
def Cmd.shadowed (k : Cmd) (z : Nat) : Option Nat :=
  let rs := if k.kind == .bte && !k.snapped then [] else if k.kind == .mloadw then [k.rd1] else [k.rd1, k.rd2, k.wr]
  (rs.find? (fun r => shadowHit z r.start r.len && r.len != 0)).map (·.start)

/-- The snapshot of an EPLOAD's program (R231, R431). -/
def State.snapEpload (s : State) (l id : Nat) : State :=
  match (s.lc l).cmd? id with
  | none => s
  | some k =>
    match s.cbRead l k k.a.toNat 32 with
    | (.error e, s) => s.failCmd l id e .read
    | (.ok bs, s) => s.modCmd l id (fun k => { k with snapped := true, snap := bs })

/-- ENGINE_COMMAND_READY (R196): the command passes to its engine's queue; a footprint that touches the shadow faults it, and again after the
ERET that retries it: a sketch command does not pass until then, a matrix command is checked again at its start (R119, R189). -/
def execEngineCommandReady (lc cmd : Nat) (s : State) : Out :=
  match (s.engLc lc).cmd? cmd with
  | none => .next s
  | some k =>
    if !s.mayPass lc k then .next s
    else
      let q := s.modLc lc (fun c =>
        let c := c.modCmd cmd (fun k => { k with queued := true })
        if k.kind.matrix then { c.modCmd cmd (fun k => { k with st := max k.st 1 }) with mq := if c.mq.contains cmd then c.mq else c.mq ++ [cmd] }
        else c)
      match k.shadowed (s.specS lc) with
      | some a => .next ((if k.kind.matrix then q else s).faultCmd lc cmd a 11)
      | none => .next (if k.kind == .epload && !k.snapped then q.snapEpload lc cmd else q)

/-! ### The matrix queue -/

/-- Path of a matrix command: 0 load, 1 array, 2 drain (R286). -/
def Cmd.path (k : Cmd) : Nat :=
  match k.kind with
  | .mloadw => 0
  | .epload => 0
  | .mdrain => 2
  | _ => 1

/-- The tile a command names. -/
def Cmd.tile? (k : Cmd) : Option Nat :=
  match k.kind with
  | .mma => some (pcwTile k.k.toNat)
  | .mdrain => some (dcwTile k.k.toNat)
  | .mzero => some (k.word.toNat % 4)
  | .maccld => some (k.word.toNat % 4)
  | _ => none
/-- The bank a command names. -/
def Cmd.bank? (k : Cmd) : Option Nat :=
  match k.kind with
  | .mma => some (pcwBank k.k.toNat)
  | .mloadw => some (k.b.toNat % 8)
  | _ => none
/-- The epilogue slot a command names. -/
def Cmd.slot? (k : Cmd) : Option Nat :=
  match k.kind with
  | .epload => some (k.word.toNat % 8)
  | .mdrain => if dcwEps k.k.toNat = 0 then none else some (dcwEps k.k.toNat - 1)
  | _ => none
/-- The b field of a command's word (R422). -/
def Cmd.fieldB (k : Cmd) : Nat := bitsOf k.word.toNat 15 10
/-- Whether a command is an EPLOAD with a register image. -/
def Cmd.withImage (k : Cmd) : Bool := k.kind == .epload && k.fieldB != 0

/-- Whether two names are the same thing. -/
def sameName (a b : Option Nat) : Bool := a.isSome && a == b

/-- Whether two matrix commands conflict (R286, R431). -/
def Cmd.conflicts (x y : Cmd) : Bool :=
  x.path == y.path || sameName x.tile? y.tile? || sameName x.bank? y.bank? || sameName x.slot? y.slot?
    || (x.withImage && y.slot?.isSome && y.kind == .mdrain) || (y.withImage && x.slot?.isSome && x.kind == .mdrain)

/-- The commands of the queue before a command. -/
def LCore.ahead (c : LCore) (id : Nat) : List Cmd := (c.mq.takeWhile (fun x => x != id)).filterMap c.cmd?

/-- The record and parity that an MMA or MLOADW waits on in the queue (R196). -/
def Cmd.waitsOn (k : Cmd) : Option (Nat × Bool) :=
  if (k.kind == .mma || k.kind == .mloadw) && k.word.getLsbD 0 then some (k.c.toNat, k.word.getLsbD 1) else none

/-- Whether a queued matrix command may start (R286, R287), none after the stop request (R129, R493). -/
def State.mayStart (s : State) (l : Nat) (k : Cmd) : Bool :=
  let c := s.engLc l
  s.mayBegin l && k.kind.matrix && k.queued && k.st != 2 && k.fault.isNone && c.mq.contains k.id
    && (c.ahead k.id).all (fun x => x.fault.isNone && x.st == 2 && !x.conflicts k)
    && (match k.waitsOn with
        | some (a, p) => (s.arAt l a).done p
        | none => true)

/-- Whether the matrix array of a logical core runs: it is resident and not stopped (R131). -/
def LCore.arrayRuns (c : LCore) : Bool := c.core.isSome && !c.mstop

/-- Whether a command runs and is the oldest of the queue: only then its completion takes effect (R286). -/
def LCore.finishing (c : LCore) (k : Cmd) : Bool := c.arrayRuns && k.st == 2 && k.fault.isNone && c.mq.head? == some k.id

/-- Words of four bytes, little-endian. -/
def wordsOf : List Byte → List W32
  | a :: b :: c :: d :: t => BitVec.ofNat 32 (leNat [a, b, c, d]) :: wordsOf t
  | _ => []

/-! ### Tile headers and MLOADW (R175, R279, R428) -/

/-- SPTR, KBR, NCOL, B and FMT of a tile header. -/
def thSptr (h : List Byte) : Nat := fld h 0 8
def thKbr (h : List Byte) : Nat := fld h 8 1
def thNcol (h : List Byte) : Nat := fld h 10 2
def thBud (h : List Byte) : Nat := fld h 12 1
def thFmt (h : List Byte) : Nat := fld h 13 1

/-- Whether a header is within its limits and agrees with a bank's declaration (R166, R175, R262, R428). -/
def headerOk (h : List Byte) (w : Nat) : Bool :=
  spOk (thSptr h) && decide (1 ≤ thKbr h) && decide (thKbr h ≤ 16) && decide (1 ≤ thNcol h) && decide (thNcol h ≤ columns)
    && decide (1 ≤ thBud h) && decide (thBud h ≤ 16) && decide (thFmt h ≤ 6) && !(thFmt h == 4 && thBud h == 1)
    && thFmt h == bitsOf w 7 4 && thBud h == bitsOf w 12 8 && thKbr h == bitsOf w 19 16 + 1

/-- The blocks of a header's tile. -/
def thBlocks (h : List Byte) : Nat := thKbr h * thNcol h

/-- The start of an MLOADW: its header is read, and read range 2 narrows (R428). -/
def State.startMloadw (s : State) (l : Nat) (k : Cmd) : State :=
  let s := s.ltouch l k.a.toNat 16
  let h := s.lread l k.a.toNat 16
  let nb := thBlocks h
  let r := bothRange (spData (thSptr h)) ((thBud h + 1) * nb * 4) (spSide (thSptr h)) (nb * 4)
  if !headerOk h k.b.toNat then s.faultCmd l k.id k.a.toNat 10
  else if !r.fits || shadowHit (s.specS l) r.start r.len then s.faultCmd l k.id k.a.toNat 11
  else s.modCmd l k.id (fun k => { k with st := 2, snap := h, rd2 := r })

/-- The cells that a tile's words give, in block order: each block's sign word and slots, padded to seventeen, and its side word. -/
def cellsOf (b nb : Nat) (ws side : List W32) : List WCell :=
  let cols := (List.range (b + 1)).foldr (fun j acc => List.zipWith (fun w t => w :: t) (slice ws (j * nb) nb) acc)
    (List.replicate nb (List.replicate (16 - b) 0))
  List.zipWith (fun t sd => { slots := t, side := sd }) cols side

/-- The 2,048 cells of a bank from the blocks of a tile: cell (r, n) receives block r * NCOL + n, every other is inert (R279). -/
def bankCells (kbr ncol : Nat) (cs : List WCell) : List WCell :=
  (List.range 16).flatMap (fun r =>
    if r < kbr then slice cs (r * ncol) ncol ++ List.replicate (columns - ncol) WCell.inert
    else List.replicate columns WCell.inert)

/-- MLOADW_COMPLETE (R279). -/
def execMloadwComplete (lc cmd : Nat) (s : State) : Out :=
  match (s.engLc lc).cmd? cmd with
  | none => .next s
  | some k =>
    if k.kind != .mloadw || !(s.engLc lc).finishing k then .next s
    else
      let h := k.snap
      let nb := thBlocks h
      let d := spData (thSptr h)
      let n := (thBud h + 1) * nb * 4
      let s := (s.ltouch lc d n)
      let ws := wordsOf (s.lread lc d n)
      let sd := wordsOf (s.lread lc (0x100000 + spSide (thSptr h)) (4 * nb))
      let cells := bankCells (thKbr h) (thNcol h) (cellsOf (thBud h) nb ws sd)
      .next ((s.modLc lc (fun c => { c with banks := twrite WCell.inert c.banks (k.b.toNat % 8 * 2048) cells })).finish lc cmd)

/-! ### MMA (R265, R280, R283, R284) -/

/-- Whether a cell's weight block is inert (R174). -/
def WCell.isInert (w : WCell) : Bool := sideOcc w.side == 0 && sideSpc w.side == 0

/-- The cells of a bank that are not inert, keyed r * 128 + n. -/
def LCore.liveCells (c : LCore) (bank : Nat) : List (Nat × WCell) :=
  (c.banks.filter (fun e => decide (bank * 2048 ≤ e.1) && decide (e.1 < (bank + 1) * 2048) && !e.2.isInert)).map
    (fun e => (e.1 - bank * 2048, e.2))

/-- PairClass (R265) of a weight block that is not inert. -/
def pairClass (spc acls : Nat) (amag : Nat) : Nat :=
  if spc = 0 ∧ acls = 0 then 0
  else if spc = 1 ∨ acls = 1 then 1
  else if acls = 0 then (if amag = 0 then 1 else spc)
  else if spc = 0 then acls
  else if spc = acls then 2 else 3

/-- The exponent x(j) of slot `j` of a cell (R265). -/
def slotExp (d : BankDecl) (w : WCell) (a : Lanes) (j : Nat) : Int :=
  mxLam d.fmt + (sideScale w.side : Int) - 127 + a.ea + (sidePoff w.side : Int) + (d.bud : Int) - (j : Int)

/-- S of slot `j` (R265). -/
def slotSum (w : WCell) (a : Lanes) (j : Nat) : Int :=
  let sg := w.slots.getD 0 0
  let b := w.slots.getD j 0
  (List.range 32).foldl (fun t l =>
    if b.getLsbD l then (if sg.getLsbD l then t - a.lane.getD l 0 else t + a.lane.getD l 0) else t) 0

/-- The contribution c of slot `j` at an anchor. -/
def slotTerm (d : BankDecl) (w : WCell) (a : Lanes) (anchor : Int) (j : Nat) : Int :=
  trunc0 { n := slotSum w a j, e := slotExp d w a j - anchor }

/-- T(c) of R284: one more than the slots that a cell asks for. -/
def slotCount (d : BankDecl) (lim : Nat) (term : Bool) (anchor : Int) (w : WCell) (a : Lanes) : Nat :=
  if pairClass (sideSpc w.side) a.cls a.amag ≠ 0 then 1
  else if !term then lim + 1
  else ((List.range lim).map (· + 1)).find? (fun j => Dy.lt { n := (a.amag : Int), e := slotExp d w a j - anchor } (Dy.ofInt 1))
    |>.getD (lim + 1)

/-- SatAdd96 (R265): the sum and whether it saturated. -/
def satAdd96 (v : Int) (c : Int) : Int × Bool :=
  let hi : Int := ((2 ^ 95 : Nat) : Int) - 1
  let t := v + c
  if hi < t then (hi, true) else if t < -hi then (-hi, true) else (t, false)

/-- Consecutive steps of one or two counted slots (R283). -/
def stepsOf (dual : Bool) : List Nat → List (List Nat)
  | [] => []
  | a :: t =>
    if dual then match t with
      | [] => [[a]]
      | b :: t => [a, b] :: stepsOf dual t
    else [a] :: stepsOf dual t

/-- Precision settings of an MMA. -/
structure MmaCfg where
  bank : BankDecl
  lim : Nat
  term : Bool
  skip : Bool
  dual : Bool
  anchor : Int
  deriving DecidableEq, Repr

/-- The slots that a column group counts for one activation row (R284). -/
def countedSlots (f : MmaCfg) (cells : List (WCell × Lanes)) : List Nat :=
  let jend := cells.foldl (fun m e => max m (slotCount f.bank f.lim f.term f.anchor e.1 e.2 - 1)) 0
  let gocc := cells.foldl (fun o e => o ||| sideOcc e.1.side) 0
  ((List.range jend).map (· + 1)).filter (fun j => !f.skip || bitOf gocc (j - 1))

/-- One entry after a row: each step's exact column sum is added with saturation (R283), and the classes join (R265). -/
def rowEntry (f : MmaCfg) (steps : List (List Nat)) (cells : List (WCell × Lanes)) (e : AccEnt) : AccEnt × Bool :=
  let cls := cells.foldl (fun k p => classJoin k (pairClass (sideSpc p.1.side) p.2.cls p.2.amag)) e.cls
  let fin := cells.filter (fun p => pairClass (sideSpc p.1.side) p.2.cls p.2.amag == 0)
  let r := steps.foldl (fun (r : Int × Bool) js =>
    let c := fin.foldl (fun t p => js.foldl (fun t j => t + slotTerm f.bank p.1 p.2 f.anchor j) t) 0
    let q := satAdd96 r.1 c
    (q.1, r.2 || q.2)) (e.v.toInt, false)
  ({ v := BitVec.ofInt 96 r.1, cls := cls }, r.2)

/-- The live cells of group `g`, by columns, with the lanes that feed them. -/
def groupCells (cells : List (Nat × WCell)) (lanes : List Lanes) (g : Nat) : List (Nat × WCell × Lanes) :=
  (cells.filterMap (fun e => (lanes[e.1 / columns]?).map (fun a => (e.1 % columns, e.2, a)))).filter (fun e => e.1 / 16 == g)

/-- The row-steps of one activation row: the steps of its groups together (R116, R284). -/
def rowStepsOf (f : MmaCfg) (cells : List (Nat × WCell)) (lanes : List Lanes) : Nat :=
  (List.range 8).foldl (fun n g => n + (stepsOf f.dual (countedSlots f ((groupCells cells lanes g).map (·.2)))).length) 0

/-- One activation row added into a tile row of 128 entries: the new entries, and whether an addition saturated. -/
def mmaRow (f : MmaCfg) (cells : List (Nat × WCell)) (lanes : List Lanes) (row : List AccEnt) : List AccEnt × Bool :=
  let r := (List.range 8).flatMap (fun g =>
    let gs := groupCells cells lanes g
    let steps := stepsOf f.dual (countedSlots f (gs.map (·.2)))
    (List.range 16).map (fun i =>
      let n := 16 * g + i
      let e := row.getD n AccEnt.zero
      let cs := (gs.filter (fun p => p.1 == n)).map (·.2)
      if cs.isEmpty then (e, false) else rowEntry f steps cs e))
  (r.map (·.1), r.any (·.2))

/-- The activation lanes of row `i` of an MMA (R263, R280). -/
def State.actLanes (s : State) (l : Nat) (k : Cmd) (i : Nat) : List Lanes :=
  let fmt := pcwA k.k.toNat
  let kb := k.bank.kbr
  let sp := k.a.toNat
  (List.range kb).map (fun r =>
    let b := i * kb + r
    let bs := s.lread l (spData sp + b * mxStride fmt) (mxStride fmt)
    let sc := if fmt = 6 then 0 else ((s.lread l (0x100000 + spSide sp + b) 1).headD 0).toNat
    toLanes fmt k.xv sc (blockCodes fmt bs))

/-- Row-steps that the resident physical core of logical core `l` has taken, for its Damper to count (R116). -/
def State.addSteps (s : State) (l n : Nat) : State :=
  match (s.lc l).core with
  | some c => { s with rowSteps := tset 0 s.rowSteps c (tget 0 s.rowSteps c + n) }
  | none => s

/-- `n` further rows of an MMA (R265, R283): rows consumed are recorded, and their row-steps left to the Damper. -/
def State.mmaRows (s : State) (l : Nat) (k : Cmd) (n : Nat) : State :=
  let w := k.k.toNat
  let t := pcwTile w
  let c := s.lc l
  let f : MmaCfg := { bank := k.bank, lim := if pcwF w = 0 then k.bank.bud else pcwF w, term := bitOf w 15, skip := bitOf w 14,
                      dual := bitOf w 13, anchor := tget 0 c.anchor t }
  let cells := c.liveCells (pcwBank w)
  let rows := (List.range n).map (· + k.pos)
  rows.foldl (fun s i =>
    let s := s.ltouch l (spData k.a.toNat + i * k.bank.kbr * mxStride (pcwA w)) (k.bank.kbr * mxStride (pcwA w))
    let base := t * 4096 + (shapeT k.b.toNat + i) * columns
    let lanes := s.actLanes l k i
    let r := mmaRow f cells lanes (tread AccEnt.zero (s.lc l).acc base columns)
    (s.addSteps l (rowStepsOf f cells lanes)).modLc l (fun c =>
      { c.modCmd k.id (fun k => { k with pos := i + 1, sat := k.sat || r.2 }) with acc := twrite AccEnt.zero c.acc base r.1 })) s

/-- MMA_COMPLETE: every remaining row is accumulated; only now does AANC show that an addition saturated (R288). -/
def execMmaComplete (lc cmd : Nat) (s : State) : Out :=
  match (s.engLc lc).cmd? cmd with
  | none => .next s
  | some k =>
    if k.kind != .mma || !(s.engLc lc).finishing k then .next s
    else
      let s := s.mmaRows lc k (shapeM k.b.toNat - k.pos)
      let s := s.modLc lc (fun c =>
        { c with sat := if (c.cmd? cmd).any (·.sat) then sins (pcwTile k.k.toNat) c.sat else c.sat })
      .next (s.finish lc cmd)

/-! ### MZERO, MACCLD, EPLOAD -/

/-- MZERO_COMPLETE (R264, R429). -/
def execMzeroComplete (lc cmd : Nat) (s : State) : Out :=
  match (s.engLc lc).cmd? cmd with
  | none => .next s
  | some k =>
    if k.kind != .mzero || !(s.engLc lc).finishing k then .next s
    else
      let t := k.word.toNat % 4
      .next ((s.modLc lc (fun c => { c with acc := tclear c.acc (t * 4096) 4096, sat := c.sat.filter (fun x => x != t),
                                            anchor := tset 0 c.anchor t k.a.toInt })).finish lc cmd)

/-- The entries of a RAW96 row (R291). -/
def rawEntries (bs : List Byte) : List AccEnt :=
  (List.range columns).map (fun n =>
    let e := slice bs (16 * n) 16
    { v := BitVec.ofNat 96 (fld e 0 12), cls := fld e 12 1 % 4 })

/-- `n` further rows of an MACCLD (R430). -/
def State.maccldRows (s : State) (l : Nat) (k : Cmd) (n : Nat) : State :=
  let t := k.word.toNat % 4
  ((List.range n).map (· + k.pos)).foldl (fun s i =>
    let a := spData k.a.toNat + 2048 * i
    let s := s.ltouch l a 2048
    let es := rawEntries (s.lread l a 2048)
    s.modLc l (fun c => { c.modCmd k.id (fun k => { k with pos := i + 1 }) with
      acc := twrite AccEnt.zero c.acc (t * 4096 + (shapeT k.b.toNat + i) * columns) es })) s

/-- MACCLD_COMPLETE: the remaining rows, then one arrival if a record is named. -/
def execMaccldComplete (lc cmd : Nat) (s : State) : Out :=
  match (s.engLc lc).cmd? cmd with
  | none => .next s
  | some k =>
    if k.kind != .maccld || !(s.engLc lc).finishing k then .next s
    else
      let s := s.maccldRows lc k (shapeM k.b.toNat - k.pos)
      let s := if k.word.getLsbD 2 then s.arStep lc k.c.toNat 0 1 0 else s
      .next (s.finish lc cmd)

/-- The operation words of a program up to its end, each with whether its values are legal; words after the first ENDP or QOUT
are not checked (R436). -/
def epiOk : List Byte → Nat → Bool
  | _, 0 => true
  | bs, n + 1 =>
    let w := BitVec.ofNat 16 (fld bs 0 2)
    match decodeEpi w with
    | none => false
    | some (.endp _ _ _) => true
    | some (.qout _ _ _) => true
    | some _ => epiOk (bs.drop 2) n

/-- EPLOAD_COMPLETE (R315, R431): the program is checked and written, then the register image. -/
def execEploadComplete (lc cmd : Nat) (s : State) : Out :=
  match (s.engLc lc).cmd? cmd with
  | none => .next s
  | some k =>
    if k.kind != .epload || !(s.engLc lc).finishing k then .next s
    else if !epiOk k.snap 16 then
      .next ((s.faultCmd lc cmd k.a.toNat 10).modCmd lc cmd (fun k => { k with st := 1, snapped := false, snap := [] }))
    else
      let slot := k.word.toNat % 8
      let prog := (List.range 16).map (fun i => BitVec.ofNat 16 (fld k.snap (2 * i) 2))
      if !k.withImage then .next ((s.modLc lc (fun c => { c with eprog := twrite 0 c.eprog (slot * 16) prog })).finish lc cmd)
      else
        match s.cmdRead lc k k.b.toNat 4096 with
        | (.error e, s) => .next ((s.failCmd lc cmd e .read).modCmd lc cmd (fun k => { k with st := 1 }))
        | (.ok bs, s) =>
          .next ((s.modLc lc (fun c => { c with eprog := twrite 0 c.eprog (slot * 16) prog, ereg := tlist 0 0 (wordsOf bs) })).finish
            lc cmd)

/-! ### MDRAIN -/

/-- An accumulator entry as a value (R264, R269). -/
def AccEnt.val (e : AccEnt) (anchor : Int) : FVal :=
  match e.cls with
  | 0 => .fin (decide (e.v.toInt < 0)) { n := e.v.toInt, e := anchor }
  | 1 => .nan false
  | 2 => .inf false
  | _ => .inf true

/-- The entries of row `k` of a drain. -/
def LCore.drainEntries (c : LCore) (w k : Nat) : List AccEnt :=
  tread AccEnt.zero c.acc (dcwTile w * 4096 + (dcwFrow w + k) * columns) columns

/-- Starts the epilogue run of a drain's next row, if it has a program and no run is in progress (R293, R434). -/
def State.prepareRow (s : State) (l id : Nat) : State :=
  match (s.lc l).cmd? id with
  | none => s
  | some k =>
    let w := k.k.toNat
    let c := s.lc l
    if k.kind != .mdrain || k.st != 2 || dcwEps w = 0 || c.epi.isSome || dcwRows w ≤ k.pos then s
    else
      let an := tget 0 c.anchor (dcwTile w)
      let x := (c.drainEntries w k.pos).map (fun e => BitVec.ofNat 32 (convV fp32 (dcwRnd w) (e.val an)).1)
      s.setLc l { c with epi := some { cmd := id, slot := dcwEps w - 1, op := 0, x := tlist 0 0 x, m := [], out := none } }

/-- The bytes and the scale bytes of a row of values in an output format (R291). -/
def drainBytes (ofmt : Nat) (mode : RMode) (vs : List FVal) : List Byte × List Byte :=
  match ofmt with
  | 0 => (vs.flatMap (fun v => leBytes 4 (convV fp32 mode v).1), [])
  | 1 => (vs.flatMap (fun v => leBytes 2 (convV bf16 mode v).1), [])
  | n =>
    let bs := (List.range 4).map (fun b => quantMX (n - 2) mode (slice vs (32 * b) 32))
    (bs.flatMap (fun q => blockBytes (n - 2) q.1), bs.map (fun q => BitVec.ofNat 8 q.2))

/-- A RAW96 row. -/
def rawBytes (es : List AccEnt) : List Byte := es.flatMap (fun e => leBytes 12 e.v.toNat ++ leBytes 4 e.cls)

/-- Chunk bits that a write of [done, done + n) at `base` completes, of a command that writes `total` bytes from `base` on (R202). -/
def newChunks (r : ArRec) (base total done n : Nat) : W64 :=
  chunkBits (fun i =>
    let c := r.cbase + 512 * i
    let lo := max c base
    let hi := min (c + 512) (base + total)
    decide (lo < hi) && decide (hi ≤ base + done + n) && decide (base + done < hi))

/-- The mask record of a row: M of column n is bit n mod 8 of byte n / 8 (R434). -/
def maskBytes (m : List Nat) : List Byte :=
  leBytes 16 ((List.range columns).foldl (fun a n => if m.contains n then a + 2 ^ n else a) 0)

/-- The end of a drain whose rows are all written: the last row's update and one arrival, once its completion takes effect (R286, R433). -/
def State.drainEnd (s : State) (l : Nat) (k : Cmd) : State :=
  let w := k.k.toNat
  let rb := drainRow (dcwOfmt w)
  let i := dcwRows w - 1
  let s := if k.word.getLsbD 0 then
      (s.arStep l k.c.toNat rb 0 (newChunks (s.arAt l k.c.toNat) (spData k.a.toNat) (dcwRows w * rb) (i * rb) rb)).arStep l k.c.toNat 0 1 0
    else s
  s.finish l k.id

/-- MDRAIN_ROW_WRITTEN (R291, R433): the row's data, scales and mask record, under CLR its clearing, and its update. The last row is
written as any other, also behind a command that has faulted (R287); its update and the arrival wait until the drain is the oldest of the
queue (R286). -/
def execMdrainRowWritten (lc cmd : Nat) (s : State) : Out :=
  match (s.engLc lc).cmd? cmd with
  | none => .next s
  | some k =>
    let w := k.k.toNat
    let c := s.engLc lc
    let i := k.pos
    let run := c.epi
    let out := run.bind (·.out)
    if k.kind != .mdrain || !c.arrayRuns || k.st != 2 || k.fault.isSome then .next s
    else if dcwRows w ≤ i then .next (if c.finishing k then s.drainEnd lc k else s)
    else if dcwEps w != 0 && out.isNone then .next s
    else
      let an := tget 0 c.anchor (dcwTile w)
      let es := c.drainEntries w i
      let vs := match out with
        | some o => (tread 0 o 0 columns).map val32
        | none => es.map (fun e => e.val an)
      let rb := drainRow (dcwOfmt w)
      let (bs, sc) := if dcwOfmt w = 8 then (rawBytes es, []) else drainBytes (dcwOfmt w) (dcwRnd w) vs
      let sp := k.a.toNat
      let s := s.lwrite lc (spData sp + i * rb) bs
      let s := if sc.isEmpty then s else s.lwrite lc (0x100000 + spSide sp + 4 * i) sc
      let s := if k.b = 0 then s else s.lwrite lc (k.b.toNat + 16 * i) (maskBytes ((run.map (·.m)).getD []))
      let s := s.modLc lc (fun c =>
        { c.modCmd cmd (fun k => { k with pos := i + 1 }) with
          epi := none,
          acc := if dcwClr w then tclear c.acc (dcwTile w * 4096 + (dcwFrow w + i) * columns) columns else c.acc })
      if i + 1 == dcwRows w then .next (if c.finishing k then s.drainEnd lc k else s)
      else
        let s := if k.word.getLsbD 0 then
            s.arStep lc k.c.toNat rb 0 (newChunks (s.arAt lc k.c.toNat) (spData sp) (dcwRows w * rb) (i * rb) rb)
          else s
        .next (s.prepareRow lc cmd)

/-- MATRIX_COMMAND_START (R286): a command of the queue starts. -/
def execMatrixCommandStart (lc cmd : Nat) (s : State) : Out :=
  match (s.engLc lc).cmd? cmd with
  | none => .next s
  | some k =>
    if !s.mayStart lc k then .next s
    else match k.shadowed (s.specS lc) with
    | some a => .next (s.faultCmd lc cmd a 11)
    | none => match k.kind with
      | .mloadw => .next (s.startMloadw lc k)
      | .epload =>
        let s := if k.snapped then s else s.snapEpload lc cmd
        .next (if ((s.lc lc).cmd? cmd).any (·.snapped) then s.modCmd lc cmd (fun k => { k with st := 2 }) else s)
      | _ => .next ((s.modCmd lc cmd (fun k => { k with st := 2 })).prepareRow lc cmd)

end Sys2Proof.Machine
end

