-- ==== Sys2Proof/Machine/Bte.lean ====
section
/-! DEFINITION. The block-transfer engine (R204-R221, R442): templates and their checks, units and pieces, transfer chunks, the
transforms, fingerprints and comparisons. -/

namespace Sys2Proof.Machine

/-! ### Templates (R206-R208) -/

/-- SADDR, DADDR, SSOFF, DSOFF. -/
def tmSaddr (t : List Byte) : Nat := fld t 0 8
def tmDaddr (t : List Byte) : Nat := fld t 8 8
def tmSsoff (t : List Byte) : Int := sgn 32 (fld t 16 4)
def tmDsoff (t : List Byte) : Int := sgn 32 (fld t 20 4)
/-- The six loop counts and strides of the source and the destination. -/
def tmScnt (t : List Byte) : List Nat := (List.range 6).map (fun i => fld t (24 + 2 * i) 2)
def tmDcnt (t : List Byte) : List Nat := (List.range 6).map (fun i => fld t (36 + 2 * i) 2)
def tmSstr (t : List Byte) : List Int := (List.range 6).map (fun i => sgn 32 (fld t (48 + 4 * i) 4))
def tmDstr (t : List Byte) : List Int := (List.range 6).map (fun i => sgn 32 (fld t (72 + 4 * i) 4))
def tmSlim (t : List Byte) : List Nat := (List.range 3).map (fun i => fld t (96 + 2 * i) 2)
/-- CTL, ARB, RFLAG, AUX. -/
def tmCtl (t : List Byte) : Nat := fld t 104 4
def tmArb (t : List Byte) : Nat := fld t 108 4
def tmRflag (t : List Byte) : Nat := fld t 112 4
def tmAux (t : List Byte) : Nat := fld t 120 8
/-- Fields of CTL (R207). -/
def tmSkind (t : List Byte) : Nat := bitsOf (tmCtl t) 31 30
def tmDkind (t : List Byte) : Nat := bitsOf (tmCtl t) 29 28
def tmSfmt (t : List Byte) : Nat := bitsOf (tmCtl t) 27 24
def tmDfmt (t : List Byte) : Nat := bitsOf (tmCtl t) 23 20
def tmXform (t : List Byte) : Nat := bitsOf (tmCtl t) 19 17
def tmFpr (t : List Byte) : Bool := bitOf (tmCtl t) 16
def tmBud (t : List Byte) : Nat := bitsOf (tmCtl t) 15 11
def tmXvs (t : List Byte) : Nat := bitsOf (tmCtl t) 10 9
def tmInord (t : List Byte) : Bool := bitOf (tmCtl t) 8
def tmDynd (t : List Byte) : Bool := bitOf (tmCtl t) 7
def tmOrds (t : List Byte) : Bool := bitOf (tmCtl t) 6
def tmChb (t : List Byte) : Bool := bitOf (tmCtl t) 5
def tmArrv (t : List Byte) : Bool := bitOf (tmCtl t) 4

/-- The virtual address of template `i` (R205). -/
def templateAt (datum : Nat) : Nat := Config.templateBase + 128 * (datum % 4096)
/-- PARAM of a datum (R204). -/
def datumParam (datum : Nat) : Nat := datum >>> 16

/-- The channel of a BTE command. -/
def Cmd.channel (k : Cmd) : Nat := k.word.toNat / 64

/-- Products of loop counts. -/
def product (l : List Nat) : Nat := l.foldl (· * ·) 1

/-- Whether only dimension 0 counts above 1. -/
def flat (l : List Nat) : Bool := (l.drop 1).all (fun n => n == 1)

/-- Whether a template's fields are within their limits and meet R209-R212 and R219. -/
def tmplOk (t : List Byte) : Bool :=
  let sf := tmSfmt t
  let df := tmDfmt t
  let sc := tmScnt t
  let dc := tmDcnt t
  let x := tmXform t
  let bud := tmBud t
  tmSkind t != 2 && decide (sf ≤ 9) && decide (df ≤ 9) && sc.all (fun n => n != 0) && dc.all (fun n => n != 0)
    && product sc == product dc
    && (match x with
        | 0 => sf == df
        | 1 => decide (sf ≤ 6) && df == sf && tmDkind t == 1
        | 2 => decide (sf ≤ 6) && df == sf && tmSkind t == 1
        | 3 => sf == 7 && decide (df ≤ 5) && tmDkind t == 1 && flat sc && flat dc
        | 4 => sf == df && decide (sf ≤ 5) && tmDkind t == 1 && flat sc && flat dc
        | 5 => sf == df && tmDkind t != 2
        | _ => false)
    && (x == 0 || x == 5 || (decide (1 ≤ bud) && decide (bud ≤ 16) && !(df == 4 && bud == 1)))
    && (x == 0 || !tmFpr t)
    && (x != 4 || decide (tmAux t % 32 ≤ bud))
    && (x != 3 || tmAux t % 64 == 0)

/-! ### Ends, units and pieces (R210) -/

/-- One end of a transfer: its address kind, the base of its data and of its scales, and the bound of a buffer record. -/
structure End where
  kind : Nat
  base : Int
  sbase : Int
  limit : Option Nat
  deriving DecidableEq, Repr

/-- An end from a kind, an address, a scale offset and the bytes of its buffer record (R207, R210). -/
def endOf (kind addr : Nat) (soff : Int) (rec : List Byte) : End :=
  match kind with
  | 1 => { kind := 1, base := (spData addr : Int), sbase := (((0x100000 + spSide addr) : Nat) : Int), limit := none }
  | 3 =>
    let b : Nat := fld rec 0 8 + addr % 2 ^ 48
    { kind := 3, base := (b : Int), sbase := ((b : Nat) : Int) + soff, limit := some (fld rec 0 8 + fld rec 8 8) }
  | n => { kind := n, base := (addr : Int), sbase := (addr : Int) + soff, limit := none }

/-- Source and destination addresses with PARAM added, mod 2^64 (R207). -/
def Cmd.saddr (k : Cmd) : Nat := if tmDynd k.snap then tmSaddr k.snap else (tmSaddr k.snap + datumParam k.a.toNat) % 2 ^ 64
def Cmd.daddr (k : Cmd) : Nat := if tmDynd k.snap then (tmDaddr k.snap + datumParam k.a.toNat) % 2 ^ 64 else tmDaddr k.snap

/-- The source end of a BTE command; its buffer record stands in the first 16 bytes of `snap2`. -/
def Cmd.srcEnd (k : Cmd) : End := endOf (tmSkind k.snap) k.saddr (tmSsoff k.snap) (slice k.snap2 0 16)
/-- The destination end; its buffer record stands in the next 16 bytes. -/
def Cmd.dstEnd (k : Cmd) : End := endOf (tmDkind k.snap) k.daddr (tmDsoff k.snap) (slice k.snap2 16 16)

/-- The loop indices of unit `n`, dimension 0 innermost. -/
def loopIdx : List Nat → Nat → List Nat
  | [], _ => []
  | c :: t, n => n % c :: loopIdx t (n / c)

/-- The offset of a unit in units. -/
def unitOff (cnt : List Nat) (str : List Int) (n : Nat) : Int :=
  (List.zipWith (fun (i : Nat) (d : Int) => (i : Int) * d) (loopIdx cnt n) str).foldl (· + ·) 0

/-- Whether a format is one of blocks (R209). -/
def fmtBlock (f : Nat) : Bool := decide (f ≤ 6)
/-- Bytes of a plain unit. -/
def fmtPlain (f : Nat) : Nat := if f = 7 then 1 else if f = 8 then 4 else 8

/-- How a unit lies in memory: elements (0), plane form of `nb` blocks (1), a sliced image (2). -/
abbrev Layout := Nat

/-- The pieces of a unit at an end: (address, bytes) pairs; the last of several is the scale byte or side word
(R172, R173, R210, R218). -/
def piecesOf (e : End) (fmt : Nat) (lay : Layout) (nb bud stop : Nat) (o : Int) : List (Int × Nat) :=
  match lay with
  | 1 => (List.range (bud + 1)).map (fun s => (e.base + 4 * (((s * nb : Nat) : Int) + o), 4)) ++ [(e.sbase + 4 * o, 4)]
  | 2 => (List.range (stop + 1)).map (fun s => (e.base + 4 * (((s * nb : Nat) : Int) + o), 4))
      ++ [(e.base + 4 * ((((bud + 1) * nb : Nat) : Int) + o), 4)]
  | _ =>
    if fmtBlock fmt then (e.base + o * (mxStride fmt : Int), mxStride fmt) :: (if fmt = 6 then [] else [(e.sbase + o, 1)])
    else [(e.base + o * (fmtPlain fmt : Int), fmtPlain fmt)]

/-- The stop slot F of a sliced image (R218). -/
def tmStop (t : List Byte) : Nat := if tmAux t % 32 = 0 then tmBud t else tmAux t % 32

/-- Blocks or units of a command: the product of the destination counts. -/
def tmUnits (t : List Byte) : Nat := product (tmDcnt t)
/-- Layouts of the source and the destination. -/
def tmSlay (t : List Byte) : Layout := if tmXform t = 2 then 1 else if tmXform t = 4 then 2 else 0
def tmDlay (t : List Byte) : Layout := if tmXform t = 1 ∨ tmXform t = 3 ∨ tmXform t = 4 then 1 else 0

/-- The destination pieces of unit `n`. -/
def Cmd.dstPieces (k : Cmd) (n : Nat) : List (Int × Nat) :=
  let t := k.snap
  piecesOf k.dstEnd (tmDfmt t) (tmDlay t) (tmUnits t) (tmBud t) (tmBud t) (unitOff (tmDcnt t) (tmDstr t) n)

/-- Elements of source unit `n` inside the tensor edge (R211): of a block from the first on, else 1 or 0. -/
def Cmd.inside (k : Cmd) (n : Nat) : Nat :=
  let t := k.snap
  let idx := loopIdx (tmScnt t) n
  let lim := tmSlim t
  let blk := fmtBlock (tmSfmt t)
  let out := fun (j : Nat) => lim.getD j 0 != 0 && decide (lim.getD j 0 ≤ idx.getD j 0)
  if out 1 || out 2 || (!blk && out 0) then 0
  else if blk then (if lim.getD 0 0 = 0 then 32 else min 32 (lim.getD 0 0 - 32 * idx.getD 0 0))
  else 1

/-- Bits of an element of a block format (R172). -/
def elemBits (fmt : Nat) : Nat := mxBytes fmt / 4

/-- Bytes of a block that hold its first `n` elements; of a whole block all of them, pads included. -/
def blockPart (fmt n : Nat) : Nat := if 32 ≤ n then mxStride fmt else cdiv (n * elemBits fmt) 8

/-- The source pieces of unit `n`; of a block in element form that the tensor edge cuts, only the bytes of inside elements (R211). -/
def Cmd.srcPieces (k : Cmd) (n : Nat) : List (Int × Nat) :=
  let t := k.snap
  let ps := piecesOf k.srcEnd (tmSfmt t) (tmSlay t) (product (tmScnt t)) (tmBud t) (tmStop t) (unitOff (tmScnt t) (tmSstr t) n)
  if tmSlay t = 0 ∧ fmtBlock (tmSfmt t) then ps.mapIdx (fun i p => if i = 0 then (p.1, blockPart (tmSfmt t) (k.inside n)) else p) else ps

/-- Bytes of the destination stream for each unit; of FCMP the source stream. -/
def Cmd.unitBytes (k : Cmd) : Nat :=
  let t := k.snap
  if tmDlay t = 1 then 4 * (tmBud t + 2)
  else if fmtBlock (tmDfmt t) then mxStride (tmDfmt t) + (if tmDfmt t = 6 then 0 else 1)
  else fmtPlain (tmDfmt t)
/-- Bytes of the stream. -/
def Cmd.streamBytes (k : Cmd) : Nat := k.unitBytes * tmUnits k.snap
/-- Transfer chunks (R214). -/
def Cmd.chunkCount (k : Cmd) : Nat := cdiv k.streamBytes 512

/-! ### Footprint (R213) -/

/-- The range of local pieces, given as (address, bytes). -/
def localRange (ps : List (Int × Nat)) : Range :=
  ps.foldl (fun r p =>
    let a := p.1.toNat
    r.hull (if a < 0x100000 then spadRange a p.2 else bothRange 0 0 (a - 0x100000) p.2)) Range.empty

/-- Whether a local piece stands where it must: data in the scratchpad, a unit's scale or side word in the side bank. -/
def localOk (ps : List (Int × Nat)) : Bool :=
  let n := ps.length
  (List.range n).all (fun i =>
    match ps[i]? with
    | none => true
    | some (a, k) =>
      if 0 < i ∧ i + 1 = n then decide (0x100000 ≤ a) && decide (a + k ≤ 0x110000) else decide (0 ≤ a) && decide (a + k ≤ 0x100000))

/-- The reason of R221 for which the pieces of a unit at an end may not be touched. -/
def pieceFault (e : End) (split : Bool) (ps : List (Int × Nat)) : Option Nat :=
  if e.kind = 1 then (if (if split then localOk ps else ps.all (fun p => localOk [p])) then none else some 11)
  else match e.limit with
    | some m => if ps.all (fun p => decide (p.1 + p.2 ≤ m)) then none else some 12
    | none => none

/-- Whether a local AUX result lies in the scratchpad or in the side bank. -/
def auxOk (a : Nat) : Bool := decide (a + 8 ≤ 0x100000) || (decide (0x100000 ≤ a) && decide (a + 8 ≤ 0x110000))
/-- Whether a command writes a result at AUX. -/
def tmHasAux (t : List Byte) : Bool := tmFpr t || tmXform t == 5

/-- Numbers of the source units; DECODE's are the bytes of its stream. -/
def tmSourceUnits (t : List Byte) : Nat := product (tmScnt t)

/-- The derived ranges of a command, or the reason why there are none. -/
def Cmd.derive (k : Cmd) : Except Nat (Range × Range × Range) :=
  let t := k.snap
  let src := ((List.range (tmSourceUnits t)).filter (fun n => k.inside n != 0)).map k.srcPieces
  let dst := (List.range (tmUnits t)).map k.dstPieces
  let slay := tmSlay t
  let bad := (src.filterMap (pieceFault k.srcEnd (slay != 2)) ++ dst.filterMap (pieceFault k.dstEnd true)).head?
  match bad with
  | some r => .error r
  | none =>
    if tmHasAux t && !auxOk (tmAux t) then .error 11
    else
      let rs := if k.srcEnd.kind = 1 then localRange src.flatten else Range.empty
      let rd := if k.dstEnd.kind = 1 then localRange dst.flatten else Range.empty
      let aux := if tmHasAux t then localRange [((tmAux t : Int), 8)] else Range.empty
      let (r1, r2, w) := if tmXform t = 5 then (rs, rd, aux) else (rs, Range.empty, rd.hull aux)
      if r1.meets w || r2.meets w then .error 11 else .ok (r1, r2, w)

/-! ### Acceptance (R204, R442) -/

/-- What acceptance reads besides the template: the buffer records and the end of the decode table (R210, R216). -/
def State.bteFill (s : State) (l : Nat) (k : Cmd) : Except Fail (List Byte) × State :=
  let rd := fun (s : State) (need : Bool) (va n : Nat) =>
    if need then s.cmdRead l k va n else ((.ok (List.replicate n 0) : Except Fail (List Byte)), s)
  let t := k.snap
  match rd s (tmSkind t == 3) (Config.bufferBase + 32 * (k.saddr >>> 48)) 16 with
  | (.error e, s) => (.error e, s)
  | (.ok r1, s) =>
    match rd s (tmDkind t == 3) (Config.bufferBase + 32 * (k.daddr >>> 48)) 16 with
    | (.error e, s) => (.error e, s)
    | (.ok r2, s) =>
      match rd s (tmXform t == 3) (tmAux t + 2048) 64 with
      | (.error e, s) => (.error e, s)
      | (.ok r3, s) => (.ok (r1 ++ r2 ++ r3), s)

/-- Codebook value `i` (R216). -/
def Cmd.codebook (k : Cmd) (i : Nat) : Int := sgn 16 (fld k.snap2 (32 + 2 * i) 2)
/-- Whether every codebook value fits the budget. -/
def Cmd.codebookOk (k : Cmd) : Bool :=
  (List.range 16).all (fun i => decide ((k.codebook i).natAbs < 2 ^ tmBud k.snap))

/-- Commands of a channel that have been accepted and have not completed. -/
def LCore.running (c : LCore) (ch : Nat) : Nat :=
  (c.edt.filter (fun k => k.kind == .bte && k.snapped && k.channel == ch)).length

/-- Whether a channel may accept a start now (R204). -/
def State.mayAccept (s : State) (l : Nat) (k : Cmd) : Bool :=
  let c := s.engLc l
  s.mayBegin l && k.kind == .bte && k.queued && !k.snapped && k.fault.isNone && decide (c.running k.channel < 4)
    && (c.older k.id).all (fun x => !(x.kind == .bte && x.channel == k.channel && !x.snapped && x.fault.isNone))

/-- The acceptance of a BTE start: snapshot, checks, and the narrowed footprint. A command that fails a check is not accepted, but its
template has named the record at which the fault is reported (R203). -/
def State.bteAccept (s : State) (l : Nat) (k : Cmd) : State :=
  let tva := templateAt k.a.toNat
  let fail := fun (s : State) (r : Nat) => s.faultCmd l k.id tva r
  if bitsOf k.a.toNat 15 14 ≠ 0 then fail s 10
  else match s.cbRead l k tva 128 with
    | (.error e, s) => s.failCmd l k.id e .read
    | (.ok t, s) =>
      let k := { k with snap := t }
      let s := s.modCmd l k.id (fun c => { c with snap := t })
      let arb := tmArb t
      if !tmplOk t || (tmSkind t == 1 && !spOk k.saddr) || (tmDkind t == 1 && !spOk k.daddr)
          || (tmFpr t && k.streamBytes % 4 != 0) then fail s 10
      else if bitOf arb 31 && !k.a.getLsbD 12 && bitOf arb 30 && decide ((s.ctx (slotOf l)).nlc ≤ bitsOf arb 29 18) then fail s 14
      else match s.bteFill l k with
        | (.error e, s) => s.failCmd l k.id e .read
        | (.ok r, s) =>
          let k := { k with snap2 := r }
          if tmXform t == 3 && !k.codebookOk then s.faultCmd l k.id (tmAux t) 10
          else match k.derive with
            | .error n => fail s n
            | .ok (r1, r2, w) =>
              if [r1, r2, w].any (fun r => shadowHit (s.specS l) r.start r.len && r.len != 0) then fail s 11
              else s.modCmd l k.id (fun c =>
                { c with st := 1, snapped := true, snap := t, snap2 := r, rd1 := r1, rd2 := r2, wr := w,
                         xv := (s.strand (l * 4 + c.strand)).extra (tmXvs t) })

/-- BTE_ACCEPT (R204). -/
def execBteAccept (lc cmd : Nat) (s : State) : Out :=
  match (s.engLc lc).cmd? cmd with
  | none => .next s
  | some k => .next (if s.mayAccept lc k then s.bteAccept lc k else s)

/-! ### Reading a unit -/

/-- Reads one piece at an end of a command. -/
def State.readPiece (s : State) (l : Nat) (k : Cmd) (e : End) (p : Int × Nat) : Except Fail (List Byte) × State :=
  if e.kind = 1 then
    let s := s.ltouch l p.1.toNat p.2
    (.ok (s.lread l p.1.toNat p.2), s)
  else s.cmdRead l k (unsg 64 p.1) p.2

/-- Reads pieces one after another. -/
def State.readPieces (l : Nat) (k : Cmd) (e : End) : List (Int × Nat) → State → Except Fail (List Byte) × State
  | [], s => (.ok [], s)
  | p :: t, s =>
    match s.readPiece l k e p with
    | (.error f, s) => (.error f, s)
    | (.ok b, s) =>
      match State.readPieces l k e t s with
      | (.error f, s) => (.error f, s)
      | (.ok r, s) => (.ok (b ++ r), s)

/-- A source unit wholly outside the edge (R211): zeros, with scale 0x7F. -/
def Cmd.outsideUnit (k : Cmd) : List Byte :=
  let t := k.snap
  match tmSlay t with
  | 0 =>
    if fmtBlock (tmSfmt t) then List.replicate (mxStride (tmSfmt t)) 0 ++ (if tmSfmt t = 6 then [] else [0x7F])
    else List.replicate (fmtPlain (tmSfmt t)) 0
  | 1 => List.replicate (4 * (tmBud t + 1)) 0 ++ leBytes 4 0x7F
  | _ => List.replicate (4 * (tmStop t + 1)) 0 ++ leBytes 4 0x7F

/-- A unit with its elements from `n` on taken as zero, pads zero (R172, R211); of a cut block in element form `raw` holds the bytes of
inside elements, then the scale. -/
def Cmd.trimUnit (k : Cmd) (n : Nat) (raw : List Byte) : List Byte :=
  let t := k.snap
  let f := tmSfmt t
  match tmSlay t with
  | 0 =>
    if fmtBlock f then
      let st := blockPart f n
      let cs := blockCodes f (raw.take st)
      blockBytes f ((List.range 32).map (fun j => if j < n then cs.getD j 0 else 0)) ++ raw.drop st
    else raw
  | _ =>
    let ws := wordsOf raw
    let m := ws.length - 1
    if 32 ≤ n then raw
    else
      let slots := (ws.take m).map (fun w => BitVec.ofNat 32 (w.toNat % 2 ^ n))
      let sd := ws.getD m 0
      let side := BitVec.ofNat 32 (occOf slots * 2 ^ 16 + sd.toNat % 2 ^ 16)
      (slots ++ [side]).flatMap (fun w => leBytes 4 w.toNat)

/-- Source unit `n` as read. -/
def State.srcUnit (s : State) (l : Nat) (k : Cmd) (n : Nat) : Except Fail (List Byte) × State :=
  let i := k.inside n
  if i = 0 then (.ok k.outsideUnit, s)
  else match State.readPieces l k k.srcEnd (k.srcPieces n) s with
    | (.error e, s) => (.error e, s)
    | (.ok b, s) => (.ok (k.trimUnit i b), s)

/-- Words as bytes. -/
def wordBytes (ws : List W32) : List Byte := ws.flatMap (fun w => leBytes 4 w.toNat)

/-- What a unit becomes at the destination (R212, R218, R261, R262). -/
def Cmd.convert (k : Cmd) (raw : List Byte) : List Byte :=
  let t := k.snap
  let f := tmSfmt t
  let b := tmBud t
  match tmXform t with
  | 1 =>
    let st := mxStride f
    let (ws, sd) := toPlane f k.xv b ((raw.drop st).headD 0).toNat (blockCodes f (raw.take st))
    wordBytes (ws ++ [sd])
  | 2 =>
    let ws := wordsOf raw
    let (cs, sc) := fromPlane f b (ws.take (b + 1)) (ws.getD (b + 1) 0)
    blockBytes f cs ++ (if f = 6 then [] else [BitVec.ofNat 8 sc])
  | 4 =>
    let ws := wordsOf raw
    let n := tmStop t
    let sd := (ws.getD (n + 1) 0).toNat
    let occ := (sd >>> 16) % 2 ^ n
    wordBytes (ws.take (n + 1) ++ List.replicate (b - n) 0 ++ [BitVec.ofNat 32 (occ * 2 ^ 16 + sd % 2 ^ 16)])
  | _ => raw

/-! ### DECODE (R216, R217) -/

/-- Where a decoder stands: its state, the stream bit position, the count of values emitted. -/
structure DecAt where
  st : Nat
  pos : Nat
  n : Nat
  deriving DecidableEq, Repr

/-- Outcome of decoding: the values emitted, and the point from which the next chunk's first unit can be decoded; or why there are no
more. -/
inductive Dec where
  | ok (vals : List Int) (at' : DecAt)
  | bad
  | stall
  | fail (f : Fail)
  deriving DecidableEq, Repr

/-- Steps without an emission before a fault (R217). -/
def decodeLimit : Nat := 2 ^ 20

/-- Byte `i` of a DECODE's source stream; past the end it is 0 (R217). -/
def State.streamByte (s : State) (l : Nat) (k : Cmd) (i : Nat) : Except Fail Nat × State :=
  if i < tmSourceUnits k.snap then
    match s.srcUnit l k i with
    | (.error e, s) => (.error e, s)
    | (.ok b, s) => (.ok (leNat b), s)
  else (.ok 0, s)

/-- The `nb` stream bits, at most 8, from `pos` on, least significant first. -/
def State.streamBits (s : State) (l : Nat) (k : Cmd) (pos nb : Nat) : Except Fail Nat × State :=
  if nb = 0 then (.ok 0, s)
  else match s.streamByte l k (pos / 8) with
    | (.error e, s) => (.error e, s)
    | (.ok a, s) =>
      if pos % 8 + nb ≤ 8 then (.ok (a >>> (pos % 8) % 2 ^ nb), s)
      else match s.streamByte l k (pos / 8 + 1) with
        | (.error e, s) => (.error e, s)
        | (.ok b, s) => (.ok ((a + 256 * b) >>> (pos % 8) % 2 ^ nb), s)

/-- Decodes until `want` values have been emitted in all (R217); `idle` steps have passed since the last emission, `out` is in reverse.
`keep` is the last point at which no more than `mark` values had been emitted. -/
def State.decodeRun (l : Nat) (k : Cmd) (want mark : Nat) : Nat → State → DecAt → DecAt → Nat → List Int → Dec × State
  | 0, s, _, _, _, _ => (.stall, s)
  | fuel + 1, s, d, keep, idle, out =>
    let keep := if d.n ≤ mark then d else keep
    if want ≤ d.n then (.ok out.reverse keep, s)
    else if decodeLimit ≤ idle then (.stall, s)
    else match s.cmdRead l k (tmAux k.snap + 4 * d.st) 4 with
      | (.error e, s) => (.fail e, s)
      | (.ok bs, s) =>
        let w := leNat bs
        let nb := bitsOf w 31 28
        let ne := bitsOf w 27 26
        if 8 < nb ∨ ne = 3 then (.bad, s)
        else match s.streamBits l k d.pos nb with
          | (.error e, s) => (.fail e, s)
          | (.ok v, s) =>
            let out := if 1 ≤ ne then k.codebook (bitsOf w 21 18) :: out else out
            let out := if ne = 2 then k.codebook (bitsOf w 25 22) :: out else out
            State.decodeRun l k want mark fuel s { st := (w % 512 + v) % 512, pos := d.pos + nb, n := d.n + ne } keep
              (if ne = 0 then idle + 1 else 0) out

/-- Where a DECODE stands before its next chunk: at START, or where its last chunk left it (R216, R217). -/
def Cmd.decodeAt (k : Cmd) : DecAt :=
  if k.chunks = 0 then { st := fld k.snap2 72 2 % 512, pos := 0, n := 0 } else { st := k.dstate, pos := k.pos, n := k.emitted }

/-- Decodes the values of units up to `u1`; the next chunk's units begin with `u2`. -/
def State.decodeTo (s : State) (l : Nat) (k : Cmd) (u1 u2 : Nat) : Dec × State :=
  State.decodeRun l k (32 * u1) (32 * u2) ((32 * u1 + 1) * (decodeLimit + 1)) s k.decodeAt k.decodeAt 0 []

/-- A block of decoded values as plane-form bytes with a scale (R217). -/
def Cmd.decodedUnit (k : Cmd) (vals : List Int) (scale : Nat) : List Byte :=
  let b := tmBud k.snap
  let slots := bits32 (fun l => decide (vals.getD l 0 < 0)) ::
    (List.range b).map (fun j => bits32 (fun l => bitOf (vals.getD l 0).natAbs (b - 1 - j)))
  wordBytes (slots ++ [sideWord (occOf slots) 0 false 0 scale])

/-! ### A chunk -/

/-- What a chunk comes to: the source bytes and the destination bytes of the units that it touches, and where a decoder stands after
it; or a fault. -/
inductive ChunkOut where
  | ok (raw out : List Byte) (at' : DecAt)
  | bad (reason addr : Nat)
  | stall
  | fail (f : Fail)
  deriving DecidableEq, Repr

/-- The units that transfer chunk `c` touches: first and count. -/
def Cmd.chunkUnits (k : Cmd) (c : Nat) : Nat × Nat :=
  let ub := k.unitBytes
  let lo := 512 * c
  let hi := min (lo + 512) k.streamBytes
  (lo / ub, (hi - 1) / ub + 1 - lo / ub)

/-- The units of a chunk, converted. -/
def State.chunkData (s : State) (l : Nat) (k : Cmd) (c : Nat) : ChunkOut × State :=
  let (u0, un) := k.chunkUnits c
  if tmXform k.snap = 3 then
    match s.decodeTo l k (u0 + un) (k.chunkUnits (c + 1)).1 with
    | (.bad, s) => (.bad 13 (tmAux k.snap), s)
    | (.stall, s) => (.stall, s)
    | (.fail e, s) => (.fail e, s)
    | (.ok vals d, s) =>
      (List.range un).foldl (fun r i =>
        match r with
        | (.ok raw out d, s) =>
          (match s.cmdRead l k (fld k.snap2 64 8 + u0 + i) 1 with
          | (.error e, s) => (.fail e, s)
          | (.ok sc, s) => (.ok raw (out ++ k.decodedUnit (slice vals (32 * (u0 + i) - k.decodeAt.n) 32) (leNat sc)) d, s))
        | (o, s) => (o, s)) (.ok [] [] d, s)
  else
    (List.range un).foldl (fun r i =>
      match r with
      | (.ok raw out d, s) =>
        (match s.srcUnit l k (u0 + i) with
        | (.error e, s) => (.fail e, s)
        | (.ok b, s) => (.ok (raw ++ b) (out ++ k.convert b) d, s))
      | (o, s) => (o, s)) (.ok [] [] k.decodeAt, s)

/-- The writes of a chunk: contiguous runs of (address, bytes), of the bytes of its units that lie in the chunk. -/
def Cmd.chunkWrites (k : Cmd) (c : Nat) (out : List Byte) : List (Int × List Byte) :=
  let (u0, un) := k.chunkUnits c
  let ub := k.unitBytes
  let lo := 512 * c
  let hi := min (lo + 512) k.streamBytes
  let step := fun (acc : List (Int × List Byte) × Nat × List Byte) (p : Int × Nat) =>
    let (ws, pos, rest) := acc
    let s0 := max pos lo
    let s1 := min (pos + p.2) hi
    let bs := slice rest (s0 - pos) (s1 - s0)
    let ws := if s1 ≤ s0 then ws else
      match ws.getLast? with
      | some (a, b) => if a + b.length = p.1 + ((s0 - pos : Nat) : Int) then ws.dropLast ++ [(a, b ++ bs)]
          else ws ++ [(p.1 + ((s0 - pos : Nat) : Int), bs)]
      | none => [(p.1 + ((s0 - pos : Nat) : Int), bs)]
    (ws, pos + p.2, rest.drop p.2)
  (((List.range un).flatMap (fun i => k.dstPieces (u0 + i))).foldl step ([], u0 * ub, out)).1

/-- The scratchpad byte that a destination address of a command of logical core `l` names, as (logical core, local address): of a local
end its own, through the logical-core window another's (R183). -/
def End.spot (e : End) (l : Nat) (a : Int) : Option (Nat × Nat) :=
  if e.kind = 1 then some (l, a.toNat)
  else if e.kind = 2 then none
  else
    let v := unsg 64 a
    if Config.windowBase ≤ v ∧ v < 2 ^ 56 then
      let o := v - Config.windowBase
      some (lcKey (slotOf l) (o / 2 ^ 24), o % 2 ^ 24)
    else none

/-- The last stream position at which a command of `l` writes the 512 bytes at `lo` in logical core `m`; none where it writes no byte
of them. -/
def Cmd.regionEnd (k : Cmd) (l m lo : Nat) : Option Nat :=
  if tmXform k.snap = 5 then none
  else
    let e := k.dstEnd
    ((List.range (tmUnits k.snap)).foldl (fun (acc : Option Nat × Nat) n =>
      (k.dstPieces n).foldl (fun acc p =>
        let hit := match e.spot l p.1 with
          | some (j, x) => if j = m ∧ max lo x < min (lo + 512) (x + p.2) then some (acc.2 + (min (lo + 512) (x + p.2) - 1 - x)) else none
          | none => none
        (match hit with
          | some h => some (max (acc.1.getD 0) h)
          | none => acc.1, acc.2 + p.2)) acc) (none, 0)).1

/-- The chunk bits of R202 in a record on logical core `m` that performing stream bytes [lo, hi) completes. -/
def Cmd.chunkMask (k : Cmd) (l m : Nat) (r : ArRec) (lo hi : Nat) : W64 :=
  if tmChb k.snap then
    chunkBits (fun i => match k.regionEnd l m (r.cbase / 512 * 512 + 512 * i) with
      | some e => decide (lo ≤ e) && decide (e < hi)
      | none => false)
  else 0

/-- An update of the record bound to a BTE command (R202); a command that has faulted makes none (R203). -/
def State.bteArrive (s : State) (l : Nat) (k : Cmd) (b n : Nat) (m : Nat → ArRec → W64) : State :=
  match (s.lc l).cmd? k.id |>.bind (fun k => if k.fault.isSome then none else k.record l) with
  | some (r, a) => s.arStep r a b n (m r (s.arAt r a))
  | none => s

/-- Fletcher-64 sums over words (R219). -/
def fletcher (ab : Nat × Nat) (ws : List W32) : Nat × Nat :=
  ws.foldl (fun r w =>
    let a := (r.1 + w.toNat) % 0xFFFFFFFF
    (a, (r.2 + a) % 0xFFFFFFFF)) ab

/-- The 128-byte blocks of a remote write. -/
def blocks128 : Nat → Nat → List Byte → List (Nat × List Byte)
  | 0, _, _ => []
  | n + 1, a, bs =>
    if bs.isEmpty then []
    else
      let k := 128 - a % 128
      (a, bs.take k) :: blocks128 n (a + k) (bs.drop k)

/-- One remote store of a BTE command (R214). -/
def State.bteRst (s : State) (l : Nat) (k : Cmd) (p : Nat × List Byte) : State :=
  let d := (s.lc l).die
  match s.freeTag d with
  | none => s
  | some tag =>
    let rf := tmRflag k.snap
    let fv := bitOf rf 31 && !k.a.getLsbD 13
    let f := rstFlit 1 (tmOrds k.snap) p.1 fv (if fv && bitOf rf 30 then 1 else 0) (if fv then rf % 2 ^ 23 else 0) p.2
    s.request d tag (slotOf l) f (.bte l k.id p.2.length)

/-- Free tags of a die (R32). -/
def State.freeTags (s : State) (d : Nat) : Nat := 4096 - (s.txns.filter (fun t => t.die == d)).length

/-- Finds the pieces of global memory that the runs of a chunk write, before any is written (R189). -/
def State.writable (l : Nat) : List (Int × List Byte) → State → Except Fail (List (List (Loc × Nat))) × State
  | [], s => (.ok [], s)
  | (a, bs) :: t, s =>
    match s.places l (unsg 64 a) bs.length with
    | (.error e, s) => (.error e, s)
    | (.ok ps, s) =>
      match State.writable l t s with
      | (.error e, s) => (.error e, s)
      | (.ok qs, s) => (.ok (ps :: qs), s)

/-- Writes the runs of a chunk: local, global in the pieces found for each, or remote; global and remote bytes fold into S (R154). -/
def State.writeRuns (s : State) (l : Nat) (k : Cmd) (runs : List (Int × List Byte)) (places : List (List (Loc × Nat))) : State :=
  (List.range runs.length).foldl (fun s i =>
    let r := runs.getD i (0, [])
    let a := unsg 64 r.1
    match k.dstEnd.kind with
    | 1 => s.lwrite l r.1.toNat r.2
    | 2 =>
      let s := s.modCmd l k.id (fun c => { c with spart := foldS c.spart a r.2 })
      (blocks128 (r.2.length + 1) a r.2).foldl (fun s p => s.bteRst l k p) s
    | _ =>
      let s := (s.vput l a (places.getD i []) r.2).ownHeld l k.id s.outq.length
      if Config.windowBase ≤ a then s else s.modCmd l k.id (fun c => { c with spart := foldS c.spart a r.2 })) s

/-- Whether a command may move its next chunk now (R204, R215); after a stop request none begins (R127, R489). -/
def State.mayMove (s : State) (l : Nat) (k : Cmd) : Bool :=
  let c := s.engLc l
  s.mayBegin l && k.kind == .bte && k.snapped && k.fault.isNone && decide (k.chunks < k.chunkCount) && c.clear k
    && (!tmInord k.snap || (c.older k.id).all (fun x => !(x.kind == .bte && x.channel == k.channel)))

/-- The first differing word of two streams from word `n` on. -/
def firstDiff : Nat → List W32 → List W32 → Option Nat
  | n, a :: as, b :: bs => if a = b then firstDiff (n + 1) as bs else some n
  | _, _, _ => none

/-- Words of bytes, the last padded with zeros. -/
def wordsPad (bs : List Byte) : List W32 := wordsOf (bs ++ List.replicate ((4 - bs.length % 4) % 4) 0)

/-- Destination units as an FCMP reads them: pads are not looked at (R172, R220). -/
def State.dstUnits (l : Nat) (k : Cmd) : List Nat → State → Except Fail (List Byte) × State
  | [], s => (.ok [], s)
  | n :: ns, s =>
    match State.readPieces l k k.dstEnd (k.dstPieces n) s with
    | (.error e, s) => (.error e, s)
    | (.ok b, s) =>
      match State.dstUnits l k ns s with
      | (.error e, s) => (.error e, s)
      | (.ok r, s) => (.ok (k.trimUnit 32 b ++ r), s)

/-- An FCMP chunk (R214, R220): the destination is read and compared with the source. -/
def State.compareChunk (s : State) (l : Nat) (k : Cmd) (raw : List Byte) : State :=
  let (u0, un) := k.chunkUnits k.chunks
  let ub := k.unitBytes
  let lo := 512 * k.chunks
  let n := min 512 (k.streamBytes - lo)
  match State.dstUnits l k ((List.range un).map (· + u0)) s with
  | (.error e, s) => s.failCmd l k.id e .read
  | (.ok other, s) =>
    let cut := fun (b : List Byte) => wordsPad (slice b (lo - u0 * ub) n)
    let m := if k.match1 != 0xFFFFFFFF then k.match1 else (firstDiff (lo / 4) (cut raw) (cut other)).getD 0xFFFFFFFF
    let s := s.modCmd l k.id (fun c => { c with st := 2, chunks := c.chunks + 1, match1 := m })
    s.bteArrive l k n 0 (fun _ _ => 0)

/-- A chunk performed and counted (R202, R214): bytes that leave for another package are counted as their RSTACKs return. -/
def State.moveChunk (s : State) (l : Nat) (k : Cmd) : State :=
  match s.chunkData l k k.chunks with
  | (.bad r a, s) => s.faultCmd l k.id a r
  | (.stall, s) => s
  | (.fail e, s) => s.failCmd l k.id e .read
  | (.ok raw out d, s) =>
    if tmXform k.snap = 5 then s.compareChunk l k raw
    else
      let runs := k.chunkWrites k.chunks out
      let lo := 512 * k.chunks
      let n := min 512 (k.streamBytes - lo)
      let remote := k.dstEnd.kind = 2
      let need := (runs.map (fun r => (blocks128 (r.2.length + 1) (unsg 64 r.1) r.2).length)).foldl (· + ·) 0
      if remote ∧ s.freeTags (s.lc l).die < need then s
      else match (if remote then (runs.find? (fun r => decide (2 ^ 51 ≤ unsg 64 r.1))).map (fun r => Fail.mem (unsg 64 r.1 % 2 ^ 52) opADDRERR)
                 else none) with
      | some f => s.failCmd l k.id f .write
      | none =>
        match (if k.dstEnd.kind = 1 ∨ remote then (.ok [], s) else State.writable l runs s) with
        | (.error e, s) => s.failCmd l k.id e .write
        | (.ok places, s) =>
          let q := s.outq.length
          let s := s.writeRuns l k runs places
          let fab := if tmFpr k.snap then fletcher (k.fletA, k.fletB) (wordsOf (slice raw (lo - (k.chunkUnits k.chunks).1 * k.unitBytes) n))
            else (k.fletA, k.fletB)
          let s := s.modCmd l k.id (fun c =>
            { c with
              st := 2, chunks := c.chunks + 1, fletA := fab.1, fletB := fab.2, dstate := d.st, pos := d.pos, emitted := d.n })
          if remote then s else s.bteArrive l k (n - s.heldSince q) 0 (fun m r => k.chunkMask l m r lo (lo + n))

/-- BTE_CHUNK_PERFORMED (R202): the next chunk; a resumed command first reads its buffer records and table again (R216, R231). -/
def execBteChunkPerformed (lc cmd : Nat) (s : State) : Out :=
  match (s.engLc lc).cmd? cmd with
  | none => .next s
  | some k =>
    if !s.mayMove lc k then .next s
    else if k.snap2.isEmpty then
      match s.bteFill lc k with
      | (.error e, s) => .next (s.failCmd lc cmd e .read)
      | (.ok r, s) => .next ((s.modCmd lc cmd (fun k => { k with snap2 := r })).moveChunk lc { k with snap2 := r })
    else .next (s.moveChunk lc k)

/-- Whether a DECODE's next chunk fails to progress (R217). -/
def State.stalled (s : State) (l : Nat) (k : Cmd) : Bool :=
  s.mayMove l k && tmXform k.snap == 3 && !k.snap2.isEmpty && (s.chunkData l k k.chunks).1 == .stall

/-- DECODE_STALL (R217): a fault with reason 13. -/
def execDecodeStall (lc cmd : Nat) (s : State) : Out :=
  match (s.engLc lc).cmd? cmd with
  | none => .next s
  | some k => .next (if s.stalled lc k then s.faultCmd lc cmd (tmAux k.snap) 13 else s)

/-- Whether a BTE command's remote stores have all been acknowledged. -/
def State.acked (s : State) (l cmd : Nat) : Bool :=
  s.txns.all (fun t => !t.purpose.ofBte l cmd) && s.outq.all (fun h => !h.purpose.ofBte l cmd)

/-- BTE_COMMAND_COMPLETE (R202, R219, R220): the AUX result, then the arrival. -/
def execBteCommandComplete (lc cmd : Nat) (s : State) : Out :=
  match (s.engLc lc).cmd? cmd with
  | none => .next s
  | some k =>
    let c := s.engLc lc
    if k.kind != .bte || !k.snapped || k.fault.isSome || c.core.isNone || c.stopping || k.chunks < k.chunkCount || !s.acked lc cmd then
      .next s
    else
      let t := k.snap
      let res := if tmXform t = 5 then k.match1 * 2 ^ 32 + (if k.match1 = 0xFFFFFFFF then 1 else 0) else k.fletB * 2 ^ 32 + k.fletA
      let s := if tmHasAux t then s.lwrite lc (tmAux t) (leBytes 8 res) else s
      let s := if tmArrv t then s.bteArrive lc k 0 1 (fun _ _ => 0) else s
      .next (s.finish lc cmd)

end Sys2Proof.Machine
end

