-- ==== Sys2Proof/Machine/Lines.lean ====
section
/-! DEFINITION. The monitored lines (R59-R61) and the event log (R74-R77). -/

namespace Sys2Proof.Machine

/-- Position of the log control line among the monitored lines; the command lines come before it. -/
def logLine : Nat := 16

/-- The 64 bytes of host memory at a monitored line. -/
def State.lineBytes (s : State) (l : MLine) : List Byte := s.pread (hostPa l.addr) 64

/-- The arbiter after a read of the log control line (R75): CONSUMED is taken from every line, the log's place from a valid one. -/
def Arbiter.control (a : Arbiter) (bs : List Byte) : Arbiter :=
  let base := fld bs 0 8
  let ent := fld bs 8 1
  let ok := base != 0 && base % 4096 == 0 && decide (6 ≤ ent) && decide (ent ≤ 20)
  let a := { a with consumed := fld bs 16 8 }
  if ok then { a with logBase := base, logEnt := ent, logOn := true } else a

/-- Whether the launch unit takes records: it stops from when a completion has found no room in the arbiter's store until that one is
accepted (R77). -/
def State.taking (s : State) : Bool := s.arb.waiting.all (fun e => e.typ != 1)

/-- The launch unit reads monitored line `i` as one snapshot and re-arms it (R60): the log control line is taken in, a record whose
SEQ differs from the one last taken joins the queue. -/
def State.readLine (s : State) (i : Nat) : State :=
  match s.lines[i]? with
  | none => s
  | some l =>
    let bs := s.lineBytes l
    let s := { s with lines := lmod (fun l => { l with inval := false }) s.lines i }
    if i = logLine then { s with arb := s.arb.control bs }
    else if fld bs 0 8 = l.seq then s
    else
      { s with
        lines := lmod (fun l => { l with seq := fld bs 0 8 }) s.lines i
        cmdQ := s.cmdQ ++ [{ owner := l.owner, bytes := bs, amid := (s.slotOfId (recCtx bs)).any (fun x => (s.ctx x).freezeRec.isSome) }] }

/-- MONITORED_LINE_INVALIDATE (R60): an invalidated line is read again. -/
def execMonitoredLineInvalidate (line : Nat) (s : State) : Out :=
  match s.lines[line]? with
  | none => .next s
  | some l => .next (if s.power = .ready ∧ l.inval ∧ (line = logLine ∨ s.taking) then s.readLine line else s)

/-! ### The log (R75-R77) -/

/-- Whether an event is written even overwritten unconsumed entries: a thermal trip's (R77). -/
def Event.exempt (e : Event) : Bool := e.typ == evTHERMAL || (e.typ == evKILLED && e.result == 4)

/-- An event's 64 bytes (R76). -/
def Event.entry (e : Event) : List Byte :=
  leBytes 8 e.seq ++ leBytes 2 e.typ ++ leBytes 2 e.ctxid ++ leBytes 1 e.status ++ leBytes 1 (if e.ovw then 1 else 0) ++ leBytes 2 e.src
    ++ leBytes 8 e.tag ++ leBytes 8 e.result ++ leBytes 8 e.info0 ++ leBytes 8 e.info1 ++ leBytes 8 e.time ++ leBytes 8 0

/-- Whether the log has room for an event (R75). -/
def Arbiter.room (a : Arbiter) (e : Event) : Bool := decide (e.seq ≤ a.consumed + 2 ^ a.logEnt)

/-- The arbiter's store takes the first waiting event, which receives its SEQ now (R77). -/
def Arbiter.accept (a : Arbiter) : Arbiter :=
  match a.waiting with
  | [] => a
  | e :: t =>
    if a.held.length < storeSize then
      { a with held := a.held ++ [{ e with seq := a.nextSeq }], waiting := t, nextSeq := a.nextSeq + 1 }
    else a

/-- The key under which `State.hostSaw` stands for the package's own units, the runtime among them: no slot has it. -/
def runtimeSlot : Nat := 2 ^ 24

/-- An event is in the log: the host must see every effect that it reports, which are stores of its context and of the runtime. The host is
taken to have read it at once, since the model has no step in which the host reads its own memory (R78; log entry 94). -/
def State.told (s : State) (e : Event) : State :=
  { s with hostSaw := tset 0 (if e.ctxid = 0 then s.hostSaw else tset 0 s.hostSaw (e.ctxid % 64) s.vtime) runtimeSlot s.vtime }

/-- The first held event is written to its entry (R75, R76). -/
def State.writeEvent (s : State) : State :=
  match s.arb.held with
  | [] => s
  | e :: t =>
    let overwritten := !s.arb.room e
    let at' := (s.arb.logBase + 64 * (e.seq % 2 ^ s.arb.logEnt)) % 2 ^ 48
    let s := (s.told e).pwrite none false (hostPa at') { e with ovw := overwritten }.entry
    { s with
      arb := { s.arb with held := t, written := e.seq, ovw := s.arb.ovw + if overwritten then 1 else 0 }.accept }

/-- EVENT_LOG_WRITE (R77): the next held event is written once the log has room for it; a thermal trip's events, and those held
before them, are written even where it has none (log entry 20). -/
def execEventLogWrite (s : State) : Out :=
  match s.arb.held with
  | [] => .next s
  | e :: _ => .next (if s.arb.logOn && (s.arb.room e || s.arb.held.any Event.exempt) then s.writeEvent else s)

end Sys2Proof.Machine
end

