-- ==== Sys2Proof/Machine/Power.lean ====
section
/-! DEFINITION. Power, reset and Kindling (R13, R15-R20), retirement and replacement (R21-R23), uncorrectable errors (R43), the
Ablum links (R53) and the management window (R26). -/

namespace Sys2Proof.Machine

/-! ### Replacement (R23) -/

/-- RPLC changes: the change is reported (R23). -/
def State.replaced (s : State) (f : State → State) : State :=
  let s' := f s
  if s'.rplc = s.rplc then s' else s'.report evREPLACE 0xFFFF 0 srcPackage 0 s'.rplc 0 0

/-- Whether more cores of a die are retired than it has spares. -/
def State.noSpare (s : State) (d : Nat) : Bool :=
  decide (Config.coresPhys - Config.coresService < (s.retired.filter (fun n => n / Config.coresPhys == d)).length)

/-! ### Reset and the start of a Kindling (R16-R20) -/

/-- The package is in reset: no context, queue, flit or event survives (R20, R74). The generation counts of the context slots go on (R63). -/
def State.enterReset (s : State) (p : Power) : State :=
  { s with
    power := p, kstat := { elapsed := 0, err := 0, step := 1, cold := s.kstat.cold, ready := false }, ctxs := [], lcs := [], strands := [],
    gens := s.ctxs.foldl (fun g e => if e.2.used then tset 1 g e.1 ((e.2.gen + 1) % 1024) else g) s.gens, lines := [], cmdQ := [], arb := Arbiter.reset, tags := [], busy := [], rr := [], damper := [], damperAt := [], rowSteps := [], nextReb := [],
    waitq := [], wires := [], exits := [], inbox := [], recov := [], links := [], wrr := [], txns := [], outq := [], stuck := [], past := [], hostView := View.upTo 0, hostSaw := [], nextTag := [], cur := 0, latch := Latch.empty }

/-- Memory without the second tier's contents (R13). DESIGN CHOICE (log entry 4): the spec says only that they are lost; until a cold
Kindling fills them they read as what nothing has written, zero. -/
def State.loseTier (s : State) : State := { s with mem := s.mem.filter (fun e => decide (e.1 < 3 * 2 ^ 50)) }

/-- A Kindling starts at step 1 (R17, R18, R26); where hold-up was lost, so are the second tier's contents (R13). -/
def State.startKindling (s : State) (cold : Bool) : State :=
  let s := s.enterReset .kindling
  let s := if s.env.holdLost then s.loseTier else s
  { s with
    kstat := { s.kstat with cold := cold }, since := s.cycle, lanesBit := s.lanesBit && !cold, hbmBit := s.hbmBit && !cold,
    sparesBit := s.sparesBit && !cold, env := { s.env with holdLost := false } }

/-- Kindling stops with a failure code, final until the next reset (R19). -/
def State.failKindling (s : State) (code : Nat) : State :=
  { s with power := .failed, kstat := { s.kstat with err := code, elapsed := (s.cycle - s.since) / 1250000 } }

/-- Cycles in which a Kindling must set READY: 45 s (R18). -/
def kindlingLimit : Nat := 45 * 1250000000

/-- Step 1: a firmware slot verifies whose version the fused counter accepts (R24). -/
def Env.firmwareOk (e : Env) : Bool :=
  (e.fwA.1 && decide (e.fuse ≤ e.fwA.2)) || (e.fwB.1 && decide (e.fuse ≤ e.fwB.2))

/-- Step 4: every core is tested; a warm Kindling keeps the retired ones (R21). -/
def State.selfTest (s : State) : State :=
  s.replaced (fun s =>
    let base := if s.kstat.cold then [] else s.retired
    let s := { s with retired := (s.env.badCores.filter (fun n => decide (n < 8 * Config.coresPhys))).foldl (fun l n => sins n l) base }
    { s with sparesBit := s.sparesBit || (List.range 8).any s.noSpare })

/-- Step 5: HBM and Hearth are cleared, and on a cold Kindling the second tier; host memory is the host's (R17). Whether a stack that used
up its repair rows at run time is found exhausted again at a cold Kindling the spec does not say: what this step finds is an input of its
own, so HBMREP clears unless that says otherwise (R23, log entry 76). -/
def State.clearMemory (s : State) : State :=
  let keep := fun (a : Nat) => (decide (2 * 2 ^ 50 ≤ a) && decide (a < 3 * 2 ^ 50)) || (!s.kstat.cold && decide (3 * 2 ^ 50 ≤ a))
  ({ s with mem := s.mem.filter (fun e => keep e.1), zips := [], bad := [] } : State).replaced (fun s => { s with hbmBit := s.hbmBit || s.env.hbmLow })

/-- Step 6: the links are trained and the seventeen lines armed with their contents as taken; the log control line is read (R59). A base
of 2^48 or more is no host address, and the spec does not say what it does: the line addresses are taken mod 2^48 (log entry 77). -/
def State.armLines (s : State) : State :=
  let s := s.replaced (fun s => { s with lanesBit := s.lanesBit || s.env.lanesLow, links := [], ablum := [16, 16, 16, 16] })
  let lines := (List.range 17).map (fun i =>
    let a := (s.env.cmdBase + 64 * i) % 2 ^ 48
    ({ addr := a, seq := fld (s.pread (hostPa a) 64) 0 8, owner := none, inval := false } : MLine))
  { s with lines := lines }.readLine logLine

/-- Step 7: READY; the command lines and the log control line are read in ascending offset (R20). -/
def State.setReady (s : State) : State :=
  let s := { s with power := .ready, kstat := { s.kstat with ready := true, elapsed := (s.cycle - s.since) / 1250000 },
                    nextReb := tlist 0 0 (List.replicate 8 (s.cycle + Config.rebalanceCycles)) }
  (List.range 17).foldl (fun s i => s.readLine i) s

/-- The step of Kindling that runs now ends, successfully or with its code (R17-R19); each takes a seventh of the time that this
Kindling takes. -/
def State.kindle (s : State) : State :=
  let k := s.kstat.step
  let till := max s.cycle (s.since + s.env.kindleMs * 1250000 * k / 7)
  if s.power ≠ .kindling then s
  else if s.since + kindlingLimit < till then { s with cycle := max s.cycle (s.since + kindlingLimit) }.failKindling 7
  else
    let s := { s with cycle := till }
    let next := fun (s : State) => { s with kstat := { s.kstat with step := k + 1 } }
    match k with
    | 1 => if s.env.firmwareOk then next s else s.failKindling 1
    | 2 => if s.env.phyOk then next s else s.failKindling 2
    | 3 => if s.env.vmonOk then next s else s.failKindling 3
    | 4 => let s := s.selfTest
           if (List.range 8).any (fun d => (s.inService d).isEmpty) then s.failKindling 4 else next s
    | 5 => if s.env.memOk then next s.clearMemory else s.failKindling 5
    | 6 => if s.env.trainOk && s.env.cmdBase != 0 && s.env.cmdBase % 4096 == 0 then next s.armLines else s.failKindling 6
    | _ => s.setReady

/-- POWER_GOOD (R17, R18): a cold Kindling starts; time counts from here (R76 TIME). -/
def execPowerGood (s : State) : Out :=
  .next (if s.power = .off then { s with cycle := 0, env := { s.env with powered := true } }.startKindling true else s)

/-- PACKAGE_RESET_ASSERTED (R13, R20): every context ends and the device stops; the module's second tier is held. -/
def execPackageResetAsserted (s : State) : Out :=
  .next (if s.power = .off then s else s.enterReset .inReset)

/-- PACKAGE_RESET_RELEASE (R17, R18): a Kindling starts, cold if hold-up status was lost. -/
def execPackageResetRelease (s : State) : Out :=
  .next (if s.power = .inReset then s.startKindling s.env.holdLost else s)

/-- KINDLING_TIMEOUT (R18): 45 s have passed without READY. -/
def execKindlingTimeout (s : State) : Out :=
  .next (if s.power = .kindling ∧ s.since + kindlingLimit ≤ s.cycle then s.failKindling 7 else s)

/-- MODULE_POWER_LOSS (R13): the device stops; the second tier's contents are lost and the next Kindling is cold. -/
def execModulePowerLoss (s : State) : Out :=
  let s := (s.enterReset .off).loseTier
  .next { s with env := { s.env with powered := false, holdLost := true } }

/-! ### Heat (R15, R16) -/

/-- A temperature sensor of a die holds a new reading (R26). -/
def State.sense (s : State) (die sensor : Nat) (reading : W16) : State :=
  if die < 8 ∧ sensor < 1024 then { s with temps := tset none s.temps (die * 1024 + sensor) (some reading) } else s

/-- The last junction sensor of a die, which reports a THERMAL_TRIP. -/
def tripSensor : Nat := 511

/-- The events of a trip reach the log before the package resets (R77). -/
def State.flushLog : Nat → State → State
  | 0, s => s
  | n + 1, s => if s.arb.held.isEmpty then s else State.flushLog n s.writeEvent

/-- Whether a reading of a die's sensor is a thermal trip: 110 degrees or more, where the package is not in reset (R16). -/
def State.trips (s : State) (die sensor : Nat) (reading : W16) : Bool :=
  decide (die < 8) && decide (sensor ≤ tripSensor) && decide (1760 ≤ reading.toInt) && s.power != .off && s.power != .inReset

/-- A thermal trip (R16): THERMAL, every context killed with cause 4, reset. DESIGN CHOICE (log entry 88): THERMAL has the die in RESULT
and the reading in INFO. -/
def State.trip (s : State) (die sensor : Nat) (reading : W16) : State :=
  let s := (s.sense die sensor reading).report evTHERMAL 0xFFFF 0 die 0 die reading.toNat 0
  let s := (s.ctxs.map (·.1)).foldl (fun s x => s.kill x 4 0 0) s
  let s := if s.arb.logOn then s.flushLog (s.arb.held.length + s.arb.waiting.length) else s
  s.enterReset .inReset

/-- A temperature sensor of a die reads anew (R26); a die's own sensor at 110 degrees is a thermal trip (R16). -/
def State.reads (s : State) (die sensor : Nat) (reading : W16) : State :=
  if s.trips die sensor reading then s.trip die sensor reading else s.sense die sensor reading

/-- BLOCK_OVERHEAT (R15): the block's sensor reads above 100 degrees; it lowers its own clock, which changes time only. At 110 degrees the
package trips (R16). -/
def execBlockOverheat (die : Nat) (b : BlockReading) (s : State) : Out :=
  .next (if s.trips die b.block b.reading then s.trip die b.block b.reading
    else if die < 8 ∧ b.block < tripSensor ∧ 1600 < b.reading.toInt ∧ !s.throttled.contains (die, b.block) then
      { (s.sense die b.block b.reading) with throttled := s.throttled ++ [(die, b.block)] }
    else s)

/-- BLOCK_COOLED (R15): the block's sensor reads below 97 degrees; it restores its clock. -/
def execBlockCooled (die : Nat) (b : BlockReading) (s : State) : Out :=
  .next (if b.reading.toInt < 1552 ∧ s.throttled.contains (die, b.block) then
      { (s.sense die b.block b.reading) with throttled := s.throttled.filter (fun e => e != (die, b.block)) }
    else s)

/-- THERMAL_TRIP (R16): a die sensor reads 110 degrees. -/
def execThermalTrip (die : Nat) (reading : W16) (s : State) : Out :=
  .next (if s.trips die tripSensor reading then s.trip die tripSensor reading else s)

/-! ### Retirement and errors (R21-R23, R43) -/

/-- CORE_RETIREMENT (R21-R23): the context of the logical core resident there is killed as for an uncorrectable memory error; one that has
stopped for a pre-emption goes on with what was recorded (R131). RETIRE is logged, and a spare takes the core's place if there is one.
DESIGN CHOICE (log entry 88): of an event's two values, here the die and the core, the first stands in RESULT and the second in INFO. -/
def execCoreRetirement (die core : Nat) (s : State) : Out :=
  let n := die * Config.coresPhys + core
  if 8 ≤ die ∨ Config.coresPhys ≤ core ∨ s.retired.contains n ∨ s.power ≠ .ready then .next s
  else
    let b := tget 0 s.busy n
    let s := if b = 0 then s else if s.stoppedLc (b - 1) then s.detach (b - 1) else s.memErr (.engine (b - 1) 0) 0 opMEMERR
    let s := { s with retired := sins n s.retired }.report evRETIRE 0xFFFF 0 die 0 die core 0
    .next (s.replaced (fun s => { s with sparesBit := s.sparesBit || s.noSpare die }))

/-- HBM_REPAIR_ROWS_EXHAUSTED (R23). -/
def execHbmRepairRowsExhausted (_die _stack : Nat) (s : State) : Out := .next (s.replaced (fun s => { s with hbmBit := true }))

/-! ### Ablum links (R53) -/

/-- The link that carries traffic to a host address: the one of its bits [7:6]; the shares of links that are down go to the others in
ascending order, in turn. None where no link is up. Which link carries an access changes time only. -/
def State.ablumFor (s : State) (a : Nat) : Option Nat :=
  let i := bitsOf a 7 6
  let up := (List.range 4).filter (fun k => s.ablum.getD k 0 != 0)
  let down := (List.range 4).filter (fun k => s.ablum.getD k 0 == 0)
  if up.contains i then some i else up[(down.filter (fun k => decide (k < i))).length % up.length]?

/-- A link's lanes change: its traffic moves, which changes time only, and LINK is logged, the link in RESULT and the lanes in INFO
(DESIGN CHOICE, log entry 88). -/
def State.linkLanes (s : State) (link lanes : Nat) : State :=
  if link < 4 ∧ s.ablum.getD link 0 ≠ lanes then
    { s with ablum := lmod (fun _ => lanes) s.ablum link }.report evLINK 0xFFFF 0 srcPackage 0 link lanes 0
  else s

/-- ABLUM_LINK_FAILURE: a link fails or retrains. -/
def execAblumLinkFailure (link : Nat) (s : State) : Out := .next (s.linkLanes link 0)

/-- ABLUM_LINK_RETRAINED: a link comes up with its lanes. -/
def execAblumLinkRetrained (link lanes : Nat) (s : State) : Out := .next (s.linkLanes link (min lanes 16))

/-! ### The management window (R26) -/

/-- MGMT_REGISTER_WRITE: ignored. -/
def execMgmtRegisterWrite (_off : Nat) (_bytes : List Byte) (s : State) : Out := .next s

end Sys2Proof.Machine
end

