-- ==== Sys2Proof/Machine/Rs.lean ====
section
/-! DEFINITION. Flits as bytes (R31, R32, R46), CRC-32C, and the Reed-Solomon parity of R45 over GF(2^8) with 0x11D. -/

namespace Sys2Proof.Machine

/-! ### Checks -/

/-- One bit of a reflected CRC with polynomial `p`. -/
def crcBit (p c : Nat) : Nat := if c % 2 = 1 then (c / 2) ^^^ p else c / 2
/-- A byte into a reflected CRC. -/
def crcByte (p c : Nat) (b : Byte) : Nat := (List.range 8).foldl (fun c _ => crcBit p c) (c ^^^ b.toNat)
/-- CRC-32C (Castagnoli): reflected polynomial 0x82F63B78, initial value and final inversion all ones. -/
def crc32c (bs : List Byte) : Nat := bs.foldl (crcByte 0x82F63B78) 0xFFFFFFFF ^^^ 0xFFFFFFFF
/-- CRC-8 with polynomial 0x07 (R46). DESIGN CHOICE (log entry 97): the most significant bit first, from an initial value of 0 and without a
final inversion, of none of which the spec says anything. -/
def crc8 (bs : List Byte) : Nat :=
  bs.foldl (fun c b => (List.range 8).foldl (fun c _ => if 128 ≤ c then (2 * c % 256) ^^^ 7 else 2 * c) (c ^^^ b.toNat)) 0

/-! ### Flits as bytes -/

/-- The header of R32. -/
def flitHeader (f : Flit) : Nat :=
  f.typ * 2 ^ 124 + f.tc % 4 * 2 ^ 122 + (if f.ord then 2 ^ 121 else 0) + (if f.ref then 2 ^ 120 else 0) + (if f.pass then 2 ^ 119 else 0)
    + f.len % 128 * 2 ^ 112 + f.op % 16 * 2 ^ 108 + f.rcnt % 16 * 2 ^ 104 + f.rsv % 4 * 2 ^ 102 + f.src % 2 ^ 14 * 2 ^ 88
    + f.tag % 4096 * 2 ^ 76 + (if f.fv then 2 ^ 75 else 0) + f.flag % 2 ^ 23 * 2 ^ 52 + f.addr % 2 ^ 52

/-- A flit from its header and payload; what is no header field is taken from the flit sent. -/
def flitOf (bs : List Byte) (sent : Flit) : Flit :=
  let h := fld bs 0 16
  let typ := bitsOf h 127 124
  let len := bitsOf h 118 112
  { typ := typ, tc := bitsOf h 123 122, ord := bitOf h 121, ref := bitOf h 120, pass := bitOf h 119, len := len, op := bitsOf h 111 108,
    rcnt := bitsOf h 107 104, rsv := bitsOf h 103 102, src := bitsOf h 101 88, tag := bitsOf h 87 76, fv := bitOf h 75,
    flag := bitsOf h 74 52, addr := bitsOf h 51 0,
    payload := if typ = 2 ∨ typ = 3 then [] else slice bs 16 (len + 1), note := sent.note }

/-- Bytes 0-147 and 152-159 of a flit with its CRC: 160 bytes (R31). -/
def flitBytes (f : Flit) (seq : Nat) (ack : List Byte) : List Byte :=
  let pay := f.payload.take 128 ++ List.replicate (128 - (f.payload.take 128).length) 0
  let body := leBytes 16 (flitHeader f) ++ pay ++ leBytes 4 seq
  body ++ leBytes 4 (crc32c (body ++ ack)) ++ ack

/-- Whether the 152 bytes of a flit and its acknowledgement field agree with its CRC. -/
def crcOk (bs ack : List Byte) : Bool := fld bs 148 4 == crc32c (bs.take 148 ++ ack)

/-- Bytes with the errors given, each a position and what is added to the byte there. -/
def damage (bs : List Byte) (errs : List (Nat × Byte)) : List Byte := errs.foldl (fun bs e => lmod (fun b => b ^^^ e.2) bs e.1) bs

/-! ### GF(2^8) (R45) -/

/-- Doubling. -/
def gfTwo (a : Nat) : Nat := if 128 ≤ a then (2 * a) ^^^ 0x11D else 2 * a
/-- The product. -/
def gfMul (a b : Nat) : Nat := (List.range 8).foldr (fun i r => gfTwo r ^^^ (if bitOf b i then a else 0)) 0
/-- A power of alpha = 2. -/
def gfAlpha (n : Nat) : Nat := (List.range (n % 255)).foldl (fun a _ => gfTwo a) 1
/-- The inverse: the power 254. -/
def gfInv (a : Nat) : Nat := (List.range 253).foldl (fun r _ => gfMul r a) a
/-- The value of a polynomial, lowest coefficient first, at `x`. -/
def gfEval (x : Nat) (p : List Nat) : Nat := p.foldr (fun c r => gfMul r x ^^^ c) 0
/-- The sum of two polynomials. -/
def gfAdd : List Nat → List Nat → List Nat
  | [], q => q
  | p, [] => p
  | a :: p, b :: q => (a ^^^ b) :: gfAdd p q

/-- Parity symbols P_i of a flit's 152 bytes for `n` indices from `lo` on. -/
def parity (bs : List Byte) (lo n : Nat) : List Byte :=
  (List.range n).map (fun i => BitVec.ofNat 8 (gfEval (gfAlpha (lo + i)) ((bs.take 152).map (·.toNat))))

/-- State of the search for the locator: the locator, the one before its last change, its length, the shift and the old
discrepancy. -/
structure Locator where
  c : List Nat
  b : List Nat
  len : Nat
  m : Nat
  d : Nat
  deriving DecidableEq, Repr

/-- One syndrome more: discrepancy and change of the locator. -/
def Locator.next (s : Locator) (syn : List Nat) (n : Nat) : Locator :=
  let d := (List.range (s.len + 1)).foldl (fun t i => t ^^^ gfMul (s.c.getD i 0) (syn.getD (n - i) 0)) 0
  if d = 0 then { s with m := s.m + 1 }
  else
    let q := gfMul d (gfInv s.d)
    let c := gfAdd s.c (List.replicate s.m 0 ++ s.b.map (gfMul q))
    if 2 * s.len ≤ n then { c := c, b := s.c, len := n + 1 - s.len, m := 1, d := d } else { s with c := c, m := s.m + 1 }

/-- The error locator of the syndromes. -/
def locator (syn : List Nat) : Locator :=
  (List.range syn.length).foldl (fun s n => s.next syn n) { c := [1], b := [1], len := 0, m := 1, d := 1 }

/-- Decoding: the bytes with the errors that the parity symbols locate taken out; none where they locate none that fit. -/
def rsDecode (bs par : List Byte) : Option (List Byte) :=
  let syn := List.zipWith (fun (a b : Byte) => (a ^^^ b).toNat) (parity bs 0 par.length) par
  let s := locator syn
  let at' := (List.range 152).filter (fun k => gfEval (gfAlpha (255 - k)) s.c == 0)
  if syn.length < 2 * s.len ∨ at'.length ≠ s.len then none
  else
    let conv := (List.range syn.length).map (fun n => (List.range (n + 1)).foldl (fun t i => t ^^^ gfMul (s.c.getD i 0) (syn.getD (n - i) 0)) 0)
    let deriv := (List.range s.c.length).map (fun i => if i % 2 = 0 then s.c.getD (i + 1) 0 else 0)
    some (damage bs (at'.map (fun k =>
      let y := gfAlpha (255 - k)
      (k, BitVec.ofNat 8 (gfMul (gfAlpha k) (gfMul (gfEval y conv) (gfInv (gfEval y deriv))))))))

end Sys2Proof.Machine
end

