-- ==== Sys2Proof/Machine/Link.lean ====
section
/-! DEFINITION. Links and their recovery (R30, R31, R34-R36, R45-R47): flits on the links of the package, damaged flits, NAKs, parity
and resends, retraining, segment failure. -/

namespace Sys2Proof.Machine

/-! ### Links -/

/-- The link of the opposite direction of the same segment. -/
def oppLink (l : Nat) : Nat :=
  if l < 8 then 8 + (l + 1) % 8
  else if l < 16 then (l - 8 + 7) % 8
  else if l < 24 then (if l % 2 = 0 then l + 1 else l - 1)
  else
    let j := l % 4
    if l < 28 then 44 + j
    else if l < 32 then 40 + j
    else if l < 36 then 52 + j
    else if l < 40 then 48 + j
    else if l < 44 then 28 + j
    else if l < 48 then 24 + j
    else if l < 52 then 36 + j
    else 32 + j

/-- Links of the package's view. -/
def linkCount : Nat := 56

/-- The node of this package that reports for a link: the sender's, or the receiver's of a link from another package. -/
def linkNode (l : Nat) : Node := (linkSource l).getD (.station (l % 4))

/-- Package at a distance of one on the rack ring (`hall` false) or the hall ring of station `j`, up or down (R28). -/
def State.nextPkg (s : State) (j : Nat) (hall up : Bool) : Nat :=
  let p := s.env.pkgNo
  if hall then (rackOf p + (if up then 1 else 31)) % 32 * 48 + s.env.gatePos.getD j 0
  else rackOf p * 48 + (rackPos p + (if up then 1 else 47)) % 48

/-- FID of the die at the far end of a link (R495). -/
def State.farFid (s : State) (l : Nat) : Nat :=
  let j := l % 4
  if l < 24 then match linkTo l with
    | some (.die d) => s.fid d
    | some (.station i) => s.fid (stationDie i)
    | none => 0
  else
    let hall := (decide (32 ≤ l) && decide (l < 40)) || decide (48 ≤ l)
    let up := (decide (24 ≤ l) && decide (l < 28)) || (decide (32 ≤ l) && decide (l < 36)) || (decide (44 ≤ l) && decide (l < 48)) || decide (52 ≤ l)
    s.nextPkg j hall up * 8 + stationDie j

/-- The acknowledgement and credit field that travels with a link's flits, for the opposite direction (R46). -/
def State.ackField (s : State) (l : Nat) : List Byte :=
  let o := oppLink l
  let k := s.linkAt o
  let r := s.recov.find? (fun r => r.link == o && r.naked)
  let body := k.store % 32 * 2 ^ 8 + ((r.map (·.kind)).getD 0) * 2 ^ 13 + ((r.map (·.seq)).getD 0 % 2 ^ 24) * 2 ^ 16 + k.ackSeq % 2 ^ 24 * 2 ^ 40
  leBytes 1 (crc8 (leBytes 8 body).reverse.dropLast) ++ (leBytes 8 body).drop 1

/-- Replay entries up to the ACKSEQ last received are free (R46). -/
def Link.prune (k : Link) : Link :=
  { k with replay := k.replay.filter (fun e => !(decide ((k.acked + 2 ^ 24 - e.1 % 2 ^ 24) % 2 ^ 24 < 2 ^ 23))) }

/-- Flits of a sender's replay buffer (R45). -/
def replaySize : Nat := 256

/-- Whether a node may put a flit on a link: it carries traffic and its replay buffer has room (R30, R45). -/
def State.linkRoom (s : State) (l : Nat) : Bool := s.linkUp l && decide ((s.linkAt l).prune.replay.length < replaySize)

/-- Puts a flit on link `l`: its sender keeps it for replay; one that leaves the package is gone from here. -/
def State.send (s : State) (l : Nat) (inj : Node) (r : Ring) (cw : Bool) (f : Flit) : State :=
  let k := (s.linkAt l).prune
  let seq := k.txSeq
  let ack := s.ackField l
  let s := s.modLink l (fun _ => { k with txSeq := (seq + 1) % 2 ^ 32, replay := k.replay ++ [(seq, f, ack)] })
  if (linkTo l).isNone then { s with outside := s.outside ++ [(l, f)] }
  else
    { s with wires := s.wires ++ [{ link := l, seq := seq, ack := ack, inj := inj, ring := r, cw := cw, flit := f }] }

/-- A flit goes on round its ring from a node: along its direction, or the other way where that is cut and the other open to the end
(R30); with both cut or full it waits there, with the priority of a recovered flit, which the spec does not state (log entry 72). -/
def State.passOn (s : State) (n : Node) (r : Ring) (cw : Bool) (inj : Node) (f : Flit) : State :=
  let l := s.portFor n r cw inj f
  if s.linkRoom l then s.send l inj r (if l = linkFrom n r cw then cw else !cw) f
  else
    { s with waitq := s.waitq ++ [{ node := n, ring := r, cw := cw, flit := f, inj := inj, since := s.cycle, recovered := true, refused := false, due := 0 }] }

/-- Whether a waiting flit finds its ring cut in both directions (R30). -/
def State.shut (s : State) (w : Waiting) : Bool := !s.linkUp (s.portFor w.node w.ring w.cw w.inj w.flit)

/-- Changes a link; of a flit that finds no way from then on, the time of R30 begins. -/
def State.cutLink (s : State) (l : Nat) (f : Link → Link) : State :=
  let t := s.modLink l f
  { t with waitq := t.waitq.map (fun w => if t.shut w && !s.shut w then { w with since := s.cycle } else w) }

/-! ### A flit arrives at a node -/

/-- Whether a node put a flit on the ring it returns on: of a ring that other packages share, known from the flit's source (R35). -/
def State.returned (s : State) (n inj : Node) (r : Ring) (f : Flit) : Bool :=
  match n, r with
  | .station _, .rack j => f.src / 8 == s.env.pkgNo || (rackOf (f.src / 8) != rackOf s.env.pkgNo && s.isGateway j)
  | .station _, .hall _ => rackOf (f.src / 8) == rackOf s.env.pkgNo
  | _, _ => n == inj

/-- Revolution time D of a ring in cycles (R36). -/
def ringTime : Ring → Nat
  | .bridge _ => 12
  | .package => 64
  | .rack _ => 3000
  | .hall _ => 6000

/-- The request of a killed context that a flit at its own die carries, or a segment of one (R51). -/
def State.deadFlit (s : State) (n : Node) (f : Flit) : Bool :=
  if f.typ = 7 then
    let x := slotOf (f.note % 2 ^ 24)
    !(s.ctx x).used || s.ctxid x != bitsOf f.note 47 24
  else (f.typ == 1 || f.typ == 3 || f.typ == 5) && f.src / 8 == s.env.pkgNo && n == .die (f.src % 8)
    && s.txns.any (fun t => t.die == f.src % 8 && t.tag == f.tag && t.slot == deadSlot)

/-- A flit of a killed context is discarded, and its tag is free again (R51). -/
def State.dropDead (s : State) (f : Flit) : State :=
  if f.typ = 7 then s
  else { s with txns := s.txns.filter (fun t => !(t.die == f.src % 8 && t.tag == f.tag && t.slot == deadSlot)) }

/-- A refused flit comes back to the node that put it on the ring: it is taken off and retried after the delay of R36; one of a killed
context is discarded (R51). -/
def State.takeBack (s : State) (n : Node) (r : Ring) (cw : Bool) (f : Flit) : State :=
  if s.deadFlit n f then s.dropDead f else
  let w : Waiting :=
    { node := n, ring := r, cw := cw, flit := { f with ref := false }, inj := n, since := s.cycle, recovered := false, refused := true,
      due := s.cycle + ringTime r * 2 ^ min (f.rcnt - 1) 4 }
  { s with waitq := s.waitq ++ [w] }

/-- Whether a flit carries a reserved TYPE or a nonzero reserved field (R33). -/
def flitBad (f : Flit) : Bool := decide (10 ≤ f.typ) || f.rsv != 0

/-- An accepted flit at a node of its ring: taken back, discarded, at its exit node, or passed on; `again` where it was recovered
here, so that it goes back on the ring with priority, a refused one with the priority of its class (R33-R35, R47). -/
def State.arrive (s : State) (l : Nat) (n inj : Node) (r : Ring) (cw : Bool) (f : Flit) (again : Bool) : State :=
  if f.typ = 0 then s
  else if flitBad f then
    (s.fabricEvent n fkDISCARD (portOf (oppLink l)) (if f.ref then f.src else flitTarget f) 0).cutLink l (fun k => { k with retrain := true })
  else if f.ref then
    (if s.returned n inj r f then s.takeBack n r cw f
     else if again then
       { s with waitq := s.waitq ++ [{ node := n, ring := r, cw := cw, flit := f, inj := inj, since := s.cycle, recovered := false, refused := false, due := 0 }] }
     else s.passOn n r cw inj f)
  else if s.isExit n r f then { s with exits := s.exits ++ [{ node := n, inj := inj, ring := r, cw := cw, flit := f }] }
  else if again then
    { s with waitq := s.waitq ++ [{ node := n, ring := r, cw := cw, flit := f, inj := inj, since := s.cycle, recovered := true, refused := false, due := 0 }] }
  else s.passOn n r cw inj f

/-- The receiver of a link has accepted everything before its oldest damaged flit, or all that has arrived (R46 ACKSEQ). -/
def State.settleAck (s : State) (l : Nat) : State :=
  let next := match s.recov.find? (fun r => r.link == l), s.wires.find? (fun w => w.link == l) with
    | some r, _ => r.seq
    | none, some w => w.seq
    | none, none => (s.linkAt l).txSeq
  s.modLink l (fun k => { k with ackSeq := (next + 2 ^ 32 - 1) % 2 ^ 32 })

/-- A damaged flit is taken off the ring and kept where the store has room (R45, R46): NAK kind 1, or kind 3 with no room. `field` and
`sent` are its acknowledgement field as received and as sent. -/
def State.keepDamaged (s : State) (w : OnWire) (bs field sent : List Byte) : State :=
  match s.recov.findIdx? (fun r => r.link == w.link && r.seq == w.seq) with
  | some i =>
    match s.recov[i]? with
    | none => s
    | some r =>
      if r.fails + 1 < 8 then
        let new := r.bytes.isEmpty && decide (0 < (s.linkAt w.link).store)
        let kept := new || !r.bytes.isEmpty
        let r' := { r with bytes := if kept then bs else [], par := [], kind := if kept then 1 else 3, naked := true,
                           parSent := false, fails := r.fails + 1, field := field, sentField := sent }
        { (if new then s.modLink w.link (fun k => { k with store := k.store - 1 }) else s) with recov := lmod (fun _ => r') s.recov i }
      else
        let s := { s with recov := ldel s.recov i }.cutLink w.link (fun k =>
          { k with retrain := true, store := if r.bytes.isEmpty then k.store else k.store + 1, replay := k.replay.filter (fun e => e.1 != w.seq) })
        match linkSource w.link with
        | some n => s.passOn n w.ring w.cw w.inj w.flit
        | none => s
  | none =>
    let room := decide (0 < (s.linkAt w.link).store)
    let r : Recovery :=
      { link := w.link, seq := w.seq, inj := w.inj, ring := w.ring, cw := w.cw, sent := w.flit, bytes := if room then bs else [], par := [],
        kind := if room then 1 else 3, naked := true, parSent := false, repeatAt := none, fails := 0, field := field, sentField := sent }
    { (if room then s.modLink w.link (fun k => { k with store := k.store - 1 }) else s) with recov := s.recov ++ [r] }

/-- A damaged flit is recovered: its store entry is free. -/
def State.endRecovery (s : State) (l seq : Nat) : State :=
  match s.recov.find? (fun r => r.link == l && r.seq == seq) with
  | none => s
  | some r =>
    { (if r.bytes.isEmpty then s else s.modLink l (fun k => { k with store := k.store + 1 })) with
      recov := s.recov.filter (fun r => !(r.link == l && r.seq == seq)) }

/-- The node at the receiving end of a link. -/
def linkEnd (l : Nat) : Node := (linkTo l).getD (.station (l % 4))

/-- The parity symbols that answer NAK kind 1 or 2 for a flit as it was sent (R45). -/
def paritySyms (f : Flit) (seq kind : Nat) (ack : List Byte) : List Byte :=
  parity (flitBytes f seq ack) (if kind = 1 then 0 else 16) 16

/-- The PAR flit that answers a NAK: 16 symbols and the SEQ of the damaged flit (R45). -/
def State.parFor (s : State) (l : Nat) (f : Flit) (seq kind : Nat) (ack : List Byte) : Flit :=
  { zeroFlit with typ := 8, len := 19, addr := s.farFid l, payload := paritySyms f seq kind ack ++ leBytes 4 seq }

/-- A full resend of a flit from the replay buffer of a link that leaves the package, with the acknowledgement field of now (R45). -/
def State.resend (s : State) (l seq : Nat) (f : Flit) : State :=
  let ack := s.ackField l
  let s := s.modLink l (fun k => { k with replay := k.replay.map (fun e => if e.1 = seq then (seq, f, ack) else e) })
  { s with outside := s.outside ++ [(l, f)] }

/-- The acknowledgement and credit field that came on link `l` reaches the sender of the opposite direction (R46): one that fails CHK
is ignored; ACKSEQ frees replay entries; a NAK of another package is answered from the replay buffer. (A NAK of this package is
answered at NAK_RECEIVED.) -/
def State.takeField (s : State) (l : Nat) (field : List Byte) : State :=
  if crc8 (field.drop 1).reverse ≠ fld field 0 1 then s
  else
    let o := oppLink l
    let x := leNat field
    let s := s.modLink o (fun k => { k with acked := bitsOf x 63 40, peer := bitsOf x 12 8 }.prune)
    let kind := bitsOf x 15 13
    if (linkTo o).isSome then s
    else match (s.linkAt o).replay.find? (fun e => e.1 % 2 ^ 24 == bitsOf x 39 16) with
      | none => s
      | some (seq, f, ack) =>
        if kind = 1 ∨ kind = 2 then { s with outside := s.outside ++ [(o, s.parFor o f seq kind ack)] }
        else if kind = 3 then s.resend o seq f
        else s

/-- A flit received on a link with the byte errors given (R45, R46). -/
def State.receive (s : State) (w : OnWire) (errs : List (Nat × Byte)) : State :=
  let bs := damage (flitBytes w.flit w.seq w.ack) errs
  let field := bs.drop 152
  let s := s.takeField w.link field
  if errs.isEmpty || crcOk (bs.take 152) field then
    let again := s.recov.any (fun r => r.link == w.link && r.seq == w.seq)
    let s := (s.endRecovery w.link w.seq).settleAck w.link
    s.arrive w.link (linkEnd w.link) w.inj w.ring w.cw (if errs.isEmpty then w.flit else flitOf (bs.take 152) w.flit) again
  else s.keepDamaged w (bs.take 152) field w.ack

/-- An empty slot that follows what link `l` carries brings its acknowledgement and credit field (R31, R46). -/
def State.emptySlot (s : State) (l : Nat) : State :=
  if 24 ≤ l ∨ !s.linkUp l ∨ s.wires.any (fun w => w.link == l) then s else s.takeField l (s.ackField l)

/-- LINK_FLIT_RECEIVE (R45, R46): the flits of a link arrive in the order sent; an index past them is an empty slot of the link that it
exceeds their number by; one from another package takes the next SEQ of its link, an empty slot none. -/
def execLinkFlitReceive (w : WireSrc) (errs : List (Nat × Byte)) (s : State) : Out :=
  match w with
  | .wire i =>
    match s.wires[i]? with
    | none => .next (s.emptySlot (i - s.wires.length))
    | some e =>
      if (s.wires.take i).any (fun x => x.link == e.link) then .next s
      else .next ({ s with wires := ldel s.wires i }.receive e errs)
  | .outside l f ack =>
    if l < 40 ∨ linkCount ≤ l ∨ s.power ≠ .ready ∨ !s.linkUp l then .next s
    else
      let seq := (s.linkAt l).txSeq
      let s := if f.typ = 0 then s else s.modLink l (fun k => { k with txSeq := (k.txSeq + 1) % 2 ^ 32 })
      let (r, cw) := inboundRing l
      .next (s.receive { link := l, seq := seq, ack := leBytes 8 ack, inj := .station (l % 4), ring := r, cw := cw, flit := f } errs)

/-! ### Recovery (R45) -/

/-- Changes recovery `i`. -/
def State.modRecov (s : State) (i : Nat) (f : Recovery → Recovery) : State := { s with recov := lmod f s.recov i }

/-- NAK_RECEIVED: the sender answers kinds 1 and 2 with a PAR flit, kind 3 with a full resend from its replay buffer. -/
def execNakReceived (i : Nat) (s : State) : Out :=
  match s.recov[i]? with
  | none => .next s
  | some r =>
    if !r.naked then .next s
    else if r.kind < 3 then .next (s.modRecov i (fun r => { r with naked := false, parSent := true }))
    else
      .next { (s.modRecov i (fun r => { r with naked := false, par := [] })) with
              wires := s.wires ++ [{ link := r.link, seq := r.seq, ack := s.ackField r.link, inj := r.inj, ring := r.ring, cw := r.cw, flit := r.sent }] }

/-- The PAR flit that answers the NAK of a recovery: its parity is that of the bytes as sent (R45). -/
def State.parFlit (s : State) (r : Recovery) : Flit := s.parFor r.link r.sent r.seq r.kind r.sentField

/-- PAR: the parity arrives, with the acknowledgement field of its slot. A damaged PAR flit is discarded, its NAK repeated after 64 cycles;
otherwise the stored copy is decoded with the symbols held, and accepted if its CRC passes; if not, the next NAK is sent. DESIGN CHOICE
(log entry 87): a PAR flit carries the SEQ that its link's next flit will bear without using it up, and takes no replay entry. -/
def execPar (i : Nat) (errs : List (Nat × Byte)) (s : State) : Out :=
  match s.recov[i]? with
  | none => .next s
  | some r =>
    if !r.parSent then .next s
    else
      let ack := s.ackField r.link
      let f := s.parFlit r
      let bs := damage (flitBytes f (s.linkAt r.link).txSeq ack) errs
      let s := s.takeField r.link (bs.drop 152)
      if !(errs.isEmpty || crcOk (bs.take 152) (bs.drop 152)) then
        .next (s.modRecov i (fun r => { r with parSent := false, repeatAt := some (s.cycle + 64) }))
      else
        let par := r.par ++ slice bs 16 16
        let fixed := rsDecode r.bytes par
        match (match fixed with
          | some b => if crcOk b r.field then some b else none
          | none => none) with
        | some b =>
          let f := flitOf b r.sent
          let s := (s.endRecovery r.link r.seq).settleAck r.link
          .next (s.arrive r.link (linkEnd r.link) r.inj r.ring r.cw f true)
        | none => .next (s.modRecov i (fun r => { r with par := par, kind := r.kind + 1, naked := true, parSent := false }))

/-- NAK_REPEAT_TIMEOUT: 64 cycles after a damaged PAR flit was discarded the receiver repeats its NAK. -/
def execNakRepeatTimeout (i : Nat) (s : State) : Out :=
  match s.recov[i]? with
  | none => .next s
  | some r =>
    match r.repeatAt with
    | some c => .next (if c ≤ s.cycle then s.modRecov i (fun r => { r with naked := true, repeatAt := none }) else s)
    | none => .next s

/-! ### Failure and retraining (R30, R45) -/

/-- What a link of a cut segment still holds goes the other way from its sender: flits sent and not accepted (R30). -/
def State.drainLink (s : State) (l : Nat) : State :=
  let fs := (s.recov.filter (fun r => r.link == l)).map (fun r => (r.ring, r.cw, r.inj, r.sent))
    ++ (s.wires.filter (fun w => w.link == l && !s.recov.any (fun r => r.link == l && r.seq == w.seq))).map (fun w => (w.ring, w.cw, w.inj, w.flit))
  let kept := (s.recov.filter (fun r => r.link == l && !r.bytes.isEmpty)).length
  let s := { s with recov := s.recov.filter (fun r => r.link != l), wires := s.wires.filter (fun w => w.link != l) }
  let s := s.modLink l (fun k => { k with replay := [], store := k.store + kept })
  match linkSource l with
  | some n => fs.foldl (fun s e => s.passOn n e.1 e.2.1 e.2.2.1 e.2.2.2) s
  | none => s

/-- SEGMENT_FAILURE (R30): both directions of a segment are cut. -/
def execSegmentFailure (link : Nat) (s : State) : Out :=
  if linkCount ≤ link then .next s
  else
    let s := (s.cutLink link (fun k => { k with down := true })).cutLink (oppLink link) (fun k => { k with down := true })
    .next ((s.drainLink link).drainLink (oppLink link))

/-- LINK_RETRAIN_DONE (R45, R495): the segment carries traffic again; the retraining is reported with its lanes, and the loss of
lanes besides, which sets RPLC.LANES (R23); a hall port of a station in rack role is not connected (R28). How many lanes a port has is not stated: a free value. -/
def execLinkRetrainDone (link : Nat) (fewer : Bool) (s : State) : Out :=
  if linkCount ≤ link ∨ s.linkUp link ∨ (hallLink link ∧ !s.gatewayRole (link % 4)) then .next s
  else
    let up := fun (k : Link) => { k with down := false, retrain := false, lanesLow := k.lanesLow || fewer }
    let (n, s) := s.tick
    let lanes := (Config.freeWord n).toNat % 2 ^ 16
    let s := ((s.modLink link up).modLink (oppLink link) up).stillStuck
    let ev := fun (s : State) (kind : Nat) => s.fabricEvent (linkNode link) kind (portOf link) (s.farFid link) lanes
    let s := ev s fkRETRAIN
    .next (if fewer then (ev s fkLANES).replaced (fun s => { s with lanesBit := true }) else s)

end Sys2Proof.Machine
end

