-- ==== Sys2Proof/Machine/Fabric.lean ====
section
/-! DEFINITION. The fabric's nodes (R34-R36, R494) and remote operations at their targets and requesters (R38-R43, R50, R51). -/

namespace Sys2Proof.Machine

/-! ### Injection (R34, R41, R42) -/

/-- Whether a transaction is an RST, whose order ORD asks for, or one that holds back its block (R41, R42). -/
def Txn.holdsBlock (t : Txn) : Bool := t.typ == 1 || t.typ == 5

/-- Whether a strand's remote operation comes after a pending access of the strand to a unit of its own (R237, R239). -/
def State.afterOwn (s : State) (t : Txn) : Bool :=
  let has := fun (k : Nat) => (s.strand k).acc.any (fun a => decide (a.num < t.num) && a.op.atMem && unitsMeet a.pa a.size t.addr t.len)
  match t.purpose with
  | .rst k _ => has k
  | .rld k _ => has k
  | .rat k _ => has k
  | .access _ _ => false
  | .bte _ _ _ => false
  | .out _ => false

/-- Whether a request may be injected: with ORD, every earlier ORD RST of its agent is acknowledged; none of its agent's earlier RSTs
and RATs to the block is outstanding (R41, R42); a strand's own earlier accesses to its units are performed (R237). -/
def State.mayInject (s : State) (t : Txn) : Bool :=
  let earlier := (s.txns.takeWhile (fun u => !(u.die == t.die && u.tag == t.tag))).filter (fun u => s.txnAgent u == s.txnAgent t)
  !s.afterOwn t && earlier.all (fun u => !(t.typ == 1 && t.ord && u.typ == 1 && u.ord) && !(u.holdsBlock && u.addr / 128 == t.addr / 128))

/-- The transaction of a request flit of this package that has not been injected yet. -/
def State.txnOf (s : State) (f : Flit) : Option Txn :=
  if (f.typ = 1 ∨ f.typ = 3 ∨ f.typ = 5) ∧ f.src / 8 = s.env.pkgNo then
    s.txns.find? (fun t => t.die == f.src % 8 && t.tag == f.tag && !t.injected)
  else none

/-- The transaction has left for the fabric, or is performed at its own die. -/
def State.injected (s : State) (f : Flit) : State :=
  match s.txnOf f with
  | none => s
  | some t => { s with txns := s.txns.map (fun u => if u.die == t.die && u.tag == t.tag then { u with injected := true } else u) }

/-- The port by which a waiting flit leaves its node, as its outgoing link (R30). -/
def State.portKey (s : State) (w : Waiting) : Nat := s.portFor w.node w.ring w.cw w.inj w.flit

/-- Whether a waiting flit could go now. -/
def State.canGo (s : State) (w : Waiting) : Bool :=
  !w.refused && s.pkgPresent (flitTarget w.flit / 8) && (match s.txnOf w.flit with
    | some t => s.mayInject t
    | none => true)
    && s.linkRoom (s.portKey w)

/-- Whether a port lies on the way of a flit on a ring from the node that put it there: on the package ring any port up to the exit node's,
of a flit that goes round again every one; elsewhere its own node's. -/
def State.passesPort (s : State) (port : Nat) (inj : Node) (r : Ring) (cw : Bool) (f : Flit) : Bool :=
  match r, inj with
  | .package, .die a =>
    let t := flitTarget f
    let b := if t / 8 = s.env.pkgNo then t % 8 else stationDie (t % 8 / 2)
    let round := f.pass || f.ref
    if cw then decide (port < 8) && (round || decide ((port + 8 - a) % 8 < (b + 8 - a) % 8))
    else decide (8 ≤ port) && decide (port < 16) && (round || decide ((a + 16 - port) % 8 < (a + 8 - b) % 8))
  | _, _ => linkFrom inj r cw == port

/-- Bandwidth weights of the segments in flight through a port (R34, R476): a segment carries the weight of its collective. -/
def State.flightWeights (s : State) (port : Nat) : List Nat :=
  let on := fun (inj : Node) (r : Ring) (cw : Bool) (f : Flit) => if f.typ = 7 ∧ s.passesPort port inj r cw f then [f.note / 2 ^ 80 % 16] else []
  s.waitq.flatMap (fun w => if s.portKey w = port ∧ w.flit.typ = 7 then [w.flit.note / 2 ^ 80 % 16] else on w.inj w.ring w.cw w.flit)
    ++ s.wires.flatMap (fun w => on w.inj w.ring w.cw w.flit) ++ s.recov.flatMap (fun e => on e.inj e.ring e.cw e.sent)
    ++ s.exits.flatMap (fun e => on e.inj e.ring e.cw e.flit)

/-- Slots that a class may use in a round on a port: the weights of R34, with the largest bandwidth weight of the collectives whose
segments are in flight through it in place of W_2. -/
def State.weight (s : State) (port c : Nat) : Nat :=
  match c with
  | 0 => 4
  | 1 => 6
  | 2 =>
    let top := (s.flightWeights port).foldl max 0
    if top = 0 then 5 else top
  | _ => 1

/-- Slots that each class has used in a port's present round. -/
def State.used (s : State) (port c : Nat) : Nat := (tget [] s.wrr port).getD c 0

/-- Whether a flit's class is next on its port: recovered flits first; then a class with slots left in the round, or any class once
none that waits has slots left. The answer is also the port's count after the injection. -/
def State.arbitrate (s : State) (w : Waiting) : Option (List Nat) :=
  let p := s.portKey w
  let mates := s.waitq.filter (fun v => s.portKey v == p && s.canGo v)
  let c := w.flit.tc % 4
  let cur := (List.range 4).map (s.used p)
  let left := fun (k : Nat) => decide (s.used p k < s.weight p k)
  if w.recovered then some cur
  else if mates.any (·.recovered) then none
  else if left c then some (lmod (· + 1) cur c)
  else if mates.any (fun v => left (v.flit.tc % 4)) then none
  else if s.weight p c = 0 then (if mates.any (fun v => s.weight p (v.flit.tc % 4) != 0) then none else some cur)
  else some (lmod (· + 1) [0, 0, 0, 0] c)

/-- Engine stores to other packages that wait for tags are sent, as far as tags are free (R32, R177). -/
def State.sendAllHeld (s : State) : State := (List.range 8).foldl (fun s d => State.sendHeld d s.outq s) s

/-- FLIT_INJECT (R34): a waiting flit enters a slot of its ring. With no such flit, engine stores that wait for a tag are sent. -/
def execFlitInject (i : Nat) (s : State) : Out :=
  match s.waitq[i]? with
  | none => .next s.sendAllHeld
  | some w =>
    if !s.canGo w then .next s
    else match s.arbitrate w with
      | none => .next s
      | some round =>
        let s := { s with waitq := ldel s.waitq i, wrr := tset [] s.wrr (s.portKey w) round }
        .next ((s.injected w.flit).passOn w.node w.ring w.cw w.inj w.flit)

/-- REFUSED_FLIT_RETRY (R36): a refused flit's delay is over; it waits for injection again. -/
def execRefusedFlitRetry (i : Nat) (s : State) : Out :=
  match s.waitq[i]? with
  | none => .next s
  | some w =>
    .next (if w.refused ∧ w.due ≤ s.cycle then { s with waitq := lmod (fun w => { w with refused := false }) s.waitq i } else s)

/-! ### Exit nodes (R35, R36, R494) -/

/-- FLIT_AT_EXIT_NODE: with an ordinary buffer free, or the reserve buffer for the first flit with RCNT of 4 or more, the flit is taken
off its ring and goes on; responses and PAR flits always are (R37). Otherwise it is refused. -/
def execFlitAtExitNode (i : Nat) (free reserve : Bool) (s : State) : Out :=
  match s.exits[i]? with
  | none => .next s
  | some e =>
    let f := e.flit
    let first := !(s.exits.take i).any (fun x => x.node == e.node && x.flit.tc == f.tc && decide (4 ≤ x.flit.rcnt))
    let s := { s with exits := ldel s.exits i }
    if free || flitSure f || (reserve && decide (4 ≤ f.rcnt) && first) then .next (s.wait e.node { f with pass := false, rcnt := 0 } false)
    else if !f.pass then .next (s.passOn e.node e.ring e.cw e.inj { f with pass := true })
    else .next (s.passOn e.node e.ring e.cw e.inj { f with pass := false, ref := true, rcnt := min (f.rcnt + 1) 15 })

/-! ### Responses -/

/-- A response to a request: type, status and payload, to the requester (R32, R33). -/
def respond (f : Flit) (typ status : Nat) (bs : List Byte) : Flit :=
  { zeroFlit with typ := typ, tc := f.tc, op := status, len := bs.length - 1, src := f.src, tag := f.tag, addr := f.src, payload := bs }

/-- The type of a request's response. -/
def respType (typ : Nat) : Nat := typ + 1

/-- The agent of a transaction. -/
def Txn.agent (t : Txn) : Agent :=
  match t.purpose with
  | .rst k _ => .strand k
  | .rld k _ => .strand k
  | .rat k _ => .strand k
  | .access k _ => .strand k
  | .bte l id _ => .engine l id
  | .out l => if l = launchLc (slotOf l) then .launch (slotOf l) else .engine l 0

/-- Position of the access of a strand with a place in program order that has been sent, and the access. -/
def State.accPos (s : State) (t num : Nat) : Option (Nat × Access) :=
  ((s.strand t).acc.zipIdx.find? (fun e => e.1.num == num && e.1.sent)).map (fun e => (e.2, e.1))

/-- The transaction that a response answers: a late one of a killed context finds none and is discarded (R51). -/
def State.answer (s : State) (i typ : Nat) : Option (Txn × Flit × State) :=
  match s.inbox[i]? with
  | none => none
  | some (d, f) =>
    if f.typ ≠ typ then none
    else
      let s := { s with inbox := ldel s.inbox i }
      match s.txns.find? (fun t => t.die == d && t.tag == f.tag && respType t.typ == typ && t.slot != deadSlot) with
      | none => none
      | some t => some (t, f, ({ s with txns := s.txns.filter (fun u => !(u.die == d && u.tag == f.tag)) } : State).sendAllHeld)

/-- The inbox without an entry of a type that answers nothing; a killed context's tag is free again. -/
def State.dropInbox (s : State) (i typ : Nat) : State :=
  match s.inbox[i]? with
  | some (d, f) =>
    if f.typ = typ then
      ({ s with inbox := ldel s.inbox i, txns := s.txns.filter (fun u => !(u.die == d && u.tag == f.tag && u.slot == deadSlot && respType u.typ == typ)) } : State).sendAllHeld
    else s
  | none => s

/-- A failed response: a reserved status counts as MEMERR (R43). -/
def State.failed (s : State) (t : Txn) (op : Nat) : State := s.memErr t.agent t.addr (if 5 ≤ op then opMEMERR else op)

/-- A load through another package's page is answered: where it is an acquire, the strand must see what has been performed here by now,
since what it synchronised with cannot be known (R240; log entry 66). -/
def State.farAcquire (s : State) (t : Nat) (e : Access) : State := if e.acquires && !s.ownFid (e.pa >>> 37) then s.syncStrong t else s

/-- RSTACK (R41, R43): the store is performed; a page's dirty bits follow (R151, R190). -/
def execRstack (i : Nat) (s : State) : Out :=
  match s.answer i 2 with
  | none => .next (s.dropInbox i 2)
  | some (t, f, s) =>
    if f.op ≠ 0 then .next (s.failed t f.op)
    else match t.purpose with
      | .rst _ _ => .next s
      | .rld _ _ => .next s
      | .rat _ _ => .next s
      | .access k num => .next (match s.accPos k num with
          | some (n, e) => (s.dirtyAcc k e).retire k n
          | none => s)
      | .bte l id n => .next (match (s.lc l).cmd? id with
          | some k => s.bteArrive l k n 0 (fun _ _ => 0)
          | none => s)
      | .out _ => .next s

/-- RLDDATA (R43): the data is written into the requester's scratchpad, or delivered to the load that asked for it. -/
def execRlddata (i : Nat) (s : State) : Out :=
  match s.answer i 4 with
  | none => .next (s.dropInbox i 4)
  | some (t, f, s) =>
    if f.op ≠ 0 then .next (s.failed t f.op)
    else match t.purpose with
      | .rld k la => .next (s.lwrite (lcOf k) la f.payload)
      | .access k num => .next (match s.accPos k num with
          | some (n, e) => ((s.deliver k e (leNat f.payload)).farAcquire k e).retire k n
          | none => s)
      | .rst _ _ => .next s
      | .rat _ _ => .next s
      | .bte _ _ _ => .next s
      | .out _ => .next s

/-- An atomic of a strand is done at its far home with the old value given; one that has written sets dirty bits (R151). -/
def State.atomicDone (s : State) (k n : Nat) (e : Access) (old : Nat) (wrote : Bool) : State :=
  (((if wrote then s.dirtyAcc k e else s).deliver k e old).farAcquire k e).retire k n

/-- A RATDATA for a pending access: a 4-byte atomic whose CAS failed is sent again with the value found (R389). -/
def State.ratAnswer (s : State) (k num : Nat) (old : Nat) : State :=
  match s.accPos k num with
  | none => s
  | some (n, e) =>
    match e.op with
    | .atomic op =>
      let x := if e.size = 8 then old else leNat (slice (leBytes 8 old) (e.pa % 8) 4)
      if e.size = 8 ∨ old = e.guess then s.atomicDone k n e x (op != 5 || x == e.data)
      else s.modStrand k (fun st => { st with acc := lmod (fun e => { e with sent := false, guess := old }) st.acc n })
    | _ => (s.dirtyAcc k e).retire k n

/-- RATDATA (R40): the old value reaches the register. -/
def execRatdata (i : Nat) (s : State) : Out :=
  match s.answer i 6 with
  | none => .next (s.dropInbox i 6)
  | some (t, f, s) =>
    if f.op ≠ 0 then .next (s.failed t f.op)
    else match t.purpose with
      | .rat k d => .next (s.modStrand k (fun st => st.gSet d (BitVec.ofNat 64 (leNat f.payload))))
      | .access k num => .next (s.ratAnswer k num (leNat f.payload))
      | .rst _ _ => .next s
      | .rld _ _ => .next s
      | .bte _ _ _ => .next s
      | .out _ => .next s

/-! ### Targets (R38-R40, R50) -/

/-- A request at inbox position `i` of its target die; one of the die itself keeps the order of R41 and R42. -/
def State.atTarget (s : State) (i typ : Nat) : Option (Nat × Flit × State) :=
  match s.inbox[i]? with
  | none => none
  | some (d, f) =>
    if f.typ ≠ typ then none
    else match s.txnOf f with
      | some t => if s.mayInject t then some (d, f, { (s.injected f) with inbox := ldel s.inbox i }) else none
      | none => some (d, f, { s with inbox := ldel s.inbox i })

/-- The request of this package that a flit carries. -/
def State.sender (s : State) (f : Flit) : Option Txn :=
  if f.src / 8 = s.env.pkgNo then s.txns.find? (fun t => t.die == f.src % 8 && t.tag == f.tag && t.slot != deadSlot) else none

/-- A remote operation as an access of its strand, at its place in program order: relaxed, at domain scope (R253). -/
def remoteAccess (op : AccOp) (num pa n : Nat) : Access :=
  { op := op, num := num, far := true, ahead := [], gid := 0, va := pa, pa := pa, size := n, cls := 1, scope := 7, kind := 0, data := 0, data2 := 0,
    dst := .none, leaf := 0, sent := true, guess := 0, stale := false }

/-- The strand of this package that sent a request, and the access that the request stands for. -/
def State.senderAcc (s : State) (f : Flit) : Option (Nat × Access) :=
  match s.sender f with
  | none => none
  | some t => match t.purpose with
    | .access k num => (s.accPos k num).map (fun e => (k, e.2))
    | .rst k _ => some (k, remoteAccess .store t.num f.addr f.payload.length)
    | .rld k _ => some (k, remoteAccess .load t.num f.addr (f.len + 1))
    | .rat k _ => some (k, remoteAccess (.atomic f.op) t.num f.addr 8)
    | .bte _ _ _ => none
    | .out _ => none

/-- The slot of the context whose own translation led to a request's target: its dirty bits are set by virtual address (R151, R190); none
of one by physical address (R50). -/
def State.senderSlot (s : State) (f : Flit) : Option Nat :=
  match s.sender f with
  | none => none
  | some t => match t.purpose with
    | .access k _ => some (slotOfStrand k)
    | .out l => some (slotOf l)
    | .rst _ _ => none
    | .rld _ _ => none
    | .rat _ _ => none
    | .bte _ _ _ => none

/-- The status of a request to `n` bytes, with a reserved operation or flag mode or none. The reserved mode is answered first, which the
spec leaves open (log entry 81). -/
def State.statusFor (s : State) (reserved reads : Bool) (pa n : Nat) : Nat :=
  if reserved then opOPERR
  else if !(s.paOk pa n && decide (pa < 2 ^ 51)) then opADDRERR
  else if reads && s.spoilt pa n then opMEMERR
  else opOK

/-- Strand `t` must see what its access has just stored to the units of a range, and has performed it ahead of earlier accesses. -/
def State.sawUnits (s : State) (t : Nat) (e : Access) (pa n : Nat) : State :=
  let s := s.modStrand t (fun st =>
    { st with view := { st.view with units := (unitsOf pa n).foldl (fun u a => tset 0 u (a / 8) s.vtime) st.view.units } })
  (unitsOf pa n).foldl (fun s u => s.overtake t e (u / 8)) s

/-- The agent of the memory model that a request at its target comes from (R233, R253). -/
def State.actorOf (s : State) (f : Flit) : Actor :=
  match s.sender f with
  | none => .unit f.src
  | some t => match t.purpose with
    | .access k _ => .strand k
    | .rst k _ => .strand k
    | .rld k _ => .strand k
    | .rat k _ => .strand k
    | .bte l _ _ => .engine l
    | .out l => .engine l

/-- The store of an RST: one version for each unit, and what the sending strand knows of it (R39, R253). -/
def State.rstData (s : State) (f : Flit) : State :=
  let s' := s.pwrite (s.senderSlot f) false f.addr f.payload
  match s.senderAcc f with
  | some (k, e) => (s'.sawStore k e s.vtime false).sawUnits k e f.addr f.payload.length
  | none => s'.mark s.vtime (fun w => { w with who := s.actorOf f })

/-- The flag increment of an RST: a release at domain scope (R39, R253). -/
def State.rstFlag (s : State) (d : Nat) (f : Flit) : State :=
  if f.fv then
    let pa := s.diePa d (Config.hearthBase + 8 * f.flag)
    let add := if f.op % 2 = 0 then 1 else f.payload.length
    (s.pwrite none false pa (leBytes 8 (leNat (s.pread pa 8) + add))).mark s.vtime (fun w =>
      { w with who := s.actorOf f, rel := some 7, rmw := true })
  else s

/-- RST_AT_TARGET (R39): the data is written, then the flag incremented, then the RSTACK sent; the writes are recorded in the dirty
bitmaps of the contexts that map the frames (R50). All units are written in this step: a load that need not have seen the store may
still read some of them as they were, whichever they are (R236; log entry 81). -/
def execRstAtTarget (i : Nat) (s : State) : Out :=
  match s.atTarget i 1 with
  | none => .next s
  | some (d, f, s) =>
    let st := s.statusFor (f.op / 2 != 0) false f.addr f.payload.length
    let s := if st = opOK then (s.rstData f).rstFlag d f else s
    .next (s.wait (.die d) (respond f 2 st []) false)

/-- What an RLD reads of the units of a range: of unit `j`, the version that digit `j` of `v` in base 16 passes over stores to, where the
sending strand need not have seen them (R236, R242). -/
def State.rldUnits (s : State) (k : Nat) (e : Access) (v : Nat) : List Nat → List Byte × State
  | [] => ([], s)
  | u :: us =>
    let a := max u e.pa
    let e' := { e with pa := a, size := min (u + 8) (e.pa + e.size) - a }
    let n := s.pass k e' (v % 16)
    let r := (s.sawLoad k e' n).rldUnits k e (v / 16) us
    (s.version e' n ++ r.1, r.2)

/-- RLD_AT_TARGET (R38): an access of this package waits for the releases that it must come after (R240). -/
def execRldAtTarget (i : Pick) (s : State) : Out :=
  match s.atTarget i.idx 3 with
  | none => .next s
  | some (d, f, s') =>
    let n := f.len + 1
    let st := s'.statusFor false true f.addr n
    if st ≠ opOK then .next (s'.wait (.die d) (respond f 4 st []) false)
    else match s'.senderAcc f with
      | none => .next (s'.wait (.die d) (respond f 4 opOK (s'.pread f.addr n)) false)
      | some (k, e) =>
        if s'.owed k e then .next s
        else
          let (bs, s') := s'.rldUnits k e i.back (unitsOf f.addr n)
          .next (s'.wait (.die d) (respond f 4 opOK bs) false)

/-- What memory becomes under a RAT: an ADD of 16 bytes is an exact-add (R40, R390). -/
def ratResult (op old : Nat) (bs : List Byte) : Nat :=
  let x := fld bs 0 8
  let y := fld bs 8 8
  if op = 0 ∧ bs.length = 16 then xaddCell old (if y = satv then none else some (sgn 64 x)) else atOp op 64 old x y

/-- The write of a RAT, and what the sending strand knows of it. -/
def State.ratWrite (s : State) (f : Flit) (old : Nat) : State :=
  let s := match s.senderAcc f with
    | some (k, e) => s.sawLoad k e 0
    | none => s
  if f.op = 5 ∧ old ≠ fld f.payload 0 8 then s
  else
    let s' := s.pwrite (s.senderSlot f) false f.addr (leBytes 8 (ratResult f.op old f.payload))
    match s.senderAcc f with
    | some (k, e) => s'.sawStore k e s.vtime true
    | none => s'.mark s.vtime (fun w => { w with who := s.actorOf f, rmw := true })

/-- RAT_AT_TARGET (R40): one atomic operation; the old value returns. -/
def execRatAtTarget (i : Nat) (s : State) : Out :=
  match s.atTarget i 5 with
  | none => .next s
  | some (d, f, s') =>
    let st := s'.statusFor (decide (10 ≤ f.op)) true f.addr 8
    let old := if st = opADDRERR ∨ st = opMEMERR then 0 else leNat (s'.pread f.addr 8)
    if (s'.senderAcc f).any (fun e => s'.owed e.1 e.2) then .next s
    else .next ((if st = opOK then s'.ratWrite f old else s').wait (.die d) (respond f 6 st (leBytes 8 old)) false)

/-- Whether a request at its target touches an address. -/
def flitCovers (f : Flit) (pa : Nat) : Bool := (f.typ == 1 || f.typ == 3 || f.typ == 5) && decide (f.addr ≤ pa) && decide (pa < f.addr + max 8 (f.len + 1))

/-- The request at its target that an uncorrectable error at an address meets: the agent's own, or, where none is, one of another
package. -/
def State.errorAt (s : State) (agent : Agent) (pa : Nat) : Option Nat :=
  let own := s.inbox.findIdx? (fun e => flitCovers e.2 pa && (s.sender e.2).any (fun t => t.agent == agent))
  match own with
  | some i => some i
  | none => s.inbox.findIdx? (fun e => flitCovers e.2 pa && e.2.src / 8 != s.env.pkgNo)

/-- A request that meets an uncorrectable error at its target: it writes nothing, and the status MEMERR returns (R43). -/
def State.answerError (s : State) (i : Nat) : State :=
  match s.inbox[i]? with
  | none => s
  | some (d, f) => (({ s with inbox := ldel s.inbox i } : State).injected f).wait (.die d) (respond f (respType f.typ) opMEMERR []) false

/-- MGMT (R33): a management message is taken; what such messages say is not stated, and the steps that they serve are modelled
themselves. -/
def execMgmt (i : Nat) (s : State) : Out := .next (s.dropInbox i 9)

/-! ### Unreachable targets (R30, R43) -/

/-- UNREACH_TIMEOUT (R30): the node returns the flit to its requester with status UNREACH, and reports it. A segment has no requester
but the context whose collective it is; a response is lost. -/
def execUnreachTimeout (i : Nat) (s : State) : Out :=
  match s.waitq[i]? with
  | none => .next s
  | some w =>
    let f := w.flit
    let fid := if f.ref || w.refused then f.src else flitTarget f
    let shut := !s.pkgPresent (flitTarget f / 8) || s.shut w
    if !shut || s.cycle < w.since + unreachCycles then .next s
    else
      let s := ({ s with waitq := ldel s.waitq i } : State).fabricEventOf (s.flitCtx f) w.node fkUNREACH (portOf (linkFrom w.node w.ring w.cw)) fid 0
      if f.typ = 1 ∨ f.typ = 3 ∨ f.typ = 5 then
        .next ((s.injected f).wait w.node (respond f (respType f.typ) opUNREACH []) false)
      else if f.typ = 7 then
        .next (if (s.ctx (slotOf (f.note % 2 ^ 24))).used then s.memErr (.bellows (f.note % 2 ^ 24)) f.addr opUNREACH else s)
      else .next s

end Sys2Proof.Machine
end

