-- ==== Sys2Proof/Machine/Sketch.lean ====
section
/-! DEFINITION. Sketch units (R222, R223, R274-R276, R443-R445): acceptance with the checks of the counter array, and the keys or
counters of a command, in ascending order. `Cmd.rows` counts the keys done (R141), `dstate` and `emitted` the places of the
destination and source arrays (0 not known, 1 HBM, 2 + FID a Hearth). -/

namespace Sys2Proof.Machine

/-! ### Descriptors (R222) -/

/-- CBASE. -/
def skBase (d : List Byte) : Nat := fld d 0 8
/-- ROWS. -/
def skRows (d : List Byte) : Nat := fld d 8 1 % 16
/-- w. -/
def skLogw (d : List Byte) : Nat := fld d 9 1
/-- E. -/
def skExp (d : List Byte) : Int := sgn 8 (fld d 10 1)
/-- SEED. -/
def skSeed (d : List Byte) : Nat := fld d 11 1 % 32
/-- Counters of an array. -/
def skCount (d : List Byte) : Nat := skRows d * 2 ^ skLogw d
/-- Whether the fields are within their limits; reserved bits are ignored (R7). -/
def skOk (d : List Byte) : Bool :=
  skBase d % 4 == 0 && decide (1 ≤ skRows d) && decide (skRows d ≤ 8) && decide (8 ≤ skLogw d) && decide (skLogw d ≤ 24)
/-- Whether two descriptors agree as SKADD requires (R223). -/
def skSame (d e : List Byte) : Bool :=
  skRows d == skRows e && skLogw d == skLogw e && skExp d == skExp e && skSeed d == skSeed e

/-- What is kept of a descriptor: bytes 0-15 (R222). -/
def skKeep (d : List Byte) : List Byte := d.take 16 ++ List.replicate 48 0

/-! ### Hashing (R274) -/

/-- The salts of the rows. -/
def skSalts : List W32 :=
  [0x7F4A7C15, 0x85EBCA6B, 0xC2B2AE35, 0x27D4EB2F, 0x165667B1, 0xD3A2646C, 0xFD7046C5, 0xB55A4F09]

/-- The 32-bit key that a key folds to. -/
def skKey32 (wide : Bool) (key : W64) : W32 :=
  if wide then key.truncate 32 ^^^ (((key >>> 32).truncate 32) * 0x85EBCA6B#32) else key.truncate 32

/-- The bucket and sign (true: negative) of a key in a row. -/
def skHash (d : List Byte) (wide : Bool) (key : W64) (r : Nat) : Nat × Bool :=
  let x := (skKey32 wide key ^^^ (skSalts.getD r 0).rotateLeft (skSeed d)) * 0x9E3779B1#32
  (x.toNat >>> (32 - skLogw d), x.getLsbD (31 - skLogw d))

/-- The virtual address of a counter. -/
def skAddr (d : List Byte) (i : Nat) : Nat := (skBase d + 4 * i) % 2 ^ 64

/-- Sat32, and whether it clamps. -/
def sat32c (x : Int) : Int × Bool :=
  if ((2 ^ 31 : Nat) : Int) ≤ x then (((2 ^ 31 : Nat) : Int) - 1, true)
  else if x < -((2 ^ 31 : Nat) : Int) then (-((2 ^ 31 : Nat) : Int), true)
  else (x, false)

/-- q of R275, and whether it clamps; none for a NaN. -/
def skQ (d : List Byte) (v : W32) : Option (Int × Bool) :=
  match val32 v with
  | .nan _ => none
  | .inf neg => some (if neg then -((2 ^ 31 : Nat) : Int) else ((2 ^ 31 : Nat) : Int) - 1, true)
  | .fin _ x => some (sat32c (roundNE (x.scale (-(skExp d)))))

/-- Sorted insertion of integers. -/
def insInt (x : Int) : List Int → List Int
  | [] => [x]
  | y :: t => if x ≤ y then x :: y :: t else y :: insInt x t

/-- The lower median of the rows' values (R276). -/
def lowMedian (ts : List Int) : Int := (ts.foldr insInt []).getD ((ts.length - 1) / 2) 0

/-! ### Places of counters -/

/-- The place of a piece of memory: 1 HBM, 2 + FID a Hearth; none elsewhere. -/
def skPlace : Loc → Option Nat
  | .phys pa _ => if isHearth pa then some (2 + pa / 2 ^ 37) else if isHbm pa then some 1 else none
  | .win _ _ => none

/-- A sketch command fails on a translation, or with reason 10 at its descriptor (none). -/
def State.sketchFail (s : State) (l : Nat) (k : Cmd) (f : Option Fail) (a : Acc) : State :=
  match f with
  | none => s.faultCmd l k.id k.a.toNat 10
  | some (.fault _ r lv va) => s.faultCmd l k.id va (xlInfo a r lv)
  | some (.mem pa st) => s.failAt (.sketch l) pa st

/-- The places of the pages of a counter array, all translated (R222). -/
def State.skPages (s : State) (l : Nat) (d : List Byte) (a : Acc) : Except (Option Fail) Nat × State :=
  let lo := skBase d / 65536
  let n := (skBase d + 4 * skCount d - 1) / 65536 + 1 - lo
  (List.range n).foldl (fun r i =>
    match r with
    | (.error e, s) => (.error e, s)
    | (.ok p, s) =>
      match s.reach1 l ((lo + i) * 65536) a with
      | (.error e, s) => (.error (some e), s)
      | (.ok loc, s) =>
        match skPlace loc with
        | none => (.error none, s)
        | some q => (if p = 0 ∨ p = q then .ok q else .error none, s)) (.ok 0, s)

/-- A counter that a unit uses: its virtual address and where that has been found, once for the unit. -/
structure SkCell where
  va : Nat
  loc : Loc
  deriving DecidableEq, Repr

/-- A counter when it is used, and its place: that of the others, or the command faults (R222); `rd` where its value is read, which an
uncorrectable error forbids (R193). -/
def State.skUse (s : State) (l va place : Nat) (a : Acc) (rd : Bool) : Except (Option Fail) (Nat × SkCell) × State :=
  match s.reach1 l va a with
  | (.error e, s) => (.error (some e), s)
  | (.ok loc, s) =>
    match s.hole l rd [(loc, 4)] with
    | some (pa, st) => (.error (some (.mem pa st)), s)
    | none =>
      match skPlace loc with
      | none => (.error none, s)
      | some q => (if place = 0 ∨ place = q then .ok (q, { va := va, loc := loc }) else .error none, s)

/-- Finds several counters that are to be updated before any is touched. -/
def State.skUses (l place : Nat) : List Nat → State → Except (Option Fail) (Nat × List SkCell) × State
  | [], s => (.ok (place, []), s)
  | va :: t, s =>
    match s.skUse l va place .write true with
    | (.error e, s) => (.error e, s)
    | (.ok (q, c), s) =>
      match State.skUses l q t s with
      | (.error e, s) => (.error e, s)
      | (.ok (q, cs), s) => (.ok (q, c :: cs), s)

/-- A counter's value. -/
def State.skGet (s : State) (c : SkCell) : Int := sgn 32 (leNat (s.readLoc c.loc 4))

/-- Writes a counter of a command. -/
def State.skPut (s : State) (l : Nat) (c : SkCell) (v : Int) : State := s.vput l c.va [(c.loc, 4)] (leBytes 4 (unsg 32 v))

/-- Adds to a counter, saturating, and folds the unit with `d` at the counter's bytes (R154, R274); whether it saturated. -/
def State.skAddTo (s : State) (l id : Nat) (c : SkCell) (d : Int) : State × Bool :=
  let (v, sat) := sat32c (s.skGet c + d)
  ((s.skPut l c v).modCmd l id (fun k => { k with spart := foldS k.spart c.va (leBytes 4 (unsg 32 d)) }), sat)

/-- Adds to several counters, each by itself (R223); whether any saturated. -/
def State.skAddAll (s : State) (l id : Nat) : List (SkCell × Int) → State × Bool
  | [] => (s, false)
  | (c, d) :: t =>
    let r := s.skAddTo l id c d
    let q := State.skAddAll r.1 l id t
    (q.1, r.2 || q.2)

/-- Where SATW of a descriptor lies, if SAT is to be set, or why it cannot be; nothing has changed yet. -/
def State.skSatAt (s : State) (l desc : Nat) (sat : Bool) : Except Fail (List (Loc × Nat)) × State :=
  if !sat then (.ok [], s)
  else match s.reach l (desc + 16) 8 .write with
    | (.error e, s) => (.error e, s)
    | (.ok ps, s) =>
      match s.hole l true ps with
      | some (pa, st) => (.error (.mem pa st), s)
      | none => (.ok ps, s)

/-- Sets SAT of a descriptor, where it is to be, by an atomic OR (R222). -/
def State.skSat (s : State) (l desc : Nat) (ps : List (Loc × Nat)) : State :=
  if ps.isEmpty then s else s.vput l (desc + 16) ps (leBytes 8 (leNat (ps.flatMap (fun p => s.readLoc p.1 p.2)) ||| 1))

/-! ### Units -/

/-- Whether a command has 64-bit keys. -/
def Cmd.wideKeys (k : Cmd) : Bool := k.word.getLsbD 0

/-- Keys of a command; of SKADD and SKCLR its counters. -/
def Cmd.sketchUnits (k : Cmd) : Nat :=
  match k.kind with
  | .skupd => k.c.toNat
  | .skqry => bitsOf k.b.toNat 45 32 + 1
  | _ => skCount k.snap

/-- Key `i` of a command, from local memory. -/
def State.skKey (s : State) (l : Nat) (k : Cmd) (i : Nat) : W64 × State :=
  let z := if k.wideKeys then 8 else 4
  let a := k.b.toNat % 2 ^ 20 + z * i
  let s := s.ltouch l a z
  (BitVec.ofNat 64 (leNat (s.lread l a z)), s)

/-- A unit is done. -/
def State.skDone (s : State) (l id place place2 : Nat) : State :=
  s.modCmd l id (fun c => { c with st := 2, rows := c.rows + 1, dstate := place, emitted := place2 })

/-- SKUPD of key `i` (R275). -/
def State.skUpdate (s : State) (l : Nat) (k : Cmd) (i : Nat) : State :=
  let desc := k.a.toNat
  let va := bitsOf k.b.toNat 51 32 + 4 * i
  let s := s.ltouch l va 4
  let v := BitVec.ofNat 32 (leNat (s.lread l va 4))
  let (key, s) := s.skKey l k i
  let cells := (List.range (skRows k.snap)).map (fun r =>
    let (b, neg) := skHash k.snap k.wideKeys key r
    (skAddr k.snap (r * 2 ^ skLogw k.snap + b), neg))
  match skQ k.snap v with
  | none =>
    (match s.skSatAt l desc true with
    | (.error e, s) => s.sketchFail l k (some e) .write
    | (.ok ps, s) => (s.skSat l desc ps).skDone l k.id k.dstate k.emitted)
  | some (q, sat) =>
    match State.skUses l k.dstate (cells.map (·.1)) s with
    | (.error e, s) => s.sketchFail l k e .write
    | (.ok (place, cs), s) =>
      let adds := List.zipWith (fun (c : SkCell) (h : Nat × Bool) => (c, if h.2 then -q else q)) cs cells
      match s.skSatAt l desc (sat || (s.skAddAll l k.id adds).2) with
      | (.error e, s) => s.sketchFail l k (some e) .write
      | (.ok ps, s) => ((s.skAddAll l k.id adds).1.skSat l desc ps).skDone l k.id place k.emitted

/-- The result of key `i` of an SKQRY from its rows' values (R276, R444). -/
def State.skResult (s : State) (l : Nat) (k : Cmd) (i place : Nat) (ts : List Int) : State :=
  let w := (fp32.ofDy .rne { n := lowMedian ts, e := skExp k.snap } false).1
  let s := s.lwrite l (k.c.toNat % 2 ^ 20 + 4 * i) (leBytes 4 w)
  let s := if k.c.getLsbD 63 then s.arStep l (bitsOf k.c.toNat 46 32 * 32) 4 0 0 else s
  (s.skDone l k.id place k.emitted).modCmd l k.id (fun c => { c with vals := [] })

/-- The next row of key `i` of an SKQRY: its counter is read by itself, and the last row's gives the result (R223, R444). -/
def State.skQuery (s : State) (l : Nat) (k : Cmd) (i : Nat) : State :=
  let (key, s) := s.skKey l k i
  let r := k.vals.length
  let (b, neg) := skHash k.snap k.wideKeys key r
  let va := skAddr k.snap (r * 2 ^ skLogw k.snap + b)
  match s.skUse l va k.dstate .read true with
  | (.error e, s) => (s.modCmd l k.id (fun c => { c with vals := [] })).sketchFail l k e .read
  | (.ok (place, c), s) =>
    let ts := k.vals ++ [if neg then -(s.skGet c) else s.skGet c]
    if ts.length < skRows k.snap then s.modCmd l k.id (fun c => { c with st := 2, vals := ts, dstate := place })
    else s.skResult l k i place ts

/-- SKADD of counter `i` (R445). -/
def State.skAddOne (s : State) (l : Nat) (k : Cmd) (i : Nat) : State :=
  let dst := skAddr k.snap i
  let src := skAddr (k.snap.drop 64) i
  match s.skUse l dst k.dstate .write true with
  | (.error e, s) => s.sketchFail l k e .write
  | (.ok (p, dc), s) =>
    match s.skUse l src k.emitted .read true with
    | (.error e, s) => s.sketchFail l { k with a := k.b } e .read
    | (.ok (q, sc), s) =>
      match s.skSatAt l k.a.toNat (s.skAddTo l k.id dc (s.skGet sc)).2 with
      | (.error e, s) => s.sketchFail l k (some e) .write
      | (.ok ps, s) => ((s.skAddTo l k.id dc (s.skGet sc)).1.skSat l k.a.toNat ps).skDone l k.id p q

/-- SKCLR of counter `i`: each aligned unit of the array folds once with zero (R154, R445). -/
def State.skClearOne (s : State) (l : Nat) (k : Cmd) (i : Nat) : State :=
  let va := skAddr k.snap i
  match s.skUse l va k.dstate .write false with
  | (.error e, s) => s.sketchFail l k e .write
  | (.ok (p, c), s) =>
    let s := s.skPut l c 0
    let s := if i = 0 ∨ va % 8 = 0 then s.modCmd l k.id (fun c => { c with spart := foldS c.spart va (leBytes 4 0) }) else s
    s.skDone l k.id p k.emitted

/-- The next unit of a sketch command: a key, a counter, or a row of a queried key. -/
def State.sketchUnit (s : State) (l : Nat) (k : Cmd) : State :=
  match k.kind with
  | .skupd => s.skUpdate l k k.rows
  | .skqry => s.skQuery l k k.rows
  | .skadd => s.skAddOne l k k.rows
  | .skclr => s.skClearOne l k k.rows
  | _ => s

/-- Units until `goal` keys or counters are done, at most as many as the last argument says, and as long as none faults. -/
def State.sketchRun (l id goal : Nat) : Nat → State → State
  | 0, s => s
  | n + 1, s =>
    match (s.lc l).cmd? id with
    | none => s
    | some k => if k.fault.isSome || decide (goal ≤ k.rows) then s else State.sketchRun l id goal n (s.sketchUnit l k)

/-! ### Steps -/

/-- Whether a command is a sketch unit's. -/
def Cmd.isSketch (k : Cmd) : Bool := k.kind == .skupd || k.kind == .skqry || k.kind == .skadd || k.kind == .skclr

/-- The descriptor addresses of a sketch command (R223). -/
def Cmd.sketchDescs (k : Cmd) : List W64 := if k.kind = .skadd then [k.a, k.b] else [k.a]

/-- A sketch unit accepts a command: snapshot and checks (R222, R445). -/
def State.sketchTake (s : State) (l : Nat) (k : Cmd) : State :=
  let way := if k.kind = .skqry then Acc.read else Acc.write
  match s.cbRead l k k.a.toNat 64 with
  | (.error e, s) => s.sketchFail l k (some e) .read
  | (.ok d, s) =>
    if !skOk d then s.faultCmd l k.id k.a.toNat 10
    else match s.skPages l d way with
      | (.error e, s) => s.sketchFail l k e way
      | (.ok p, s) =>
        let take := fun (s : State) (snap : List Byte) (q : Nat) =>
          s.modCmd l k.id (fun c => { c with st := 1, snapped := true, snap := snap, dstate := p, emitted := q })
        if k.kind != .skadd then take s (skKeep d) 0
        else match s.cbRead l k k.b.toNat 64 with
          | (.error e, s) => s.sketchFail l k (some e) .read
          | (.ok e, s) =>
            if !skOk e then s.faultCmd l k.id k.b.toNat 10
            else match s.skPages l e .read with
              | (.error f, s) => s.sketchFail l { k with a := k.b } f .read
              | (.ok q, s) =>
                if skSame d e then take s (skKeep d ++ skKeep e) q
                else s.modCmd l k.id (fun c =>
                  { c with fault := some (trapA cSKMIS k.a 256), reported := false })

/-- SKETCH_ACCEPT (R222): commands of a logical core are accepted in the order in which they passed to the unit (R196). -/
def execSketchAccept (lc cmd : Nat) (s : State) : Out :=
  match (s.engLc lc).cmd? cmd with
  | none => .next s
  | some k =>
    let c := s.engLc lc
    .next (if s.mayBegin lc && k.isSketch && k.queued && !k.snapped && k.fault.isNone
        && (c.older cmd).all (fun x => !(x.isSketch && x.queued && !x.snapped && x.fault.isNone)) then s.sketchTake lc k else s)

/-- Whether a sketch command may act: no earlier sketch command of its strand on a descriptor of its own is left (R223); a unit under way
is done before its unit acknowledges a stop, and none begins after the request (R127). -/
def State.sketchMay (s : State) (l : Nat) (k : Cmd) : Bool :=
  let c := s.engLc l
  c.core.isSome && !c.stopping && k.isSketch && k.snapped && k.fault.isNone &&
    (c.older k.id).all (fun x => !(x.isSketch && x.strand == k.strand && x.sketchDescs.any (fun a => k.sketchDescs.contains a)))

/-- SKETCH_COMMAND_COMPLETE (R443): the next units, all that are left where their number is 0; after the last, the arrival of a bound
SKQRY. -/
def execSketchCommandComplete (lc : Nat) (u : UnitRun) (s : State) : Out :=
  let cmd := u.cmd
  match (s.engLc lc).cmd? cmd with
  | none => .next s
  | some k =>
    if !s.sketchMay lc k then .next s
    else
      let s := State.sketchRun lc cmd k.sketchUnits (if u.units = 0 then 8 * (k.sketchUnits + 1 - k.rows) else u.units) s
      match (s.engLc lc).cmd? cmd with
      | none => .next s
      | some k =>
        if k.fault.isSome || decide (k.rows < k.sketchUnits) then .next s
        else
          let s := if k.kind == .skqry && k.c.getLsbD 63 then s.arStep lc (bitsOf k.c.toNat 46 32 * 32) 0 1 0 else s
          .next (s.finish lc cmd)

end Sys2Proof.Machine
end

