-- ==== Sys2Proof/Machine/Image.lean ====
section
/-! DEFINITION. The portable image of a context: its layout and how it is written (R132-R146). -/

namespace Sys2Proof.Machine

/-- Bytes with zeros up to `n`. -/
def padTo (n : Nat) (bs : List Byte) : List Byte := bs ++ List.replicate (n - bs.length) 0
/-- Bytes with zeros up to a multiple of 256 (R134). -/
def pad256 (bs : List Byte) : List Byte := bs ++ List.replicate ((256 - bs.length % 256) % 256) 0
/-- A number with a bit set for each element of a list. -/
def bitmap (l : List Nat) : Nat := l.foldl (fun a n => a ||| 2 ^ n) 0
/-- Eight bytes of a word. -/
def le64 (x : W64) : List Byte := leBytes 8 x.toNat
/-- Four bytes of each of a list of words. -/
def le32s (ws : List W32) : List Byte := ws.flatMap (fun w => leBytes 4 w.toNat)

/-! ### Strand records (R138, R139) -/

/-- Tiles of a strand stored with data: dirty ones (R139). -/
def Strand.dirtyTiles (st : Strand) : List Nat := (List.range 8).filter (fun n => tget 0 st.tst n == 2)

/-- The record of strand `t`; `gix` is the place of a graph in the graph section. -/
def State.strandRecord (s : State) (gix : Nat → Nat) (t : Nat) : List Byte :=
  let st := (s.strand t).settle
  if !st.occ then List.replicate 0x2500 0
  else
    let off := fun (a : W64) => le64 (a - st.entry)
    let head :=
      leBytes 8 (1 + (if st.blk == .before then 2 else 0) + (if st.blk == .halted then 4 else 0)) ++ le64 (firingWord st)
        ++ leBytes 4 (gix st.gid) ++ leBytes 4 st.nchild ++ off st.pc
        ++ le64 (s.status t st) ++ le64 st.tvb ++ off st.epc ++ le64 st.ecause ++ le64 st.eaddr ++ le64 st.einfo
        ++ le64 st.aflags ++ le64 st.amask ++ (tread 0 st.xv 1 3).flatMap le64
        ++ leBytes 8 st.lnkd ++ (tread 0 st.lnk 0 16).flatMap off ++ (tread 0 st.lcnt 0 6).flatMap le64
        ++ leBytes 8 st.loopd ++ off st.loopStart ++ off st.loopEnd
        ++ le64 st.dgsta ++ le64 st.dgste ++ leBytes 8 st.ecmd ++ leBytes 8 (st.p.toNat ||| 1)
        ++ (tread 0 st.tcfg 0 8).flatMap le64
        ++ leBytes 8 ((List.range 8).foldl (fun a n => a + tget 0 st.tst n % 4 * 4 ^ n) 0)
        ++ le64 st.opush ++ le64 st.opop
    padTo 0x200 head ++ ((List.range 64).map (fun n => if n = 63 then 0 else st.gGet n)).flatMap le64
      ++ padTo 0x100 (((List.range 8).map st.qGet).flatMap le64)
      ++ le32s (tread 0 st.v 0 2048)

/-! ### Engine command entries (R140, R141) -/

/-- PROG of a command. -/
def Cmd.prog (k : Cmd) : List Byte :=
  match k.kind with
  | .mma => leBytes 2 k.pos
  | .mdrain => leBytes 2 k.pos
  | .maccld => leBytes 2 k.pos
  | .mloadw => []
  | .mzero => []
  | .epload => []
  | .skupd => leBytes 4 k.rows
  | .skqry => leBytes 4 k.rows
  | .skadd => leBytes 4 k.rows
  | .skclr => leBytes 4 k.rows
  | .bte =>
    if !k.snapped then []
    else
      let idx := if tmXform k.snap = 3 then [k.dstate, k.pos, k.emitted, 0, 0, 0]
        else loopIdx (tmScnt k.snap) (k.chunkUnits k.chunks).1
      leBytes 4 k.chunks ++ idx.flatMap (leBytes 4)
        ++ (if tmXform k.snap = 5 then leBytes 4 k.match1 ++ leBytes 4 0 else leBytes 4 k.fletA ++ leBytes 4 k.fletB)
  | .coll =>
    leBytes 4 (bitmap ((List.range k.buckets.length).filter (fun b => (k.bucket b).signal)))
      ++ (List.range 14).flatMap (fun b => leBytes 3 (k.bucket b).sent)

/-- ST of a command: faulted, or what its engine has made of it; a load command that runs restarts from its beginning (R127). -/
def Cmd.imageSt (k : Cmd) : Nat := if k.fault.isSome then 3 else k.st

/-- SNAP of a command; a tile header is no control block (R231). -/
def Cmd.imageSnap (k : Cmd) : List Byte :=
  if k.kind = .mloadw then []
  else if k.kind = .coll then padTo 64 k.snap ++ (List.range 18).flatMap (fun b => leBytes 3 (k.bucket (b + 14)).sent) else k.snap.take 128

/-- A command entry of 256 bytes. -/
def Cmd.entry (k : Cmd) : List Byte :=
  let st := k.imageSt
  padTo 256 (padTo 128 (
    leBytes 1 k.strand ++ leBytes 1 st ++ leBytes 1 ((k.fault.map (·.cause)).getD 0)
      ++ leBytes 1 (if k.kind = .mma ∨ k.kind = .bte then k.xv % 32 else 0) ++ leBytes 4 0 ++ leBytes 8 k.cix
      ++ leBytes 4 k.word.toNat ++ leBytes 4 k.k.toNat ++ le64 k.a ++ le64 k.b ++ le64 k.c
      ++ leBytes 8 (rangeWord k.rd1) ++ leBytes 8 (rangeWord k.rd2) ++ leBytes 8 (rangeWord k.wr) ++ le64 k.spart ++ k.prog)
    ++ (if st = 0 then [] else k.imageSnap))

/-- The fault records of a command list: EINFO with EDTIX zero, position, EADDR (R140). -/
def faultRecords (ks : List Cmd) : List Byte :=
  ks.zipIdx.flatMap (fun e => match e.1.fault with
    | some t => leBytes 4 (t.info.toNat % 2 ^ 32) ++ leBytes 2 e.2 ++ leBytes 2 0 ++ le64 t.addr
    | none => [])

/-! ### Logical-core records (R136, R137, R142) -/

/-- A bank's declared values as BANKHDR holds them. -/
def BankDecl.word (d : BankDecl) : Nat := d.fmt + d.bud * 16 + (if d.loaded then 512 else 0) + (d.kbr - 1) * 1024

/-- A COLL that is not accepted yet, with the buckets marked for it (R141, R447). -/
def LCore.withMarks (c : LCore) (k : Cmd) : Cmd :=
  if k.kind = .coll ∧ !k.snapped then
    { k with buckets := (List.range 32).map (fun b => { signal := c.csig.contains (k.id, b), run := 0, sent := 0, got := 0 }) }
  else k

/-- Pages of local memory that hold a byte other than zero: 256 of scratchpad, 16 of the side bank. -/
def LCore.pages (c : LCore) : List Nat := c.loc.foldl (fun l e => if e.1 / 4096 < 272 then sins (e.1 / 4096) l else l) []

/-- Banks that are stored: loaded ones and ones that hold a cell. -/
def LCore.banksKept (c : LCore) : List Nat :=
  (List.range 8).filter (fun b => (tget BankDecl.none c.bdecl b).loaded || c.banks.any (fun e => e.1 / 2048 == b))

/-- A weight-bank cell's 72 bytes. -/
def WCell.bytes (w : WCell) : List Byte := le32s (w.slots ++ [w.side])
/-- An accumulator entry's 16 bytes. -/
def AccEnt.bytes (e : AccEnt) : List Byte := leBytes 12 e.v.toNat ++ leBytes 4 (e.cls % 4)

/-- Tiles that have saturated, in an MMA that runs as well: the image has one bit for both (log entry 80). -/
def LCore.satAll (c : LCore) : List Nat :=
  c.edt.foldl (fun l k => if k.kind = .mma && k.sat then sins (pcwTile k.k.toNat) l else l) c.sat

/-- The record of logical core `l`. -/
def State.lcRecord (s : State) (gix : Nat → Nat) (l : Nat) : List Byte :=
  let c := s.lc l
  let tiles := (strandsOf l).flatMap (fun t => if (s.strand t).occ then (s.strand t).dirtyTiles.map (fun n => (t, n)) else [])
  let banks := c.banksKept
  let pages := c.pages
  let flt := faultRecords c.edt
  let hdr := padTo 256 (
    leBytes 4 (lcNum l) ++ leBytes 1 tiles.length ++ leBytes 1 c.edt.length ++ leBytes 1 (bitmap banks)
      ++ leBytes 1 (bitmap c.epslot) ++ le64 (s.specst l)
      ++ (List.range 4).flatMap (fun n => leBytes 2 (unsg 16 (tget 0 c.anchor n))) ++ leBytes 1 (bitmap c.satAll)
      ++ leBytes 1 (flt.length / 16) ++ leBytes 6 0
      ++ (List.range 8).flatMap (fun b => leBytes 4 (tget BankDecl.none c.bdecl b).word) ++ leBytes 34 (bitmap pages))
  hdr ++ (strandsOf l).flatMap (s.strandRecord gix)
    ++ (tread AccEnt.zero c.acc 0 16384).flatMap AccEnt.bytes
    ++ (tread 0 c.eprog 0 128).flatMap (fun w => leBytes 2 w.toNat)
    ++ le32s (tread 0 c.ereg 0 1024)
    ++ leBytes 256 (if c.act then bitmap c.fill else 0)
    ++ tiles.flatMap (fun e => (s.strand e.1).tBytes e.2 0 1024)
    ++ c.edt.flatMap (fun k => (c.withMarks k).entry) ++ flt
    ++ banks.flatMap (fun b => (tread WCell.inert c.banks (b * 2048) 2048).flatMap WCell.bytes)
    ++ pages.flatMap (fun n => tread 0 c.loc (n * 4096) 4096)

/-! ### Graph records (R144) -/

/-- The state of a channel: counters, then the entries of a LOC 0 channel, then the slot records of an ORDERED one. -/
def Graph.channelState (g : Graph) (c : Nat) : List Byte :=
  let r := g.chrec c
  let n := g.cap c
  let ord := g.isOrdered c
  let slots := (List.range n).map r.slot
  padTo 32 (leBytes 2 (g.chFree c) ++ leBytes 2 (g.chFull c) ++ leBytes 2 (if ord then 0 else r.head) ++ leBytes 2 (if ord then 0 else r.tail)
      ++ leBytes 4 r.pops ++ leBytes 4 r.pushes)
    ++ (if (g.chan? c).any (·.loc) then []
        else slots.flatMap (fun e => match e with
          | .published _ bs => padTo (g.esz c) bs
          | .empty => List.replicate (g.esz c) 0
          | .reserved _ _ _ => List.replicate (g.esz c) 0
          | .claimed => List.replicate (g.esz c) 0))
    ++ (if ord then slots.flatMap (fun e => match e with
          | .published q _ => leBytes 4 q
          | .empty => leBytes 4 0xFFFFFFFF
          | .reserved _ _ _ => leBytes 4 0xFFFFFFFF
          | .claimed => leBytes 4 0xFFFFFFFF) else [])

/-- The record of a graph of the context in slot `x`. -/
def State.graphRecord (s : State) (x : Nat) (g : Graph) : List Byte :=
  let held := fun (i : Nat) => ((s.lcKeys x).flatMap strandsOf).filter (fun t =>
    (s.strand t).reserved && (s.strand t).assign == some (g.gid, i))
  let n := g.stages.length
  let body :=
    g.hdr ++ g.stab ++ g.ctab
      ++ (List.range n).flatMap (fun i =>
        leBytes 4 (g.stageS i).nextq ++ leBytes 4 (g.stageS i).ended ++ leBytes 2 (held i).length ++ leBytes 6 0)
      ++ (List.range n).flatMap (fun i => (held i).flatMap (fun t => leBytes 4 (lcNum (lcOf t) + t % 4 * 4096)))
      ++ (List.range g.chans.length).flatMap g.channelState
  padTo 8 (leBytes 1 g.path.length ++ leBytes 1 (if g.live then 0 else 1) ++ leBytes 1 n ++ leBytes 1 g.chans.length)
    ++ leBytes 8 g.launch
    ++ padTo 56 (g.path.flatMap (fun e => leBytes 2 e.1 ++ leBytes 2 e.2.2 ++ leBytes 4 e.2.1))
    ++ le64 g.key ++ le64 g.param ++ leBytes 8 (0x60 + body.length) ++ body

/-! ### Hearth regions (R145) -/

/-- A region of Hearth mapped into a context: virtual address, its frames in order, whether its cells are exact-add, and the
anchor. -/
structure Region where
  va : Nat
  frames : List (Nat × Nat)
  exact : Bool
  anchor : Int
  deriving DecidableEq, Repr

/-- Bytes of a region. -/
def Region.size (r : Region) : Nat := (r.frames.map (·.2)).foldl (· + ·) 0

/-- Joins a leaf to the regions found so far: it extends the last one where it follows it and is of its kind. -/
def joinRegion (rs : List Region) (l : LeafAt) : List Region :=
  let fr := (leafFrame l.e, pageSize l.level)
  let new : Region := { va := l.va, frames := [fr], exact := leafE l.e, anchor := if leafE l.e then leafAnchor l.e else 0 }
  match rs.getLast? with
  | some r =>
    if r.va + r.size = l.va ∧ r.exact = new.exact ∧ r.anchor = new.anchor then rs.dropLast ++ [{ r with frames := r.frames ++ [fr] }]
    else rs ++ [new]
  | none => [new]

/-- The Hearth regions of a context, ascending. -/
def State.regions (s : State) (x : Nat) : List Region :=
  ((s.leaves (s.ctx x).ptroot).filter (fun l => isHearth (leafFrame l.e) && s.ownFid (leafFrame l.e >>> 37))).foldl joinRegion []

/-- A region's record: its header and contents. -/
def State.regionRecord (s : State) (r : Region) : List Byte :=
  padTo 32 (leBytes 8 r.va ++ leBytes 8 r.size ++ leBytes 1 (if r.exact then 1 else 0) ++ leBytes 1 0 ++ leBytes 2 (unsg 16 r.anchor))
    ++ r.frames.flatMap (fun f => s.pread f.1 f.2)

/-! ### The dirty bitmap (R146) -/

/-- The 2 GiB windows with a set bit, ascending. -/
def Ctx.dirtyWindows (c : Ctx) : List Nat := c.dirty.foldl (fun l u => sins (u / 1024) l) []

/-- The bitmap as the image and DIRTYSNAP lay it out. -/
def Ctx.dirtyBytes (c : Ctx) : List Byte :=
  padTo 16 (leBytes 8 c.dirtyWindows.length)
    ++ c.dirtyWindows.flatMap (fun w =>
      leBytes 8 (w * 2 ^ 31) ++ leBytes 128 (bitmap ((c.dirty.filter (fun u => u / 1024 == w)).map (· % 1024))) ++ leBytes 8 0)

/-! ### The image (R132, R134) -/

/-- MAGIC. -/
def imageMagic : Nat := 0x4D495854434B4D4C

/-- MODE of R65. -/
def Ctx.mode (c : Ctx) : Nat := (if c.det then 1 else 0) + (if c.spec then 2 else 0)

/-- The Fletcher-64 fingerprint of bytes (R219). -/
def fletcherOf (bs : List Byte) : Nat :=
  let r := fletcher (0, 0) (wordsOf bs)
  r.2 * 2 ^ 32 + r.1

/-- Blocks one after another from `at'` on, each padded to 256 bytes: their offsets. -/
def offsets : Nat → List (List Byte) → List Nat
  | _, [] => []
  | a, b :: t => a :: offsets (a + (pad256 b).length) t

/-- The image of the context in slot `x`, CHECK included. -/
def State.image (s : State) (x : Nat) : List Byte :=
  let c := s.ctx x
  let gs := sortGraphs c.graphs
  let gix := fun (gid : Nat) => (gs.findIdx? (fun g => g.gid == gid)).getD 0
  let recs := (s.lcKeys x).map (s.lcRecord gix)
  let grp := (List.range 255).flatMap (fun i => leBytes (8 * cdiv c.nlc 64) (bitmap (tget [] c.groups (i + 1))))
  let graphs := leBytes 8 gs.length ++ gs.flatMap (s.graphRecord x)
  let rs := s.regions x
  let hearth := rs.flatMap s.regionRecord
  let tail := [grp, graphs, hearth, c.dirtyBytes]
  let dirLen := (pad256 (List.replicate (16 * c.nlc) 0)).length
  let offs := offsets (256 + dirLen) (recs ++ tail)
  let dir := (List.zipWith (fun (o : Nat) (r : List Byte) => leBytes 8 o ++ leBytes 8 r.length) offs recs).flatten
  let body := pad256 dir ++ (recs ++ tail).flatMap pad256
  let sec := fun (i : Nat) => offs.getD (recs.length + i) 0
  let head := fun (check : Nat) => padTo 256 (
    leBytes 8 imageMagic ++ leBytes 4 0x00010000 ++ leBytes 4 256 ++ leBytes 8 (256 + body.length) ++ leBytes 8 check
      ++ leBytes 2 c.nlc ++ leBytes 1 (c.newPrio.getD c.prio) ++ leBytes 1 c.mode ++ leBytes 1 (if c.spec then c.specsz else 0) ++ leBytes 1 c.aging
      ++ leBytes 2 c.capRaw ++ leBytes 8 c.ptroot ++ leBytes 8 c.grptab ++ leBytes 8 c.dgsttab ++ leBytes 8 c.lline
      ++ leBytes 1 c.nll ++ leBytes 7 0 ++ leBytes 8 256 ++ leBytes 8 (sec 0) ++ leBytes 8 (sec 1) ++ leBytes 8 (sec 2)
      ++ leBytes 8 (sec 3) ++ le64 c.ctxdgst ++ leBytes 4 c.dgstidx ++ leBytes 4 c.lastln ++ le64 c.tvb)
  head (fletcherOf (head 0 ++ body)) ++ body

end Sys2Proof.Machine
end

