-- ==== Sys2Proof/Machine/Fetch.lean ====
section
/-! DEFINITION. Fetching the bundle at a strand's program counter, and the checks that come before any slot acts (R295-R307,
orders 1 to 5). -/

namespace Sys2Proof.Machine

/-- What fetch brings a strand: a bundle at an address, a precise trap with its EPC, or, of a long run of pads, the line to go on
from. -/
inductive Fetched where
  | bundle (addr : W64) (b : Bundle)
  | trap (epc : W64) (t : Trap)
  | more (pc : W64)
  deriving DecidableEq, Repr

/-- The first byte of the next line. -/
def nextLine (pc : W64) : W64 := BitVec.ofNat 64 ((pc.toNat / 64 + 1) * 64)

/-- The bytes of the line at `pc`, from that byte on, or the trap of R307 order 1. -/
def State.lineAt (s : State) (c : Nat) (pc : W64) : Except Trap (List Byte) × State :=
  match s.reach1 c pc.toNat .fetch with
  | (.error e, s) => (.error (e.trap .fetch), s)
  | (.ok l, s) =>
    let n := 64 - pc.toNat % 64
    match s.hole c true [(l, n)] with
    | some (pa, st) => (.error ((Fail.mem pa st).trap .fetch), s)
    | none => (.ok (s.readLoc l n), s)

/-- Fetch from `pc` on, over at most as many pads as there is fuel (R296, R297 conditions 0 and 1). -/
def State.fetchFrom (c : Nat) : Nat → State → W64 → Fetched × State
  | 0, s, pc => (.more pc, s)
  | fuel + 1, s, pc =>
    match s.lineAt c pc with
    | (.error t, s) => (.trap pc t, s)
    | (.ok bs, s) =>
      match decodeBundle (64 - pc.toNat % 64) bs with
      | .ok (some b) => (.bundle pc b, s)
      | .ok none => State.fetchFrom c fuel s (nextLine pc)
      | .error (.illb c) => (.trap pc (trap0 cILLB c), s)
      | .error (.illop n) => (.trap pc (illop n 0), s)

/-- Pads that one attempt to issue skips. -/
def padFuel : Nat := 8

/-- Fetch for a strand. -/
def State.fetch (s : State) (t : Nat) : Fetched × State := s.fetchFrom (lcOf t) padFuel (s.strand t).pc

/-- Whether an address lies in the body of an active nest (R341, R342: a trap handler's bundles do not). -/
def Strand.inBody (st : Strand) (pc : W64) : Bool :=
  st.loopd != 0 && !st.tm && decide (st.loopStart ≤ pc) && decide (pc < st.loopEnd)

/-- The instructions of a bundle, by slot bit, once every word is one with a K literal that it allows; else the lowest slot that is
not (R307 order 3, R310). -/
def slotInstrs (k : W32) : List (Nat × Option Instr) → Except Nat (List (Nat × Instr))
  | [] => .ok []
  | (n, none) :: _ => .error n
  | (n, some i) :: t =>
    if !i.kOk k then .error n
    else match slotInstrs k t with
      | .error m => .error m
      | .ok r => .ok ((n, i) :: r)

/-- Orders 2 and 3 of R307: ILLB, by what the opcodes of the slots say, then ILLOP. -/
def Strand.formTrap (st : Strand) (pc : W64) (b : Bundle) : Except Trap (List (Nat × Instr)) :=
  match illbOf (st.inBody pc) b.k (bundleRaws b) with
  | some c => .error (trap0 cILLB c)
  | none =>
    match slotInstrs (b.k.getD 0) (bundleInstrs b) with
    | .error n => .error (illop n 0)
    | .ok is => .ok is

/-- The state in which a bundle's slots act: the issuing strand with the flags of results written by now, all of them where the bundle
holds a TFENCE (R349), and a latch that holds its
registers, the logical core's memory and what the slots need of the bundle (R298, R304). -/
def State.prepare (s : State) (t : Nat) (pc : W64) (b : Bundle) (is : List (Nat × Instr)) : State :=
  let fence := is.any (fun e => match e.2 with
    | .tfence g => (s.strand t).pGet g.p.toNat != g.neg
    | _ => false)
  let s := s.modStrand t (fun st => if fence then st.allFlags else st.settleFlags s.cycle)
  { s with
    cur := t
    latch :=
      { Latch.empty with
        addr := pc, len := b.len, k := b.k, opnd := some (s.strand t), peers := is.map (·.2),
        memBefore := some (s.lc (lcOf t)).loc, calm := (s.strand t).acc.isEmpty && s.fabricIdle t } }

/-- A slot's guard: whether it may be read, and whether it holds (R302, R305). -/
def State.guardOf (s : State) (i : Instr) : Bool × Bool :=
  match i.guard with
  | none => (true, true)
  | some g => (s.op.readable (.p g.p.toNat), s.holds g)

/-- The PRIV of an instruction before operands are tested for latency (R307 order 4, R351): STATUS, by its value, where the operand
may be read. -/
def State.privOf (s : State) (i : Instr) : Option Trap :=
  match i with
  | .mts _ num a =>
    if num = 0 && !(gName a).all s.op.readable then (if mtsTrapOnly 0 && !s.op.tm then some (trap0 cPRIV 0) else none)
    else s.mtsPriv num.toNat (s.gv a)
  | .eret _ => if s.op.tm then none else some (trap0 cPRIV 0x1FFF)
  | .tinv _ _ _ _ _ _ => if s.op.tm && s.myCtx.pager then none else some (trap0 cPRIV 0x1FFF)
  | _ => none

/-- LATV of a register read by a slot (R305). -/
def latv (slot : Nat) (r : RegName) : Trap := trap0 cLATV (r.num % 64 * 1024 + r.file * 16 + slot)

/-- The LATV of a slot: its guard, or, where it acts, the first source inside its producer's latency. -/
def State.latvOf (s : State) (slot : Nat) (i : Instr) : Option Trap :=
  match i.guard, s.guardOf i with
  | some g, (false, _) => some (latv slot (.p g.p.toNat))
  | _, (_, false) => none
  | _, (_, true) => ((i.srcs s.kLit).find? (fun r => !s.op.readable r)).map (latv slot)

/-- Orders 4 and 5 of R307 in a prepared state. -/
def State.screen (s : State) (is : List (Nat × Instr)) : Option Trap :=
  firstOf (is.map (fun e =>
      match s.guardOf e.2 with
      | (true, true) => s.privOf e.2
      | (true, false) => none
      | (false, _) => none)
    ++ is.map (fun e => s.latvOf e.1 e.2))

/-- What an attempt to issue comes to before any slot acts. -/
inductive Attempt where
  /-- a precise trap with this EPC -/
  | trap (epc : W64) (t : Trap)
  /-- the slots may act in the prepared state -/
  | go (is : List (Nat × Instr))
  /-- only pads so far -/
  | skip (pc : W64)
  deriving DecidableEq, Repr

/-- Fetch and orders 1 to 5 of R307 for a strand; with `go`, the state answered is prepared. -/
def State.attempt (s : State) (t : Nat) : Attempt × State :=
  match s.fetch t with
  | (.trap pc tr, s) => (.trap pc tr, s)
  | (.more pc, s) => (.skip pc, s)
  | (.bundle pc b, s) =>
    match (s.strand t).formTrap pc b with
    | .error tr => (.trap pc tr, s)
    | .ok is =>
      let s := s.prepare t pc b is
      match s.screen is with
      | some tr => (.trap pc tr, s)
      | none => (.go is, s)

end Sys2Proof.Machine
end

