-- ==== Sys2Proof/Machine/Ready.lean ====
section
/-! DEFINITION. When a blocked strand becomes ready (R83, R85, R111, R128), and the rebalance, which looks at the strands of
logical cores that are not resident. -/

namespace Sys2Proof.Machine

/-- The meaning of an instruction that can block its bundle before issue (R83, R424); of any other, nothing. -/
def slotWait (i : Instr) (s : State) : Out :=
  match i with
  | .waitf g a b => execWaitf g a b s
  | .sts g d a b fn => execSts g d a b fn s
  | .bteStart g d a b fn => execBteStart g d a b fn s
  | .rst g d a scope cls fn => execRst g d a scope cls fn s
  | .rld g d a scope cls fn => execRld g d a scope cls fn s
  | .rat g d a scope cls fn => execRat g d a scope cls fn s
  | .fence g d a scope cls fn => execFence g d a scope cls fn s
  | .cbfence g => execCbfence g s
  | .tinv g d a scope cls fn => execTinv g d a scope cls fn s
  | .mma g a b c fn => execMma g a b c fn s
  | .mloadw g a b c fn => execMloadw g a b c fn s
  | .mdrain g a b c fn => execMdrain g a b c fn s
  | .mzero g a b c fn => execMzero g a b c fn s
  | .maccld g a b c fn => execMaccld g a b c fn s
  | .epload g a b c fn => execEpload g a b c fn s
  | .arwait g a b c fn => execArwait g a b c fn s
  | .arwaitm g a b c fn => execArwaitm g a b c fn s
  | .efence g a b c fn => execEfence g a b c fn s
  | .skupd g a b c fn => execSkupd g a b c fn s
  | .skqry g a b c fn => execSkqry g a b c fn s
  | .skadd g a b c fn => execSkadd g a b c fn s
  | .skclr g a b c fn => execSkclr g a b c fn s
  | .coll g a b c fn => execColl g a b c fn s
  | .qpush g a b c fn => execQpush g a b c fn s
  | .qpop g a b c fn => execQpop g a b c fn s
  | .launch g a b c fn => execLaunch g a b c fn s
  | .gbar g a b c fn => execGbar g a b c fn s
  | .specb g a b c fn => execSpecb g a b c fn s
  | .specc g a b c fn => execSpecc g a b c fn s
  | .speca g a b c fn => execSpeca g a b c fn s
  | .dgst g a b c fn => execDgst g a b c fn s
  | _ => .next s

/-- How an instruction of a prepared bundle would fare, and the state it would leave. -/
def State.slotFate (s : State) (slot : Nat) (i : Instr) : State :=
  match slotWait i { s with latch := { s.latch with slot := slot } } with
  | .next s' => s'
  | .fault _ => s
  | .refused _ => s

/-- Whether a state left by a slot shows it blocked, with nothing new to note: a barrier arrival not yet made is made by issuing. -/
def Strand.stillBlocked (st : Strand) (t : Nat) (s' : State) : Bool :=
  s'.latch.out == .blocked && (s'.strand t).gbar == st.gbar && (s'.strand t).dgst == st.dgst
    && (s'.strand t).popWait == st.popWait && (s'.strand t).accNo == st.accNo

/-- Whether the bundle at a strand's PC would block before issue (R83); one that would trap does not (R307). -/
def State.wouldBlock (s : State) (t : Nat) : Bool :=
  match s.attempt t with
  | (.go is, s') =>
    let ends := is.map (fun e => s'.slotFate e.1 e.2)
    ends.any (fun e => (s.strand t).stillBlocked t e) && ends.all (fun e => match e.latch.out with
      | .trapped _ => false
      | .ok => true
      | .blocked => true
      | .stalled => true)
  | (.trap _ _, _) => false
  | (.skip _, _) => false

/-- STEP with EINFO `info`, the strand's PC being the next fetch address (R352, R461). -/
def State.stepTrap (s : State) (t info : Nat) : State :=
  let back := (s.strand t).blk == .yielded
  let pc := (s.strand t).pc
  let s := (s.modStrand t (fun st => { st with stepWait := none })).enterTrap t (trap0 cSTEP info) pc
  if back && (s.strand t).occ then s.modStrand t (fun st => { st with blk := .yielded }) else s

/-- The end of a step-drain wait on commands `ids` (R461): EFLT of one that faulted, in place of STEP, or STEP once all have
completed. -/
def State.stepDrain (s : State) (t : Nat) (ids : List Nat) : State :=
  let c := s.lc (lcOf t)
  match c.unreported (t % 4) (fun k => ids.contains k.id) with
  | some k =>
    let tr := c.reportTrap k
    let pc := (s.strand t).pc
    ((s.markReported (lcOf t) k.id).modStrand t (fun st => { st with stepWait := none })).enterTrap t tr pc
  | none => if c.edt.any (fun k => ids.contains k.id) then s else s.stepTrap t 0

/-- STRAND_READY (R83, R85): on a resident logical core, a strand blocked before issue whose condition has come true, or one blocked
after issue whose results are written and whose checkpoint is compared; a SYSC, BRKP or STEP of its bundle is entered then (R347, R461). -/
def execStrandReady (t : Nat) (s : State) : Out :=
  let st := s.strand t
  if !st.occ || (s.lc (lcOf t)).core.isNone then .next s
  else match st.blk with
    | .before => .next (if s.mayRun t && !s.wouldBlock t then s.modStrand t (fun st => { st with blk := .ready }) else s)
    | .after =>
      if !s.resultsIn t || st.dgst.isSome || (s.lc (lcOf t)).stopping then .next s
      else match st.late, st.stepWait with
        | some tr, _ => .next ((s.modStrand t (fun st => { st with late := none })).enterTrap t tr st.pc)
        | none, some ids => .next (s.stepDrain t ids)
        | none, none => .next (s.modStrand t (fun st => { (st.flagsOf st.since) with blk := .ready }))
    | .ready => .next s
    | .yielded => .next s
    | .halted => .next s

/-- REBALANCE of a die, every 2,500 cycles (R106). -/
def execRebalance (die : Nat) (s : State) : Out :=
  .next (if die < 8 ∧ tget 0 s.nextReb die ≤ s.cycle ∧ s.power = .ready then s.rebalance die (fun t s => !s.wouldBlock t) else s)

end Sys2Proof.Machine
end

