-- ==== Sys2Proof/Machine/Preempt.lean ====
section
/-! DEFINITION. Pre-emption (R126-R132): the collector of a context, the acknowledgement of each engine instance at its unit, and
what follows once all have acknowledged: a freeze's image (R69, R132) or a serial re-execution (R156). Digest checkpoints
(R155, R156, R455). -/

namespace Sys2Proof.Machine

/-! ### The collector (R130, R131) -/

/-- The instances that hold an acknowledgement bit (R130); those of non-resident logical cores are set from the start, but of those with a
satisfied barrier or a checkpoint still to finish (R453). -/
def State.stopInsts (s : State) (x : Nat) : List StopInst :=
  ((s.lcKeys x).filter (fun l => (s.lc l).core.isSome || (strandsOf l).any (fun t => (s.strand t).owesIssue || (s.strand t).dgstOut))).flatMap (fun l => [.strands l, .matrix l, .bte l])
    ++ (List.range 8).flatMap (fun d => [.sketch d, .bellows d, .hearth d, .fabric d])

/-- The stop request of a pre-emption goes out (R131). -/
def State.startStop (s : State) (x : Nat) (cause : StopCause) : State :=
  s.modCtx x (fun c => { c with coll := some { cause := cause, waiting := s.stopInsts x } })

/-- Pre-emption is released: every instance runs on. -/
def State.releaseStop (s : State) (x : Nat) : State :=
  let s := s.modCtx x (fun c => { c with coll := none, freezeRec := none })
  (s.lcKeys x).foldl (fun s l => s.modLc l (fun c => { c with stopping := false, mstop := false })) s

/-- Whether an instance has acknowledged. -/
def Collector.acked (c : Collector) (i : StopInst) : Bool := !c.waiting.contains i

/-- Sets an instance's bit. -/
def State.ackStop (s : State) (x : Nat) (i : StopInst) : State :=
  s.modCtx x (fun c => { c with coll := c.coll.map (fun k => { k with waiting := k.waiting.filter (fun w => w != i) }) })

/-- Whether a channel holds a slot reserved by a strand (R128). -/
def Ctx.reserves (c : Ctx) (t : Nat) : Bool :=
  c.graphs.any (fun g => g.cst.any (fun r => r.slots.any (fun e =>
    match e.2 with
    | .reserved _ u _ => u == t
    | .empty => false
    | .published _ _ => false
    | .claimed => false)))

/-- Whether a strand stands at a point where its pipeline may stop (R128, R453): its accesses are performed, its channel entries
published, no result is awaited but those of a step-drain wait, and no satisfied barrier is still to issue. -/
def State.strandAtPoint (s : State) (t : Nat) : Bool :=
  let st := s.strand t
  st.acc.isEmpty && !(s.ctx (slotOfStrand t)).reserves t && s.resultsIn t && !s.finishing t && (st.blk != .after || st.stepWait.isSome)

/-- A strand whose step waits takes its trap: a step-drain wait still in progress ends with STEP, EINFO 1 (R461). -/
def State.stopStep (s : State) (t : Nat) : State :=
  match (s.strand t).blk, (s.strand t).stepWait with
  | .after, some ids =>
    let s := s.stepDrain t ids
    if (s.strand t).stepWait.isSome then s.stepTrap t 1 else s
  | _, _ => s

/-- The strand pipeline and the dependency table of a logical core stop: every issued result is written (R128, R306). -/
def State.stopStrands (s : State) (l : Nat) : State :=
  let s := (strandsOf l).foldl State.stopStep s
  let s := (strandsOf l).foldl (fun s t => if (s.strand t).occ then s.modStrand t Strand.settle else s) s
  s.modLc l (fun c => { c with stopping := true, issuing := none })

/-- The rows of the array-path command that runs: up to `units` of those left but for the last (R127, R129). -/
def State.stopRows (s : State) (l units : Nat) : State :=
  match (s.lc l).edt.find? (fun k => k.st == 2 && k.fault.isNone && (k.kind == .mma || k.kind == .maccld)) with
  | none => s
  | some k =>
    let n := min units (shapeM k.b.toNat - k.pos - 1)
    if k.kind == .mma then s.mmaRows l k n else s.maccldRows l k n

/-- The keys of a die's sketch commands that are done when the unit stops: up to `units` of those left but for the last. -/
def State.stopSketch (s : State) (x d units : Nat) : State :=
  (s.lcsOn x d).foldl (fun s l =>
    if (s.lc l).core.isNone then s
    else (s.lc l).edt.foldl (fun s k =>
      let idle := (s.lc l).edt.takeWhile (fun y => y.id != k.id)
      let free := idle.all (fun y => !(y.isSketch && y.strand == k.strand && y.sketchDescs.any (fun a => k.sketchDescs.contains a)))
      if k.isSketch && k.snapped && k.fault.isNone && free then
        let n := min units (k.sketchUnits - k.rows - 1)
        (State.sketchRun l k.id (k.rows + n) (8 * n) s).modCmd l k.id (fun k => { k with vals := [] })
      else s) s) s

/-- Whether Bellows of a die stands at a segment boundary for a context (R127): no segment of the context is on its way, and none that has
reached a logical core of the die goes on from there. -/
def State.bellowsAtPoint (s : State) (x d : Nat) : Bool :=
  !s.onTheWay (fun f => f.typ == 7 && bitsOf f.note 47 24 == s.ctxid x) && s.inbox.all (fun e =>
    let f := e.2
    let l := f.note % 2 ^ 24
    !(f.typ == 7 && slotOf l == x && (s.lc l).die == d) ||
      match s.matched l (bitsOf f.addr 45 38) (bitsOf f.note 79 48) with
      | some k => !s.segDue l k f
      | none => true)

/-- Whether the remote stores of a logical core's BTE have all been injected (R489). -/
def State.pushesSent (s : State) (l : Nat) : Bool :=
  s.outq.all (fun h => h.purpose.engineOf != some l) && s.txns.all (fun t => t.injected || t.purpose.engineOf != some l)

/-- Whether the strand pipelines of a context's logical cores on a die have all acknowledged. -/
def State.strandsAcked (s : State) (x d : Nat) (c : Collector) : Bool :=
  (s.lcsOn x d).all (fun l => c.acked (.strands l))

/-- ENGINE_STOP_ACK (R127, R131): an instance reaches its unit, after those whose work it depends on, and its bit sets. `units` is
how many further rows or keys its running command has done by then. -/
def execEngineStopAck (slot : Nat) (inst : StopInst) (units : Nat) (s : State) : Out :=
  match (s.ctx slot).coll with
  | none => .next s
  | some c =>
    if c.acked inst then .next s
    else match inst with
      | .strands l => .next (if (strandsOf l).all s.strandAtPoint then (s.stopStrands l).ackStop slot inst else s)
      | .matrix l =>
        if !c.acked (.strands l) || !(s.lc l).epi.all (fun e => e.op == 0 && e.out.isNone) then .next s
        else .next (((s.stopRows l units).modLc l (fun k => { k with mstop := true })).ackStop slot inst)
      | .bte l => .next (if c.acked (.strands l) && s.pushesSent l then s.ackStop slot inst else s)
      | .sketch d =>
        if !s.strandsAcked slot d c then .next s
        else
          let s := s.stopSketch slot d units
          .next (if (s.ctx slot).coll.isSome then s.ackStop slot inst else s)
      | .bellows d => .next (if s.strandsAcked slot d c && s.bellowsAtPoint slot d then s.ackStop slot inst else s)
      | .hearth _ => .next (s.ackStop slot inst)
      | .fabric d =>
        .next (if s.strandsAcked slot d c && (s.lcsOn slot d).all (fun l => c.acked (.bte l)) && c.acked (.sketch d) && c.acked (.bellows d)
            && s.txns.all (fun t => !(t.slot == slot && t.die == d)) && s.outq.all (fun h => !(h.slot == slot && h.die == d)) then s.ackStop slot inst else s)

/-! ### Freeze (R69, R132) -/

/-- An image made before a serial re-execution, with the priority and the dirty bitmap as they stand now (R69, R157). -/
def Ctx.reimage (c : Ctx) (img : List Byte) : List Byte :=
  let off := fld img 112 8
  let body := slice img 256 (off - 256) ++ pad256 c.dirtyBytes
  let head := fun (check : Nat) =>
    img.take 16 ++ leBytes 8 (256 + body.length) ++ leBytes 8 check ++ slice img 32 2 ++ leBytes 1 (c.newPrio.getD c.prio) ++ slice img 35 221
  head (fletcherOf (head 0 ++ body)) ++ body

/-- Elements that have saturated in a collective that is not finished are noted in its record in the image, which has no other place for
them; a context that runs on is not changed by it (R145, log entry 19). -/
def State.noteSaturation (s : State) (x : Nat) : State :=
  (s.lcKeys x).foldl (fun s l => (s.lc l).edt.foldl (fun s k =>
    if k.kind == .coll && k.snapped && k.sat then
      match clRecord l k.snap with
      | some (r, a) => s.arSat r a
      | none => s
    else s) s) s

/-- An image has been written: what it leaves out is noted beside it (R150; log entry 22). -/
def State.noteUnsaid (s : State) (x : Nat) (img : List Byte) : State :=
  let lc := fun (l : Nat) =>
    let c := s.lc l
    ({ opener := c.opener, counts := c.collCount, buds := c.edt.map (·.bank.bud), nums := c.edt.map (·.pos) } : UnsaidLc)
  { s with unsaid := { image := img, digests := (sortGraphs (s.ctx x).graphs).map (·.dgst), lcs := (s.lcKeys x).map lc } :: s.unsaid }

/-- What was noted of an image holds of another made from it. -/
def State.renoteUnsaid (s : State) (old new : List Byte) : State :=
  match s.unsaid.find? (fun u => u.image == old) with
  | some u => { s with unsaid := { u with image := new } :: s.unsaid }
  | none => s

/-- EVICT of a FREEZE record. -/
def CmdRec.evict (r : CmdRec) : Bool := bitOf (recArg r.bytes 2) 0

/-- The end of a freeze whose collector is complete: the image, CMDDONE, and eviction; with SPACE nothing else has an effect (R64, R69). -/
def State.finishFreeze (s : State) (x : Nat) (r : CmdRec) : State :=
  let id := s.ctxid x
  let img := if (s.ctx x).serialImg.isEmpty then (s.noteSaturation x).image x else (s.ctx x).reimage (s.ctx x).serialImg
  if recArg r.bytes 1 < img.length then (s.releaseStop x).cmdDone r id stSPACE img.length
  else
    let s := if (s.ctx x).serialImg.isEmpty then s.noteUnsaid x img else s.renoteUnsaid (s.ctx x).serialImg img
    let s := (s.pwrite none false (recArg r.bytes 0) img).cmdDone r id stOK img.length
    if r.evict then s.release x else s.releaseStop x

/-- FREEZE_TIMEOUT (R69): the collector is not complete when the time-out passes. -/
def execFreezeTimeout (slot : Nat) (s : State) : Out :=
  match (s.ctx slot).coll, (s.ctx slot).freezeRec with
  | some c, some r =>
    match c.cause with
    | .freeze deadline =>
      .next (if deadline ≤ s.cycle ∧ !c.waiting.isEmpty then (s.releaseStop slot).cmdDone r (s.ctxid slot) stTIMEOUT 0 else s)
    | .serial _ _ => .next s
  | _, _ => .next s

/-! ### Serial re-execution (R156) -/

/-- A slot without its firing: its assignment stays where the graph does. -/
def Strand.dropFiring (st : Strand) (now : Nat) (keep : Bool) : Strand :=
  { Strand.idle with
    since := now, assign := if keep then st.assign else none, reserved := st.reserved && keep, marked := st.marked && keep }

/-- The firings, commands, open regions and barrier bits of the graphs `fam` are discarded; the slots of all but `gid` are free. -/
def State.discardWork (s : State) (x gid : Nat) (fam : List Nat) : State :=
  let ls := s.lcKeys x
  let ts := ls.flatMap strandsOf
  let mine := ts.filter (fun t => (s.strand t).occ && fam.contains (s.strand t).gid)
  let keys := mine.map (fun t => (s.strand t).fkey)
  let bars := mine.flatMap (fun t => (s.strand t).gbar.map (fun m => (m.group, lcOf t)))
  let s := ts.foldl (fun s t =>
    let st := s.strand t
    let home := (st.assign.map (·.1)).getD 0
    let drop := st.assign.isSome && fam.contains home && home != gid
    if mine.contains t then s.modStrand t (fun st => st.dropFiring s.cycle (!drop))
    else if drop then s.modStrand t (fun st => { st with assign := none, reserved := false, marked := false })
    else s) s
  let s := bars.foldl (fun s b =>
    if (strandsOf b.2).any (fun t => (s.strand t).gbar.any (fun m => m.group == b.1 && !m.met)) then s
    else s.modCtx x (fun c => { c with gbar := tset [] c.gbar b.1 ((tget [] c.gbar b.1).filter (fun m => m != lcNum b.2)) })) s
  ls.foldl (fun s l => s.modLc l (fun c =>
    let gone := (c.edt.filter (fun k => fam.contains k.gid)).map (·.id)
    let shut := c.act && keys.contains c.opener
    { c with
      edt := c.edt.filter (fun k => !gone.contains k.id), mq := c.mq.filter (fun i => !gone.contains i),
      epi := if c.epi.any (fun e => gone.contains e.cmd) then none else c.epi, csig := c.csig.filter (fun e => !gone.contains e.1),
      act := c.act && !shut, fill := if shut then [] else c.fill, opener := if shut then 0 else c.opener })) s

/-- A graph as instantiated, to be run again on one strand, its channels raised to their producers' NFIRE (R156). -/
def Graph.again (g : Graph) (n now : Nat) : Graph :=
  { g with
    sst := g.stages.map (fun _ => { nextq := 0, ended := 0 }),
    cst := g.chans.map (fun _ => { head := 0, tail := 0, pops := 0, pushes := 0, slots := [] }),
    dgst := 0, lastProgress := now, reported := false, serial := some { n := n, v := 0 }, wide := true }

/-- Steps 3 to 5 of R156: graph `gid` starts over, alone; what its firings had added to the context digest is taken back. -/
def State.beginSerial (s : State) (x gid n : Nat) : State :=
  let img := (s.noteSaturation x).image x
  let c := s.ctx x
  let fam := c.family gid
  let gids := fam.map (·.gid)
  let back := fam.foldl (fun a g => a + g.dgst) (0 : W64)
  let s := (s.noteUnsaid x img).discardWork x gid gids
  let s := s.modCtx x (fun c =>
    { c with
      graphs := (c.graphs.filter (fun g => g.gid == gid || !gids.contains g.gid)).map (fun g => if g.gid == gid then g.again n s.cycle else g),
      ctxdgst := c.ctxdgst - back, serialImg := img })
  s.releaseStop x

/-- PREEMPTION_COMPLETE (R131): every bit is set, and the cause proceeds. -/
def execPreemptionComplete (slot : Nat) (s : State) : Out :=
  match (s.ctx slot).coll with
  | none => .next s
  | some c =>
    if !c.waiting.isEmpty then .next s
    else match c.cause with
      | .serial gid n => .next (s.beginSerial slot gid n)
      | .freeze _ =>
        match (s.ctx slot).freezeRec with
        | some r => .next (s.finishFreeze slot r)
        | none => .next s

/-! ### Checkpoints (R155, R156, R455) -/

/-- DGSTMIS for checkpoint `n` of a graph with flags (R495). -/
def State.dgstMis (s : State) (x n flags : Nat) (g : Graph) : State :=
  s.report evDGSTMIS (s.ctxid x) 0 srcPackage 0 (g.launch % 2 ^ 32 + n * 2 ^ 32) flags g.key.toNat

/-- DGSTMIS with a flag, and the kill with cause 3 that follows (R157, R455). -/
def State.dgstKill (s : State) (x n flags : Nat) (g : Graph) (epc : W64) : State := (s.dgstMis x n flags g).kill x 3 cDGST epc.toNat

/-- The strands that wait, not issued, at checkpoint `n` for some graph of `fam`, their own commands complete. -/
def State.dgstWaiters (s : State) (x n : Nat) (fam : List Graph) : List Nat :=
  ((s.lcKeys x).flatMap strandsOf).filter (fun t =>
    let st := s.strand t
    st.occ && st.blk == .before && st.dgst == some n && !st.dgstGo && fam.any (fun g => g.gid == st.gid)
      && !(s.lc (lcOf t)).edt.any (fun k => k.strand == t % 4))

/-- The strands of some graph of `fam` that wait at a QPOP for an entry of a producer all of whose unended firings are among the waiters
`ws`: the checkpoint forms without them (R456). -/
def State.popWaiters (s : State) (x : Nat) (fam : List Graph) (ws : List Nat) : List Nat :=
  ((s.lcKeys x).flatMap strandsOf).filter (fun t =>
    let st := s.strand t
    st.occ && st.blk == .before && !(s.lc (lcOf t)).edt.any (fun k => k.strand == t % 4) && fam.any (fun g => g.gid == st.gid &&
      match st.popWait.bind (fun ch => g.stages.findIdx? (fun d => d.outmask.getLsbD ch)) with
      | none => false
      | some i =>
        let at' := (ws.filter (fun t => (s.strand t).gid == g.gid && (s.strand t).stage == i)).length
        decide (0 < at') && decide (g.nfire i ≤ (g.stageS i).ended + at')))

/-- The strands whose DGST of checkpoint `n` has issued, of some graph of `fam`. -/
def State.dgstIssued (s : State) (x n : Nat) (fam : List Graph) : List Nat :=
  ((s.lcKeys x).flatMap strandsOf).filter (fun t =>
    let st := s.strand t
    st.occ && st.dgstOut && st.dgst == some n && fam.any (fun g => g.gid == st.gid))

/-- Whether every firing of the graphs has ended, or stands at the checkpoint with those of `ws`, one of graph `gid` among them
(R155 step 1). -/
def State.dgstFull (s : State) (x gid : Nat) (fam : List Graph) (ws : List Nat) : Bool :=
  let all := ws ++ s.popWaiters x fam ws
  ws.any (fun t => (s.strand t).gid == gid) && fam.all (fun g => g.live && (List.range g.stages.length).all (fun i =>
    decide (g.nfire i ≤ (g.stageS i).ended + (all.filter (fun t => (s.strand t).gid == g.gid && (s.strand t).stage == i)).length)))

/-- Whether the waiting firings may issue their DGSTs: all that a checkpoint needs have come to it (R455). -/
def State.dgstReady (s : State) (x gid n : Nat) (fam : List Graph) : Bool :=
  !(s.dgstWaiters x n fam).isEmpty && s.dgstFull x gid fam (s.dgstWaiters x n fam ++ s.dgstIssued x n fam)

/-- Whether the checkpoint forms: every DGST of it has issued. -/
def State.dgstForms (s : State) (x gid n : Nat) (fam : List Graph) : Bool := s.dgstFull x gid fam (s.dgstIssued x n fam)

/-- V (R155 step 2). -/
def State.dgstSum (s : State) (x n : Nat) (fam : List Graph) : W64 :=
  let ws := s.dgstIssued x n fam
  (ws ++ s.popWaiters x fam ws).foldl (fun a t => a + (s.strand t).digestTerm) (fam.foldl (fun a g => a + g.dgst) 0)

/-- The strand that came last to the checkpoint. -/
def State.dgstLast (s : State) (ws : List Nat) : Nat :=
  ws.foldl (fun b t => if (s.strand b).since ≤ (s.strand t).since then t else b) (ws.headD 0)

/-- The waiting firings may issue their DGSTs. -/
def State.dgstLet (s : State) (ws : List Nat) : State :=
  ws.foldl (fun s t => s.modStrand t (fun st => { st with dgstGo := true, blk := .ready })) s

/-- A checkpoint is passed: the lowest index not yet passed is noted, and the waiting firings are released; one whose logical core has left
its core meanwhile is ready. -/
def State.dgstPass (s : State) (x n : Nat) (ws : List Nat) : State :=
  let s := s.modCtx x (fun c => { c with dgstidx := max c.dgstidx (n + 1) })
  ws.foldl (fun s t => s.modStrand t (fun st =>
    { st with dgst := none, dgstGo := false, blk := if st.parked && (s.lc (lcOf t)).core.isNone then .ready else st.blk })) s

/-- A FREEZE that a serial re-execution comes before is queued again (R157). -/
def State.requeueFreeze (s : State) (x : Nat) : State :=
  match (s.ctx x).freezeRec with
  | some r => { (s.modCtx x (fun c => { c with freezeRec := none })) with cmdQ := r :: s.cmdQ }
  | none => s

/-- The checkpoint's entry is read, and recorded or compared (R155 steps 3 and 4); on a mismatch the waiting firings take DGST traps at
their bundles, which the runtime handles (R156). -/
def State.dgstCheck (s : State) (x n : Nat) (g : Graph) (fam : List Graph) : State :=
  let ws := s.dgstIssued x n fam
  let v := s.dgstSum x n fam
  let epc := (s.strand (s.dgstLast ws)).dgstAt
  let va := ((s.ctx x).dgsttab + 16 * n) % 2 ^ 64
  match s.vread (launchLc x) va 16 with
  | (.error _, s) => s.dgstKill x n 2 g epc
  | (.ok bs, s) =>
    let b8 := fld bs 8 1
    if bitOf b8 0 then
      match s.vwrite (launchLc x) va (leBytes 8 v.toNat ++ leBytes 1 (b8 - 1)) with
      | (.error _, s) => s.dgstKill x n 2 g epc
      | (.ok _, s) => s.dgstPass x n ws
    else if fld bs 0 8 = v.toNat then s.dgstPass x n ws
    else ((ws.foldl (fun s t => s.modStrand t (fun st =>
        { st with blk := .ready, ecause := BitVec.ofNat 64 cDGST, einfo := BitVec.ofNat 64 n, epc := st.dgstAt, pc := st.dgstAt, dgst := none,
                  dgstGo := false })) (s.dgstMis x n 0 g)).requeueFreeze x).startStop x (.serial g.gid n)

/-- Whether an outcome is the state as it was. -/
def sameAs (s : State) (o : Out) : Bool :=
  match o with
  | .next t => decide (t = s)
  | .fault _ => false
  | .refused _ => false

/-- Whether no step of its engine changes anything for a command. -/
def State.cmdIdle (s : State) (l : Nat) (k : Cmd) : Bool :=
  [execEngineCommandReady l k.id s, execMatrixCommandStart l k.id s, execMloadwComplete l k.id s, execMmaComplete l k.id s,
   execMzeroComplete l k.id s, execMaccldComplete l k.id s, execEploadComplete l k.id s, execMdrainRowWritten l k.id s,
   execBteAccept l k.id s, execBteChunkPerformed l k.id s, execDecodeStall l k.id s, execBteCommandComplete l k.id s,
   execSketchAccept l k.id s, execSketchCommandComplete l ⟨k.id, 0⟩ s, execCollAccept l k.id s, execCollComplete l k.id s].all (sameAs s)

/-- Whether the engines of a context have nothing left to do: no command moves, and no segment is on its way or due (R157). -/
def State.enginesIdle (s : State) (x : Nat) : Bool :=
  (s.lcKeys x).all (fun l => (s.engLc l).edt.all (s.cmdIdle l) && (s.engLc l).epi.isNone) && (List.range 8).all (s.bellowsAtPoint x) && s.outq.all (fun h => h.slot != x)

/-- Whether a wait before issue is one that only the context's own strands and engines can end: a flag may be written by others, and what
a LAUNCH lacks may be freed by others (R157). -/
def waitsWithin : Instr → Bool
  | .waitf _ _ _ => false
  | .launch _ _ _ _ _ => false
  | _ => true

/-- The bundle at which the strand of a serial re-execution waits, if only a later firing could end the wait: nothing else of the context is
left that could. -/
def State.serialStuck (s : State) (x : Nat) (g : Graph) : Option W64 :=
  match s.serialSlot x g.gid with
  | none => none
  | some t =>
    if !(s.strand t).occ || (s.strand t).blk != .before || !s.wouldBlock t || s.txns.any (fun k => k.slot == x)
        || s.stuck.any (fun k => agentSlot k.agent == x)
        || !s.enginesIdle x || (s.lcKeys x).any (fun l => (strandsOf l).any (fun u => !s.heldBack u && !(s.strand u).acc.isEmpty)) then none
    else match s.attempt t with
      | (.go is, s') => if is.any (fun e => waitsWithin e.2 && (s'.slotFate e.1 e.2).latch.out == .blocked) then some s'.latch.addr else none
      | (.trap _ _, _) => none
      | (.skip _, _) => none

/-- The end of a serial re-execution (R156): V is written into the entry, and the context continues. -/
def State.endSerial (s : State) (x : Nat) (g : Graph) (r : Serial) : State :=
  match s.vwrite (launchLc x) (((s.ctx x).dgsttab + 16 * r.n) % 2 ^ 64) (leBytes 8 r.v.toNat) with
  | (.error _, s) => s.dgstKill x r.n 2 g 0
  | (.ok _, s) =>
    let s := s.modCtx x (fun c =>
      { c.modGraph g.gid (fun g => { g with serial := none, wide := false, lastProgress := s.cycle }) with dgstidx := max c.dgstidx (r.n + 1), serialImg := [] })
    (List.range g.stages.length).foldl (fun s i => s.freeStage x g.gid i) s

/-- DGST_CHECKPOINT (R83, R155, R156, R455): the firings that wait at checkpoint `n` of a graph may issue; it forms once they have; or, while the graph is re-executed, the serial run ends
or reaches a wait that only a later firing can satisfy (R157). -/
def execDgstCheckpoint (slot gid n : Nat) (s : State) : Out :=
  match (s.ctx slot).graph? gid with
  | none => .next s
  | some g =>
    let fam := (s.ctx slot).family gid
    match g.serial with
      | some r =>
        if !s.active slot then .next s
        else if fam.length = 1 ∧ g.allEnded then .next (s.endSerial slot g r)
        else match s.serialStuck slot g with
          | some epc => .next (s.dgstKill slot r.n 1 g epc)
          | none => .next s
      | none =>
        if (s.ctx slot).serialGraph.isSome || !(s.ctx slot).det then .next s
        else if s.dgstForms slot gid n fam then .next (s.dgstCheck slot n g fam)
        else .next (if s.active slot && s.dgstReady slot gid n fam then s.dgstLet (s.dgstWaiters slot n fam) else s)

end Sys2Proof.Machine
end

