-- ==== Sys2Proof/Machine/Resume.lean ====
section
/-! DEFINITION. Reading a portable image: its checks (R135) and the state it stands for (R136-R149). -/

namespace Sys2Proof.Machine

/-- A 64-bit field. -/
def w64At (l : List Byte) (n : Nat) : W64 := BitVec.ofNat 64 (fld l n 8)
/-- Consecutive 64-bit words. -/
def words64 (l : List Byte) (n k : Nat) : List W64 := (List.range k).map (fun i => w64At l (n + 8 * i))
/-- The elements of a bitmap of `n` bits. -/
def bitsList (x n : Nat) : List Nat := (List.range n).filter (fun i => bitOf x i)
/-- Bytes [a, a + n) of an image where they lie within it. -/
def imgPart (img : List Byte) (a n : Nat) : Option (List Byte) := if a + n ≤ img.length then some (slice img a n) else none

/-! ### Graph records (R144) -/

/-- A channel's record as read, and how many bytes it took. -/
def readChannel (d : ChanD) (l : List Byte) : Chan × Nat :=
  let full := fld l 2 2
  let head := fld l 4 2
  let eb := if d.loc then 0 else d.cap * d.esz
  let sb := if d.ordered then 4 * d.cap else 0
  let bytes := fun (i : Nat) => if d.loc then [] else slice l (32 + i * d.esz) d.esz
  let slots : Tab ChSlot :=
    if d.ordered then
      tlist ChSlot.empty 0 ((List.range d.cap).map (fun i =>
        let q := fld l (32 + eb + 4 * i) 4
        if q = 0xFFFFFFFF then ChSlot.empty else .published q (bytes i)))
    else (List.range (min full d.cap)).foldl (fun t j =>
      let i := (head + j) % d.cap
      tset ChSlot.empty t i (.published 0 (bytes i))) []
  ({ head := head, tail := fld l 6 2, pops := fld l 8 4, pushes := fld l 12 4, slots := slots }, 32 + eb + sb)

/-- Channels one after another. -/
def readChannels : List ChanD → List Byte → List Chan
  | [], _ => []
  | d :: ds, l => let (c, n) := readChannel d l; c :: readChannels ds (l.drop n)

/-- A graph record as read: the graph, and the reserved slots of its stages as (stage, logical core, strand). -/
def readGraphRecord (gid now : Nat) (l : List Byte) : Graph × List (Nat × Nat × Nat) :=
  let n := fld l 2 1
  let m := fld l 3 1
  let depth := fld l 0 1 % 8
  let d : GraphDesc := { hdr := slice l 0x60 64, stab := slice l 0xA0 (64 * n), ctab := slice l (0xA0 + 64 * n) (32 * m) }
  let stages := (parts d.stab 64 n).map stageOf
  let chans := (parts d.ctab 32 m).map chanOf
  let o := 0xA0 + 64 * n + 32 * m
  let nres := (List.range n).map (fun i => fld l (o + 16 * i + 8) 2)
  let sst := (List.range n).map (fun i => ({ nextq := fld l (o + 16 * i) 4, ended := fld l (o + 16 * i + 4) 4 } : StageS))
  let r := o + 16 * n
  let owner := (List.range n).flatMap (fun i => List.replicate (nres.getD i 0) i)
  let held := owner.zipIdx.map (fun e => let v := fld l (r + 4 * e.2) 4; (e.1, v % 4096, v / 4096 % 4))
  ({ gid := gid, live := fld l 1 1 == 0, order := gid, launch := fld l 8 8,
     path := (List.range depth).map (fun i => (fld l (0x10 + 8 * i) 1, fld l (0x14 + 8 * i) 4, fld l (0x12 + 8 * i) 2)),
     parent := none, key := w64At l 0x48, param := w64At l 0x50, hdr := d.hdr, stab := d.stab, ctab := d.ctab, stages := stages,
     chans := chans, sst := sst, cst := readChannels chans (l.drop (r + 4 * owner.length)), dgst := 0, lastProgress := now,
     reported := false, serial := none, wide := false }, held)

/-- The graph records from an offset on. -/
def readGraphs (img : List Byte) (now : Nat) : Nat → Nat → Nat → Option (List (Graph × List (Nat × Nat × Nat)))
  | 0, _, _ => some []
  | n + 1, gid, o =>
    match imgPart img o 0x60 with
    | none => none
    | some h =>
      let z := fld h 0x58 8
      if z < 0x60 then none
      else match imgPart img o z with
        | none => none
        | some l => (readGraphs img now n (gid + 1) (o + z)).map (fun r => readGraphRecord gid now l :: r)

/-- A graph's parent: the graph of its launch whose path is one shorter. -/
def parentIn (gs : List Graph) (g : Graph) : Option Nat :=
  if g.path.isEmpty then none
  else (gs.find? (fun h => h.launch == g.launch && h.path == g.path.dropLast)).map (·.gid)

/-! ### Strand records (R138) -/

/-- A strand record as read, reserved bits of its registers ignored (R7); none where it names no stage of the image. -/
def readStrand (gs : List Graph) (now : Nat) (l : List Byte) : Option Strand :=
  let ss := fld l 0 8
  if !bitOf ss 0 then some Strand.idle
  else
    let fw := fld l 8 8
    match gs[fld l 0x10 4]? with
    | none => none
    | some g =>
      match g.stages[bitsOf fw 31 26]? with
      | none => none
      | some d =>
        let off := fun (n : Nat) => w64At l n + d.entry
        let stat := fld l 0x20 8
        let i := bitsOf fw 31 26
        let q := fw / 2 ^ 32
        some { Strand.idle with
          occ := true, blk := if bitOf ss 2 then .halted else if bitOf ss 1 then .before else .ready, since := now, began := now,
          gid := g.gid, stage := i, q := q, depth := bitsOf fw 25 23, call := fw % 65536, fkey := firingKey g.key i q,
          nchild := fld l 0x14 4, entry := d.entry, pc := off 0x18, tm := bitOf stat 0, sstep := bitOf stat 1, sdrain := bitOf stat 2,
          tvb := tvbOf (fld l 0x28 8), epc := off 0x30, ecause := w64At l 0x38 &&& 0xFF#64, eaddr := w64At l 0x40, einfo := w64At l 0x48,
          aflags := w64At l 0x50 &&& 63#64, amask := w64At l 0x58 &&& 63#64, xv := tlist 0 1 ((words64 l 0x60 3).map (· &&& 31#64)), lnkd := fld l 0x78 8 % 32,
          lnk := tlist 0 0 ((List.range 16).map (fun k => off (0x80 + 8 * k))), lcnt := tlist 0 0 (words64 l 0x100 6),
          loopd := fld l 0x130 8 % 8, loopStart := off 0x138, loopEnd := off 0x140, dgsta := w64At l 0x148, dgste := w64At l 0x150,
          ecmd := fld l 0x158 8, p := BitVec.ofNat 8 (fld l 0x160 1 / 2 * 2), tcfg := tlist 0 0 ((words64 l 0x168 8).map (· &&& 0x3C3F3F#64)),
          tst := tlist 0 0 ((List.range 8).map (fun k => fld l 0x1A8 8 / 4 ^ k % 4)), opush := w64At l 0x1B0, opop := w64At l 0x1B8,
          g := tlist 0 1 (words64 l 0x208 62), qr := tlist 0 1 (words64 l 0x408 7), v := tlist 0 0 (wordsOf (slice l 0x500 0x2000)),
          assign := some (g.gid, i) }

/-! ### Command entries (R140, R141, R149) -/

/-- The kind of a command by its word: below 0x200 a BTE start, since no MMA whose word is so small issues. -/
def kindOfWord (w : Nat) : Option CmdKind :=
  if w < 0x200 then some .bte
  else match w >>> 26 with
    | 0x00 => some .mma
    | 0x01 => some .mloadw
    | 0x02 => some .mdrain
    | 0x03 => some .mzero
    | 0x04 => some .maccld
    | 0x05 => some .epload
    | 0x0D => some .skupd
    | 0x0E => some .skqry
    | 0x0F => some .skadd
    | 0x10 => some .skclr
    | 0x11 => some .coll
    | _ => none

/-- Bytes of the control block of a kind. -/
def CmdKind.snapLen : CmdKind → Nat
  | .bte => 128
  | .epload => 32
  | .coll => 64
  | .skupd => 64
  | .skqry => 64
  | .skclr => 64
  | .skadd => 128
  | .mma => 0
  | .mloadw => 0
  | .mdrain => 0
  | .mzero => 0
  | .maccld => 0

/-- Whether a command of a kind starts again from its beginning (R127). -/
def CmdKind.restarts : CmdKind → Bool
  | .mloadw => true
  | .mzero => true
  | .epload => true
  | .mma => false
  | .mdrain => false
  | .maccld => false
  | .skupd => false
  | .skqry => false
  | .skadd => false
  | .skclr => false
  | .coll => false
  | .bte => false

/-- Bucket counts of a COLL entry. -/
def readBuckets (l : List Byte) (n : Nat) : List Bucket :=
  (List.range n).map (fun b =>
    { signal := bitOf (fld l 80 4) b, run := 0, sent := if b < 14 then fld l (84 + 3 * b) 3 else fld l (192 + 3 * (b - 14)) 3, got := 0 })

/-- Whether a BTE start was refused: its footprint is still the provisional one (R204). -/
def notTaken (kind : CmdKind) (l : List Byte) : Bool :=
  kind == .bte && rangeOf (fld l 48 8) == wholeRange && rangeOf (fld l 64 8) == wholeRange

/-- Command entry `i` as read, of the strands `sts`. -/
def readEntry (sts : List Strand) (i : Nat) (l : List Byte) : Option Cmd :=
  let w := fld l 16 4
  match kindOfWord w, sts[fld l 0 1]? with
  | some kind, some st =>
    let t := fld l 1 1
    let snap := slice l 128 kind.snapLen
    let has := decide (1 ≤ t) && decide (0 < kind.snapLen) && (t != 3 || snap.any (fun b => b != 0))
    let started := decide (2 ≤ t) && !kind.restarts
    let k := Cmd.new i (fld l 0 1) st.gid st.fkey kind
    let k := { k with
      st := if t = 0 then 0 else if t = 2 ∧ !kind.restarts then 2 else 1, queued := t != 0, snapped := has && !notTaken kind l,
      xv := fld l 3 1 % 32, cix := fld l 8 8, word := BitVec.ofNat 32 w, k := BitVec.ofNat 32 (fld l 20 4), a := w64At l 24,
      b := w64At l 32, c := w64At l 40, rd1 := rangeOf (fld l 48 8), rd2 := rangeOf (fld l 56 8), wr := rangeOf (fld l 64 8),
      spart := w64At l 72, snap := if has then snap else [],
      bank := BankDecl.none }
    if 3 < t then none
    else some (match kind with
      | .mma => { k with pos := if started then fld l 80 2 else 0 }
      | .mdrain => { k with pos := if started then fld l 80 2 else 0 }
      | .maccld => { k with pos := if started then fld l 80 2 else 0 }
      | .mloadw => k
      | .mzero => k
      | .epload => k
      | .skupd => { k with rows := if started then fld l 80 4 else 0 }
      | .skqry => { k with rows := if started then fld l 80 4 else 0 }
      | .skadd => { k with rows := if started then fld l 80 4 else 0 }
      | .skclr => { k with rows := if started then fld l 80 4 else 0 }
      | .bte =>
        if !started || !has then k
        else
          let k := { k with chunks := fld l 80 4 }
          let k := if tmXform snap = 5 then { k with match1 := fld l 108 4 } else { k with fletA := fld l 108 4, fletB := fld l 112 4 }
          if tmXform snap = 3 then { k with dstate := fld l 84 4, pos := fld l 88 4, emitted := fld l 92 4 } else k
      | .coll => { k with buckets := readBuckets l (if has then min (clNbkt snap) 32 else 32) })
  | _, _ => none

/-- The declaration under which an MMA was issued (R426): its format is its PCW's (R282), KBR follows from its footprint, and its budget is
that of the MLOADW to its bank before it, or of BANKHDR where none is behind it; else the image does not hold the budget, which is a free
value (R287; log entry 79). -/
def Cmd.withBank (k : Cmd) (before after : List Cmd) (decl : Tab BankDecl) : Cmd :=
  if k.kind ≠ .mma then k
  else
    let w := k.k.toNat
    let loads := fun (ks : List Cmd) => ks.filter (fun j => j.kind == .mloadw && j.b.toNat % 8 == pcwBank w)
    let bud := match (loads before).getLast? with
      | some j => bitsOf j.b.toNat 12 8
      | none => if (loads after).isEmpty then (tget BankDecl.none decl (pcwBank w)).bud else (Config.freeWord (k.k.toNat * 2 ^ 64 + k.a.toNat)).toNat % 16 + 1
    { k with bank := { fmt := pcwW w, bud := bud, kbr := k.rd1.len / mxStride (pcwA w) / shapeM k.b.toNat, loaded := true } }

/-- The fault of an entry from its record (R140, R149); reported already where the strand's handler has it in its registers. A COLL refused
at acceptance is accepted anew (R203). -/
def Cmd.withFault (k : Cmd) (st : Strand) (cause : Nat) (r : List Byte) : Cmd :=
  let info := fld r 0 4
  let einfo := st.einfo.toNat
  { k with
    fault := some { cause := cause, addr := w64At r 8, info := BitVec.ofNat 64 info },
    snapped := k.snapped && !(k.kind == .coll && [10, 14, 15].contains (info % 16) && k.buckets.all (fun b => b.sent == 0)),
    reported := st.tm && st.ecause.toNat == cause && st.eaddr == w64At r 8 && einfo % 2 ^ 16 == info % 2 ^ 16 && einfo >>> 21 == info >>> 21 }

/-! ### Logical-core records (R136, R137, R142) -/

/-- Weight-bank cells from bytes. -/
def readCells (l : List Byte) : List WCell :=
  (parts l 72 2048).map (fun b => let ws := wordsOf b; { slots := ws.take 17, side := ws.getD 17 0 })

/-- A logical-core record as read: the core and its four strands; none where a part passes the record or names nothing. -/
def readLCore (gs : List Graph) (now n : Nat) (l : List Byte) : Option (LCore × List Strand) :=
  let ntd := fld l 4 1
  let nedt := fld l 5 1
  let banks := bitsList (fld l 6 1) 8
  let nflt := fld l 25 1
  let pages := bitsList (fld l 64 34) 272
  let o1 := 0x4A700 + 0x400 * ntd
  let o2 := o1 + 0x100 * nedt
  let o3 := o2 + 16 * nflt
  let o4 := o3 + 0x24000 * banks.length
  if l.length < 0x4A700 ∨ l.length ≠ o4 + 0x1000 * pages.length ∨ fld l 0 4 ≠ n ∨ 32 < nedt then none
  else
    let sts := (List.range 4).map (fun i => readStrand gs now (slice l (0x100 + 0x2500 * i) 0x2500))
    if sts.any (·.isNone) then none
    else
      let sts := sts.filterMap id
      let dirty := sts.zipIdx.flatMap (fun e => e.1.dirtyTiles.map (fun m => (e.2, m)))
      let sts := sts.zipIdx.map (fun e =>
        { e.1 with td := (dirty.zipIdx.filter (fun d => d.1.1 == e.2)).flatMap (fun d =>
            tlist 0 (d.1.2 * 1024) (slice l (0x4A700 + 0x400 * d.2) 1024)) })
      let decl : Tab BankDecl := tlist BankDecl.none 0 ((List.range 8).map (fun b =>
        let w := fld l (32 + 4 * b) 4
        { fmt := w % 16, bud := w / 16 % 32, kbr := w / 1024 % 16 + 1, loaded := bitOf w 9 }))
      let ents := (List.range nedt).map (fun i => readEntry sts i (slice l (o1 + 256 * i) 256))
      if ents.any (·.isNone) ∨ ntd < dirty.length ∨ (List.range nflt).any (fun i => decide (nedt ≤ fld l (o2 + 16 * i + 4) 2)) then none
      else
        let cmds := ents.filterMap id
        let edt := (cmds.zipIdx.map (fun e => e.1.withBank (cmds.take e.2) (cmds.drop (e.2 + 1)) decl)).map (fun k =>
          match (List.range nflt).find? (fun i => fld l (o2 + 16 * i + 4) 2 == k.id) with
          | some i => k.withFault (sts.getD k.strand Strand.idle) (fld l (o1 + 256 * k.id + 2) 1) (slice l (o2 + 16 * i) 16)
          | none => k)
        let sp := fld l 8 8
        some ({ LCore.none with
          used := true, loc := pages.zipIdx.flatMap (fun e => tlist 0 (e.1 * 4096) (slice l (o4 + 4096 * e.2) 4096)),
          banks := banks.zipIdx.flatMap (fun e => tlist WCell.inert (e.1 * 2048) (readCells (slice l (o3 + 0x24000 * e.2) 0x24000))),
          bdecl := decl, acc := tlist AccEnt.zero 0 (rawEntriesAll (slice l 0x9500 0x40000)),
          anchor := tlist 0 0 ((List.range 4).map (fun i => sgn 16 (fld l (16 + 2 * i) 2))), sat := bitsList (fld l 24 1) 4,
          eprog := tlist 0 0 ((List.range 128).map (fun i => BitVec.ofNat 16 (fld l (0x49500 + 2 * i) 2))),
          epslot := bitsList (fld l 7 1) 8, ereg := tlist 0 0 (wordsOf (slice l 0x49600 0x1000)),
          edt := edt, nextCmd := nedt, mq := (edt.filter (fun k => k.queued && k.kind.matrix)).map (·.id),
          sel := bitOf sp 1, act := bitOf sp 0, fill := bitsList (fld l 0x4A600 256) 2048,
          csig := edt.flatMap (fun k => if k.kind = .coll ∧ !k.snapped then
            ((List.range 32).filter (fun b => (k.bucket b).signal)).map (fun b => (k.id, b)) else []) }, sts)
where
  /-- Accumulator entries from their 16-byte records. -/
  rawEntriesAll (l : List Byte) : List AccEnt :=
    (parts l 16 (l.length / 16)).map (fun e => { v := BitVec.ofNat 96 (fld e 0 12), cls := fld e 12 1 % 4 })

/-! ### The whole image -/

/-- What an image holds besides its header. -/
structure ImageBody where
  groups : Tab (List Nat)
  graphs : List Graph
  held : List (Nat × Nat × Nat × Nat)
  lcs : List (LCore × List Strand)
  regions : List (Nat × Bool × Int × List Byte)
  dirty : List Nat
  deriving DecidableEq, Repr

/-- The Hearth records between two offsets: until one of size 0. -/
def readRegions (img : List Byte) : Nat → Nat → Nat → Option (List (Nat × Bool × Int × List Byte))
  | 0, _, _ => some []
  | fuel + 1, a, z =>
    if z < a + 32 then some []
    else
      let h := slice img a 32
      let n := fld h 8 8
      if n = 0 then some []
      else if z < a + 32 + n then none
      else (readRegions img fuel (a + 32 + n) z).map (fun r =>
        (fld h 0 8, fld h 16 1 == 1, sgn 16 (fld h 18 2), slice img (a + 32) n) :: r)

/-- Options one after another. -/
def allSome {α : Type} : List (Option α) → Option (List α)
  | [] => some []
  | none :: _ => none
  | some a :: t => (allSome t).map (fun r => a :: r)

/-- The sections of an image; none where an offset or a size points outside it, or a field of it is out of range, which completes the RESUME
with IMAGE. DESIGN CHOICE (log entry 95): R135 lists offsets and sizes alone, and R64 has BADDESC for an image field out of range; of a field
that R135 does not list the spec does not say which. -/
def readBody (img : List Byte) (now : Nat) : Option ImageBody :=
  let n := fld img 32 2
  let words := 8 * cdiv n 64
  let dirOff := fld img 80 8
  let hearthOff := fld img 104 8
  let dirtyOff := fld img 112 8
  match imgPart img dirOff (16 * n), imgPart img (fld img 88 8) (255 * words), imgPart img (fld img 96 8) 8, imgPart img dirtyOff 16 with
  | some dir, some grp, some gh, some dh =>
    match readGraphs img now (fld gh 0 8) 0 (fld img 96 8 + 8) with
    | none => none
    | some gl =>
      let gs := gl.map (·.1)
      let gs := gs.map (fun g => { g with parent := parentIn gs g })
      let lcs := allSome ((List.range n).map (fun i =>
        (imgPart img (fld dir (16 * i) 8) (fld dir (16 * i + 8) 8)).bind (readLCore gs now i)))
      let wins := imgPart img (dirtyOff + 16) (144 * fld dh 0 8)
      let regs := if img.length < hearthOff ∨ dirtyOff < hearthOff then none else readRegions img (dirtyOff - hearthOff) hearthOff dirtyOff
      match lcs, wins, regs with
      | some ls, some ws, some rs =>
        if n = 0 ∨ 4096 < n ∨ gs.any (fun g => !g.path.isEmpty && g.parent.isNone) then none
        else some {
          groups := tlist [] 1 ((List.range 255).map (fun i => bitsList (fld grp (words * i) words) n)),
          graphs := gs, held := gl.flatMap (fun e => e.2.map (fun r => (e.1.gid, r))), lcs := ls, regions := rs,
          dirty := (parts ws 144 (fld dh 0 8)).flatMap (fun r => (bitsList (fld r 8 128) 1024).map (fun b => fld r 0 8 / 2 ^ 21 + b)) }
      | _, _, _ => none
  | _, _, _, _ => none

/-- The image at a second-tier address, where its header checks hold (R135). -/
def State.readImage (s : State) (addr : Nat) : Option (List Byte) :=
  let o := addr % 2 ^ 50
  if Config.tierSize < o + 256 then none
  else
    let h := s.pread addr 256
    let total := fld h 16 8
    if fld h 0 8 ≠ imageMagic ∨ fld h 10 2 ≠ 1 ∨ total < 256 ∨ Config.tierSize < o + total ∨ total % 4 ≠ 0 then none
    else
      let img := s.pread addr total
      if fletcherOf (img.take 24 ++ List.replicate 8 0 ++ img.drop 32) = fld img 24 8 then some img else none

end Sys2Proof.Machine
end

