-- ==== Sys2Proof/Machine/Host.lean ====
section
/-! DEFINITION. The host's commands (R61-R73), its reads and writes (R56, R57, R60), and uncorrectable errors (R43, R65, R132, R455). -/

namespace Sys2Proof.Machine

/-! ### Records (R61-R63) -/

/-- Whether a command takes a CTXID: LAUNCH, SETPRIO, FREEZE, KILL, DIRTYSNAP (R63). DESIGN CHOICE: RESUME and QUERY ignore a record's
CTXID as CREATE does; R62 says it of CREATE alone (log entry 84). -/
def opcNames (o : Nat) : Bool := o == 2 || o == 3 || o == 4 || o == 6 || o == 7

/-- Whether a record has a reserved code or nonzero reserved bits (R62, R63, R73). -/
def recReserved (b : List Byte) : Bool :=
  let o := recOpc b
  o == 0 || decide (8 < o) || fld b 9 1 != 0 || fld b 12 4 != 0 || fld b 48 16 != 0
    || (o == 2 && recArg b 2 >>> 32 != 0) || (o == 3 && recArg b 0 >>> 7 != 0) || (o == 4 && recArg b 2 % 2 ^ 32 / 2 != 0)
    || (o == 8 && decide (3 < recArg b 0))

/-- Whether a record is on the wrong line: on a launch line, anything but a LAUNCH for the context that owns it (R62). -/
def State.recMisplaced (s : State) (r : CmdRec) : Bool :=
  match r.owner with
  | none => false
  | some x => decide (64 ≤ x) || recOpc r.bytes != 2 || recCtx r.bytes != s.ctxid x

/-- The CTXID that the completion of a record concerns (R76): the one it names, the argument of CTXSTATE, else none. -/
def recConcerns (b : List Byte) : Nat :=
  if opcNames (recOpc b) then recCtx b else if recOpc b = 8 ∧ recArg b 0 = 1 then recArg b 1 % 65536 else 0xFFFF

/-- Record `i` completes and leaves the queue. -/
def State.complete (s : State) (i : Nat) (r : CmdRec) (status result : Nat) : State :=
  ({ s with cmdQ := ldel s.cmdQ i } : State).cmdDone r (recConcerns r.bytes) status result

/-- Whether a context is FREEZING (R69, R79). -/
def Ctx.freezing (c : Ctx) : Bool := c.freezeRec.isSome

/-- Whether the context that a record names is FREEZING, and the record was taken meanwhile: it goes by R69 and not by the order of R61. -/
def State.amidFreeze (s : State) (r : CmdRec) : Bool := r.amid && (s.slotOfId (recCtx r.bytes)).any (fun x => (s.ctx x).freezing)

/-- Whether a record cannot be performed for now on its own account: one for a context that is FREEZING which was taken before, or is a
LAUNCH; a LAUNCH or FREEZE while the context is stopped for a checkpoint, and a LAUNCH during a serial re-execution (R61, R69, R156). -/
def State.mustWait (s : State) (r : CmdRec) : Bool :=
  !recReserved r.bytes && !s.recMisplaced r && opcNames (recOpc r.bytes) &&
    match s.slotOfId (recCtx r.bytes) with
    | none => false
    | some x =>
      let c := s.ctx x
      if c.freezing then !r.amid || recOpc r.bytes == 2
      else (recOpc r.bytes == 2 && (c.serialGraph.isSome || c.coll.isSome)) || (recOpc r.bytes == 4 && c.coll.isSome)

/-- Whether two records name one context. -/
def sameCtx (q r : CmdRec) : Bool := opcNames (recOpc q.bytes) && opcNames (recOpc r.bytes) && recCtx q.bytes == recCtx r.bytes

/-- Whether record `i` is held: it must wait, or a record taken earlier names its context, and it is not one taken while that context is
FREEZING (R61). -/
def State.heldRec (s : State) (i : Nat) (r : CmdRec) : Bool :=
  s.mustWait r || (!s.amidFreeze r && (s.cmdQ.take i).any (fun q => sameCtx q r))

/-- Whether record `i` may be performed: records are performed in the order taken, but that those which are held are passed (R61, R69); none
is while a completion waits for room in the arbiter's store (R77). -/
def State.turnOf (s : State) (i : Nat) (r : CmdRec) : Bool :=
  s.taking && !s.heldRec i r && ((s.cmdQ.take i).zipIdx).all (fun e => s.heldRec e.2 e.1)

/-- Record `i` of command `opc` is performed by `f` once its turn has come; a malformed record completes with BADCMD whatever step
takes it (R61, R62). DESIGN CHOICE (log entry 90): BADCMD comes before BADCTX; the spec orders neither. -/
def State.perform (s : State) (i opc : Nat) (f : CmdRec → State) : Out :=
  match s.cmdQ[i]? with
  | none => .next s
  | some r =>
    if s.power ≠ .ready ∨ !s.turnOf i r then .next s
    else if recReserved r.bytes || s.recMisplaced r then .next (s.complete i r stBADCMD 0)
    else if recOpc r.bytes ≠ opc then .next s
    else .next (f r)

/-- A record that names a context: BADCTX where there is none, otherwise `f` with its slot (R63). -/
def State.performFor (s : State) (i opc : Nat) (f : CmdRec → Nat → State) : Out :=
  s.perform i opc fun r =>
    match s.slotOfId (recCtx r.bytes) with
    | none => s.complete i r stBADCTX 0
    | some x => f r x

/-- Whether every byte of a physical range names memory (R177). -/
def State.rangeOk (s : State) (pa n : Nat) : Bool := decide (pa + n ≤ 2 ^ 52) && s.paOk pa n

/-- Whether the launch unit can read a physical range: it names memory, and no block of it holds an uncorrectable error (R65, R193). -/
def State.readable (s : State) (pa n : Nat) : Bool := s.rangeOk pa n && !s.spoilt pa n

/-! ### Context descriptors (R65, R66, R87, R88) -/

/-- Whether the fields of a context descriptor are within their limits. -/
def State.descOk (s : State) (d : List Byte) : Bool :=
  let root := fld d 0 8
  let mode := fld d 11 1
  let sz := fld d 12 1
  decide (root < 2 ^ 51) && s.ownFid (root >>> 37) && isHbm root && root % 8192 == 0 && isHbm (root + 8191)
    && decide (1 ≤ fld d 8 2) && decide (fld d 8 2 ≤ 4096) && decide (fld d 10 1 < 128) && decide (mode < 4)
    && (if bitOf mode 1 then decide (1 ≤ sz) && decide (sz ≤ 32) else sz == 0) && fld d 13 1 == 0 && decide (fld d 14 2 < 4)
    && (!bitOf mode 0 || fld d 32 8 != 0) && fld d 40 8 % 64 == 0 && decide (fld d 48 1 ≤ 16)
    && decide (fld d 40 8 + 64 * fld d 48 1 ≤ 2 ^ 48) && fld d 49 15 == 0

/-- A context from its descriptor, with no groups yet. -/
def ctxOf (d : List Byte) (gen now : Nat) : Ctx :=
  { Ctx.free with
    used := true, gen := gen, nlc := fld d 8 2, prio := fld d 10 1, det := bitOf (fld d 11 1) 0, spec := bitOf (fld d 11 1) 1,
    specsz := fld d 12 1, pager := bitOf (fld d 14 2) 0, debug := bitOf (fld d 14 2) 1, capRaw := fld d 14 2, ptroot := fld d 0 8,
    grptab := fld d 16 8, tvb := tvbOf (fld d 24 8), dgsttab := fld d 32 8, lline := fld d 40 8, nll := fld d 48 1,
    agingFrom := now }

/-- The first free slot from the one that the package starts at: the spec does not say which free slot a context takes (log entry 27). -/
def State.freeCtxSlot (s : State) : Option Nat :=
  ((List.range 64).map (fun i => (s.env.slotFirst + i) % 64)).find? (fun x => !(s.ctx x).used)

/-- The launch lines that a descriptor claims. -/
def claimOf (d : List Byte) : List Nat := (List.range (fld d 48 1)).map (fun i => fld d 40 8 + 64 * i)

/-- Whether a claimed line lies in the command area or is another context's (R66). -/
def State.claimTaken (s : State) (d : List Byte) : Bool :=
  (claimOf d).any (fun a => s.lines.any (fun l => l.addr == a))

/-- Claims and arms launch lines for the context in slot `x`: their present contents count as taken (R66). -/
def State.claim (s : State) (x : Nat) (as' : List Nat) : State :=
  { s with lines := s.lines ++ as'.map (fun a => { addr := a, seq := fld (s.pread (hostPa a) 64) 0 8, owner := some x, inval := false }) }

/-- One group of the table (R87, R88): its members; none where a check fails. DESIGN CHOICE (log entry 91): a MEMB that is not zero and not
8-byte aligned fails; R88 does not list it. -/
def State.readGroup (s : State) (x : Nat) (e : List Byte) : Option (List Nat) × State :=
  let n := (s.ctx x).nlc
  let va := fld e 0 8
  if va = 0 then (if fld e 8 2 = 0 then some [] else none, s)
  else if va % 8 ≠ 0 then (none, s)
  else match s.vread (launchLc x) va (8 * cdiv n 64) with
    | (.error _, s) => (none, s)
    | (.ok bs, s) =>
      let v := leNat bs
      let ms := (List.range n).filter (fun l => bitOf v l)
      (if v < 2 ^ n ∧ ms.length = fld e 8 2 then some ms else none, s)

/-- Groups 1 to 255 of the table of the context in slot `x`. -/
def State.readGroups (s : State) (x : Nat) : Option (List (List Nat)) × State :=
  let va := (s.ctx x).grptab
  if va % 64 ≠ 0 then (none, s)
  else match s.vread (launchLc x) va 4096 with
    | (.error _, s) => (none, s)
    | (.ok t, s) =>
      let r := (List.range 255).foldl (fun (r : List Byte × Option (List (List Nat)) × State) _ =>
        match r.2.1 with
        | none => r
        | some gs =>
          match r.2.2.readGroup x (r.1.take 16) with
          | (none, s) => ([], none, s)
          | (some ms, s) => (r.1.drop 16, some (gs ++ [ms]), s)) (t.drop 16, some [], s)
      r.2

/-- Whether no logical core is in more than four groups (R88). -/
def groupsOk (n : Nat) (gs : List (List Nat)) : Bool :=
  (List.range n).all (fun l => decide ((gs.filter (fun g => g.contains l)).length ≤ 4))

/-- Places every logical core of a context, in ascending number. -/
def State.placeAll (s : State) (x : Nat) : State := (s.lcKeys x).foldl (fun s l => s.placeOne l) s

/-- Whether more logical cores are not resident than the swap area holds (R66, R111, R148; log entry 25). -/
def State.swapFull (s : State) : Bool :=
  let n := (s.lcs.filter (fun e => e.2.used && e.2.core.isNone)).length
  n != 0 && decide (Config.swapCores < n)

/-- A context that has been placed, or NORES where the swap area is too small for it. -/
def State.orNoSwap (s : State) (x : Nat) : Except Nat (State × Nat) := if s.swapFull then .error stNORES else .ok (s, x)

/-- What a command that makes a context comes to: a status, or the state with the new context in a slot. -/
abbrev Made := Except Nat (State × Nat)

/-- CREATE's checks and effect, in the order of R497. -/
def State.createCtx (s : State) (a : Nat) : Made :=
  if !s.readable a 64 then .error stBADDESC
  else
    let d := s.pread a 64
    if !s.descOk d then .error stBADDESC
    else match s.freeCtxSlot with
      | none => .error stNORES
      | some x =>
        if 512 < s.lines.length + fld d 48 1 then .error stNORES
        else if s.claimTaken d then .error stBADDESC
        else
          let s := s.setCtx x (ctxOf d (tget 1 s.gens x) s.cycle)
          match s.readGroups x with
          | (none, _) => .error stBADDESC
          | (some gs, s) =>
            if !groupsOk (fld d 8 2) gs || s.tablesBad 3 (fld d 0 8) then .error stBADDESC
            else match s.retagAll x (fld d 0 8) with
              | none => .error stBADDESC
              | some tags =>
                let known := s.knownOf (fld d 0 8)
                let s := { s with tags := tags }.modCtx x (fun c => { c with groups := tlist [] 1 gs, known := known })
                ((s.claim x (claimOf d)).placeAll x).orNoSwap x

/-- A command that makes a context completes: RESULT is the new CTXID. -/
def State.made (s : State) (i : Nat) (r : CmdRec) (m : Made) : State :=
  match m with
  | .error e => s.complete i r e 0
  | .ok (s, x) => ({ s with cmdQ := ldel s.cmdQ i } : State).cmdDone r (s.ctxid x) stOK (s.ctxid x)

/-- CREATE (R66, R497). -/
def execCreate (i : Nat) (s : State) : Out := s.perform i 1 fun r => s.made i r (s.createCtx (recArg r.bytes 0))

/-! ### LAUNCH (R67, R93) -/

/-- The launch number of a LAUNCH: the one given, or one more than the largest used; none where it cannot be used. -/
def Ctx.launchNumber (c : Ctx) (given : Nat) : Option Nat :=
  let n := if given = 0 then (if c.lastln = 0xFFFFFFFF then none else some (c.lastln + 1)) else some given
  n.filter (fun n => !c.graphs.any (fun g => g.launch == n && g.path.isEmpty))

/-- LAUNCH from the host. DESIGN CHOICE: the launch number is checked before the descriptor, so STATE comes before BADDESC and NORES;
the spec orders BADDESC and NORES alone (log entry 33). One that fails leaves no effect, A bits included (R64). -/
def execLaunchRecord (i : Nat) (s : State) : Out :=
  s.performFor i 2 fun r x =>
    let va := recArg r.bytes 0
    let c := s.ctx x
    match c.launchNumber (recArg r.bytes 2) with
    | none => s.complete i r stSTATE 0
    | some n =>
      if va % 64 ≠ 0 then s.complete i r stBADDESC 0
      else match s.readGraph x va with
        | (.error _, _) => s.complete i r stBADDESC 0
        | (.ok d, s') =>
          if (s'.graphCheck x d).isSome then s.complete i r stBADDESC 0
          else match s'.reserveSlots x d.stages with
            | none => s.complete i r stBADDESC 0
            | some m =>
              if !s'.hearthRoom d.chans then s.complete i r stNORES 0
              else
                let s := s'
                let g := graphOf d c.nextGid true n [] none (graphKeyTop n) (BitVec.ofNat 64 (recArg r.bytes 1)) s.cycle
                let s := ((s.addGraph x g).bind g.gid m).modCtx x (fun c => { c with lastln := max c.lastln n })
                s.complete i r stOK n

/-! ### SETPRIO, FREEZE, KILL, DIRTYSNAP (R68, R69, R71, R72) -/

/-- SETPRIO: the base priority changes at the next rebalance; RESULT is the one before. DESIGN CHOICE (log entry 92): where an earlier SETPRIO
has not taken effect yet, that is the priority it set; the spec says 'previous base priority'. -/
def execSetprio (i : Nat) (s : State) : Out :=
  s.performFor i 3 fun r x =>
    let old := (s.ctx x).newPrio.getD (s.ctx x).prio
    (s.modCtx x (fun c => { c with newPrio := some (recArg r.bytes 0 % 128) })).complete i r stOK old

/-- Whether an address is one of this package's second tier. -/
def State.isTier (s : State) (pa : Nat) : Bool :=
  match s.place pa with
  | .tier _ => true
  | .die _ _ => false
  | .host _ => false
  | .none => false

/-- Milliseconds of a FREEZE's time-out. -/
def freezeMs (b : List Byte) : Nat := if recArg b 2 / 2 ^ 32 = 0 then 10000 else recArg b 2 / 2 ^ 32

/-- FREEZE: FREEZING and the stop request; the rest follows when the collector is complete. -/
def execFreeze (i : Nat) (s : State) : Out :=
  s.performFor i 4 fun r x =>
    let a := recArg r.bytes 0
    if (s.ctx x).freezing then s.complete i r stSTATE 0
    else if !s.hasTier then s.complete i r stNOTIER 0
    else if !s.isTier a || decide (Config.tierSize < a % 2 ^ 50 + recArg r.bytes 1) then s.complete i r stBADDESC 0
    else if (s.ctx x).coll.isSome then s
    else
      let s := { s with cmdQ := ldel s.cmdQ i }.modCtx x (fun c => { c with freezeRec := some r })
      s.startStop x (.freeze (s.cycle + freezeMs r.bytes * 1250000))

/-- KILL: the context is killed with cause 1, and the CMDDONE follows its KILLED event. -/
def execKill (i : Nat) (s : State) : Out :=
  s.performFor i 6 fun r x =>
    let id := s.ctxid x
    (({ s with cmdQ := ldel s.cmdQ i } : State).kill x 1 (recArg r.bytes 0) 0).cmdDone r id stOK 0

/-- DIRTYSNAP: the bitmap is copied and cleared in one step, before the copy's own writes set bits. DESIGN CHOICE (log entry 93): with ARG1 too
small and a destination that names no memory the status is SPACE; the spec orders neither. -/
def execDirtysnap (i : Nat) (s : State) : Out :=
  s.performFor i 7 fun r x =>
    let bs := (s.ctx x).dirtyBytes
    let a := recArg r.bytes 0
    if recArg r.bytes 1 < bs.length then s.complete i r stSPACE 0
    else if !s.rangeOk a bs.length then s.complete i r stBADDESC 0
    else ((s.modCtx x (fun c => { c with dirty := [] })).pwrite none false a bs).complete i r stOK bs.length

/-! ### RESUME (R70, R135, R148, R149) -/

/-- The fields of a context that an image holds; the descriptor's replace those of R70. -/
def ctxOfImage (img desc : List Byte) (gen now : Nat) (b : ImageBody) : Ctx :=
  let mode := fld img 35 1
  let c : Ctx :=
    { Ctx.free with
      used := true, gen := gen, nlc := fld img 32 2, prio := fld img 34 1 % 128, det := bitOf mode 0, spec := bitOf mode 1,
      specsz := fld img 36 1, aging := min 8 (fld img 37 1), pager := bitOf (fld img 38 2) 0, debug := bitOf (fld img 38 2) 1,
      capRaw := fld img 38 2, ptroot := fld img 40 8, grptab := fld img 48 8, dgsttab := fld img 56 8, lline := fld img 64 8,
      nll := fld img 72 1, ctxdgst := BitVec.ofNat 64 (fld img 120 8), dgstidx := fld img 128 4, lastln := fld img 132 4,
      tvb := tvbOf (fld img 136 8), agingFrom := now, groups := b.groups, graphs := b.graphs, nextGid := b.graphs.length,
      dirty := b.dirty.foldl (fun l u => sins u l) [] }
  if desc.isEmpty then c
  else
    { c with
      ptroot := fld desc 0 8, prio := fld desc 10 1, pager := bitOf (fld desc 14 2) 0, debug := bitOf (fld desc 14 2) 1,
      capRaw := fld desc 14 2, tvb := tvbOf (fld desc 24 8), dgsttab := fld desc 32 8, lline := fld desc 40 8, nll := fld desc 48 1 }

/-- The leaf entry that maps a virtual address, present or to be written: its address, value and level; none where a table is
missing above it. -/
def State.leafSlot (s : State) (va : Nat) : Nat → Nat → Option (Nat × Nat × Nat)
  | 0, table =>
    let epa := table + 8 * ((va >>> 16) % 1024)
    if s.paOk epa 8 then some (epa, leNat (s.pread epa 8), 0) else none
  | n + 1, table =>
    let epa := table + 8 * ((va >>> (26 + 10 * n)) % 1024)
    if !s.paOk epa 8 then none
    else
      let e := leNat (s.pread epa 8)
      if !bitOf e 0 then none
      else if bitOf e 9 then some (epa, e, n + 1)
      else s.leafSlot va n (bitsOf e 51 13 * 8192)

/-- Hearth frames (numbers of 64 KiB frames) that a context maps. -/
def State.hearthFrames (s : State) : List Nat :=
  s.slots.flatMap (fun x => ((s.leaves (s.ctx x).ptroot).filter (fun l => isHearth (leafFrame l.e) && s.ownFid (leafFrame l.e >>> 37))).flatMap
    (fun l => (List.range (pageSize l.level / 65536)).map (fun i => leafFrame l.e / 65536 + i)))

/-- The first run of `n` free Hearth frames, aligned to `n`, of the package. -/
def State.freeHearth (s : State) (used : List Nat) (n : Nat) : Option Nat :=
  ((List.range 8).flatMap (fun d => (List.range (1024 / n)).map (fun i => s.diePa d Config.hearthBase / 65536 + i * n))).find?
    (fun f => (List.range n).all (fun i => !used.contains (f + i)))

/-- A leaf for a region's frame: what the entry held besides its frame stays; a new one is writable (R179, R184). -/
def regionLeaf (old frame : Nat) (exact : Bool) (anchor : Int) : Nat :=
  let a := unsg 10 anchor
  let base := if bitOf old 0 && bitOf old 9 then old else 0x203
  let keep := base % 2 ^ 10 &&& (if exact then 0x3FF else 0x3DF)
  let keep := if exact then keep ||| 0x20 else keep
  keep + (if exact then a / 16 * 2 ^ 10 else base / 2 ^ 10 % 2 ^ 6 * 2 ^ 10) + frame * 65536
    + (if exact then a % 16 * 2 ^ 52 else base / 2 ^ 52 % 16 * 2 ^ 52) + base / 2 ^ 56 * 2 ^ 56

/-- Hearth storage for a region from `va` on: frames, leaf entries and contents; none where a table or frames are missing. -/
def State.restoreRegion (root : Nat) (exact : Bool) (anchor : Int) : Nat → Nat → List Byte → List Nat → State → Option (List Nat × State)
  | 0, _, _, used, s => some (used, s)
  | fuel + 1, va, bs, used, s =>
    if bs.isEmpty then some (used, s)
    else match s.leafSlot va 3 root with
      | none => none
      | some (epa, e, level) =>
        let n := pageSize level
        match s.freeHearth used (n / 65536) with
        | none => none
        | some f =>
          let s := s.pwrite none false epa (leBytes 8 (regionLeaf e f exact anchor))
          let s := s.pwrite none false (f * 65536) (bs.take n)
          State.restoreRegion root exact anchor fuel (va + n) (bs.drop n) (used ++ (List.range (n / 65536)).map (· + f)) s

/-- Hearth storage for every region of an image (R148 step 3). -/
def State.restoreRegions (root : Nat) : List (Nat × Bool × Int × List Byte) → List Nat → State → Option State
  | [], _, s => some s
  | (va, exact, anchor, bs) :: t, used, s =>
    match State.restoreRegion root exact anchor (bs.length / 65536 + 1) va bs used s with
    | none => none
    | some (used, s) => State.restoreRegions root t used s

/-! #### What the image does not say -/

/-- Whether a live graph's digest part may be other than zero: a firing of it has ended, or has launched a child. -/
def State.hasFolded (s : State) (x : Nat) (g : Graph) : Bool :=
  g.sst.any (fun p => p.ended != 0) || ((s.lcKeys x).flatMap strandsOf).any (fun t => (s.strand t).occ && (s.strand t).gid == g.gid && (s.strand t).nchild != 0)

/-- The digest parts of live graphs after a RESUME of an image that was not written here (R149, R155): the image holds only the sum of the
parts, those of ended launches among them, so each is a free value (log entry 22). -/
def State.resumeDigests (s : State) (x : Nat) : State :=
  if !(s.ctx x).det then s
  else ((s.ctx x).graphs.filter (s.hasFolded x)).foldl (fun s h =>
    let (n, s) := s.tick
    s.modGraph x h.gid (fun h => { h with dgst := Config.freeWord n })) s

/-- Whether a strand is blocked at a bundle that closes a speculation region. -/
def State.atClose (s : State) (t : Nat) : Bool :=
  (s.strand t).blk == .before && match s.attempt t with
    | (.go is, s') => is.any (fun e => match e.2 with
        | .specc g _ _ _ _ => s'.holds g
        | .speca g _ _ _ _ => s'.holds g
        | _ => false)
    | (.trap _ _, _) => false
    | (.skip _, _) => false

/-- The firing that opened a region: one that has not halted (R122), and, where one is blocked at its SPECC or SPECA, that one (R454). Of an
image that was not written here nothing else says which of the logical core's it is: a free choice where there are several (log
entry 23). -/
def State.resumeOpener (s : State) (l : Nat) : State :=
  if !(s.lc l).act then s
  else
    let ts := (strandsOf l).filter (fun t => (s.strand t).occ && (s.strand t).blk != .halted)
    let closing := ts.filter s.atClose
    let fs := (if closing.isEmpty then ts else closing).map (fun t => (s.strand t).fkey)
    let (n, s) := s.tick
    s.modLc l (fun c => { c with opener := fs.getD ((Config.freeWord n).toNat % fs.length) 0 })

/-- What was noted when the image was written (R150; log entry 22). -/
def State.recall (s : State) (x : Nat) (u : Unsaid) : State :=
  let s := s.modCtx x (fun c => { c with graphs := c.graphs.zipIdx.map (fun e => { e.1 with dgst := u.digests.getD e.2 e.1.dgst }) })
  (s.lcKeys x).foldl (fun s l =>
    match u.lcs[lcNum l]? with
    | none => s
    | some v => s.modLc l (fun c =>
      { c with
        opener := v.opener, collCount := v.counts,
        edt := c.edt.zipIdx.map (fun e => if e.1.kind == .mma then { e.1 with bank := { e.1.bank with bud := v.buds.getD e.2 e.1.bank.bud } }
          else if e.1.kind == .coll then { e.1 with pos := v.nums.getD e.2 e.1.pos } else e.1) })) s

/-- Segments that a logical core has sent of a collective's bucket are all those due. -/
def clSentAll (k : Cmd) (p r b : Nat) : Bool := decide (clTotal k.snap p r ≤ (k.bucket b).sent)

/-- A group's accepted COLL commands of a logical core, in order. -/
def LCore.colls (c : LCore) (g : Nat) : List Cmd := c.edt.filter (fun k => k.kind == .coll && k.snapped && clGrp k.snap == g)

/-- Whether a resumed command of rank `r` had finished: every bucket signalled, and every segment due sent; a rank that sends nothing
had where no other rank holds the collective unfinished. -/
def State.clWasDone (s : State) (x : Nat) (ms : List Nat) (g r : Nat) (k : Cmd) : Bool :=
  let p := ms.length
  let nb := List.range k.buckets.length
  let open' := fun (q : Nat) => ((s.lc (lcKey x (ms.getD q 0))).colls g).any (fun j =>
    clSame j.snap k.snap && 0 < clTotal j.snap p q && nb.any (fun b => !clSentAll j p q b))
  k.buckets.all (·.signal) &&
    (if clTotal k.snap p r = 0 then !(List.range p).any open' else nb.all (fun b => clSentAll k p r b))

/-- The match numbers of a group's commands after a RESUME of an image that was not written here: finished ones are the youngest before a
common point, the others follow it (R225, log entry 24). -/
def State.renumber (s : State) (x g : Nat) : State :=
  let ms := (s.ctx x).members g
  let done := fun (s : State) (r : Nat) =>
    ((s.lc (lcKey x (ms.getD r 0))).colls g).filter (s.clWasDone x ms g r)
  let base := ((List.range ms.length).map (fun r => (done s r).length)).foldl max 0
  let s' := (List.range ms.length).foldl (fun s' r =>
    let l := lcKey x (ms.getD r 0)
    let ks := (s.lc l).colls g
    let from' := base - (done s r).length
    let s' := ks.zipIdx.foldl (fun s' e => s'.modCmd l e.1.id (fun k => { k with pos := from' + e.2 })) s'
    s'.modLc l (fun c => { c with collCount := tset 0 c.collCount g (from' + ks.length) })) s
  (List.range ms.length).foldl (fun s' r =>
    let l := lcKey x (ms.getD r 0)
    ((s'.lc l).colls g).foldl (fun s'' k =>
      s''.modCmd l k.id (fun c => { c with buckets := c.buckets.map (fun e =>
        if k.pos < base then { e with run := 2, got := clTotal k.snap ms.length ((r + ms.length - 1) % ms.length) } else e) })) s') s'

/-- A participant alone in its group has finished a bucket that it has signalled. -/
def State.finishAlone (s : State) (l : Nat) (k : Cmd) : State :=
  if (s.collRing l k).length = 1 then s.modCmd l k.id (fun c => { c with buckets := c.buckets.map (fun e => if e.signal then { e with run := 2 } else e) }) else s

/-- The segments between the participants of a group's collectives that are under way are with their receivers again, for each collective once,
by the first participant that still has its command (R141, R149). -/
def State.reviveGroup (s : State) (x g : Nat) : State :=
  (s.lcKeys x).foldl (fun s l => ((s.lc l).colls g).foldl (fun s k =>
    if (s.collRing l k).find? (fun m => (s.matched m g k.pos).isSome) = some l then (List.range k.buckets.length).foldl (fun s b =>
      if ((s.lc l).cmd? k.id).any (fun k => (k.bucket b).run == 2) then s else s.clRevive l k b) (s.finishAlone l k)
    else s) s) s

/-- What a resumed logical core takes up again: an epilogue run of a drain's next row. -/
def State.resumeDrains (s : State) (l : Nat) : State :=
  (s.lc l).edt.foldl (fun s k => if k.kind == .mdrain && k.st == 2 && k.fault.isNone then s.prepareRow l k.id else s) s

/-- An image taken in a serial re-execution holds the context as it was stopped, its firings at the checkpoint with their DGST traps
taken: the re-execution is repeated from step 3 of R156 (R157; log entry 83). -/
def State.resumeSerial (s : State) (x : Nat) : State :=
  let ts := ((s.lcKeys x).flatMap strandsOf).filter (fun t => (s.strand t).atDgstTrap)
  let gs := (s.ctx x).graphs.filter (fun g => ts.any (fun t => (s.strand t).gid == g.gid))
  match (s.ctx x).det, gs.foldl (fun (b : Option Graph) g => match b with
      | some h => if g.path.length < h.path.length then some g else b
      | none => some g) none, ts with
  | true, some g, t :: _ => s.modCtx x (fun c => { c with coll := some { cause := .serial g.gid (s.strand t).einfo.toNat, waiting := [] } })
  | _, _, _ => s

/-- The body of an image becomes the context in slot `x`; `u` is what was noted of it when it was written, if that was here. -/
def State.install (s : State) (x : Nat) (b : ImageBody) (u : Option Unsaid) : State :=
  let s := b.lcs.zipIdx.foldl (fun s e =>
    let l := lcKey x e.2
    let s := s.setLc l e.1.1
    e.1.2.zipIdx.foldl (fun s st => s.setStrand (l * 4 + st.2) st.1) s) s
  let s := b.held.foldl (fun s h =>
    s.modStrand (lcKey x h.2.2.1 * 4 + h.2.2.2) (fun st => { st with assign := some (h.1, h.2.1), reserved := true })) s
  let s := s.placeAll x
  let s := (s.lcKeys x).foldl (fun s l => (s.resumeDrains l).fenceLc l) s
  let groups := (List.range 256).filter (fun g => (s.lcKeys x).any (fun l => !((s.lc l).colls g).isEmpty))
  let s := match u with
    | some u => s.recall x u
    | none => groups.foldl (fun s g => s.renumber x g) (((s.lcKeys x).foldl (fun (s : State) l => s.resumeOpener l) s).resumeDigests x)
  let s := groups.foldl (fun s g => s.reviveGroup x g) s
  s.resumeSerial x

/-- RESUME's checks and effect, in the order of R497. -/
def State.resumeCtx (s : State) (a da : Nat) : Made :=
  if !s.hasTier then .error stNOTIER
  else if !s.isTier a then .error stBADDESC
  else match s.readImage a with
    | none => .error stIMAGE
    | some img =>
      match readBody img s.cycle with
      | none => .error stIMAGE
      | some b =>
        let d := if da = 0 then [] else s.pread da 64
        if da ≠ 0 ∧ (!s.readable da 64 || !s.descOk d || fld d 8 2 != fld img 32 2 || fld d 11 1 != fld img 35 1 || fld d 12 1 != fld img 36 1) then
          .error stBADDESC
        else match s.freeCtxSlot with
          | none => .error stNORES
          | some x =>
            let lines := if da = 0 then [] else claimOf d
            if 512 < s.lines.length + lines.length then .error stNORES
            else if da ≠ 0 ∧ s.claimTaken d then .error stBADDESC
            else
              let c := ctxOfImage img d (tget 1 s.gens x) s.cycle b
              match State.restoreRegions c.ptroot b.regions s.hearthFrames s with
              | none => .error stNORES
              | some s =>
                let s := s.setCtx x c
                if s.tablesBad 3 c.ptroot then .error stBADDESC
                else match s.retagAll x c.ptroot with
                | none => .error stBADDESC
                | some tags =>
                  let known := s.knownOf c.ptroot
                  let s := ({ s with tags := tags } : State).modCtx x (fun c => { c with known := known })
                  ((s.claim x lines).install x b (s.unsaid.find? (fun u => u.image == img))).orNoSwap x

/-- RESUME (R70, R148, R497). -/
def execResume (i : Nat) (s : State) : Out := s.perform i 5 fun r => s.made i r (s.resumeCtx (recArg r.bytes 0) (recArg r.bytes 1))

/-! ### QUERY (R25, R73) -/

/-- A QUERY's record is written where its destination names memory. -/
def State.answerQuery (s : State) (i : Nat) (r : CmdRec) (bs : List Byte) : State :=
  let a := recArg r.bytes 2
  if s.rangeOk a bs.length then (s.pwrite none false a bs).complete i r stOK bs.length else s.complete i r stBADDESC 0

/-- A QUERY with a selector. -/
def State.query (s : State) (i sel : Nat) (f : CmdRec → State) : Out :=
  s.perform i 8 fun r => if recArg r.bytes 0 = sel then f r else s

/-- The three words of RETM0 to RETM7. -/
def State.retmBytes (s : State) : List Byte :=
  (List.range 8).flatMap (fun d => (List.range 3).flatMap (fun w => leBytes 8 (s.retm d w)))

/-- QUERY DEVINFO. -/
def execQueryDevinfo (i : Nat) (s : State) : Out :=
  s.query i 0 fun r =>
    s.answerQuery i r (padTo 256 ([s.mid, s.env.serial, s.kstatWord, s.rplc, s.corecnt].flatMap (leBytes 8) ++ s.retmBytes
      ++ leBytes 2 s.env.pkgNo ++ leBytes 1 (rackOf s.env.pkgNo) ++ leBytes 1 (rackPos s.env.pkgNo)
      ++ (List.range 4).flatMap (fun j => leBytes 1 (s.env.roles.getD j 0))))

/-- The effective priority that CTXSTATE reports: that on the die of the first logical core (log entry 39). -/
def State.reportedPrio (s : State) (x : Nat) : Nat := (s.ctx x).effPrio (s.lc (lcKey x 0)).die

/-- QUERY CTXSTATE. DESIGN CHOICE: BADCTX is found before the destination is checked (log entry 84). -/
def execQueryCtxstate (i : Nat) (s : State) : Out :=
  s.query i 1 fun r =>
    match s.slotOfId (recArg r.bytes 1) with
    | none => s.complete i r stBADCTX 0
    | some x =>
      let c := s.ctx x
      let lns := (c.graphs.filter (·.live)).map (·.launch)
      s.answerQuery i r (padTo 64 (leBytes 1 (if c.freezing then 2 else 1) ++ leBytes 1 c.prio ++ leBytes 1 (s.reportedPrio x) ++ leBytes 1 c.mode
        ++ leBytes 2 c.nlc ++ leBytes 2 (s.ctxid x) ++ leBytes 4 lns.length ++ leBytes 4 (lns.foldl min 0xFFFFFFFF) ++ leBytes 1 c.aging))

/-- QUERY ATTEST (R25): the report over the host's nonce; its measurements and signature are free values. A nonce that cannot be read for an
uncorrectable error completes it with BADDESC, as one that names no memory (log entry 85). -/
def execQueryAttest (i : Nat) (s : State) : Out :=
  s.query i 2 fun r =>
    if !s.readable (recArg r.bytes 1) 32 then s.complete i r stBADDESC 0
    else
      let head := padTo 352 (s.pread (recArg r.bytes 1) 32 ++ leBytes 48 (Config.measurement 0) ++ leBytes 48 (Config.measurement 1)
        ++ leBytes 8 s.env.fuse ++ leBytes 8 s.env.serial ++ s.retmBytes)
      let sig := Config.signReport head
      s.answerQuery i r (head ++ (leBytes 48 sig.1).reverse ++ (leBytes 48 sig.2).reverse)

/-- QUERY LOGSTAT. -/
def execQueryLogstat (i : Nat) (s : State) : Out :=
  s.query i 3 fun r =>
    s.answerQuery i r (leBytes 8 s.arb.nextSeq ++ leBytes 8 s.arb.consumed ++ leBytes 4 s.arb.held.length ++ leBytes 4 0 ++ leBytes 8 s.arb.ovw)

/-! ### The host's own accesses (R56, R57) -/

/-- The store count up to which a load of the host must have seen a store (R78, R242, R254): its own stores, what its earlier loads of the
unit returned, what releases at system scope that it has read cover, and what events in its log report. -/
def State.hostFloor (s : State) (w : Past) : Nat :=
  let told := match w.who with
    | .strand t => tget 0 s.hostSaw (slotOfStrand t)
    | .engine l => tget 0 s.hostSaw (slotOf l)
    | .unit f => if s.ownFid f then tget 0 s.hostSaw runtimeSlot else 0
    | .host => w.time
  max told (max s.hostView.sync (tget 0 s.hostView.units w.unit))

/-- What the host must see from a load on that passed over `k` stores to a unit. -/
def State.hostSawUnit (s : State) (unit k : Nat) : State :=
  let ws := (s.storesTo unit).drop k
  match ws with
  | [] => s
  | w :: _ =>
    let sync := ((heads ws).filter (fun w => decide (8 ≤ w.rel.getD 0))).foldl (fun m w => max m w.cover) s.hostView.sync
    { s with hostView := { s.hostView with sync := sync, units := tset 0 s.hostView.units unit (max w.time (tget 0 s.hostView.units unit)) } }

/-- One load of the host of bytes of one aligned 8-byte unit of the range (R254). -/
def State.hostLoad (s : State) (off n : Nat) : List Byte × State :=
  let now := (List.range n).map (fun i => s.hostByte (off + i))
  match s.hostMap off with
  | none => (now, s)
  | some pa =>
    let (k, s) := s.passUnit s.hostFloor (pa / 8)
    (s.before (pa / 8) k pa now, s.hostSawUnit (pa / 8) k)

/-- The bytes of a range of the host, unit by unit. -/
def State.hostLoads : List Nat → Nat → Nat → State → List Byte × State
  | [], _, _, s => ([], s)
  | u :: us, off, n, s =>
    let a := max u off
    let (b, s) := s.hostLoad a (min (u + 8) (off + n) - a)
    let (r, s) := State.hostLoads us off n s
    (b ++ r, s)

/-- HOST_READ: the bytes that the host sees through the package's range. -/
def execHostRead (off len : Nat) (s : State) : Out :=
  .next (if s.power = .off ∨ s.power = .inReset then s
    else
      let (bs, s) := State.hostLoads (if len = 0 then [] else unitsOf off len) off len s
      { s with lastRead := bs })

/-- The blocks of HBM with a bad code that a write through the range leaves bad: it does not cover them whole (R193). -/
def State.badAfter (s : State) (off n : Nat) : List Nat :=
  let pas := (List.range n).filterMap (fun i => s.hostMap (off + i))
  s.bad.filter (fun b => !(List.range 512).all (fun i => pas.contains (b * 512 + i)))

/-- HOST_WRITE: through the range, one store for each aligned 8-byte unit and recorded in no dirty bitmap (R57, R254); or to the host's own memory, where it
invalidates the monitored lines that it touches (R60). -/
def execHostWrite (a : HostAddr) (bytes : List Byte) (s : State) : Out :=
  match a with
  | .window off =>
    .next (if s.power = .off ∨ s.power = .inReset then s
      else { ((cutAt 8 (bytes.length / 8 + 2) off bytes).foldl (fun s e => s.hostPut e.1 e.2) s) with bad := s.badAfter off bytes.length })
  | .host h =>
    .next (if h + bytes.length ≤ 2 ^ 48 then (s.pwrite none false (hostPa h) bytes).mark s.vtime (fun w => { w with who := .host, scope := 8 }) else s)

/-! ### Uncorrectable errors (R43, R65, R132, R455) -/

/-- The checkpoint of a context that is about to form and whose entry lies at a physical address. -/
def State.checkpointAt (s : State) (x pa : Nat) : Option (Graph × Nat) :=
  let c := s.ctx x
  let ns := ((s.lcKeys x).flatMap strandsOf).filterMap (fun t => (s.strand t).dgst)
  (c.graphs.flatMap (fun g => ns.map (fun n => (g, n)))).find? (fun e =>
    c.used && c.serialGraph.isNone && s.dgstForms x e.1.gid e.2 (c.family e.1.gid) &&
      match s.walkFrom (s.dieOf (.launch x)) ((c.dgsttab + 16 * e.2) % 2 ^ 64) 3 c.ptroot with
      | .ok p _ _ _ => decide (p ≤ pa) && decide (pa < p + 16)
      | .window _ _ => false
      | .fault _ _ _ => false
      | .err _ _ => false)

/-- An uncorrectable error that the launch unit or the runtime meets for the context in slot `x`: while an image is being written it
ends the FREEZE with IMAGE (R132); on a checkpoint's entry it is DGSTMIS and a kill (R455); elsewhere it is R43's. -/
def State.launchUnitError (s : State) (x pa : Nat) : State :=
  match (s.ctx x).coll, (s.ctx x).freezeRec with
  | some c, some r =>
    if c.waiting.isEmpty && decide (recArg r.bytes 0 ≤ pa) && decide (pa < recArg r.bytes 0 + recArg r.bytes 1) then
      (s.releaseStop x).cmdDone r (s.ctxid x) stIMAGE 0
    else s.memErr (.launch x) pa opMEMERR
  | _, _ =>
    match s.checkpointAt x pa with
    | some (g, n) => s.dgstKill x n 2 g (s.strand (s.dgstLast (s.dgstWaiters x n ((s.ctx x).family g.gid)))).pc
    | none => s.memErr (.launch x) pa opMEMERR

/-- What a queued record whose turn has come completes with when its descriptor cannot be read (R65, R70, R93, R497): the failures that
come before that one are found first; none where it reads no descriptor there. -/
def State.unreadable (s : State) (r : CmdRec) (pa : Nat) : Option Nat :=
  let at' := fun (a : Nat) => decide (a ≤ pa) && decide (pa < a + 64)
  if recReserved r.bytes || s.recMisplaced r then none
  else match recOpc r.bytes with
  | 1 => if at' (recArg r.bytes 0) then some stBADDESC else none
  | 2 => (s.slotOfId (recCtx r.bytes)).map (fun x =>
      if ((s.ctx x).launchNumber (recArg r.bytes 2)).isNone then stSTATE else stBADDESC)
  | 8 => if recArg r.bytes 0 = 2 ∧ decide (recArg r.bytes 1 ≤ pa) ∧ decide (pa < recArg r.bytes 1 + 32) then some stBADDESC else none
  | 5 =>
    let a := recArg r.bytes 0
    if recArg r.bytes 1 = 0 || !at' (recArg r.bytes 1) then none
    else some (if !s.hasTier then stNOTIER else if !s.isTier a then stBADDESC
      else if ((s.readImage a).bind (fun img => readBody img s.cycle)).isNone then stIMAGE else stBADDESC)
  | _ => none

/-- The block of HBM where an uncorrectable error lies is not readable again before a write that covers it whole (R193): the spec says
so of an error in its code; the step does not tell it from one in its data (log entry 85). -/
def State.spoil (s : State) (pa : Nat) : State :=
  if isHbm pa && s.ownFid (pa >>> 37) then { s with bad := sins (pa / 512) s.bad } else s

/-- An agent's access meets an uncorrectable error: a request of its own that stands at its target is answered MEMERR, and nothing is
written; otherwise the access is one of the agent's own die (R43). -/
def State.agentError (s : State) (agent : Agent) (pa : Nat) : State :=
  match s.errorAt agent pa with
  | some i => (s.spoil pa).answerError i
  | none => (s.spoil pa).memErr agent pa opMEMERR

/-- UNCORRECTABLE_ERROR (R43, R193): the access of an agent of a context, or of another package, meets one. Agents from slot 64 on are
the launch unit taking record `slot - 64`. -/
def execUncorrectableError (agent : Agent) (pa : Nat) (s : State) : Out :=
  match agent with
  | .launch x =>
    if x < 64 then .next (if (s.ctx x).used then (s.spoil pa).launchUnitError x pa else s)
    else match s.cmdQ[x - 64]? with
      | none => .next s
      | some r =>
        if s.power ≠ .ready ∨ !s.turnOf (x - 64) r then .next s
        else .next (match s.unreadable r pa with
          | some e => (s.spoil pa).complete (x - 64) r e 0
          | none => s)
  | .strand t => .next (if (s.strand t).occ then s.agentError agent pa else s)
  | .engine l _ => .next (if (s.ctx (slotOf l)).used then s.agentError agent pa else s)
  | .bellows l => .next (if (s.ctx (slotOf l)).used then s.agentError agent pa else s)
  | .sketch l => .next (if (s.ctx (slotOf l)).used then s.agentError agent pa else s)
  | .walker l => .next (if (s.ctx (slotOf l)).used then s.agentError agent pa else s)

end Sys2Proof.Machine
end

