-- ==== Sys2Proof/Machine/ScalarFp.lean ====
section
/-! DEFINITION. The FP32 instructions of the S slots (R371-R375). -/

namespace Sys2Proof.Machine

/-- Writes an FP32 result and its flags with latency `n` (R371). -/
def State.fOut (s : State) (d : R6) (r : Nat × Nat) (n : Nat) : State := (s.wG d (resF r).1 n).flag r.2 n

/-- A scalar FP32 source. -/
def State.fv (s : State) (c : R6) : FVal := val32 (lo32 (s.gv c))

/-- FCMP (R374): the answer and NV. -/
def fcmpRes (fn : Nat) (a b : FVal) : Bool × Nat :=
  let un := a.isNan || b.isNan
  let quiet := a.snan ||| b.snan
  let loud := if un then fNV else 0
  match fn with
  | 0 => (eqV a b, quiet)
  | 1 => (!eqV a b, quiet)
  | 2 => (ltV a b, loud)
  | 3 => (ltV a b || eqV a b, loud)
  | 4 => (ltV b a, loud)
  | 5 => (ltV b a || eqV a b, loud)
  | 6 => (un, quiet)
  | _ => (!un, quiet)

/-- An integer to FP32 (R375, R413). -/
def fromInt (mode : RMode) (x : Int) : Nat × Nat := fp32.ofDy mode (Dy.ofInt x) false

/-- BF16 in [15:0] to FP32: exact, a signalling NaN quietened with NV (R375). -/
def bf2f (x : Nat) : Nat × Nat :=
  match bf16.val x with
  | .nan q => (fp32.nan, if q then fNV else 0)
  | .inf _ => (x * 65536, 0)
  | .fin _ _ => (x * 65536, 0)

/-- FCVT (R375): the 64-bit result and flags. -/
def fcvtRes (fn : Nat) (a : W64) : W64 × Nat :=
  let mode := fnMode fn
  match fn / 2 with
  | 0 => res64 (toInt mode (-((2 ^ 63 : Nat) : Int)) (((2 ^ 63 : Nat) : Int) - 1) (val32 (lo32 a)))
  | 1 => res64 (toInt mode 0 (((2 ^ 64 : Nat) : Int) - 1) (val32 (lo32 a)))
  | 2 => resF (fromInt mode a.toInt)
  | 3 => resF (fromInt mode a.toNat)
  | 4 => resF (convV bf16 mode (val32 (lo32 a)))
  | _ => resF (bf2f (a.toNat % 65536))

/-- FADD. -/
def execFadd (g : Guard) (d a b : R6) (fn : F4) (s : State) : Out :=
  act g s fun s => s.fOut d (addV fp32 (fnMode fn.toNat) (s.fv a) (s.fv b)) 4
/-- FSUB. -/
def execFsub (g : Guard) (d a b : R6) (fn : F4) (s : State) : Out :=
  act g s fun s => s.fOut d (subV fp32 (fnMode fn.toNat) (s.fv a) (s.fv b)) 4
/-- FMUL. -/
def execFmul (g : Guard) (d a b : R6) (fn : F4) (s : State) : Out :=
  act g s fun s => s.fOut d (mulV fp32 (fnMode fn.toNat) (s.fv a) (s.fv b)) 4
/-- FFMA reads its destination as the addend. -/
def execFfma (g : Guard) (d a b : R6) (fn : F4) (s : State) : Out :=
  act g s fun s => s.fOut d (fmaV fp32 (fnMode fn.toNat) (s.fv a) (s.fv b) (val32 (lo32 (s.op.gGet d.toNat)))) 4
/-- FMIN. -/
def execFmin (g : Guard) (d a b : R6) (_fn : F4) (s : State) : Out :=
  act g s fun s => s.fOut d (minmax fp32 false (lo32 (s.gv a)).toNat (lo32 (s.gv b)).toNat) 4
/-- FMAX. -/
def execFmax (g : Guard) (d a b : R6) (_fn : F4) (s : State) : Out :=
  act g s fun s => s.fOut d (minmax fp32 true (lo32 (s.gv a)).toNat (lo32 (s.gv b)).toNat) 4
/-- FCMP. -/
def execFcmp (g : Guard) (d a b : R6) (fn : F4) (s : State) : Out :=
  act g s fun s => let r := fcmpRes fn.toNat (s.fv a) (s.fv b); (s.wP d.toNat r.1 4).flag r.2 4
/-- FCVT. -/
def execFcvt (g : Guard) (d a _b : R6) (fn : F4) (s : State) : Out :=
  act g s fun s => let r := fcvtRes fn.toNat (s.gv a); (s.wG d r.1 4).flag r.2 4
/-- FDIV. -/
def execFdiv (g : Guard) (d a b : R6) (fn : F4) (s : State) : Out :=
  act g s fun s => s.fOut d (divV fp32 (fnMode fn.toNat) (s.fv a) (s.fv b)) 12
/-- FSQRT. -/
def execFsqrt (g : Guard) (d a _b : R6) (fn : F4) (s : State) : Out :=
  act g s fun s => s.fOut d (sqrtV fp32 (fnMode fn.toNat) (s.fv a)) 12

end Sys2Proof.Machine
end

