-- ==== Sys2Proof/Machine/Tile.lean ====
section
/-! DEFINITION. The tile moves (R419, R420). -/

namespace Sys2Proof.Machine

/-- TCFGU of a tile move (R419): unconfigured, or a row or column outside the shape. -/
def State.moveCheck (s : State) (t : Nat) (row : Bool) (n : W64) : Option Trap :=
  let v := tget 0 s.op.tcfg t
  if tcRows v = 0 then some (tcfgu t 0)
  else if n.toNat < (if row then tcRows v else tcCols v) then none
  else some (tcfgu t 1)

/-- An element of a tile as a lane: FP32 and INT32 copied, BF16 with zeros above, INT16 and INT8 sign-extended (R419). -/
def elemLane (etype : Nat) (bs : List Byte) : W32 :=
  match etype with
  | 3 => w32 (sgn 16 (leNat bs))
  | 4 => w32 (sgn 8 (leNat bs))
  | _ => BitVec.ofNat 32 (leNat bs)

/-- Element (r, c) of tile t as a lane. -/
def Strand.elem (st : Strand) (t r c : Nat) : W32 :=
  let v := tget 0 st.tcfg t
  let n := etSize (tcType v)
  elemLane (tcType v) (st.tBytes t (r * rowBytes v + c * n) n)

/-- TMOVR: a lane gives up its low bytes (R419). -/
def execTmovr (_m : Mask) (d a b : R6) (_fn : F4) (s : State) : Out :=
  act ⟨0, false⟩ s fun s =>
    let v := tget 0 s.op.tcfg d.toNat
    let x := s.vv a
    let r := (s.gv b).toNat
    s.checked (s.moveCheck d.toNat true (s.gv b)) fun s =>
      s.onMe (fun st =>
        (st.tWrite d.toNat (r * rowBytes v) ((x.take (tcCols v)).flatMap (fun e => leBytes (etSize (tcType v)) e.toNat))).latency
          (.t d.toNat) 2)
/-- TMOVC. -/
def execTmovc (_m : Mask) (d a b : R6) (_fn : F4) (s : State) : Out :=
  act ⟨0, false⟩ s fun s =>
    let v := tget 0 s.op.tcfg a.toNat
    s.checked (s.moveCheck a.toNat false (s.gv b)) fun s =>
      s.wV d (lanes64.map (fun l => if l < tcRows v then s.op.elem a.toNat l (s.gv b).toNat else 0)) 2
/-- TROWV. -/
def execTrowv (_m : Mask) (d a b : R6) (_fn : F4) (s : State) : Out :=
  act ⟨0, false⟩ s fun s =>
    let v := tget 0 s.op.tcfg a.toNat
    s.checked (s.moveCheck a.toNat true (s.gv b)) fun s =>
      s.wV d (lanes64.map (fun l => if l < tcCols v then s.op.elem a.toNat (s.gv b).toNat l else 0)) 2
/-- TZERO: every configured byte zero, and the dirty bit set. -/
def execTzero (_m : Mask) (d _a _b : R6) (_fn : F4) (s : State) : Out :=
  act ⟨0, false⟩ s fun s =>
    let v := tget 0 s.op.tcfg d.toNat
    s.checked (if tcRows v = 0 then some (tcfgu d.toNat 0) else none) fun s =>
      s.onMe (fun st =>
        (st.tWrite d.toNat 0 (List.replicate (tcRows v * rowBytes v) 0)).latency (.t d.toNat) 2)

end Sys2Proof.Machine
end

