-- ==== Sys2Proof/Machine/Vector.lean ====
section
/-! DEFINITION. The vector instructions on 64 lanes of 32 bits (R399-R418). -/

namespace Sys2Proof.Machine

/-! ### Arithmetic (R400-R402) -/

/-- The latency of an arithmetic form: 4 for the floating-point types, 2 for the integer types (R304). -/
def vlat (fn : F4) : Nat := if fn.toNat ≤ 2 then 4 else 2

/-- A lane of VADD, VSUB or VMUL of a type (R400). -/
def arithLane (fop : FFmt → RMode → FVal → FVal → Nat × Nat) (iop : Int → Int → Int) (fn : Nat) (a b : W32) : W32 × Nat :=
  if fn ≤ 2 then fpLane fop fn a b else intLane iop fn a b

/-- VADD. -/
def execVadd (m : Mask) (d a b : R6) (fn : F4) (s : State) : Out :=
  act ⟨0, false⟩ s fun s => s.v2 m d a b (vlat fn) (arithLane addV (· + ·) fn.toNat)
/-- VSUB. -/
def execVsub (m : Mask) (d a b : R6) (fn : F4) (s : State) : Out :=
  act ⟨0, false⟩ s fun s => s.v2 m d a b (vlat fn) (arithLane subV (· - ·) fn.toNat)
/-- VMUL. -/
def execVmul (m : Mask) (d a b : R6) (fn : F4) (s : State) : Out :=
  act ⟨0, false⟩ s fun s => s.v2 m d a b (vlat fn) (arithLane mulV (· * ·) fn.toNat)
/-- VFMA reads its destination as the addend. -/
def execVfma (m : Mask) (d a b : R6) (fn : F4) (s : State) : Out :=
  act ⟨0, false⟩ s fun s => s.v3 m d a b 4 (fmaLane fn.toNat)

/-- A lane of VMIN or VMAX (R402). -/
def minmaxLane (wantMax : Bool) (fn : Nat) (a b : W32) : W32 × Nat :=
  match fn with
  | 2 => lane (minmax bf16 wantMax (a.toNat % 65536) (b.toNat % 65536))
  | 3 => (if a.sle b != wantMax then a else b, 0)
  | 4 => (if a.ule b != wantMax then a else b, 0)
  | _ => lane (minmax fp32 wantMax a.toNat b.toNat)

/-- VMIN. -/
def execVmin (m : Mask) (d a b : R6) (fn : F4) (s : State) : Out :=
  act ⟨0, false⟩ s fun s => s.v2 m d a b (vlat fn) (minmaxLane false fn.toNat)
/-- VMAX. -/
def execVmax (m : Mask) (d a b : R6) (fn : F4) (s : State) : Out :=
  act ⟨0, false⟩ s fun s => s.v2 m d a b (vlat fn) (minmaxLane true fn.toNat)

/-- A lane of VABS (R402). -/
def absLane (fn : Nat) (a : W32) : W32 × Nat :=
  match fn with
  | 2 => (a &&& 0x7FFF, 0)
  | 3 => (if a.slt 0 then -a else a, 0)
  | 5 => res32 (satS 32 (a.toInt.natAbs : Int))
  | _ => (a &&& 0x7FFFFFFF, 0)
/-- A lane of VNEG (R402). -/
def negLane (fn : Nat) (a : W32) : W32 × Nat :=
  match fn with
  | 2 => ((a ^^^ 0x8000) &&& 0xFFFF, 0)
  | 3 => (-a, 0)
  | 5 => res32 (satS 32 (-a.toInt))
  | _ => (a ^^^ 0x80000000, 0)

/-- VABS. -/
def execVabs (m : Mask) (d a _b : R6) (fn : F4) (s : State) : Out :=
  act ⟨0, false⟩ s fun s => s.v1 m d a (vlat fn) (absLane fn.toNat)
/-- VNEG. -/
def execVneg (m : Mask) (d a _b : R6) (fn : F4) (s : State) : Out :=
  act ⟨0, false⟩ s fun s => s.v1 m d a (vlat fn) (negLane fn.toNat)

/-! ### Transcendentals and tables (R403-R409) -/

/-- VRCP. -/
def execVrcp (m : Mask) (d a _b : R6) (_fn : F4) (s : State) : Out := act ⟨0, false⟩ s fun s => s.v1 m d a 8 rcpLane
/-- VRSQ. -/
def execVrsq (m : Mask) (d a _b : R6) (_fn : F4) (s : State) : Out := act ⟨0, false⟩ s fun s => s.v1 m d a 8 rsqLane
/-- VEXP2. -/
def execVexp2 (m : Mask) (d a _b : R6) (_fn : F4) (s : State) : Out := act ⟨0, false⟩ s fun s => s.v1 m d a 8 exp2Lane
/-- VLOG2. -/
def execVlog2 (m : Mask) (d a _b : R6) (_fn : F4) (s : State) : Out := act ⟨0, false⟩ s fun s => s.v1 m d a 8 log2Lane
/-- VLUT. -/
def execVlut (m : Mask) (d a _b : R6) (fn : F4) (s : State) : Out :=
  act ⟨0, false⟩ s fun s => s.v1 m d a 8 (lutLane fn.toNat)

/-! ### Compare, select, logic, shifts (R410-R412) -/

/-- A lane of VCMP (R410): fn[3:2] the type, fn[1:0] the condition. -/
def vcmpLane (fn : Nat) (a b : W32) : Bool × Nat :=
  let c := fn % 4
  let int := fun (lt : Bool) => match c with
    | 0 => a == b
    | 1 => a != b
    | 2 => lt
    | _ => lt || a == b
  match fn / 4 with
  | 0 => fcmpRes c (val32 a) (val32 b)
  | 1 => (int (a.slt b), 0)
  | 2 => (int (a.ult b), 0)
  | _ => fcmpRes c (valB a) (valB b)

/-- A Q value from 64 answers under a mask: masked-off bits are kept, or cleared under zeroing (R410). -/
def mergeQ (q : W64) (z : Bool) (old : W64) (f : Nat → Bool) : W64 :=
  let new : W64 := BitVec.ofNat 64 (lanes64.foldl (fun a l => if f l then a + 2 ^ l else a) 0)
  (new &&& q) ||| (if z then 0 else old &&& ~~~q)

/-- VCMP. -/
def execVcmp (m : Mask) (d a b : R6) (fn : F4) (s : State) : Out :=
  act ⟨0, false⟩ s fun s =>
    let q := s.maskQ m
    let x := s.vv a
    let y := s.vv b
    let r := lanes64.map (fun l => vcmpLane fn.toNat (x.getD l 0) (y.getD l 0))
    (s.wQ d.toNat (mergeQ q m.z (s.op.qGet d.toNat) (fun l => (r.getD l (false, 0)).1)) 2).flag (laneFlags q (r.map (·.2))) 2

/-- VSEL: the mask field names the selecting Q register; every lane is written (R411). -/
def execVsel (m : Mask) (d a b : R6) (_fn : F4) (s : State) : Out :=
  act ⟨0, false⟩ s fun s =>
    let x := s.vv a
    let y := s.vv b
    s.wV d (lanes64.map (fun l => if (s.maskQ m).getLsbD l then x.getD l 0 else y.getD l 0)) 2
/-- VMOV. -/
def execVmov (m : Mask) (d a _b : R6) (_fn : F4) (s : State) : Out := act ⟨0, false⟩ s fun s => s.v1 m d a 2 (fun x => (x, 0))
/-- VAND. -/
def execVand (m : Mask) (d a b : R6) (_fn : F4) (s : State) : Out :=
  act ⟨0, false⟩ s fun s => s.v2 m d a b 2 (fun x y => (x &&& y, 0))
/-- VOR. -/
def execVor (m : Mask) (d a b : R6) (_fn : F4) (s : State) : Out :=
  act ⟨0, false⟩ s fun s => s.v2 m d a b 2 (fun x y => (x ||| y, 0))
/-- VXOR. -/
def execVxor (m : Mask) (d a b : R6) (_fn : F4) (s : State) : Out :=
  act ⟨0, false⟩ s fun s => s.v2 m d a b 2 (fun x y => (x ^^^ y, 0))
/-- VSHL. -/
def execVshl (m : Mask) (d a b : R6) (_fn : F4) (s : State) : Out :=
  act ⟨0, false⟩ s fun s => s.v2 m d a b 2 (fun x y => (shift32 .shl x (y.toNat % 32), 0))
/-- VSHR. -/
def execVshr (m : Mask) (d a b : R6) (_fn : F4) (s : State) : Out :=
  act ⟨0, false⟩ s fun s => s.v2 m d a b 2 (fun x y => (shift32 .shr x (y.toNat % 32), 0))
/-- VSAR. -/
def execVsar (m : Mask) (d a b : R6) (_fn : F4) (s : State) : Out :=
  act ⟨0, false⟩ s fun s => s.v2 m d a b 2 (fun x y => (shift32 .sar x (y.toNat % 32), 0))

/-! ### Conversions and MX blocks (R413-R415) -/

/-- A lane of VCVT (R413). -/
def cvtLane (fn : Nat) (a : W32) : W32 × Nat :=
  let mode := fnMode fn
  let i := fun (r : Int × Nat) => (w32 r.1, r.2)
  match fn with
  | 0 => i (toInt mode (-((2 ^ 31 : Nat) : Int)) (((2 ^ 31 : Nat) : Int) - 1) (val32 a))
  | 1 => i (toInt mode (-((2 ^ 31 : Nat) : Int)) (((2 ^ 31 : Nat) : Int) - 1) (val32 a))
  | 2 => i (toInt mode 0 (((2 ^ 32 : Nat) : Int) - 1) (val32 a))
  | 3 => i (toInt mode 0 (((2 ^ 32 : Nat) : Int) - 1) (val32 a))
  | 4 => lane (fromInt .rne a.toInt)
  | 5 => lane (fromInt .rne a.toNat)
  | 6 => lane (convV bf16 .rne (val32 a))
  | _ => lane (bf2f (a.toNat % 65536))

/-- VCVT. -/
def execVcvt (m : Mask) (d a _b : R6) (fn : F4) (s : State) : Out :=
  act ⟨0, false⟩ s fun s => s.v1 m d a 4 (cvtLane fn.toNat)

/-- The bytes of 64 lanes. -/
def lanesBytes (v : List W32) : List Byte := v.flatMap (fun x => leBytes 4 x.toNat)
/-- The lanes of 256 bytes. -/
def bytesLanes (bs : List Byte) : List W32 := lanes64.map (fun l => BitVec.ofNat 32 (fld bs (4 * l) 4))

/-- The image of two blocks (R414). -/
def mxImage (fmt : Nat) (b0 b1 : List Nat × Nat) : List Byte :=
  let body := blockBytes fmt b0.1 ++ blockBytes fmt b1.1
  body ++ List.replicate (252 - body.length) 0 ++ [BitVec.ofNat 8 b0.2, BitVec.ofNat 8 b1.2, 0, 0]

/-- VQMX: masked-off lanes enter as +0; the whole register is written. -/
def execVqmx (m : Mask) (d a _b : R6) (fn : F4) (s : State) : Out :=
  act ⟨0, false⟩ s fun s =>
    let x := s.vv a
    let v := lanes64.map (fun l => val32 (if (s.maskQ m).getLsbD l then x.getD l 0 else 0))
    s.wV d (bytesLanes (mxImage fn.toNat (quantMX fn.toNat .rne (v.take 32)) (quantMX fn.toNat .rne (v.drop 32)))) 6

/-- VDQMX. -/
def execVdqmx (m : Mask) (d a _b : R6) (fn : F4) (s : State) : Out :=
  act ⟨0, false⟩ s fun s =>
    let f := fn.toNat
    let img := lanesBytes (s.vv a)
    let c0 := blockCodes f (img.take (mxStride f))
    let c1 := blockCodes f (slice img (mxStride f) (mxStride f))
    s.vOut m d 4 (fun l =>
      if l < 32 then lane (dequant f (fld img 252 1) (c0.getD l 0)) else lane (dequant f (fld img 253 1) (c1.getD (l - 32) 0)))

/-! ### Reductions and lane movement (R416-R418) -/

/-- One level of a pairwise tree. -/
def pairUp {α : Type} (f : α → α → α) : List α → List α
  | a :: b :: t => f a b :: pairUp f t
  | l => l

/-- The pairwise tree of R273 on 64 values. -/
def vredTree {α : Type} (f : α → α → α) (v : List α) : List α :=
  pairUp f (pairUp f (pairUp f (pairUp f (pairUp f (pairUp f v)))))

/-- An FP32 node of VRED: operation 0 ADD, 1 MIN, 2 MAX. -/
def redFp (op : Nat) (mode : RMode) (x y : W32 × Nat) : W32 × Nat :=
  let r := match op with
    | 0 => addV fp32 mode (val32 x.1) (val32 y.1)
    | 1 => minmax fp32 false x.1.toNat y.1.toNat
    | _ => minmax fp32 true x.1.toNat y.1.toNat
  (BitVec.ofNat 32 r.1, x.2 ||| y.2 ||| r.2)

/-- The identity of an operation for masked-off lanes (R273, R416). -/
def redId (op : Nat) : W32 :=
  match op with
  | 0 => 0x80000000
  | 1 => 0x7F800000
  | _ => 0xFF800000

/-- The result of VRED (R416). -/
def vredRes (fn : Nat) (q : W64) (x : List W32) : W64 × Nat :=
  let op := fn % 4
  let live := (lanes64.filter (fun l => q.getLsbD l)).map (fun l => x.getD l 0)
  match fn / 4 with
  | 2 =>
    let v := live.map (fun a => a.toInt)
    (w64 (match op with
      | 0 => v.foldl (· + ·) 0
      | 1 => v.foldl min (((2 ^ 31 : Nat) : Int) - 1)
      | _ => v.foldl max (-((2 ^ 31 : Nat) : Int))), 0)
  | 3 =>
    let v := live.map (fun a => a.toNat)
    (BitVec.ofNat 64 (match op with
      | 1 => v.foldl min (2 ^ 32 - 1)
      | _ => v.foldl max 0), 0)
  | k =>
    let mode := if k = 1 then RMode.rtz else .rne
    let r := (vredTree (redFp op mode) (lanes64.map (fun l => (if q.getLsbD l then x.getD l 0 else redId op, 0)))).headD (0, 0)
    (BitVec.ofNat 64 r.1.toNat, r.2)

/-- VRED. -/
def execVred (m : Mask) (d a _b : R6) (fn : F4) (s : State) : Out :=
  act ⟨0, false⟩ s fun s =>
    let r := vredRes fn.toNat (s.maskQ m) (s.vv a)
    (s.wG d r.1 6).flag r.2 6

/-- VPERM. -/
def execVperm (m : Mask) (d a b : R6) (_fn : F4) (s : State) : Out :=
  act ⟨0, false⟩ s fun s =>
    let x := s.vv a
    let y := s.vv b
    s.vOut m d 3 (fun l => (x.getD ((y.getD l 0).toNat % 64) 0, 0))
/-- VROT. -/
def execVrot (m : Mask) (d a b : R6) (_fn : F4) (s : State) : Out :=
  act ⟨0, false⟩ s fun s =>
    let x := s.vv a
    s.vOut m d 2 (fun l => (x.getD ((l + (s.gv b).toNat) % 64) 0, 0))
/-- VBCAST. -/
def execVbcast (m : Mask) (d a b : R6) (_fn : F4) (s : State) : Out :=
  act ⟨0, false⟩ s fun s =>
    let x := (s.vv a).getD ((s.gv b).toNat % 64) 0
    s.vOut m d 2 (fun _ => (x, 0))
/-- VEXT. -/
def execVext (_m : Mask) (d a b : R6) (_fn : F4) (s : State) : Out :=
  act ⟨0, false⟩ s fun s => s.wG d (((s.vv a).getD ((s.gv b).toNat % 64) 0).zeroExtend 64) 2
/-- VIOTA. -/
def execViota (_m : Mask) (d _a _b : R6) (_fn : F4) (s : State) : Out :=
  act ⟨0, false⟩ s fun s => s.wV d (lanes64.map (fun l => BitVec.ofNat 32 l)) 2
/-- QLOG. -/
def execQlog (_m : Mask) (d a b : R6) (fn : F4) (s : State) : Out :=
  act ⟨0, false⟩ s fun s =>
    let x := s.op.qGet a.toNat
    let y := s.op.qGet b.toNat
    s.wQ d.toNat (mergeQ ones64 true 0 (fun l => fn.getLsbD (2 * (x.getLsbD l).toNat + (y.getLsbD l).toNat))) 2
/-- QPOPC. -/
def execQpopc (_m : Mask) (d a _b : R6) (_fn : F4) (s : State) : Out :=
  act ⟨0, false⟩ s fun s => s.wG d (BitVec.ofNat 64 (popN 64 (s.op.qGet a.toNat).toNat)) 2

end Sys2Proof.Machine
end

