-- ==== Sys2Proof/Machine/Dispatch.lean ====
section
/-! DEFINITION. What each row of the opcode table does: one arm per constructor, each one call of its meaning. -/

namespace Sys2Proof.Machine

/-- The meaning of one instruction, or of one step of another agent. -/
def exec (i : Instr) (s : State) : Host.Outcome State Fault Refusal :=
  match i with
  | .powerGood => Sys2Proof.Machine.execPowerGood s
  | .packageResetRelease => Sys2Proof.Machine.execPackageResetRelease s
  | .kindlingTimeout => Sys2Proof.Machine.execKindlingTimeout s
  | .modulePowerLoss => Sys2Proof.Machine.execModulePowerLoss s
  | .blockOverheat die block => Sys2Proof.Machine.execBlockOverheat die block s
  | .blockCooled die block => Sys2Proof.Machine.execBlockCooled die block s
  | .thermalTrip die reading => Sys2Proof.Machine.execThermalTrip die reading s
  | .coreRetirement die core => Sys2Proof.Machine.execCoreRetirement die core s
  | .uncorrectableError agent pa => Sys2Proof.Machine.execUncorrectableError agent pa s
  | .flitInject n => Sys2Proof.Machine.execFlitInject n s
  | .linkFlitReceive w errs => Sys2Proof.Machine.execLinkFlitReceive w errs s
  | .nakReceived n => Sys2Proof.Machine.execNakReceived n s
  | .par n errs => Sys2Proof.Machine.execPar n errs s
  | .nakRepeatTimeout n => Sys2Proof.Machine.execNakRepeatTimeout n s
  | .linkRetrainDone link fewer => Sys2Proof.Machine.execLinkRetrainDone link fewer s
  | .segmentFailure link => Sys2Proof.Machine.execSegmentFailure link s
  | .unreachTimeout n => Sys2Proof.Machine.execUnreachTimeout n s
  | .flitAtExitNode n free reserve => Sys2Proof.Machine.execFlitAtExitNode n free reserve s
  | .refusedFlitRetry n => Sys2Proof.Machine.execRefusedFlitRetry n s
  | .rstAtTarget n => Sys2Proof.Machine.execRstAtTarget n s
  | .rldAtTarget n => Sys2Proof.Machine.execRldAtTarget n s
  | .ratAtTarget n => Sys2Proof.Machine.execRatAtTarget n s
  | .rstack n => Sys2Proof.Machine.execRstack n s
  | .rlddata n => Sys2Proof.Machine.execRlddata n s
  | .ratdata n => Sys2Proof.Machine.execRatdata n s
  | .bseg n => Sys2Proof.Machine.execBseg n s
  | .mgmt n => Sys2Proof.Machine.execMgmt n s
  | .ablumLinkFailure link => Sys2Proof.Machine.execAblumLinkFailure link s
  | .hostRead off len => Sys2Proof.Machine.execHostRead off len s
  | .hostWrite a bytes => Sys2Proof.Machine.execHostWrite a bytes s
  | .mgmtRegisterWrite off bytes => Sys2Proof.Machine.execMgmtRegisterWrite off bytes s
  | .monitoredLineInvalidate line => Sys2Proof.Machine.execMonitoredLineInvalidate line s
  | .create n => Sys2Proof.Machine.execCreate n s
  | .launchRecord n => Sys2Proof.Machine.execLaunchRecord n s
  | .setprio n => Sys2Proof.Machine.execSetprio n s
  | .freeze n => Sys2Proof.Machine.execFreeze n s
  | .resume n => Sys2Proof.Machine.execResume n s
  | .kill n => Sys2Proof.Machine.execKill n s
  | .dirtysnap n => Sys2Proof.Machine.execDirtysnap n s
  | .queryDevinfo n => Sys2Proof.Machine.execQueryDevinfo n s
  | .queryCtxstate n => Sys2Proof.Machine.execQueryCtxstate n s
  | .queryAttest n => Sys2Proof.Machine.execQueryAttest n s
  | .queryLogstat n => Sys2Proof.Machine.execQueryLogstat n s
  | .eventLogWrite => Sys2Proof.Machine.execEventLogWrite s
  | .freezeTimeout slot => Sys2Proof.Machine.execFreezeTimeout slot s
  | .engineStopAck slot inst units => Sys2Proof.Machine.execEngineStopAck slot inst units s
  | .preemptionComplete slot => Sys2Proof.Machine.execPreemptionComplete slot s
  | .rebalance die => Sys2Proof.Machine.execRebalance die s
  | .quantumExpiry lc => Sys2Proof.Machine.execQuantumExpiry lc s
  | .residencySwap lc => Sys2Proof.Machine.execResidencySwap lc s
  | .agingTick slot => Sys2Proof.Machine.execAgingTick slot s
  | .deadlockTimeout slot gid => Sys2Proof.Machine.execDeadlockTimeout slot gid s
  | .damperWindow core demand => Sys2Proof.Machine.execDamperWindow core demand s
  | .strandSwitch lc => Sys2Proof.Machine.execStrandSwitch lc s
  | .strandReady t => Sys2Proof.Machine.execStrandReady t s
  | .firingStart t => Sys2Proof.Machine.execFiringStart t s
  | .firingEnd t => Sys2Proof.Machine.execFiringEnd t s
  | .graphEnd slot gid => Sys2Proof.Machine.execGraphEnd slot gid s
  | .childInstantiate slot gid => Sys2Proof.Machine.execChildInstantiate slot gid s
  | .channelPublish slot gid ch idx => Sys2Proof.Machine.execChannelPublish slot gid ch idx s
  | .engineCommandReady lc cmd => Sys2Proof.Machine.execEngineCommandReady lc cmd s
  | .bteAccept lc cmd => Sys2Proof.Machine.execBteAccept lc cmd s
  | .bteChunkPerformed lc cmd => Sys2Proof.Machine.execBteChunkPerformed lc cmd s
  | .bteCommandComplete lc cmd => Sys2Proof.Machine.execBteCommandComplete lc cmd s
  | .decodeStall lc cmd => Sys2Proof.Machine.execDecodeStall lc cmd s
  | .matrixCommandStart lc cmd => Sys2Proof.Machine.execMatrixCommandStart lc cmd s
  | .mmaComplete lc cmd => Sys2Proof.Machine.execMmaComplete lc cmd s
  | .mloadwComplete lc cmd => Sys2Proof.Machine.execMloadwComplete lc cmd s
  | .mdrainRowWritten lc cmd => Sys2Proof.Machine.execMdrainRowWritten lc cmd s
  | .maccldComplete lc cmd => Sys2Proof.Machine.execMaccldComplete lc cmd s
  | .eploadComplete lc cmd => Sys2Proof.Machine.execEploadComplete lc cmd s
  | .sketchAccept lc cmd => Sys2Proof.Machine.execSketchAccept lc cmd s
  | .sketchCommandComplete lc cmd => Sys2Proof.Machine.execSketchCommandComplete lc cmd s
  | .collAccept lc cmd => Sys2Proof.Machine.execCollAccept lc cmd s
  | .collComplete lc cmd => Sys2Proof.Machine.execCollComplete lc cmd s
  | .dgstCheckpoint slot gid n => Sys2Proof.Machine.execDgstCheckpoint slot gid n s
  | .nop g => Sys2Proof.Machine.execNop g s
  | .br g disp => Sys2Proof.Machine.execBr g disp s
  | .brv g q disp => Sys2Proof.Machine.execBrv g q disp s
  | .bri g a => Sys2Proof.Machine.execBri g a s
  | .call g disp => Sys2Proof.Machine.execCall g disp s
  | .calli g a => Sys2Proof.Machine.execCalli g a s
  | .ret g => Sys2Proof.Machine.execRet g s
  | .loop g dims c len => Sys2Proof.Machine.execLoop g dims c len s
  | .lexit g => Sys2Proof.Machine.execLexit g s
  | .waitf g a b => Sys2Proof.Machine.execWaitf g a b s
  | .yield g => Sys2Proof.Machine.execYield g s
  | .halt g => Sys2Proof.Machine.execHalt g s
  | .trap g code => Sys2Proof.Machine.execTrap g code s
  | .eret g => Sys2Proof.Machine.execEret g s
  | .brk g code => Sys2Proof.Machine.execBrk g code s
  | .tfence g => Sys2Proof.Machine.execTfence g s
  | .add g d a b fn => Sys2Proof.Machine.execAdd g d a b fn s
  | .sub g d a b fn => Sys2Proof.Machine.execSub g d a b fn s
  | .mul g d a b fn => Sys2Proof.Machine.execMul g d a b fn s
  | .div g d a b fn => Sys2Proof.Machine.execDiv g d a b fn s
  | .and g d a b fn => Sys2Proof.Machine.execAnd g d a b fn s
  | .or g d a b fn => Sys2Proof.Machine.execOr g d a b fn s
  | .xor g d a b fn => Sys2Proof.Machine.execXor g d a b fn s
  | .andn g d a b fn => Sys2Proof.Machine.execAndn g d a b fn s
  | .shl g d a b fn => Sys2Proof.Machine.execShl g d a b fn s
  | .shr g d a b fn => Sys2Proof.Machine.execShr g d a b fn s
  | .sar g d a b fn => Sys2Proof.Machine.execSar g d a b fn s
  | .rotr g d a b fn => Sys2Proof.Machine.execRotr g d a b fn s
  | .min g d a b fn => Sys2Proof.Machine.execMin g d a b fn s
  | .max g d a b fn => Sys2Proof.Machine.execMax g d a b fn s
  | .cmp g d a b fn => Sys2Proof.Machine.execCmp g d a b fn s
  | .sel g d a b fn => Sys2Proof.Machine.execSel g d a b fn s
  | .clz g d a b fn => Sys2Proof.Machine.execClz g d a b fn s
  | .ctz g d a b fn => Sys2Proof.Machine.execCtz g d a b fn s
  | .popc g d a b fn => Sys2Proof.Machine.execPopc g d a b fn s
  | .extr g d a b fn => Sys2Proof.Machine.execExtr g d a b fn s
  | .insr g d a b fn => Sys2Proof.Machine.execInsr g d a b fn s
  | .lea g d a b fn => Sys2Proof.Machine.execLea g d a b fn s
  | .addi g d a imm => Sys2Proof.Machine.execAddi g d a imm s
  | .movi g d imm => Sys2Proof.Machine.execMovi g d imm s
  | .plog g d a b fn => Sys2Proof.Machine.execPlog g d a b fn s
  | .mfs g d num => Sys2Proof.Machine.execMfs g d num s
  | .mts g num a => Sys2Proof.Machine.execMts g num a s
  | .fadd g d a b fn => Sys2Proof.Machine.execFadd g d a b fn s
  | .fsub g d a b fn => Sys2Proof.Machine.execFsub g d a b fn s
  | .fmul g d a b fn => Sys2Proof.Machine.execFmul g d a b fn s
  | .ffma g d a b fn => Sys2Proof.Machine.execFfma g d a b fn s
  | .fmin g d a b fn => Sys2Proof.Machine.execFmin g d a b fn s
  | .fmax g d a b fn => Sys2Proof.Machine.execFmax g d a b fn s
  | .fcmp g d a b fn => Sys2Proof.Machine.execFcmp g d a b fn s
  | .fcvt g d a b fn => Sys2Proof.Machine.execFcvt g d a b fn s
  | .fdiv g d a b fn => Sys2Proof.Machine.execFdiv g d a b fn s
  | .fsqrt g d a b fn => Sys2Proof.Machine.execFsqrt g d a b fn s
  | .lds g d a b fn => Sys2Proof.Machine.execLds g d a b fn s
  | .sts g d a b fn => Sys2Proof.Machine.execSts g d a b fn s
  | .bteStart g d a b fn => Sys2Proof.Machine.execBteStart g d a b fn s
  | .ldg g d a scope cls fn => Sys2Proof.Machine.execLdg g d a scope cls fn s
  | .stg g d a scope cls fn => Sys2Proof.Machine.execStg g d a scope cls fn s
  | .vlds g d a b fn => Sys2Proof.Machine.execVlds g d a b fn s
  | .vsts g d a b fn => Sys2Proof.Machine.execVsts g d a b fn s
  | .vldg g d a scope cls fn => Sys2Proof.Machine.execVldg g d a scope cls fn s
  | .vstg g d a scope cls fn => Sys2Proof.Machine.execVstg g d a scope cls fn s
  | .vstm g d a b fn => Sys2Proof.Machine.execVstm g d a b fn s
  | .vldm g d a b fn => Sys2Proof.Machine.execVldm g d a b fn s
  | .tlds g d a b fn => Sys2Proof.Machine.execTlds g d a b fn s
  | .tsts g d a b fn => Sys2Proof.Machine.execTsts g d a b fn s
  | .atg g d a scope cls fn => Sys2Proof.Machine.execAtg g d a scope cls fn s
  | .xadd g d a scope cls fn => Sys2Proof.Machine.execXadd g d a scope cls fn s
  | .rst g d a scope cls fn => Sys2Proof.Machine.execRst g d a scope cls fn s
  | .rld g d a scope cls fn => Sys2Proof.Machine.execRld g d a scope cls fn s
  | .rat g d a scope cls fn => Sys2Proof.Machine.execRat g d a scope cls fn s
  | .fence g d a scope cls fn => Sys2Proof.Machine.execFence g d a scope cls fn s
  | .cbfence g => Sys2Proof.Machine.execCbfence g s
  | .lbr g d a b fn => Sys2Proof.Machine.execLbr g d a b fn s
  | .tinv g d a scope cls fn => Sys2Proof.Machine.execTinv g d a scope cls fn s
  | .vadd m d a b fn => Sys2Proof.Machine.execVadd m d a b fn s
  | .vsub m d a b fn => Sys2Proof.Machine.execVsub m d a b fn s
  | .vmul m d a b fn => Sys2Proof.Machine.execVmul m d a b fn s
  | .vfma m d a b fn => Sys2Proof.Machine.execVfma m d a b fn s
  | .vmin m d a b fn => Sys2Proof.Machine.execVmin m d a b fn s
  | .vmax m d a b fn => Sys2Proof.Machine.execVmax m d a b fn s
  | .vabs m d a b fn => Sys2Proof.Machine.execVabs m d a b fn s
  | .vneg m d a b fn => Sys2Proof.Machine.execVneg m d a b fn s
  | .vrcp m d a b fn => Sys2Proof.Machine.execVrcp m d a b fn s
  | .vrsq m d a b fn => Sys2Proof.Machine.execVrsq m d a b fn s
  | .vexp2 m d a b fn => Sys2Proof.Machine.execVexp2 m d a b fn s
  | .vlog2 m d a b fn => Sys2Proof.Machine.execVlog2 m d a b fn s
  | .vlut m d a b fn => Sys2Proof.Machine.execVlut m d a b fn s
  | .vcmp m d a b fn => Sys2Proof.Machine.execVcmp m d a b fn s
  | .vsel m d a b fn => Sys2Proof.Machine.execVsel m d a b fn s
  | .vmov m d a b fn => Sys2Proof.Machine.execVmov m d a b fn s
  | .vand m d a b fn => Sys2Proof.Machine.execVand m d a b fn s
  | .vor m d a b fn => Sys2Proof.Machine.execVor m d a b fn s
  | .vxor m d a b fn => Sys2Proof.Machine.execVxor m d a b fn s
  | .vshl m d a b fn => Sys2Proof.Machine.execVshl m d a b fn s
  | .vshr m d a b fn => Sys2Proof.Machine.execVshr m d a b fn s
  | .vsar m d a b fn => Sys2Proof.Machine.execVsar m d a b fn s
  | .vcvt m d a b fn => Sys2Proof.Machine.execVcvt m d a b fn s
  | .vqmx m d a b fn => Sys2Proof.Machine.execVqmx m d a b fn s
  | .vdqmx m d a b fn => Sys2Proof.Machine.execVdqmx m d a b fn s
  | .vred m d a b fn => Sys2Proof.Machine.execVred m d a b fn s
  | .vperm m d a b fn => Sys2Proof.Machine.execVperm m d a b fn s
  | .vrot m d a b fn => Sys2Proof.Machine.execVrot m d a b fn s
  | .vbcast m d a b fn => Sys2Proof.Machine.execVbcast m d a b fn s
  | .vext m d a b fn => Sys2Proof.Machine.execVext m d a b fn s
  | .viota m d a b fn => Sys2Proof.Machine.execViota m d a b fn s
  | .qlog m d a b fn => Sys2Proof.Machine.execQlog m d a b fn s
  | .qpopc m d a b fn => Sys2Proof.Machine.execQpopc m d a b fn s
  | .tmovr m d a b fn => Sys2Proof.Machine.execTmovr m d a b fn s
  | .tmovc m d a b fn => Sys2Proof.Machine.execTmovc m d a b fn s
  | .trowv m d a b fn => Sys2Proof.Machine.execTrowv m d a b fn s
  | .tzero m d a b fn => Sys2Proof.Machine.execTzero m d a b fn s
  | .mma g a b c fn => Sys2Proof.Machine.execMma g a b c fn s
  | .mloadw g a b c fn => Sys2Proof.Machine.execMloadw g a b c fn s
  | .mdrain g a b c fn => Sys2Proof.Machine.execMdrain g a b c fn s
  | .mzero g a b c fn => Sys2Proof.Machine.execMzero g a b c fn s
  | .maccld g a b c fn => Sys2Proof.Machine.execMaccld g a b c fn s
  | .epload g a b c fn => Sys2Proof.Machine.execEpload g a b c fn s
  | .arinit g a b c fn => Sys2Proof.Machine.execArinit g a b c fn s
  | .arrive g a b c fn => Sys2Proof.Machine.execArrive g a b c fn s
  | .arwait g a b c fn => Sys2Proof.Machine.execArwait g a b c fn s
  | .artest g a b c fn => Sys2Proof.Machine.execArtest g a b c fn s
  | .arwaitm g a b c fn => Sys2Proof.Machine.execArwaitm g a b c fn s
  | .artestm g a b c fn => Sys2Proof.Machine.execArtestm g a b c fn s
  | .efence g a b c fn => Sys2Proof.Machine.execEfence g a b c fn s
  | .skupd g a b c fn => Sys2Proof.Machine.execSkupd g a b c fn s
  | .skqry g a b c fn => Sys2Proof.Machine.execSkqry g a b c fn s
  | .skadd g a b c fn => Sys2Proof.Machine.execSkadd g a b c fn s
  | .skclr g a b c fn => Sys2Proof.Machine.execSkclr g a b c fn s
  | .coll g a b c fn => Sys2Proof.Machine.execColl g a b c fn s
  | .csig g a b c fn => Sys2Proof.Machine.execCsig g a b c fn s
  | .qpush g a b c fn => Sys2Proof.Machine.execQpush g a b c fn s
  | .qpop g a b c fn => Sys2Proof.Machine.execQpop g a b c fn s
  | .qtry g a b c fn => Sys2Proof.Machine.execQtry g a b c fn s
  | .launch g a b c fn => Sys2Proof.Machine.execLaunch g a b c fn s
  | .gbar g a b c fn => Sys2Proof.Machine.execGbar g a b c fn s
  | .specb g a b c fn => Sys2Proof.Machine.execSpecb g a b c fn s
  | .specc g a b c fn => Sys2Proof.Machine.execSpecc g a b c fn s
  | .speca g a b c fn => Sys2Proof.Machine.execSpeca g a b c fn s
  | .dgst g a b c fn => Sys2Proof.Machine.execDgst g a b c fn s
  | .endp x y z => Sys2Proof.Machine.execEndp x y z s
  | .cvt x y z => Sys2Proof.Machine.execCvt x y z s
  | .addv x y z => Sys2Proof.Machine.execAddv x y z s
  | .mulv x y z => Sys2Proof.Machine.execMulv x y z s
  | .fmav x y z => Sys2Proof.Machine.execFmav x y z s
  | .adds x y z => Sys2Proof.Machine.execAdds x y z s
  | .muls x y z => Sys2Proof.Machine.execMuls x y z s
  | .relum x y z => Sys2Proof.Machine.execRelum x y z s
  | .clamp x y z => Sys2Proof.Machine.execClamp x y z s
  | .lutp x y z => Sys2Proof.Machine.execLutp x y z s
  | .maxe x y z => Sys2Proof.Machine.execMaxe x y z s
  | .mine x y z => Sys2Proof.Machine.execMine x y z s
  | .move x y z => Sys2Proof.Machine.execMove x y z s
  | .cvtb x y z => Sys2Proof.Machine.execCvtb x y z s
  | .maskw x y z => Sys2Proof.Machine.execMaskw x y z s
  | .qout x y z => Sys2Proof.Machine.execQout x y z s
  | .packageResetAsserted => Sys2Proof.Machine.execPackageResetAsserted s
  | .hbmRepairRowsExhausted die stack => Sys2Proof.Machine.execHbmRepairRowsExhausted die stack s
  | .ablumLinkRetrained link lanes => Sys2Proof.Machine.execAblumLinkRetrained link lanes s
  | .mzeroComplete lc cmd => Sys2Proof.Machine.execMzeroComplete lc cmd s
  | .globalAccessPerformed t n => Sys2Proof.Machine.execGlobalAccessPerformed t n s

end Sys2Proof.Machine
end

