-- ==== Sys2Proof/Machine/Issue.lean ====
section
/-! DEFINITION. Issuing a bundle (R83, R295-R307): its slots act in ascending slot-bit order on operands read before any of them,
then a transfer of control, the end of a loop iteration (R341, R342), a trap entered after the bundle (R347) or a step (R352)
takes effect. Running an operation of an epilogue program (R434). -/

namespace Sys2Proof.Machine

/-! ### The slots -/

/-- The state in which a slot acts. -/
def State.atSlot (s : State) (n : Nat) : State := { s with latch := { s.latch with slot := n, out := .ok } }

/-- The slots act one after another up to the first that traps or blocks; those of a firing whose context is gone act no more. -/
def runSlots : List (Nat × Instr) → State → Out
  | [], s => .next s
  | e :: t, s =>
    if !s.me.occ then .next s
    else match exec e.2 (s.atSlot e.1) with
    | .next s' => if s'.latch.out = .ok then runSlots t s' else .next s'
    | .fault f => .fault f
    | .refused r => .refused r

/-- What a slot of the prepared bundle does on its own. -/
def State.alone (s : State) (e : Nat × Instr) : State :=
  match exec e.2 (s.atSlot e.1) with
  | .next s' => s'
  | .fault _ => s
  | .refused _ => s

/-- Whether a slot has trapped. -/
def Issue.isTrap : Issue → Bool
  | .trapped _ => true
  | .ok => false
  | .blocked => false
  | .stalled => false

/-- What a bundle comes to whose slots have not all acted, where one would trap: the trap of the first such slot in ascending order,
entered with no other effect of the bundle (R307, R457). -/
def State.firstTrap (p : State) (is : List (Nat × Instr)) : Option State :=
  (is.map p.alone).find? (fun s => s.latch.out.isTrap)

/-- The bundle blocks before issue, at its own address (R128): of its slots only those that block leave a note, which is what they
wait for (R83). -/
def State.blockAll (p : State) (is : List (Nat × Instr)) : State :=
  (is.foldl (fun s e => if (p.alone e).latch.out = .blocked then s.alone e else s) p).onMe (fun st => { st with pc := p.latch.addr })

/-- The latch is cleared at the end of an attempt. -/
def State.unlatch (s : State) : State := { s with latch := Latch.empty }

/-! ### After the slots -/

/-- Whether sequential fetch from `pc`, over the pads it meets, comes to `fin` or beyond (R341). -/
def State.fetchReaches (c : Nat) (fin : W64) : Nat → State → W64 → Bool × State
  | 0, s, pc => (decide (fin ≤ pc), s)
  | n + 1, s, pc =>
    if fin ≤ pc then (true, s)
    else match s.lineAt c pc with
      | (.ok (b :: _), s) => if b = 0 then State.fetchReaches c fin n s (nextLine pc) else (false, s)
      | (.ok [], s) => (false, s)
      | (.error _, s) => (false, s)

/-- EndOfIteration (R341) from dimension `k` on: the counters, the depth left and where fetch continues. -/
def endIter (start fin : W64) (depth : Nat) : Nat → Nat → Tab W64 → Tab W64 × Nat × W64
  | 0, _, lc => (lc, 0, fin)
  | n + 1, k, lc =>
    let w := (tget 0 lc k).toNat
    let limit := w / 2 ^ 32
    let rem := (w + 2 ^ 32 - 1) % 2 ^ 32
    let put := fun (r : Nat) => tset 0 lc k (BitVec.ofNat 64 (limit * 2 ^ 32 + r))
    if rem ≠ 0 then (put rem, depth, start)
    else if k + 1 = depth then (put 0, 0, fin)
    else endIter start fin depth n (k + 1) (put limit)

/-- The end of an iteration of a strand's nest. -/
def Strand.endIteration (st : Strand) : Strand :=
  let (lc, d, pc) := endIter st.loopStart st.loopEnd st.loopd 6 0 st.lcnt
  { st with lcnt := lc, loopd := d, pc := pc }

/-- Where the strand fetches next: a taken transfer's target, which outside the body cancels a nest; otherwise the address after the
bundle, or what the end of an iteration makes of it (R341, R342). `tm` is trap mode as the bundle found it. -/
def State.moveOn (s : State) (tm : Bool) : State :=
  match s.latch.target with
  | some pc =>
    s.onMe (fun st =>
      let out := !tm && st.loopd != 0 && !(decide (st.loopStart ≤ pc) && decide (pc < st.loopEnd))
      { st with pc := pc, loopd := if out then 0 else st.loopd })
  | none =>
    let st := s.me
    let next := s.latch.addr + BitVec.ofNat 64 s.latch.len
    if !tm && st.inBody s.latch.addr then
      let (ovr, s) := s.fetchReaches s.myLc st.loopEnd padFuel next
      s.onMe (fun st => if ovr then st.endIteration else { st with pc := next })
    else s.onMe (fun st => { st with pc := next })

/-- Whether a bundle's HALT acts. -/
def State.halts (p : State) (is : List (Nat × Instr)) : Bool :=
  is.any (fun e => match e.2 with
    | .halt g => p.holds g
    | _ => false)

/-- A trap entered after the bundle: at once, or once the results that the strand waits for are written (R347, R457). -/
def State.lateTrap (s : State) (tr : Trap) : State :=
  if s.me.blk = .after then s.onMe (fun st => { st with late := some tr })
  else s.enterTrapAs s.cur tr s.me.pc s.op.tm

/-- A single step (R352, R460, R461): STEP at once; after the results that the strand waits for; or, with SDRAIN, after the engine
commands that the bundle issued. -/
def State.single (s : State) (drain : Bool) : State :=
  let ids := if drain then s.latch.cmds else []
  if s.me.blk = .after || !ids.isEmpty then s.onMe (fun st => { st with blk := .after, since := s.cycle, stepWait := some ids })
  else s.stepTrap s.cur 0

/-- The end of a bundle all of whose slots have acted; `p` is the state in which they began. -/
def State.commit (s p : State) (is : List (Nat × Instr)) : State :=
  if !s.me.occ then s
  else
    let s := s.onMe (fun st => { st with bcount := st.bcount + 1 })
    if p.halts is then s.onMe (fun st => { st with pc := p.latch.addr, blk := .halted, since := s.cycle })
    else
      let s := s.moveOn p.op.tm
      match s.latch.late with
      | some tr => s.lateTrap tr
      | none => if p.op.sstep && !p.op.tm then s.single p.op.sdrain else s

/-- The slots of a prepared bundle act: it issues whole, traps with no effect, or blocks. -/
def State.issueSlots (p : State) (is : List (Nat × Instr)) : Out :=
  match runSlots is p with
  | .fault f => .fault f
  | .refused r => .refused r
  | .next s =>
    match s.latch.out with
    | .ok => .next (s.commit p is).unlatch
    | .trapped t => .next ((p.firstTrap is).getD (p.enterTrap p.cur t p.latch.addr)).unlatch
    | .blocked => .next ((p.firstTrap is).getD (p.blockAll is)).unlatch
    | .stalled => .next ((p.firstTrap is).getD (p.blockAll is)).unlatch

/-- What an earlier attempt noted of its waits is forgotten, a checkpoint that has been passed aside. -/
def Strand.fresh (st : Strand) : Strand := if st.dgstGo then { st with popWait := none } else { st with dgst := none, popWait := none }

/-- One attempt of strand `t` to issue. -/
def State.issueStrand (s : State) (t : Nat) : Out :=
  match (s.modStrand t Strand.fresh).attempt t with
  | (.trap pc tr, s) => .next ((s.enterTrap t tr pc).unlatch)
  | (.skip pc, s) => .next (s.modStrand t (fun st => { st with pc := pc }))
  | (.go is, s) => s.issueSlots is

/-- The strand that a logical core may issue from in this cycle (R83): the issuing one, if it is ready. -/
def State.issuer (s : State) (l : Nat) : Option Nat :=
  match (s.lc l).core, (s.lc l).issuing with
  | some _, some i => if i < 4 ∧ (s.strand (l * 4 + i)).isReady ∧ s.mayRun (l * 4 + i) then some (l * 4 + i) else none
  | _, _ => none

/-- A strand that has blocked, or has ended its firing, issues no more until a switch chooses it (R83). -/
def State.handOver (s : State) (t : Nat) : State :=
  if (s.strand t).isReady then s else s.modLc (lcOf t) (fun c => { c with issuing := none })

/-- A cycle of a logical core: its issuing strand attempts to issue. -/
def State.issue (s : State) (l : Nat) : Out :=
  match s.issuer l with
  | none => .next s
  | some t =>
    match s.issueStrand t with
    | .next s' => .next ((s'.handOver t).advance 1)
    | .fault f => .fault f
    | .refused r => .refused r

/-! ### The epilogue processor -/

/-- The next operation of a logical core's epilogue run, if one is under way. -/
def State.epiNext (s : State) (l : Nat) : Option Instr :=
  let c := s.lc l
  match c.epi with
  | none => none
  | some r => if r.out.isSome || !c.arrayRuns then none else decodeEpi (tget 0 c.eprog (r.slot * 16 + r.op))

/-- One operation of the epilogue run of a logical core. -/
def State.epiStep (s : State) (l : Nat) : Out :=
  match s.epiNext l with
  | none => .next s
  | some i => exec i { s with cur := l * 4 }

end Sys2Proof.Machine
end

