-- ==== Sys2Proof/Machine/Step.lean ====
section
/-! DEFINITION. One step of the package. The agenda is an input: steps of other agents and of the world outside, bundles of given
logical cores, the passing of cycles, in the order in which they come. With the agenda empty the machine goes by a policy of its
own: Kindling; else the first internal step that changes something; else a cycle of a core; else time. -/

namespace Sys2Proof.Machine

/-- The step that performs a queued record. -/
def recordEvent (i : Nat) (r : CmdRec) : Instr :=
  match recOpc r.bytes with
  | 2 => .launchRecord i
  | 3 => .setprio i
  | 4 => .freeze i
  | 5 => .resume i
  | 6 => .kill i
  | 7 => .dirtysnap i
  | 8 =>
    match recArg r.bytes 0 with
    | 0 => .queryDevinfo i
    | 1 => .queryCtxstate i
    | 2 => .queryAttest i
    | _ => .queryLogstat i
  | _ => .create i

/-- The steps that may take what stands at position `i` of a die's inbox. -/
def inboxEvent (i : Nat) (f : Flit) : Instr :=
  match f.typ with
  | 1 => .rstAtTarget i
  | 2 => .rstack i
  | 3 => .rldAtTarget ⟨i, 0⟩
  | 4 => .rlddata i
  | 5 => .ratAtTarget i
  | 6 => .ratdata i
  | 7 => .bseg i
  | _ => .mgmt i

/-- Steps of the lines, the log and the command queue. -/
def State.lineEvents (s : State) : List Instr :=
  ((s.lines.zipIdx.filter (fun e => e.1.inval)).map (fun e => .monitoredLineInvalidate e.2))
    ++ (if s.arb.held.isEmpty then [] else [.eventLogWrite])
    ++ s.cmdQ.zipIdx.map (fun e => recordEvent e.2 e.1)

/-- Steps of the fabric. -/
def State.fabricEvents (s : State) : List Instr :=
  (List.range s.inbox.length).zipWith (fun i e => inboxEvent i e.2) s.inbox
    ++ (List.range s.exits.length).map (fun i => .flitAtExitNode i true false)
    ++ (List.range s.recov.length).flatMap (fun i => [.nakReceived i, .par i [], .nakRepeatTimeout i])
    ++ (List.range s.wires.length).map (fun i => .linkFlitReceive (.wire i) [])
    ++ (s.links.filter (fun e => !e.2.replay.isEmpty && e.2.acked != e.2.ackSeq % 2 ^ 24)).map
        (fun e => .linkFlitReceive (.wire (s.wires.length + oppLink e.1)) [])
    ++ (List.range s.waitq.length).flatMap (fun i => [.flitInject i, .refusedFlitRetry i, .unreachTimeout i])
    ++ (if s.outq.isEmpty then [] else [.flitInject s.waitq.length])
    ++ (s.links.filter (fun e => e.2.retrain)).map (fun e => .linkRetrainDone e.1 false)

/-- Steps of a command by its kind. -/
def cmdEvents (l : Nat) (k : Cmd) : List Instr :=
  .engineCommandReady l k.id ::
    (match k.kind with
    | .bte => [.bteAccept l k.id, .decodeStall l k.id, .bteChunkPerformed l k.id, .bteCommandComplete l k.id]
    | .mma => [.matrixCommandStart l k.id, .mmaComplete l k.id]
    | .mloadw => [.matrixCommandStart l k.id, .mloadwComplete l k.id]
    | .mdrain => [.matrixCommandStart l k.id, .mdrainRowWritten l k.id]
    | .mzero => [.matrixCommandStart l k.id, .mzeroComplete l k.id]
    | .maccld => [.matrixCommandStart l k.id, .maccldComplete l k.id]
    | .epload => [.matrixCommandStart l k.id, .eploadComplete l k.id]
    | .skupd => [.sketchAccept l k.id, .sketchCommandComplete l ⟨k.id, 0⟩]
    | .skqry => [.sketchAccept l k.id, .sketchCommandComplete l ⟨k.id, 0⟩]
    | .skadd => [.sketchAccept l k.id, .sketchCommandComplete l ⟨k.id, 0⟩]
    | .skclr => [.sketchAccept l k.id, .sketchCommandComplete l ⟨k.id, 0⟩]
    | .coll => [.collAccept l k.id, .collComplete l k.id])

/-- Steps of a logical core: its strands, its commands, its residency. -/
def State.coreEvents (s : State) (l : Nat) : List Instr :=
  (strandsOf l).flatMap (fun t =>
      (List.range (s.strand t).acc.length).map (fun i => .globalAccessPerformed t ⟨i, 0⟩) ++ [.strandReady t, .firingEnd t, .firingStart t])
    ++ (s.lc l).edt.flatMap (cmdEvents l) ++ [.strandSwitch l, .quantumExpiry l, .residencySwap l]

/-- Steps of a graph: publications, children, its end. -/
def graphEvents (x : Nat) (g : Graph) : List Instr :=
  (g.cst.zipIdx.flatMap (fun e => e.1.slots.map (fun r => .channelPublish x g.gid e.2 r.1)))
    ++ [.graphEnd x g.gid, .childInstantiate x g.gid, .deadlockTimeout x g.gid]
    ++ (match g.serial with
      | some r => [.dgstCheckpoint x g.gid r.n]
      | none => [])

/-- Steps of a context. -/
def State.ctxEvents (s : State) (x : Nat) : List Instr :=
  (s.lcKeys x).flatMap s.coreEvents ++ (s.ctx x).graphs.flatMap (graphEvents x)
    ++ ((s.lcKeys x).flatMap strandsOf).filterMap (fun t => (s.strand t).dgst.map (fun n => .dgstCheckpoint x (s.strand t).gid n))
    ++ (match (s.ctx x).coll with
      | some c => c.waiting.map (fun i => .engineStopAck x i 0)
      | none => [])
    ++ [.freezeTimeout x, .preemptionComplete x, .agingTick x]

/-- The internal steps that may be due, in the order in which the policy looks at them. -/
def State.events (s : State) : List Instr :=
  s.lineEvents ++ s.fabricEvents ++ s.slots.flatMap s.ctxEvents ++ (List.range 8).map (fun d => .rebalance d)

/-- Whether a step from `s` to `t` reports an event for which the arbiter's store has no room, those of a thermal trip aside (R77). -/
def State.overflows (s t : State) : Bool := decide (s.arb.waiting.length < t.arb.waiting.length) && t.arb.waiting.all (fun e => !e.exempt)

/-- Whether a step performs a command record, or ends one that has been performed: of these only the completion waits for room, and the
launch unit takes no further record until the arbiter has accepted it (R77). -/
def completesCmd : Instr → Bool
  | .create _ => true
  | .launchRecord _ => true
  | .setprio _ => true
  | .freeze _ => true
  | .resume _ => true
  | .kill _ => true
  | .dirtysnap _ => true
  | .queryDevinfo _ => true
  | .queryCtxstate _ => true
  | .queryAttest _ => true
  | .queryLogstat _ => true
  | .freezeTimeout _ => true
  | .preemptionComplete _ => true
  | .uncorrectableError (.launch _) _ => true
  | _ => false

/-- Whether a step can happen, as far as the room for its events goes (R77). -/
def State.fits (s : State) (i : Instr) (t : State) : Bool := completesCmd i || !s.overflows t

/-- Whether a step that may happen changes more than the counter of free values. -/
def State.moves (s : State) (i : Instr) : Bool :=
  match exec i s with
  | .next s' => s.fits i s' && decide ({ s' with fresh := s.fresh } ≠ s)
  | .fault _ => false
  | .refused _ => false

/-- The logical cores that could use a cycle: those with a strand that may issue, or with an epilogue operation to do. -/
def State.busyCores (s : State) : List Nat :=
  (s.lcs.map (·.1)).filter (fun l => (s.issuer l).isSome || (s.epiNext l).isSome)

/-- The logical core whose turn it is: the next after the one served last. -/
def State.nextCore (s : State) : Option Nat :=
  match s.busyCores.find? (fun l => decide (s.turn ≤ l)) with
  | some l => some l
  | none => s.busyCores.head?

/-- A cycle of a logical core: an operation of its epilogue run, else its issuing strand. -/
def State.serve (s : State) (l : Nat) : Out :=
  let s := { s with turn := l + 1 }
  if (s.epiNext l).isSome then s.epiStep l else s.issue l

/-- Cycles in which nothing happens. -/
def State.idle (s : State) (n : Nat) : State := { (s.advance n) with fresh := s.fresh + 1 }

/-- What a step comes to that finds no room for its event: its block waits at the point of reporting (R77). -/
def State.orWait (s : State) (o : Out) : Out :=
  match o with
  | .next t => if s.overflows t then .next (s.idle 1) else .next t
  | .fault f => .fault f
  | .refused r => .refused r

/-- The machine's own policy. -/
def State.auto (s : State) : Out :=
  if s.power = .kindling then .next s.kindle
  else if s.power ≠ .ready then .next (s.idle 1)
  else match s.events.find? s.moves with
    | some i => exec i s
    | none =>
      match s.nextCore with
      | some l => s.orWait (s.serve l)
      | none => .next (s.idle 1)

/-- One step: the head of the agenda, else the machine's own policy. A slot word or an epilogue word is no step by itself: on the
agenda it stands for nothing. -/
def step (s : State) : Host.Outcome State Fault Refusal :=
  match s.agenda with
  | [] => s.auto
  | .event i :: t =>
    if i.slotClass = .event then (if completesCmd i then exec i { s with agenda := t } else State.orWait { s with agenda := t } (exec i { s with agenda := t }))
    else .next { s with agenda := t }
  | .issue l :: t => State.orWait { s with agenda := t } (State.issue { s with agenda := t } l)
  | .drain l :: t => State.orWait { s with agenda := t } (State.epiStep { s with agenda := t } l)
  | .tick n :: t => .next (State.idle { s with agenda := t } n)
  | .sense d k r :: t => .next (State.reads { s with agenda := t } d k r)

/-! ### Placing one instruction (log entry 3) -/

/-- Die offsets of the page tables and of the code that `withFetchWord` places. -/
def bootRoot : Nat := 0x10000
def bootTable : Nat := 0x12000
def bootCode : Nat := 0x20000

/-- Whether an instruction's bundle carries a K literal of zero. -/
def wordTakesK (w : W32) : Bool :=
  match tableClass w with
  | none => false
  | some c =>
    match decodeWord c w with
    | some i => i.usesK
    | none => false

/-- The bytes of the bundle that holds a slot word alone. -/
def wordBundle (w : W32) : List Byte := oneSlotBundle ((tableClass w).getD .b) (wordTakesK w) w

/-- A context of one logical core in slot 0, whose tables map the first 64 GiB of die 0 where it lies: readable, writable and
executable. -/
def State.withContext (s : State) : State :=
  let leaf := 0x207
  let s := { s with
    power := .ready
    mem := twrite 0 (twrite 0 s.mem (s.diePa 0 bootRoot) (leBytes 8 (s.diePa 0 bootTable + 1))) (s.diePa 0 bootTable)
      (leBytes 8 (s.diePa 0 0 + leaf)) }
  let s := s.setCtx 0 { Ctx.free with used := true, nlc := 1, ptroot := s.diePa 0 bootRoot, gen := tget 1 s.gens 0 }
  { (s.setLc 0 { LCore.none with used := true, core := some 0, issuing := some 0 }) with busy := tset 0 s.busy 0 1 }

/-- The state with an instruction where the next step fetches one: a slot word as a bundle at the program counter of a strand that
issues next, an epilogue word as the next operation of a run under way (log entry 3). -/
def State.withFetchWord (s : State) (nbits w : Nat) : State :=
  let s := s.withContext
  if nbits = 16 then
    let s := s.modLc 0 (fun c =>
      { c with eprog := tset 0 [] 0 (BitVec.ofNat 16 w), epi := some { cmd := 0, slot := 0, op := 0, x := [], m := [], out := none } })
    { s with agenda := .drain 0 :: s.agenda }
  else
    let s := s.setStrand 0 { Strand.idle with occ := true, pc := BitVec.ofNat 64 bootCode, since := s.cycle, began := s.cycle }
    { s with
      mem := twrite 0 s.mem (s.diePa 0 bootCode) (wordBundle (BitVec.ofNat 32 w))
      agenda := .issue 0 :: s.agenda }

end Sys2Proof.Machine
end

