-- ==== Sys2Proof/Safety.lean ====
section
/-! DEFINITION. What the statements speak of: stops, runs, the canonical form of the data, and what a slot may change. -/

namespace Sys2Proof.Machine

/-! ### Runs -/

/-- An outcome that is neither a fault nor a refusal. -/
def goesOn (o : Out) : Bool :=
  match o with
  | .next _ => true
  | .fault _ => false
  | .refused _ => false

/-- A state from which every number of steps goes on. -/
def Safe (s : State) : Prop := ∀ n, goesOn (Sys2Proof.core.run n s) = true

/-! ### Canonical data -/

/-- The memory of the package and of its host stands in canonical form. -/
def State.memOk (s : State) : Prop := Memory.wf s.mem = true

/-! ### Frames: what an instruction leaves as it was -/

/-- A strand's fields other than the registers G, P, V, Q and T, their latencies and pending flags are those of `st`. -/
def Strand.restSame (st st' : Strand) : Prop :=
  { st' with g := st.g, p := st.p, v := st.v, qr := st.qr, td := st.td, tst := st.tst, lat := st.lat, fpend := st.fpend } = st

/-- The registers of the files given as lists of numbers, and no other, may differ. -/
def Strand.regsSameBut (g p v q t : List Nat) (st st' : Strand) : Prop :=
  (∀ n, n ∉ g → st'.gGet n = st.gGet n) ∧ (∀ n, n ∉ p → st'.pGet n = st.pGet n) ∧ (∀ n l, l < 64 → n ∉ v → st'.lane n l = st.lane n l)
    ∧ (∀ n, n ∉ q → st'.qGet n = st.qGet n)
    ∧ (∀ n i, i < 1024 → n ∉ t → tget 0 st'.td (n * 1024 + i) = tget 0 st.td (n * 1024 + i) ∧ tget 0 st'.tst n = tget 0 st.tst n)

/-- Outside the issuing strand nothing has changed. -/
def State.onlyMe (s t : State) : Prop := t = s.setStrand s.cur (t.strand s.cur)

/-- What a slot instruction that writes registers alone leaves unchanged: everything but the issuing strand's listed registers, the
latencies of what it wrote and the sticky flags that it will set. -/
def State.onlyRegs (s : State) (g p v q t : List Nat) (s' : State) : Prop :=
  s.onlyMe s' ∧ s.me.restSame (s'.strand s.cur) ∧ Strand.regsSameBut g p v q t s.me (s'.strand s.cur)

/-- The latencies and pending flags after a result of latency `n` in register `r` that raises the flags `fl` (R272, R304, R306). -/
def State.timed (s : State) (r : RegName) (n fl : Nat) (t : State) : Prop :=
  (∀ k, tget 0 t.me.lat k =
      if k = r.key ∧ r.discards = false then max (tget 0 s.me.lat k) (s.me.bcount + n) else tget 0 s.me.lat k) ∧
    t.me.fpend = s.me.fpend ++ (if fl = 0 then [] else [{ at' := s.cycle, due := s.cycle + n, flags := BitVec.ofNat 64 fl }])

/-! ### Completion -/

/-- A firing holds the issuing strand and the guard of a slot is true, so the slot acts (R302). -/
abbrev State.runs (s : State) (g : Guard) : Prop := s.me.occ = true ∧ s.holds g = true

/-- Instruction `i` completes in `s`, in a next state that has a property. -/
def State.ends (s : State) (i : Instr) (post : State → Prop) : Prop := ∃ t, exec i s = .next t ∧ post t

/-- A next state in which the issuing strand alone differs, and is `st`. -/
def State.strandNow (s : State) (st : Strand) (t : State) : Prop := t = s.setStrand s.cur st

/-- G[d] receives `v` with a latency and flags, a write to G0 being discarded, and nothing else changes. -/
def State.putsG (s : State) (d : R6) (v : W64) (n fl : Nat) (t : State) : Prop :=
  s.onlyRegs [d.toNat] [] [] [] [] t ∧ t.me.gGet d.toNat = (if d = 0 then 0 else v) ∧ s.timed (.g d.toNat) n fl t

/-- P[d] receives `v`, a write to P0 being discarded, and nothing else changes. -/
def State.putsP (s : State) (d : Nat) (v : Bool) (n fl : Nat) (t : State) : Prop :=
  s.onlyRegs [] [d] [] [] [] t ∧ t.me.pGet d = (if d = 0 then true else v) ∧ s.timed (.p d) n fl t

/-- Q[d] receives `v`, a write to Q0 being discarded, and nothing else changes. -/
def State.putsQ (s : State) (d : Nat) (v : W64) (n fl : Nat) (t : State) : Prop :=
  s.onlyRegs [] [] [] [d] [] t ∧ t.me.qGet d = (if d = 0 then ones64 else v) ∧ s.timed (.q d) n fl t

/-- The lanes of V[d] receive the values `f`, and nothing else changes. -/
def State.putsV (s : State) (d : R6) (f : Nat → W32) (n fl : Nat) (t : State) : Prop :=
  s.onlyRegs [] [] [d.toNat] [] [] t ∧ (∀ l, l < 64 → t.me.lane d.toNat l = f l) ∧ s.timed (.v d.toNat) n fl t

/-- Lane `l` of a V source: a V register, G[0]-G[30] in every lane, or the K literal in every lane (R301). -/
def State.src (s : State) (c : R6) (l : Nat) : W32 :=
  if c.toNat < 32 then s.op.lane c.toNat l else if c = 63 then s.kLit else (s.op.gGet (c.toNat - 32)).truncate 32

/-- V[d] receives `f` of each active lane; a masked-off lane becomes zero or keeps its value (R303); the flags of the active lanes
are raised. -/
def State.putsLanes (s : State) (m : Mask) (d : R6) (n : Nat) (f : Nat → W32 × Nat) (t : State) : Prop :=
  s.putsV d (fun l => if (s.maskQ m).getLsbD l then (f l).1 else if m.z then 0 else s.op.lane d.toNat l) n
    (laneFlags (s.maskQ m) ((List.range 64).map (fun l => (f l).2))) t

/-! ### Engine commands -/

/-- A next state in which one engine command that `p` describes stands last in the dependency table of the issuing strand's logical
core, pending and unstarted, and nothing else has changed but the command counters (R194, R425). -/
def State.placed (s : State) (p : Cmd → Prop) (t : State) : Prop :=
  ∃ k, p k ∧ k.id = (s.lc s.myLc).nextCmd ∧ k.strand = s.cur % 4 ∧ k.gid = s.me.gid ∧ k.fkey = s.me.fkey ∧ k.st = 0 ∧
    k.queued = false ∧ k.snapped = false ∧ k.fault = none ∧ k.pos = 0 ∧ k.cix = (if s.myCtx.det then s.me.ecmd else 0) ∧
    (let u := s.setLc s.myLc { s.lc s.myLc with edt := (s.lc s.myLc).edt ++ [k], nextCmd := (s.lc s.myLc).nextCmd + 1 }
     t = { (if s.myCtx.det then u.setStrand s.cur { s.me with ecmd := s.me.ecmd + 1 } else u) with
           latch := { s.latch with cmds := s.latch.cmds ++ [k.id] } })

/-- A next state in which command `k` has completed: it has left the dependency table of logical core `l`, which is otherwise `c`,
and under DET its S has been folded into its firing's DE; nothing else has changed (R154, R197). -/
def State.retires (s : State) (l : Nat) (k : Cmd) (c : LCore) (t : State) : Prop :=
  t.lc l = { c with edt := c.edt.filter (fun x => x.id != k.id), mq := c.mq.filter (fun x => x != k.id) } ∧
    (∀ m, m ≠ l → t.lc m = s.lc m) ∧
    (∀ j, t.strand j = if (s.ctx (l / 4096)).det = true ∧ j = l * 4 + k.strand then
        { s.strand j with dgste := (s.strand j).dgste + (k.spart ^^^ BitVec.ofNat 64 k.cix) * 0xBF58476D1CE4E5B9#64 }
      else s.strand j) ∧
    t = { s with lcs := t.lcs, strands := t.strands }

/-- A next state in which `k` stands in the dependency table of logical core `l` in place of the entry with its number; the other
entries and the rest of that core are as in `c`, and nothing else has changed. -/
def State.entryNow (s : State) (l : Nat) (k : Cmd) (c : LCore) (t : State) : Prop :=
  t.lc l = { c with edt := (t.lc l).edt } ∧ (t.lc l).cmd? k.id = some k ∧ (t.lc l).edt.map (·.id) = c.edt.map (·.id) ∧
    (t.lc l).edt.filter (fun x => x.id != k.id) = c.edt.filter (fun x => x.id != k.id) ∧ (∀ m, m ≠ l → t.lc m = s.lc m) ∧
    t = { s with lcs := t.lcs }

/-! ### Local memory -/

/-- Nothing but bytes of the local memory of logical core `l` differs. -/
def State.onlyLoc (s : State) (l : Nat) (t : State) : Prop :=
  { t with lcs := s.lcs } = s ∧ ∀ m, t.lc m = if m = l then { s.lc m with loc := (t.lc m).loc } else s.lc m

end Sys2Proof.Machine
end

