-- ==== Sys2Proof/Certificates/Slice0/Obligations.lean ====
section
/-! DEFINITION. The statements for the provers: encodings, what every instruction does where it completes and what it leaves
alone, traps, the steps of the other agents, and what every step keeps. -/

open Sys2Proof Sys2Proof.Machine

/-! ### Scalar instructions -/

/-- ADD, SUB, ADDI, MOVI and LEA complete in every state whose slot acts: the result of R358 and R359 goes to the destination, readable by
the next bundle, and nothing else changes. MUL and DIV complete with the products, quotients and remainders of R360 and R361, the corner
cases and their flags with them. -/
def Obligations.ScalarArithmetic : Prop :=
  (∀ (s : State) (g : Guard) (d a b : R6), s.runs g →
    s.ends (.add g d a b 0) (s.putsG d (s.gv a + s.gv b) 1 0) ∧
    s.ends (.sub g d a b 0) (s.putsG d (s.gv a - s.gv b) 1 0) ∧
    s.ends (.add g d a b 1) (s.putsG d (((s.gv a).setWidth 32 + (s.gv b).setWidth 32).signExtend 64) 1 0) ∧
    s.ends (.sub g d a b 1) (s.putsG d (((s.gv a).setWidth 32 - (s.gv b).setWidth 32).signExtend 64) 1 0) ∧
    (∀ (op : Int → Int → Int) (i : Instr), (op = (· + ·) ∧ i = .add g d a b 2) ∨ (op = (· - ·) ∧ i = .sub g d a b 2) →
      (-(2 ^ 63) ≤ op (s.gv a).toInt (s.gv b).toInt ∧ op (s.gv a).toInt (s.gv b).toInt < 2 ^ 63 →
        s.ends i (s.putsG d (BitVec.ofInt 64 (op (s.gv a).toInt (s.gv b).toInt)) 1 0)) ∧
      (op (s.gv a).toInt (s.gv b).toInt < -(2 ^ 63) → s.ends i (s.putsG d (BitVec.intMin 64) 1 fISAT)) ∧
      (2 ^ 63 ≤ op (s.gv a).toInt (s.gv b).toInt → s.ends i (s.putsG d (BitVec.intMax 64) 1 fISAT))) ∧
    (∀ imm : BitVec 10, s.ends (.addi g d a imm) (s.putsG d (s.gv a + imm.signExtend 64) 1 0)) ∧
    (∀ imm : W16, s.ends (.movi g d imm) (s.putsG d (imm.signExtend 64) 1 0)) ∧
    (∀ fn : F4, s.ends (.lea g d a b fn) (s.putsG d (s.gv a + (s.gv b <<< fn.toNat)) 1 0))) ∧
  (∀ (s : State) (g : Guard) (d a b : R6), s.runs g →
    let x := s.gv a
    let y := s.gv b
    s.ends (.mul g d a b 0) (s.putsG d (x * y) 3 0) ∧
    s.ends (.mul g d a b 1) (s.putsG d (BitVec.ofInt 64 (x.toInt * y.toInt / 2 ^ 64)) 3 0) ∧
    s.ends (.mul g d a b 2) (s.putsG d (BitVec.ofNat 64 (x.toNat * y.toNat / 2 ^ 64)) 3 0) ∧
    s.ends (.mul g d a b 3) (s.putsG d ((x.setWidth 32 * y.setWidth 32).signExtend 64) 3 0) ∧
    (y = 0 →
      s.ends (.div g d a b 0) (s.putsG d ones64 18 fDZ) ∧ s.ends (.div g d a b 1) (s.putsG d ones64 18 fDZ) ∧
      s.ends (.div g d a b 2) (s.putsG d x 18 fDZ) ∧ s.ends (.div g d a b 3) (s.putsG d x 18 fDZ)) ∧
    (y ≠ 0 →
      s.ends (.div g d a b 1) (s.putsG d (x / y) 18 0) ∧ s.ends (.div g d a b 3) (s.putsG d (x % y) 18 0) ∧
      (x = BitVec.intMin 64 ∧ y = BitVec.allOnes 64 →
        s.ends (.div g d a b 0) (s.putsG d x 18 fISAT) ∧ s.ends (.div g d a b 2) (s.putsG d 0 18 fISAT)) ∧
      (¬(x = BitVec.intMin 64 ∧ y = BitVec.allOnes 64) →
        s.ends (.div g d a b 0) (s.putsG d (BitVec.ofInt 64 (x.toInt.tdiv y.toInt)) 18 0) ∧
        s.ends (.div g d a b 2) (s.putsG d (BitVec.ofInt 64 (x.toInt.tmod y.toInt)) 18 0))))

/-- AND, OR, XOR and ANDN complete bit by bit, and the shifts and rotations of R363 with the count of the form: cut to six bits, or to
five in the 32-bit forms, whose result is sign-extended. CLZ, CTZ and POPC complete with the numbers of R365, said by what they mean: the
bits above the leading one are zero, those below the trailing one are zero, and POPC counts the ones. EXTR and INSR complete with the
field of R366, bit by bit: position p and width w come from the control word, a wide EXTR.SX copies the field's top bit upward, and INSR
changes no bit outside the field. -/
def Obligations.LogicAndBits : Prop :=
  (∀ (s : State) (g : Guard) (d a b : R6), s.runs g →
    let x := s.gv a
    let y := s.gv b
    let lo := x.setWidth 32
    s.ends (.and g d a b 0) (s.putsG d (x &&& y) 1 0) ∧ s.ends (.or g d a b 0) (s.putsG d (x ||| y) 1 0) ∧
    s.ends (.xor g d a b 0) (s.putsG d (x ^^^ y) 1 0) ∧ s.ends (.andn g d a b 0) (s.putsG d (x &&& ~~~y) 1 0) ∧
    (∀ (fn : F4) (c : Nat), (fn.getLsbD 1 = false ∧ c = y.toNat) ∨ (fn.getLsbD 1 = true ∧ c = b.toNat) →
      (fn.getLsbD 0 = false →
        s.ends (.shl g d a b fn) (s.putsG d (x <<< (c % 64)) 1 0) ∧ s.ends (.shr g d a b fn) (s.putsG d (x >>> (c % 64)) 1 0) ∧
        s.ends (.sar g d a b fn) (s.putsG d (x.sshiftRight (c % 64)) 1 0) ∧
        s.ends (.rotr g d a b fn) (s.putsG d (x.rotateRight (c % 64)) 1 0)) ∧
      (fn.getLsbD 0 = true →
        s.ends (.shl g d a b fn) (s.putsG d ((lo <<< (c % 32)).signExtend 64) 1 0) ∧
        s.ends (.shr g d a b fn) (s.putsG d ((lo >>> (c % 32)).signExtend 64) 1 0) ∧
        s.ends (.sar g d a b fn) (s.putsG d ((lo.sshiftRight (c % 32)).signExtend 64) 1 0) ∧
        s.ends (.rotr g d a b fn) (s.putsG d ((lo.rotateRight (c % 32)).signExtend 64) 1 0)))) ∧
  (∀ (s : State) (g : Guard) (d a : R6), s.runs g → ∀ (fn : F4) (w : Nat), (fn = 0 ∧ w = 64) ∨ (fn = 1 ∧ w = 32) →
    ∃ lz tz n : Nat,
      s.ends (.clz g d a 0 fn) (s.putsG d (BitVec.ofNat 64 lz) 1 0) ∧ s.ends (.ctz g d a 0 fn) (s.putsG d (BitVec.ofNat 64 tz) 1 0) ∧
      s.ends (.popc g d a 0 fn) (s.putsG d (BitVec.ofNat 64 n) 1 0) ∧
      lz ≤ w ∧ tz ≤ w ∧
      (∀ i, i < w → w ≤ i + lz → (s.gv a).getLsbD i = false) ∧ (lz < w → (s.gv a).getLsbD (w - 1 - lz) = true) ∧
      (∀ i, i < tz → (s.gv a).getLsbD i = false) ∧ (tz < w → (s.gv a).getLsbD tz = true) ∧
      n = ((List.range w).filter (fun i => (s.gv a).getLsbD i)).length) ∧
  (∀ (s : State) (g : Guard) (d a b : R6), s.runs g →
    let x := s.gv a
    let p := (s.gv b).toNat % 64
    let w := min ((s.gv b).toNat / 256 % 128) (64 - p)
    ∃ z e n : W64,
      s.ends (.extr g d a b 0) (s.putsG d z 1 0) ∧ s.ends (.extr g d a b 1) (s.putsG d e 1 0) ∧ s.ends (.insr g d a b 0) (s.putsG d n 1 0) ∧
      (∀ i, i < 64 → z.getLsbD i = (decide (i < w) && x.getLsbD (p + i))) ∧
      (∀ i, i < 64 → e.getLsbD i = (decide (0 < w) && x.getLsbD (p + min i (w - 1)))) ∧
      (∀ i, i < 64 → n.getLsbD i = if p ≤ i ∧ i < p + w then x.getLsbD (i - p) else (s.op.gGet d.toNat).getLsbD i))

/-- MIN and MAX, of code 0x0C and 0x0D in format A, write the lesser and the greater operand: fn 0 compares signed, fn 1 unsigned. -/
def Obligations.MinMax : Prop :=
  (∀ (g : Guard) (d a b : R6) (fn : F4), guardOk g = true → gDst d = true →
    decodeWord .s (encA 0x0C#6 g d a b fn) = (if fn.toNat ≤ 1 then some (.min g d a b fn) else none) ∧
    decodeWord .s (encA 0x0D#6 g d a b fn) = (if fn.toNat ≤ 1 then some (.max g d a b fn) else none)) ∧
  (∀ (s : State) (g : Guard) (d a b : R6), s.runs g → ∃ lo hi ulo uhi : W64,
    s.ends (.min g d a b 0) (s.putsG d lo 1 0) ∧ s.ends (.max g d a b 0) (s.putsG d hi 1 0) ∧
    s.ends (.min g d a b 1) (s.putsG d ulo 1 0) ∧ s.ends (.max g d a b 1) (s.putsG d uhi 1 0) ∧
    lo.toInt = min (s.gv a).toInt (s.gv b).toInt ∧ hi.toInt = max (s.gv a).toInt (s.gv b).toInt ∧
    ulo.toNat = min (s.gv a).toNat (s.gv b).toNat ∧ uhi.toNat = max (s.gv a).toNat (s.gv b).toNat)

/-- CMP, of code 0x0E in format A, writes P[d] from the comparison of R367; no predicate above P7 and no fn above 9 is an encoding of it.
SEL chooses by P[fn mod 8], inverted where fn is 8 or more (R368). PLOG, of code 0x18, writes bit 2 P[a] + P[b] of its table, every table
being an encoding (R369). -/
def Obligations.ComparesAndSelects : Prop :=
  (∀ (g : Guard) (d a b : R6) (fn : F4), guardOk g = true →
    decodeWord .s (encA 0x0E#6 g d a b fn) = (if d.toNat < 8 ∧ fn.toNat ≤ 9 then some (.cmp g d a b fn) else none) ∧
    decodeWord .s (encA 0x18#6 g d a b fn) =
      (if d.toNat < 8 ∧ a.toNat < 8 ∧ b.toNat < 8 then some (.plog g d a b fn) else none)) ∧
  (∀ (s : State) (g : Guard) (d a b : R6), s.runs g → d.toNat < 8 →
    let x := s.gv a
    let y := s.gv b
    let r := fun (fn : F4) (v : Bool) => s.ends (.cmp g d a b fn) (s.putsP d.toNat v 1 0)
    r 0 (decide (x = y)) ∧ r 1 (decide (x ≠ y)) ∧ r 2 (decide (x.toInt < y.toInt)) ∧ r 3 (decide (x.toInt ≤ y.toInt)) ∧
    r 4 (decide (y.toInt < x.toInt)) ∧ r 5 (decide (y.toInt ≤ x.toInt)) ∧ r 6 (decide (x.toNat < y.toNat)) ∧
    r 7 (decide (x.toNat ≤ y.toNat)) ∧ r 8 (decide (y.toNat < x.toNat)) ∧ r 9 (decide (y.toNat ≤ x.toNat))) ∧
  (∀ (s : State) (g : Guard) (d a b : R6) (fn : F4), s.runs g →
    (s.op.pGet (fn.toNat % 8) = fn.getLsbD 3 → s.ends (.sel g d a b fn) (s.putsG d (s.gv b) 1 0)) ∧
    (s.op.pGet (fn.toNat % 8) ≠ fn.getLsbD 3 → s.ends (.sel g d a b fn) (s.putsG d (s.gv a) 1 0)) ∧
    (d.toNat < 8 → ∀ v : Bool,
      v = (match s.op.pGet a.toNat, s.op.pGet b.toNat with
        | false, false => fn.getLsbD 0
        | false, true => fn.getLsbD 1
        | true, false => fn.getLsbD 2
        | true, true => fn.getLsbD 3) →
      s.ends (.plog g d a b fn) (s.putsP d.toNat v 1 0)))

/-! ### Special registers (R350-R353, R370) -/

/-- MFS completes for every number of R350, with the register as it stood before the bundle (the bits of STATUS, SPECST and the
accumulator anchors one by one). -/
def Obligations.SpecialRegisterReads : Prop :=
  ∀ (s : State) (g : Guard) (d : R6), s.runs g →
    let st := s.op
    let r := fun (n : Nat) (v : W64) => s.ends (.mfs g d (BitVec.ofNat 12 n)) (s.putsG d v 2 0)
    let c := s.ctx s.mySlot
    let l := s.lc s.myLc
    (∃ v, r 0x000 v ∧ ∀ i, i < 64 → v.getLsbD i =
      ((decide (i = 0) && st.tm) || (decide (i = 1) && st.sstep) || (decide (i = 2) && st.sdrain) || (decide (i = 8) && c.debug)
        || (decide (i = 9) && c.pager) || (decide (i = 10) && c.spec) || (decide (i = 11) && c.det))) ∧
    r 0x001 st.tvb ∧ r 0x002 st.epc ∧ r 0x003 st.ecause ∧ r 0x004 st.eaddr ∧ r 0x005 st.einfo ∧ r 0x006 st.aflags ∧ r 0x007 st.amask ∧
    (∀ n, 1 ≤ n → n ≤ 3 → r (0x007 + n) (tget 0 st.xv n)) ∧ r 0x00B (BitVec.ofNat 64 st.lnkd) ∧
    (∀ n, n < 8 → r (0x010 + n) (tget 0 st.tcfg n)) ∧ (∀ n, n < 6 → r (0x018 + n) (tget 0 st.lcnt n)) ∧
    r 0x01E (if c.det then st.dgsta else 0) ∧ r 0x01F (BitVec.ofNat 64 (s.cycle - s.since)) ∧
    (∀ n, n < 16 → r (0x020 + n) (tget 0 st.lnk n)) ∧ r 0x030 (BitVec.ofNat 64 (s.cur % 4)) ∧
    r 0x031 (BitVec.ofNat 64 (s.cur / 4 % 4096)) ∧ r 0x032 (BitVec.ofNat 64 c.nlc) ∧ r 0x033 (BitVec.ofNat 64 (c.gen * 64 + s.mySlot)) ∧
    r 0x034 (BitVec.ofNat 64 (st.q * 2 ^ 32 + st.stage * 2 ^ 26 + st.depth * 2 ^ 23 + st.call)) ∧
    (∃ v, r 0x035 v ∧ v.getLsbD 0 = l.act ∧ v.getLsbD 1 = l.sel) ∧
    (∀ n, n < 4 → ∃ v, r (0x036 + n) v ∧ v.getLsbD 16 = l.sat.contains n ∧ v.toNat % 65536 = unsg 16 (tget 0 l.anchor n))

/-- MTS completes where R351 allows it and the value is within the register's limits: the register receives the value, its reserved bits
aside, readable from the next bundle on; a TCFG write also zeroes its tile. Nothing else changes. The ILLOP of an MTS whose value breaks
its register's limits (R161, R258, R335, R352, R353, R370). -/
def Obligations.SpecialRegisterWrites : Prop :=
  (∀ (s : State) (g : Guard) (a : R6), s.runs g →
    let v := s.gv a
    let st := s.me
    let r := fun (n : Nat) (st' : Strand) =>
      s.ends (.mts g (BitVec.ofNat 12 n) a) (s.strandNow (st'.latency (.sp n) 1))
    r 0x006 { st with aflags := v &&& 63#64 } ∧ r 0x007 { st with amask := v &&& 63#64 } ∧
    (∀ n, 1 ≤ n → n ≤ 3 → v.toNat < 32 → v.toNat ≠ 16 → r (0x007 + n) { st with xv := tset 0 st.xv n v }) ∧
    (∀ n, n < 8 → tcfgOk v = true →
      r (0x010 + n) ({ st with tcfg := tset 0 st.tcfg n v, td := tclear st.td (n * 1024) 1024,
                               tst := tset 0 st.tst n (if tcRows v = 0 then 0 else 1) }.latency (.t n) 1)) ∧
    (s.op.tm = true →
      r 0x001 { st with tvb := v &&& ~~~63#64 } ∧ r 0x002 { st with epc := v } ∧ r 0x004 { st with eaddr := v } ∧
      r 0x005 { st with einfo := v } ∧ (v.toNat < 256 → r 0x003 { st with ecause := v }) ∧
      (v.toNat ≤ 16 → r 0x00B { st with lnkd := v.toNat }) ∧ (∀ n, n < 6 → r (0x018 + n) { st with lcnt := tset 0 st.lcnt n v }) ∧
      (∀ n, n < 16 → r (0x020 + n) { st with lnk := tset 0 st.lnk n v }) ∧
      ((v ^^^ s.status s.cur s.op) &&& ~~~6#64 = 0 → (v.getLsbD 2 = true → s.myCtx.debug = true) →
        r 0x000 { st with sstep := v.getLsbD 1, sdrain := v.getLsbD 2 }))) ∧
  (∀ (s : State) (g : Guard) (a : R6), s.runs g →
    let v := s.gv a
    let bad := fun (n : Nat) =>
      exec (.mts g (BitVec.ofNat 12 n) a) s = .next (s.raise { cause := 0x01, addr := 0, info := BitVec.ofNat 64 s.latch.slot })
    (∀ n, 1 ≤ n → n ≤ 3 → 32 ≤ v.toNat ∨ v.toNat = 16 → bad (0x007 + n)) ∧
    (∀ n, n < 8 → 32 < tcRows v ∨ 4 < tcType v ∨ (tcRows v ≠ 0 ∧ (tcCols v = 0 ∨ 32 < tcCols v ∨
        1024 < tcRows v * tcCols v * etSize (tcType v))) → bad (0x010 + n)) ∧
    (s.op.tm = true → (256 ≤ v.toNat → bad 0x003) ∧ (16 < v.toNat → bad 0x00B) ∧
      ((v ^^^ s.status s.cur s.op) &&& ~~~6#64 ≠ 0 → s.myCtx.debug = true → bad 0x000)))

/-- The PRIV of R351: an MTS of a register that no MTS may write, of one that needs trap mode outside it, or of STATUS with SDRAIN set and
no DEBUG capability; ERET outside trap mode; TINV outside trap mode or without the PAGER capability. EINFO holds the register's number, or
bit 12 and 0xFFF. -/
def Obligations.Privilege : Prop :=
  ∀ (s : State) (g : Guard) (a : R6), s.runs g →
    let p := fun (i : Instr) (info : Nat) => exec i s = .next (s.raise { cause := 0x19, addr := 0, info := BitVec.ofNat 64 info })
    (∀ n, n = 0x01E ∨ n = 0x01F ∨ (0x030 ≤ n ∧ n ≤ 0x039) → p (.mts g (BitVec.ofNat 12 n) a) n) ∧
    (s.op.tm = false →
      (∀ n, n ≤ 0x005 ∨ n = 0x00B ∨ (0x018 ≤ n ∧ n ≤ 0x01D) ∨ (0x020 ≤ n ∧ n ≤ 0x02F) → p (.mts g (BitVec.ofNat 12 n) a) n) ∧
      p (.eret g) 0x1FFF ∧ (∀ fn : F3, p (.tinv g 0 a 0 0 fn) 0x1FFF)) ∧
    (s.op.tm = true → (s.gv a).getLsbD 2 = true → s.myCtx.debug = false → p (.mts g 0 a) 0) ∧
    (s.myCtx.pager = false → ∀ fn : F3, p (.tinv g 0 a 0 0 fn) 0x1FFF)

/-! ### Traps (R348, R356, R457) -/

/-- A trap is entered: every issued register write completes, EPC, ECAUSE, EADDR and EINFO are written, TM is set, fetch goes on at TVB,
a DGST of the strand that waited waits no more, and nothing else changes. -/
def Obligations.TrapEntry : Prop :=
  ∀ (s : State) (t : Nat) (tr : Trap) (epc : W64), tr.cause ≠ 0x14 → (s.strand t).tm = false →
    s.enterTrap t tr epc = s.setStrand t { s.strand t with
      epc := epc, ecause := BitVec.ofNat 64 tr.cause, eaddr := tr.addr, einfo := tr.info, tm := true, pc := (s.strand t).tvb,
      blk := .ready, lat := [], fpend := [], aflags := (s.strand t).fpend.foldl (fun a e => a ||| e.flags) (s.strand t).aflags,
      flagGot := none, dgst := none, dgstGo := (s.strand t).dgstGo && (s.strand t).dgst.isNone }

/-- A trap raised with TM set is not entered: its context is killed with KILLED cause 3, INFO carrying ECAUSE and EPC; a MEMERR kills the
context with cause 2 whatever TM is (R43, R356, R458). -/
def Obligations.TrapKills : Prop :=
  ∀ (s : State) (t : Nat) (tr : Trap) (epc : W64), (s.ctx (slotOfStrand t)).used = true →
    let u := s.enterTrap t tr epc
    let said := fun (cause i0 : Nat) => ∃ e ∈ u.arb.held ++ u.arb.waiting,
      e.typ = 3 ∧ e.ctxid = s.ctxid (slotOfStrand t) ∧ e.result = cause ∧ e.info0 = i0 ∧ (cause = 3 → e.info1 = epc.toNat)
    ((s.strand t).tm = true → tr.cause ≠ 0x14 → (u.ctx (slotOfStrand t)).used = false ∧ said 3 tr.cause) ∧
    (tr.cause = 0x14 → (u.ctx (slotOfStrand t)).used = false ∧ said 2 tr.addr.toNat)

/-! ### Control (R332-R349) -/

/-- NOP has no effect; BR, BRI and CALL name their target from the bundle's address or a register; BRV branches on a full mask, falls
through on an empty one and traps on a mixed one. The transfer is noted and takes effect at the bundle's end. CALL and CALLI push the
address after the bundle and jump, RET pops and jumps; a full store raises CALLD, an empty one RETE. -/
def Obligations.BranchesAndCalls : Prop :=
  (∀ (s : State) (g : Guard), s.runs g →
    let to' := fun (x : W64) => { s with latch := { s.latch with target := some x, taken := true } }
    exec (.nop g) s = .next s ∧
    (∀ disp : BitVec 22, exec (.br g disp) s = .next (to' (s.latch.addr + disp.signExtend 64))) ∧
    (∀ a : R6, exec (.bri g a) s = .next (to' (s.gv a))) ∧
    (∀ (q : F3) (disp : BitVec 19),
      (s.op.qGet q.toNat = BitVec.allOnes 64 → exec (.brv g q disp) s = .next (to' (s.latch.addr + disp.signExtend 64))) ∧
      (s.op.qGet q.toNat = 0 → exec (.brv g q disp) s = .next s) ∧
      (s.op.qGet q.toNat ≠ BitVec.allOnes 64 → s.op.qGet q.toNat ≠ 0 →
        exec (.brv g q disp) s = .next (s.raise { cause := 0x0B, addr := 0, info := BitVec.ofNat 64 q.toNat })))) ∧
  (∀ (s : State) (g : Guard) (a : R6) (disp : BitVec 22), s.runs g →
    let n := s.op.lnkd
    let to' := fun (s : State) (x : W64) => { s with latch := { s.latch with target := some x, taken := true } }
    let pushed := s.setStrand s.cur { s.me with
      lnk := tset 0 s.me.lnk n (s.latch.addr + BitVec.ofNat 64 s.latch.len), lnkd := n + 1 }
    (n ≠ 16 → exec (.call g disp) s = .next (to' pushed (s.latch.addr + disp.signExtend 64)) ∧
      exec (.calli g a) s = .next (to' pushed (s.gv a))) ∧
    (n = 16 → exec (.call g disp) s = .next (s.raise { cause := 0x09, addr := 0, info := 0 }) ∧
      exec (.calli g a) s = .next (s.raise { cause := 0x09, addr := 0, info := 0 })) ∧
    (n ≠ 0 → exec (.ret g) s = .next (to' (s.setStrand s.cur { s.me with lnkd := n - 1 }) (tget 0 s.op.lnk (n - 1)))) ∧
    (n = 0 → exec (.ret g) s = .next (s.raise { cause := 0x0A, addr := 0, info := 0 })))

/-- LOOP outside a nest and outside trap mode sets the counters of its dimensions and the bounds of the body, and skips the body where a
count is zero; LEXIT leaves the nest for LOOPEND. A LOOP in a nest or in trap mode, and an LEXIT with no nest, raise ILLOP. -/
def Obligations.Loops : Prop :=
  ∀ (s : State) (g : Guard) (dims : F3) (c : R6) (len : BitVec 9), s.runs g →
    let count := fun (k : Nat) => (s.op.gGet (c.toNat + k)).toNat % 2 ^ 32
    let start := s.latch.addr + BitVec.ofNat 64 s.latch.len
    (s.op.loopd = 0 → s.op.tm = false → ∃ t, exec (.loop g dims c len) s = .next t ∧
      t.me.loopStart = start ∧ t.me.loopEnd = start + BitVec.ofNat 64 len.toNat ∧
      (∀ k, tget 0 t.me.lcnt k = if k < dims.toNat then BitVec.ofNat 64 (count k * 2 ^ 32 + count k) else 0) ∧
      t = { s.setStrand s.cur { s.me with lcnt := t.me.lcnt, loopd := t.me.loopd, loopStart := t.me.loopStart, loopEnd := t.me.loopEnd }
            with latch := t.latch } ∧
      ((∀ k, k < dims.toNat → count k ≠ 0) → t.me.loopd = dims.toNat ∧ t.latch = s.latch) ∧
      ((∃ k, k < dims.toNat ∧ count k = 0) →
        t.me.loopd = 0 ∧ t.latch = { s.latch with target := some t.me.loopEnd, taken := true })) ∧
    (s.op.loopd ≠ 0 ∨ s.op.tm = true →
      exec (.loop g dims c len) s = .next (s.raise { cause := 0x01, addr := 0, info := 0 })) ∧
    (s.op.loopd ≠ 0 → exec (.lexit g) s = .next
      { s.setStrand s.cur { s.me with loopd := 0 } with
        latch := { s.latch with target := some s.op.loopEnd, taken := true, leave := true } }) ∧
    (s.op.loopd = 0 → exec (.lexit g) s = .next (s.raise { cause := 0x01, addr := 0, info := 0 }))

/-- The body of a nest of 1 to 6 dimensions runs the product of its counts in times: after fewer ends of an iteration the nest is active
and fetch is at LOOPSTART, after that many it has ended at LOOPEND with the inner counters reloaded (R341). -/
def Obligations.LoopRunsProduct : Prop :=
  ∀ (st : Strand) (counts : List Nat), 1 ≤ counts.length → counts.length ≤ 6 → (∀ n ∈ counts, 1 ≤ n ∧ n < 2 ^ 32) →
    st.loopd = counts.length → st.lcnt = loopLcnt counts →
    let after := fun (n : Nat) => Strand.endIteration^[n] st
    (∀ n, 1 ≤ n → n < counts.foldl (· * ·) 1 → (after n).loopd = counts.length ∧ (after n).pc = st.loopStart) ∧
    (after (counts.foldl (· * ·) 1)).loopd = 0 ∧ (after (counts.foldl (· * ·) 1)).pc = st.loopEnd ∧
    (∀ k, k + 1 < counts.length →
      tget 0 (after (counts.foldl (· * ·) 1)).lcnt k = BitVec.ofNat 64 (counts.getD k 0 * 2 ^ 32 + counts.getD k 0))

/-- YIELD issues and blocks for one switch; TRAP and BRK note SYSC and BRKP with their code, to be entered after the bundle; ERET in trap
mode clears TM and goes on at EPC as it stood before the bundle, the strand's reported faults cleared. WAITF on a flag at least as great as
its threshold goes on: it has loaded the latest store, and its strand must from then on see every store performed before; on a smaller one, or while an earlier access of
the strand must be performed first, it blocks before issue; an address that is no multiple of 8 raises ALIGN. The flag is read as the strand
sees it, its own pending stores included. One in another die's memory is asked for with a load, and the WAITF blocks until its value has
come; where that is great enough, the flag is read again in memory of this package, and the WAITF goes on if it still is. That ERET clears the reported faults is the model's reading of R459 (log entry 48). -/
def Obligations.YieldTrapAndWait : Prop :=
  (∀ (s : State) (g : Guard), s.runs g →
    exec (.yield g) s = .next (s.setStrand s.cur { s.me with blk := .yielded, since := s.cycle }) ∧
    (∀ code : W16, exec (.trap g code) s = .next
        { s with latch := { s.latch with late := some { cause := 0x16, addr := 0, info := code.zeroExtend 64 } } } ∧
      exec (.brk g code) s = .next
        { s with latch := { s.latch with late := some { cause := 0x17, addr := 0, info := code.zeroExtend 64 } } }) ∧
    (s.op.tm = true → ∃ t, exec (.eret g) s = .next t ∧
      t.me = { s.me with tm := false, pc := s.op.epc } ∧ t.latch = { s.latch with target := some s.op.epc, taken := true } ∧
      (∀ n, n ≠ s.cur → t.strand n = s.strand n) ∧ t.mem = s.mem ∧
      (∀ l, t.lc l = if l = s.myLc then { s.lc l with edt := (s.lc l).edt.map (fun k =>
        if k.strand = s.cur % 4 ∧ k.reported = true then { k with fault := none, reported := false } else k) } else s.lc l))) ∧
  (∀ (s : State) (g : Guard) (a b : R6), s.runs g →
    ((s.gv a).toNat % 8 ≠ 0 → exec (.waitf g a b) s = .next (s.raise { cause := 0x04, addr := s.gv a, info := 0 })) ∧
    ((s.gv a).toNat % 8 = 0 → ∀ (l : Loc) (u : State), s.reach1 s.myLc (s.gv a).toNat .read = (.ok l, u) →
      u.hole s.myLc true [(l, 8)] = none →
      let v := leNat (overlay u.me.acc l.key (u.readLoc l 8))
      let e := { u.access .load (s.gv a).toNat 8 1 7 0 0 .flag l.kind l with num := u.me.accNo }
      let free := mayPerform u.me.acc e = true ∧ u.remoteFirst s.cur e = false ∧ u.owed s.cur e = false
      let seen := fun (w : State) =>
        w.setStrand s.cur { w.me with view := { (w.sawLoad s.cur e 0).me.view with seen := w.vtime, sync := w.vtime } }
      let now := leNat (overlay u.me.acc e.pa (u.readLoc (keyLoc e.pa e.leaf) 8))
      (e.far = false →
        ((s.gv b).toNat ≤ v → free → exec (.waitf g a b) s = .next (seen u)) ∧
        (v < (s.gv b).toNat ∨ ¬free → exec (.waitf g a b) s = .next u.block)) ∧
      (e.far = true →
        (∀ w, u.me.flagGot = some ((s.gv a).toNat, w) → (s.gv b).toNat ≤ w →
          (u.ownFid (e.pa >>> 37) = true → (s.gv b).toNat ≤ now) →
          exec (.waitf g a b) s = .next (seen (u.setStrand s.cur { u.me with flagGot := none }))) ∧
        (u.me.flagGot = none → (∀ p ∈ u.me.acc, ¬(p.dst = .flag ∧ p.va = e.va)) →
          exec (.waitf g a b) s = .next (u.setStrand s.cur { u.me with
            acc := u.me.acc ++ [e], accNo := u.me.accNo + 1 }).block))))

/-- HALT, where the firing has met what its ORDERED channels and its region ask of it and no fault is left to report, holds the firing and
clears TM; a channel left out raises QERR 6 with the lowest such channel, an open region SPECX. TFENCE, with no fault to report, goes on
when no masked flag is set, every issued flag counted, and raises ARITH with the masked flags otherwise. A fault of an engine command of the
strand that no wait has reported is reported once, as its EFLT or SKMIS with its EINFO, by EFENCE, by TFENCE and by a HALT that has met its
other obligations (R349, R459). What a report leaves of the command is the model's reading of R459 (log entry 48). -/
def Obligations.HaltFenceAndFaults : Prop :=
  (∀ (s : State) (g : Guard), s.runs g →
    let io := s.bundleIo
    let ch := s.myGraph.bind (fun gr => haltChannel gr s.op.stage (s.op.opush ||| io.1) (s.op.opop ||| io.2))
    let fl := s.me.fpend.foldl (fun a e => a ||| e.flags) s.me.aflags
    let u := s.setStrand s.cur { s.me with aflags := fl, fpend := [] }
    (∀ c, ch = some c → exec (.halt g) s = .next (s.raise { cause := 0x13, addr := 0, info := BitVec.ofNat 64 (6 + c * 256) })) ∧
    (ch = none → s.holdsRegion = true → exec (.halt g) s = .next (s.raise { cause := 0x15, addr := 0, info := 0 })) ∧
    (ch = none → s.holdsRegion = false → (s.lc s.myLc).unreported (s.cur % 4) (fun _ => true) = none →
      exec (.halt g) s = .next (s.setStrand s.cur { s.me with blk := .halted, tm := false, since := s.cycle })) ∧
    ((s.lc s.myLc).unreported (s.cur % 4) (fun _ => true) = none →
      (fl &&& s.op.amask = 0 → exec (.tfence g) s = .next u) ∧
      (fl &&& s.op.amask ≠ 0 → exec (.tfence g) s = .next (u.raise { cause := 0x10, addr := 0, info := fl &&& s.op.amask })))) ∧
  (∀ (s : State) (g : Guard) (a b c : R6) (fn : F4) (k : Cmd), s.runs g →
    (s.lc s.myLc).unreported (s.cur % 4) (fun _ => true) = some k →
    let u := s.setStrand s.cur { s.me with aflags := s.me.fpend.foldl (fun a e => a ||| e.flags) s.me.aflags, fpend := [] }
    let io := s.bundleIo
    exec (.efence g a b c fn) s = .next ((s.markReported s.myLc k.id).raise ((s.lc s.myLc).reportTrap k)) ∧
    exec (.tfence g) s = .next ((u.markReported s.myLc k.id).raise ((s.lc s.myLc).reportTrap k)) ∧
    (s.myGraph.bind (fun gr => haltChannel gr s.op.stage (s.op.opush ||| io.1) (s.op.opop ||| io.2)) = none → s.holdsRegion = false →
      exec (.halt g) s = .next ((s.markReported s.myLc k.id).raise ((s.lc s.myLc).reportTrap k))))

/-! ### Floating point (R371-R375) -/

/-- The FP32 scalar instructions complete with the value and the flags of the operation on the low words, rounded once to nearest even or,
with fn[0], toward zero; FMIN and FMAX pick an operand. The upper word of the result is zero. FCMP writes P[d] and NV as R374's table
gives; FCVT converts as R375's does. -/
def Obligations.ScalarFloat : Prop :=
  (∀ (s : State) (g : Guard) (d a b : R6) (fn : F4), s.runs g →
    let x := val32 ((s.gv a).setWidth 32)
    let y := val32 ((s.gv b).setWidth 32)
    let z := val32 ((s.op.gGet d.toNat).setWidth 32)
    let mode := if fn.getLsbD 0 then RMode.rtz else RMode.rne
    let r := fun (i : Instr) (v : Nat × Nat) (n : Nat) => s.ends i (s.putsG d (BitVec.ofNat 64 v.1) n v.2)
    r (.fadd g d a b fn) (addV fp32 mode x y) 4 ∧ r (.fsub g d a b fn) (subV fp32 mode x y) 4 ∧
    r (.fmul g d a b fn) (mulV fp32 mode x y) 4 ∧ r (.ffma g d a b fn) (fmaV fp32 mode x y z) 4 ∧
    r (.fdiv g d a b fn) (divV fp32 mode x y) 12 ∧ r (.fsqrt g d a 0 fn) (sqrtV fp32 mode x) 12 ∧
    r (.fmin g d a b 0) (minmax fp32 false ((s.gv a).toNat % 2 ^ 32) ((s.gv b).toNat % 2 ^ 32)) 4 ∧
    r (.fmax g d a b 0) (minmax fp32 true ((s.gv a).toNat % 2 ^ 32) ((s.gv b).toNat % 2 ^ 32)) 4) ∧
  (∀ (s : State) (g : Guard) (d a b : R6), s.runs g →
    let x := val32 ((s.gv a).setWidth 32)
    let y := val32 ((s.gv b).setWidth 32)
    let un := x.isNan || y.isNan
    let quiet := x.snan ||| y.snan
    let loud := if un then fNV else 0
    let c := fun (fn : F4) (v : Bool) (fl : Nat) => s.ends (.fcmp g d a b fn) (s.putsP d.toNat v 4 fl)
    let r := fun (fn : F4) (v : W64 × Nat) => s.ends (.fcvt g d a 0 fn) (s.putsG d v.1 4 v.2)
    (d.toNat < 8 →
      c 0 (eqV x y) quiet ∧ c 1 (!eqV x y) quiet ∧ c 2 (ltV x y) loud ∧ c 3 (ltV x y || eqV x y) loud ∧ c 4 (ltV y x) loud ∧
      c 5 (ltV y x || eqV x y) loud ∧ c 6 un quiet ∧ c 7 (!un) quiet) ∧
    (∀ mode : RMode, ∀ k : Nat, (mode = .rne ∧ k = 0) ∨ (mode = .rtz ∧ k = 1) →
      r (BitVec.ofNat 4 k) (res64 (toInt mode (-(2 ^ 63)) (2 ^ 63 - 1) x)) ∧
      r (BitVec.ofNat 4 (2 + k)) (res64 (toInt mode 0 (2 ^ 64 - 1) x)) ∧
      r (BitVec.ofNat 4 (4 + k)) (resF (fromInt mode (s.gv a).toInt)) ∧
      r (BitVec.ofNat 4 (6 + k)) (resF (fromInt mode (s.gv a).toNat)) ∧
      r (BitVec.ofNat 4 (8 + k)) (resF (convV bf16 mode x))) ∧
    r 10 (resF (bf2f ((s.gv a).toNat % 65536))))

/-! ### Vector instructions (R399-R420) -/

/-- The integer forms of VADD, VSUB, VMUL, VMIN, VMAX, VABS and VNEG, and the logical and shift instructions, complete lane by lane: the
active lanes receive their result, wrapped or clamped with ISAT as the form says, the others are kept or zeroed, nothing else changes. -/
def Obligations.VectorIntegers : Prop :=
  ∀ (s : State) (m : Mask) (d a b : R6), s.me.occ = true →
    let x := s.src a
    let y := s.src b
    let r := fun (i : Instr) (f : Nat → W32) => s.ends i (s.putsLanes m d 2 (fun l => (f l, 0)))
    let clampS := fun (v : Int) => if v < -(2 ^ 31) then (BitVec.intMin 32, fISAT) else if 2 ^ 31 ≤ v then (BitVec.intMax 32, fISAT)
      else (BitVec.ofInt 32 v, 0)
    let clampU := fun (v : Int) => if v < 0 then (0#32, fISAT) else if 2 ^ 32 ≤ v then (BitVec.allOnes 32, fISAT) else (BitVec.ofInt 32 v, 0)
    let rs := fun (i : Instr) (f : Nat → W32 × Nat) => s.ends i (s.putsLanes m d 2 f)
    (∀ fn : F4, fn = 3 ∨ fn = 4 → r (.vadd m d a b fn) (fun l => x l + y l) ∧ r (.vsub m d a b fn) (fun l => x l - y l) ∧
      r (.vmul m d a b fn) (fun l => x l * y l)) ∧
    rs (.vadd m d a b 5) (fun l => clampS ((x l).toInt + (y l).toInt)) ∧ rs (.vsub m d a b 5) (fun l => clampS ((x l).toInt - (y l).toInt)) ∧
    rs (.vmul m d a b 5) (fun l => clampS ((x l).toInt * (y l).toInt)) ∧ rs (.vadd m d a b 6) (fun l => clampU ((x l).toNat + (y l).toNat)) ∧
    rs (.vsub m d a b 6) (fun l => clampU ((x l).toNat - (y l).toNat : Int)) ∧ rs (.vmul m d a b 6) (fun l => clampU ((x l).toNat * (y l).toNat)) ∧
    r (.vmin m d a b 3) (fun l => if (x l).toInt ≤ (y l).toInt then x l else y l) ∧
    r (.vmax m d a b 3) (fun l => if (x l).toInt ≤ (y l).toInt then y l else x l) ∧
    r (.vmin m d a b 4) (fun l => if (x l).toNat ≤ (y l).toNat then x l else y l) ∧
    r (.vmax m d a b 4) (fun l => if (x l).toNat ≤ (y l).toNat then y l else x l) ∧
    r (.vabs m d a 0 3) (fun l => if (x l).toInt < 0 then -x l else x l) ∧ r (.vneg m d a 0 3) (fun l => -x l) ∧
    rs (.vabs m d a 0 5) (fun l => clampS (x l).toInt.natAbs) ∧ rs (.vneg m d a 0 5) (fun l => clampS (-(x l).toInt)) ∧
    r (.vmov m d a 0 0) x ∧ r (.vand m d a b 0) (fun l => x l &&& y l) ∧ r (.vor m d a b 0) (fun l => x l ||| y l) ∧
    r (.vxor m d a b 0) (fun l => x l ^^^ y l) ∧ r (.vshl m d a b 0) (fun l => x l <<< ((y l).toNat % 32)) ∧
    r (.vshr m d a b 0) (fun l => x l >>> ((y l).toNat % 32)) ∧ r (.vsar m d a b 0) (fun l => (x l).sshiftRight ((y l).toNat % 32))

/-- The floating-point vector forms, the table functions and the conversions complete lane by lane with the value and flags of their
operation, rounded once (R400-R409, R413, R415). -/
def Obligations.VectorFloats : Prop :=
  ∀ (s : State) (m : Mask) (d a b : R6), s.me.occ = true →
    let x := s.src a
    let y := s.src b
    let z := fun (l : Nat) => s.op.lane d.toNat l
    let r := fun (i : Instr) (n : Nat) (f : Nat → Nat × Nat) => s.ends i (s.putsLanes m d n (fun l => (BitVec.ofNat 32 (f l).1, (f l).2)))
    let w := fun (i : Instr) (n : Nat) (f : Nat → W32 × Nat) => s.ends i (s.putsLanes m d n f)
    (∀ (mode : RMode) (fn : F4), (mode = .rne ∧ fn = 0) ∨ (mode = .rtz ∧ fn = 1) →
      r (.vadd m d a b fn) 4 (fun l => addV fp32 mode (val32 (x l)) (val32 (y l))) ∧
      r (.vsub m d a b fn) 4 (fun l => subV fp32 mode (val32 (x l)) (val32 (y l))) ∧
      r (.vmul m d a b fn) 4 (fun l => mulV fp32 mode (val32 (x l)) (val32 (y l))) ∧
      r (.vfma m d a b fn) 4 (fun l => fmaV fp32 mode (val32 (x l)) (val32 (y l)) (val32 (z l)))) ∧
    r (.vadd m d a b 2) 4 (fun l => addV bf16 .rne (valB (x l)) (valB (y l))) ∧
    r (.vsub m d a b 2) 4 (fun l => subV bf16 .rne (valB (x l)) (valB (y l))) ∧
    r (.vmul m d a b 2) 4 (fun l => mulV bf16 .rne (valB (x l)) (valB (y l))) ∧
    r (.vfma m d a b 2) 4 (fun l => fmaV bf16 .rne (valB (x l)) (valB (y l)) (valB (z l))) ∧
    (∀ (i : Instr) (wantMax : Bool), (wantMax = false ∧ i = .vmin m d a b 0) ∨ (wantMax = true ∧ i = .vmax m d a b 0) →
      r i 4 (fun l => minmax fp32 wantMax (x l).toNat (y l).toNat)) ∧
    (∀ (i : Instr) (wantMax : Bool), (wantMax = false ∧ i = .vmin m d a b 2) ∨ (wantMax = true ∧ i = .vmax m d a b 2) →
      r i 4 (fun l => minmax bf16 wantMax ((x l).toNat % 65536) ((y l).toNat % 65536))) ∧
    w (.vabs m d a 0 0) 4 (fun l => (x l &&& 0x7FFFFFFF, 0)) ∧ w (.vneg m d a 0 0) 4 (fun l => (x l ^^^ 0x80000000, 0)) ∧
    w (.vabs m d a 0 2) 4 (fun l => (x l &&& 0x7FFF, 0)) ∧ w (.vneg m d a 0 2) 4 (fun l => ((x l ^^^ 0x8000) &&& 0xFFFF, 0)) ∧
    w (.vrcp m d a 0 0) 8 (fun l => rcpLane (x l)) ∧ w (.vrsq m d a 0 0) 8 (fun l => rsqLane (x l)) ∧
    w (.vexp2 m d a 0 0) 8 (fun l => exp2Lane (x l)) ∧ w (.vlog2 m d a 0 0) 8 (fun l => log2Lane (x l)) ∧
    (∀ fn : F4, w (.vlut m d a 0 fn) 8 (fun l => lutLane fn.toNat (x l))) ∧
    (∀ fn : F4, w (.vcvt m d a 0 fn) 4 (fun l => cvtLane fn.toNat (x l))) ∧
    (∀ fn : F4, w (.vdqmx m d a 0 fn) 4 (fun l =>
      let img := lanesBytes ((List.range 64).map x)
      let k := mxStride fn.toNat
      if l < 32 then lane (dequant fn.toNat (fld img 252 1) ((blockCodes fn.toNat (img.take k)).getD l 0))
      else lane (dequant fn.toNat (fld img 253 1) ((blockCodes fn.toNat (slice img k k)).getD (l - 32) 0))))

/-- VPERM, VROT and VBCAST move lanes under the mask; VSEL, VIOTA and VQMX write every lane; VEXT, VRED and QPOPC write a G register; VCMP
and QLOG write a Q register, VCMP's masked-off bits kept or cleared (R410, R411, R414, R416-R418). A VRED of integers is the sum, least or
greatest of the active lanes, an exact 64-bit sum; with no lane active the identity. -/
def Obligations.VectorMovesAndReductions : Prop :=
  (∀ (s : State) (m : Mask) (d a b : R6), s.me.occ = true →
    let x := s.src a
    let y := s.src b
    s.ends (.vperm m d a b 0) (s.putsLanes m d 3 (fun l => (x ((y l).toNat % 64), 0))) ∧
    s.ends (.vrot m d a b 0) (s.putsLanes m d 2 (fun l => (x ((l + (s.gv b).toNat) % 64), 0))) ∧
    s.ends (.vbcast m d a b 0) (s.putsLanes m d 2 (fun _ => (x ((s.gv b).toNat % 64), 0))) ∧
    s.ends (.vsel m d a b 0) (s.putsV d (fun l => if (s.maskQ m).getLsbD l then x l else y l) 2 0) ∧
    s.ends (.viota ⟨0, false⟩ d 0 0 0) (s.putsV d (fun l => BitVec.ofNat 32 l) 2 0) ∧
    (∀ fn : F4, s.ends (.vqmx m d a 0 fn) (s.putsV d (fun l =>
      let v := (List.range 64).map (fun l => val32 (if (s.maskQ m).getLsbD l then x l else 0))
      BitVec.ofNat 32 (fld (mxImage fn.toNat (quantMX fn.toNat .rne (v.take 32)) (quantMX fn.toNat .rne (v.drop 32))) (4 * l) 4)) 6 0)) ∧
    s.ends (.vext ⟨0, false⟩ d a b 0) (s.putsG d ((x ((s.gv b).toNat % 64)).zeroExtend 64) 2 0) ∧
    s.ends (.qpopc ⟨0, false⟩ d a 0 0)
      (s.putsG d (BitVec.ofNat 64 ((List.range 64).filter (fun l => (s.op.qGet a.toNat).getLsbD l)).length) 2 0) ∧
    (∀ fn : F4, s.ends (.vred m d a 0 fn) (s.putsG d (vredRes fn.toNat (s.maskQ m) ((List.range 64).map x)).1 6
      (vredRes fn.toNat (s.maskQ m) ((List.range 64).map x)).2)) ∧
    (∀ fn : F4, ∃ v : W64, s.ends (.vcmp m d a b fn) (s.putsQ d.toNat v 2
        (laneFlags (s.maskQ m) ((List.range 64).map (fun l => (vcmpLane fn.toNat (x l) (y l)).2)))) ∧
      ∀ l, l < 64 → v.getLsbD l = if (s.maskQ m).getLsbD l then (vcmpLane fn.toNat (x l) (y l)).1
        else !m.z && (s.op.qGet d.toNat).getLsbD l) ∧
    (∀ fn : F4, ∃ v : W64, s.ends (.qlog ⟨0, false⟩ d a b fn) (s.putsQ d.toNat v 2 0) ∧
      ∀ l, l < 64 → v.getLsbD l = (match (s.op.qGet a.toNat).getLsbD l, (s.op.qGet b.toNat).getLsbD l with
        | false, false => fn.getLsbD 0
        | false, true => fn.getLsbD 1
        | true, false => fn.getLsbD 2
        | true, true => fn.getLsbD 3))) ∧
  (∀ (s : State) (m : Mask) (d a : R6), s.me.occ = true →
    let live := (List.range 64).filter (fun l => (s.maskQ m).getLsbD l)
    s.ends (.vred m d a 0 8) (s.putsG d (BitVec.ofInt 64 ((live.map (fun l => (s.src a l).toInt)).sum)) 6 0) ∧
    (∀ (fn : F4) (best : Int → Int → Int) (unit : Int), (fn = 9 ∧ best = min ∧ unit = 2 ^ 31 - 1) ∨ (fn = 10 ∧ best = max ∧ unit = -(2 ^ 31)) →
      s.ends (.vred m d a 0 fn) (s.putsG d (BitVec.ofInt 64 (live.foldl (fun r l => best r (s.src a l).toInt) unit)) 6 0)) ∧
    (∀ (fn : F4) (best : Nat → Nat → Nat) (unit : Nat), (fn = 13 ∧ best = min ∧ unit = 2 ^ 32 - 1) ∨ (fn = 14 ∧ best = max ∧ unit = 0) →
      s.ends (.vred m d a 0 fn) (s.putsG d (BitVec.ofNat 64 (live.foldl (fun r l => best r (s.src a l).toNat) unit)) 6 0)))

/-- The tile moves complete inside a configured shape: TMOVR writes a row from the low bytes of the lanes and sets the dirty bit, TMOVC
and TROWV widen a column or a row into lanes, TZERO clears the tile; outside the shape, or unconfigured, they raise TCFGU. -/
def Obligations.TileMoves : Prop :=
  ∀ (s : State) (d a b : R6), s.me.occ = true →
    let m : Mask := ⟨0, false⟩
    let shape := fun (t : R6) => tget 0 s.op.tcfg t.toNat
    let n := (s.gv b).toNat
    let bytes := fun (v : W64) => etSize (tcType v)
    let cell := fun (t : R6) (r c : Nat) => elemLane (tcType (shape t)) (s.op.tBytes t.toNat ((r * tcCols (shape t) + c) * bytes (shape t)) (bytes (shape t)))
    let tr := fun (t : R6) (out : Nat) => ({ cause := 0x0E, addr := 0, info := BitVec.ofNat 64 (t.toNat * 2 + out) } : Trap)
    let writes := fun (off : Nat) (bs : List Byte) => s.strandNow
      (({ s.me with td := twrite 0 s.me.td (d.toNat * 1024 + off) bs, tst := tset 0 s.me.tst d.toNat 2 } : Strand).latency (.t d.toNat) 2)
    (n < tcRows (shape d) → s.ends (.tmovr m d a b 0) (writes (n * (tcCols (shape d) * bytes (shape d)))
      (((List.range 64).take (tcCols (shape d))).flatMap (fun l => leBytes (bytes (shape d)) (s.src a l).toNat)))) ∧
    (tcRows (shape a) ≠ 0 → n < tcCols (shape a) →
      s.ends (.tmovc m d a b 0) (s.putsV d (fun l => if l < tcRows (shape a) then cell a l n else 0) 2 0)) ∧
    (n < tcRows (shape a) → s.ends (.trowv m d a b 0) (s.putsV d (fun l => if l < tcCols (shape a) then cell a n l else 0) 2 0)) ∧
    (tcRows (shape d) ≠ 0 →
      s.ends (.tzero m d 0 0 0) (writes 0 (List.replicate (tcRows (shape d) * (tcCols (shape d) * bytes (shape d))) 0))) ∧
    (tcRows (shape d) = 0 → exec (.tmovr m d a b 0) s = .next (s.raise (tr d 0)) ∧ exec (.tzero m d 0 0 0) s = .next (s.raise (tr d 0))) ∧
    (tcRows (shape a) = 0 → exec (.tmovc m d a b 0) s = .next (s.raise (tr a 0)) ∧ exec (.trowv m d a b 0) s = .next (s.raise (tr a 0))) ∧
    (tcRows (shape d) ≠ 0 → tcRows (shape d) ≤ n → exec (.tmovr m d a b 0) s = .next (s.raise (tr d 1))) ∧
    (tcRows (shape a) ≠ 0 → tcCols (shape a) ≤ n → exec (.tmovc m d a b 0) s = .next (s.raise (tr a 1))) ∧
    (tcRows (shape a) ≠ 0 → tcRows (shape a) ≤ n → exec (.trowv m d a b 0) s = .next (s.raise (tr a 1)))

/-! ### Local memory (R119, R163-R170, R377-R385, R442) -/

/-- LDS and STS of 1, 2, 4 and 8 bytes complete at an aligned address inside the scratchpad or the side bank that misses the shadow: a
load writes the bytes at it, least significant first, zero- or sign-extended; a store writes the low bytes of its source there. With no
region open nothing else changes. LDS.8 of core control reads the free entries of the dependency table, the busy BTE channels and the
length of the matrix queue; an STS.8 at the aperture places a BTE start in the table with its datum, or blocks before issue with the table
full (R165, R442). -/
def Obligations.ScratchpadScalar : Prop :=
  (∀ (s : State) (g : Guard) (d a b : R6) (k : Nat), s.runs g → k < 4 →
    let n := 2 ^ k
    let va := (s.gv a + s.gv b).toNat
    let z := s.specS s.myLc
    va + n ≤ 0x110000 → va % n = 0 → (z = 0 ∨ va + n ≤ 0x100000 - z ∨ 0x100000 ≤ va) →
    let u := s.ltouch s.myLc va n
    let x := leNat (u.lread s.myLc va n)
    s.ends (.lds g d a b (BitVec.ofNat 4 k)) (u.putsG d ((BitVec.ofNat (8 * n) x).setWidth 64) 5 0) ∧
    s.ends (.lds g d a b (BitVec.ofNat 4 (4 + k))) (u.putsG d ((BitVec.ofNat (8 * n) x).signExtend 64) 5 0) ∧
    ((s.lc s.myLc).act = false → u = s) ∧
    (k < 3 → exec (.sts g d a b (BitVec.ofNat 4 k)) s = .next (s.lwrite s.myLc va (leBytes n (s.gv d).toNat))) ∧
    (k = 3 → exec (.bteStart g d a b 3) s = .next (s.lwrite s.myLc va (leBytes 8 (s.gv d).toNat)))) ∧
  (∀ (s : State) (g : Guard) (d a b : R6), s.runs g →
    let va := (s.gv a + s.gv b).toNat
    let l := s.lc s.myLc
    (va = 0x300000 → s.ends (.lds g d a b 3) (s.putsG d (BitVec.ofNat 64 (32 - l.edt.length)) 5 0)) ∧
    (va = 0x300008 → ∃ v : W64, s.ends (.lds g d a b 3) (s.putsG d v 5 0) ∧ ∀ c, c < 8 →
      v.getLsbD c = l.edt.any (fun k => k.kind == .bte && k.st != 0 && k.word.toNat / 64 == c)) ∧
    (va = 0x300010 → s.ends (.lds g d a b 3) (s.putsG d (BitVec.ofNat 64 l.mq.length) 5 0)) ∧
    (∀ c, c < 8 → va = 0x200000 + 64 * c →
      (l.edt.length < 32 → s.ends (.bteStart g d a b 3) (s.placed (fun k => k.kind = .bte ∧ k.a = s.gv d ∧
        k.word = BitVec.ofNat 32 (64 * c) ∧ k.rd1 = wholeRange ∧ k.wr = wholeRange))) ∧
      (32 ≤ l.edt.length → exec (.bteStart g d a b 3) s = .next s.block)))

/-- What local memory is without speculation: `n` bytes read one by one from their addresses, and after a store the bytes stored read back
there while every other byte, every other logical core and everything else is as it was. Speculation: while a region is open a store below
S changes no byte of the committed copy, and a load below S gives what the store wrote; with the region discarded the committed copy is
what is read (R119-R121). -/
def Obligations.LocalMemoryAndCopies : Prop :=
  (∀ (s : State) (l a : Nat) (bs : List Byte), (s.ctx (slotOf l)).spec = false →
    let t := s.lwrite l a bs
    (∀ x n, s.lread l x n = (List.range n).map (fun i => tget 0 (s.lc l).loc (x + i))) ∧
    (∀ x, tget 0 (t.lc l).loc x = if a ≤ x ∧ x < a + bs.length then bs.getD (x - a) 0 else tget 0 (s.lc l).loc x) ∧
    s.onlyLoc l t) ∧
  (∀ (s : State) (l a : Nat) (bs : List Byte), (s.lc l).act = true →
    let z := s.specS l
    z ≤ 0x20000 → a + bs.length ≤ z →
    let t := s.lwrite l a bs
    (∀ x, x < z → tget 0 (t.lc l).loc (locCommitted (t.lc l) z x) = tget 0 (s.lc l).loc (locCommitted (s.lc l) z x)) ∧
    t.lread l a bs.length = bs ∧ (t.lc l).sel = (s.lc l).sel ∧ (t.lc l).act = true ∧ t.mem = s.mem ∧ t.strands = s.strands)

/-- The scratchpad vector loads complete where no lane traps: VLDS writes every lane, VLDM the lanes of its mask, and with no region open
the lanes are the words at their addresses (contiguous, strided or indexed, R382) and nothing else changes. The scratchpad vector stores
complete where no lane traps: each byte that active lanes name receives the byte of the highest of them, and no other byte and nothing
else changes (without speculation; R382-R384). -/
def Obligations.ScratchpadVectors : Prop :=
  (∀ (s : State) (g : Guard) (d a b : R6) (fn : F4), s.runs g →
    let adr := fun (form l : Nat) =>
      match form with
      | 0 => (s.gv a + s.gv b + BitVec.ofNat 64 (4 * l)).toNat
      | 1 => (s.gv a + BitVec.ofNat 64 l * s.gv b).toNat
      | _ => (s.gv a + (s.src b l).signExtend 64).toNat
    let word := fun (x : Nat) => BitVec.ofNat 32 (leNat (s.lread s.myLc x 4))
    let q := s.op.qGet (fn.toNat % 8)
    let all := (List.range 64).map (fun l => (l, adr fn.toNat l))
    let some' := ((List.range 64).filter (fun l => q.getLsbD l)).map (fun l => (l, adr 0 l))
    (s.laneCheck false (fn == 0) all = none →
      (∃ t, exec (.vlds g d a b fn) s = .next t) ∧
      ((s.lc s.myLc).act = false → s.ends (.vlds g d a b fn) (s.putsV d (fun l => word (adr fn.toNat l)) 6 0))) ∧
    (s.laneCheck false true some' = none →
      (∃ t, exec (.vldm g d a b fn) s = .next t) ∧
      ((s.lc s.myLc).act = false → s.ends (.vldm g d a b fn) (s.putsV d (fun l =>
        if q.getLsbD l then word (adr 0 l) else if fn.getLsbD 3 then 0 else s.op.lane d.toNat l) 6 0)))) ∧
  (∀ (s : State) (g : Guard) (d a b : R6) (fn : F4), s.runs g → s.myCtx.spec = false →
    let q := s.op.qGet (fn.toNat % 8)
    let stored := fun (i : Instr) (lanes : List (Nat × Nat)) =>
      ∃ t, exec i s = .next t ∧ s.onlyLoc s.myLc t ∧
        (∀ x, (∀ e ∈ lanes, ¬(e.2 ≤ x ∧ x < e.2 + 4)) → tget 0 (t.lc s.myLc).loc x = tget 0 (s.lc s.myLc).loc x) ∧
        (∀ e ∈ lanes, ∀ j, j < 4 → (∀ e' ∈ lanes, e.1 < e'.1 → ¬(e'.2 ≤ e.2 + j ∧ e.2 + j < e'.2 + 4)) →
          tget 0 (t.lc s.myLc).loc (e.2 + j) = (leBytes 4 (s.src d e.1).toNat).getD j 0)
    (s.laneCheck true (fn == 0) (s.spLanes fn.toNat a b) = none → stored (.vsts g d a b fn) (s.spLanes fn.toNat a b)) ∧
    (s.laneCheck true true ((s.spLanes 0 a b).filter (fun e => q.getLsbD e.1)) = none →
      stored (.vstm g d a b fn) ((s.spLanes 0 a b).filter (fun e => q.getLsbD e.1))))

/-- TLDS and TSTS complete where R385 finds nothing to trap on: row r of the tile and the bytes at address + pitch r correspond, the pitch
being 64 bytes or, for longer rows, 128; TLDS sets the dirty bit. Nothing else changes (with no region open, or for the store without
speculation). -/
def Obligations.TileLoadsAndStores : Prop :=
  ∀ (s : State) (g : Guard) (d a b : R6), s.runs g →
    let va := (s.gv a + s.gv b).toNat
    let v := tget 0 s.op.tcfg d.toNat
    let rb := tcCols v * etSize (tcType v)
    let pitch := if rb ≤ 64 then 64 else 128
    (s.tileCheck false d.toNat va = none →
      (∃ t, exec (.tlds g d a b 0) s = .next t) ∧
      ((s.lc s.myLc).act = false → ∃ t, exec (.tlds g d a b 0) s = .next t ∧
        t = s.setStrand s.cur ({ s.me with td := t.me.td, tst := tset 0 s.me.tst d.toNat 2 }.latency (.t d.toNat) 6) ∧
        (∀ r i, r < tcRows v → i < rb →
          tget 0 t.me.td (d.toNat * 1024 + r * rb + i) = (s.lread s.myLc (va + pitch * r) rb).getD i 0) ∧
        (∀ x, ¬(d.toNat * 1024 ≤ x ∧ x < d.toNat * 1024 + tcRows v * rb) → tget 0 t.me.td x = tget 0 s.me.td x))) ∧
    (s.tileCheck true d.toNat va = none → rb ≤ 128 → s.myCtx.spec = false →
      ∃ t, exec (.tsts g d a b 0) s = .next t ∧ s.onlyLoc s.myLc t ∧
        (∀ r i, r < tcRows v → i < rb →
          tget 0 (t.lc s.myLc).loc (va + pitch * r + i) = tget 0 s.op.td (d.toNat * 1024 + r * rb + i)) ∧
        (∀ x, (∀ r, r < tcRows v → ¬(va + pitch * r ≤ x ∧ x < va + pitch * r + rb)) →
          tget 0 (t.lc s.myLc).loc x = tget 0 (s.lc s.myLc).loc x))

/-- What scratchpad accesses trap on: outside the scratchpad and the side bank PROT, misaligned inside them ALIGN, and two active lanes in
one bank on different lines BANKC, which a contiguous form never raises; another vector access passes its checks only where no two active
lanes conflict (R163, R164, R170, R377, R382). -/
def Obligations.ScratchpadTraps : Prop :=
  (∀ (s : State) (g : Guard) (d a b : R6) (k : Nat), s.runs g → k < 3 → s.myCtx.spec = false →
    let n := 2 ^ k
    let va := (s.gv a + s.gv b).toNat
    let tr := fun (i : Instr) (cause info : Nat) =>
      exec i s = .next (s.raise { cause := cause, addr := BitVec.ofNat 64 va, info := BitVec.ofNat 64 info })
    (0x110000 ≤ va → tr (.lds g d a b (BitVec.ofNat 4 k)) 0x07 5 ∧ tr (.sts g d a b (BitVec.ofNat 4 k)) 0x07 69) ∧
    (va + n ≤ 0x110000 → va % n ≠ 0 → tr (.lds g d a b (BitVec.ofNat 4 k)) 0x04 0 ∧ tr (.sts g d a b (BitVec.ofNat 4 k)) 0x04 0)) ∧
  (∀ (s : State) (wr : Bool) (lanes : List (Nat × Nat)),
    (s.laneCheck wr false lanes = none → lanes.Pairwise (fun e f =>
      (bankOf e.2).1 = (bankOf f.2).1 → (bankOf e.2).2.1 = (bankOf f.2).2.1 → (bankOf e.2).2.2 = (bankOf f.2).2.2)) ∧
    (∀ tr, s.laneCheck wr true lanes = some tr → tr.cause ≠ 0x05)) ∧
  (∀ (lanes : List (Nat × Nat)) (tr : Trap), bankCheck lanes = some tr → tr.cause = 0x05 ∧ ∃ e ∈ lanes, ∃ f ∈ lanes,
    (bankOf e.2).1 = (bankOf f.2).1 ∧ (bankOf e.2).2.1 = (bankOf f.2).2.1 ∧ (bankOf e.2).2.2 ≠ (bankOf f.2).2.2 ∧
    tr.addr = BitVec.ofNat 64 e.2)

/-! ### Global memory and the fabric (R178-R188, R377-R397) -/

/-- What a translation may change: memory, what is kept of its earlier contents and compression records (A and D bits), the A and D bits on
their way to a table of another package, cached translations, dirty bitmaps, monitored lines over a table, and the model's counter of free
values; for every kind of access and address.
With no cached entry that covers it, an address below the pools' window is translated by four table entries from PTROOT; an entry without V raises TRANSL with reason 0 at its level, a level-0
entry that is no leaf reason 2, and a leaf whose A and D need no setting and that passes the checks gives its frame with the low address
bits, at level 0, 1 or 2 (R182-R187). -/
def Obligations.Translation : Prop :=
  (∀ (s : State) (l va : Nat) (a : Acc),
    let u := (s.reach1 l va a).2
    u = { s with mem := u.mem, past := u.past, vtime := u.vtime, zips := u.zips, ctxs := u.ctxs, lines := u.lines, outq := u.outq, fresh := u.fresh } ∧
    (∀ y, u.ctx y = { s.ctx y with tlb := (u.ctx y).tlb, nodes := (u.ctx y).nodes, dirty := (u.ctx y).dirty })) ∧
  (∀ (s : State) (l va : Nat) (a : Acc) (e3 e2 e1 e0 : Nat), va < 0xFF000000000000 →
    let x := l / 4096
    (∀ c ∈ (s.ctx x).tlb, c.covers va = false) → (∀ c ∈ (s.ctx x).nodes, c.covers va = false) →
    let at' := fun (root e level : Nat) =>
      let p := root + 8 * (va / 2 ^ (16 + 10 * level) % 1024)
      s.bar (s.lc l).die p 8 true = none ∧ leNat (s.pread p 8) = e
    let next := fun (e : Nat) => e / 2 ^ 13 % 2 ^ 39 * 8192
    let table := fun (e : Nat) => e % 2 = 1 ∧ e / 512 % 2 = 0
    let lf := fun (e level : Nat) => e % 2 = 1 ∧ e / 512 % 2 = 1 ∧ leafCheck e level a = none ∧ e / 64 % 2 = 1 ∧ (a.writes = true → e / 128 % 2 = 1)
    let gives := fun (r : Except Fail Loc) => (s.reach1 l va a).1 = r ∧ (s.reach1 l va a).2.mem = s.mem
    let frame := fun (e level : Nat) => e / 65536 % 2 ^ 36 * 65536 + va % 2 ^ (16 + 10 * level)
    at' (s.ctx x).ptroot e3 3 →
      (e3 % 2 = 0 → gives (.error (.fault 0x06 0 3 va))) ∧
      (e3 % 2 = 1 → e3 / 512 % 2 = 1 → gives (.error (.fault 0x06 2 3 va))) ∧
      (table e3 → at' (next e3) e2 2 →
        (e2 % 2 = 0 → gives (.error (.fault 0x06 0 2 va))) ∧
        (lf e2 2 → gives (.ok (.phys (frame e2 2) e2))) ∧
        (table e2 → at' (next e2) e1 1 →
          (e1 % 2 = 0 → gives (.error (.fault 0x06 0 1 va))) ∧
          (lf e1 1 → gives (.ok (.phys (frame e1 1) e1))) ∧
          (table e1 → at' (next e1) e0 0 →
            (e0 % 2 = 0 → gives (.error (.fault 0x06 0 0 va))) ∧
            (e0 % 2 = 1 → e0 / 512 % 2 = 0 → gives (.error (.fault 0x06 2 0 va))) ∧
            (lf e0 0 → gives (.ok (.phys (frame e0 0) e0)))))))

/-- LDG, LBR and ATG complete where their address is aligned, translates and names memory: one access joins those pending of the strand,
with its address, size, class, scope (system scope in host memory), kind and destination, and the strand blocks after issue until it is performed (R386, R388, R396).
STG and XADD complete where their address is aligned, translates for the write and names memory: the store or the exact-add is pending
with its datum and the strand goes on; memory holds the datum only when the access is performed. With DET the store folds into the digest
at once (R58, R154, R386, R390). VLDG and VSTG complete where every lane's address is a multiple of 4, translates and can be accessed: VLDG blocks
its strand after issue, and VSTG does not (R387). -/
def Obligations.GlobalScalars : Prop :=
  (∀ (s : State) (g : Guard) (d a b : R6) (scope : F4) (cls fn : F3) (l : Loc) (u : State), s.runs g →
    let pends := fun (i : Instr) (e : Access) (f : Strand → Strand) =>
      exec i s = .next (u.setStrand s.cur (f { s.me with
        acc := s.me.acc ++ [e], accNo := s.me.accNo + 1, blk := .after, since := s.cycle }))
    let e := fun (op : AccOp) (va n c sc x y : Nat) (dst : AccDst) =>
      ({ op := op, num := s.me.accNo, far := s.isFar s.myLc l, ahead := [], gid := s.me.gid, va := va, pa := l.key, size := n, cls := c,
         scope := l.scope sc, kind := l.kind, data := x, data2 := y, dst := dst, leaf := l.leaf, sent := false, guess := 0, stale := false } : Access)
    let va := (s.gv a).toNat
    (let n := 2 ^ (fn.toNat % 4)
     va % n = 0 → s.reach1 s.myLc va .read = (.ok l, u) → u.hole s.myLc true [(l, n)] = none →
      pends (.ldg g d a scope cls fn) (e .load va n cls.toNat scope.toNat 0 0 (.g d.toNat (fn.getLsbD 2))) id) ∧
    (let n := (s.gv a + s.gv b).toNat
     let at' := 0xFE000000100000 + 32 * n + 8 * fn.toNat
     n < 65536 → s.reach1 s.myLc at' .read = (.ok l, u) → u.hole s.myLc true [(l, 8)] = none →
      pends (.lbr g d a b (BitVec.ofNat 4 fn.toNat)) (e .load at' 8 1 1 0 0 (.g d.toNat false)) id) ∧
    (let n := if fn.getLsbD 0 then 4 else 8
     let k := s.kLit.toNat
     let x := (s.op.gGet d.toNat).toNat % 2 ^ (8 * n)
     let y := (s.op.gGet (d.toNat + 1)).toNat % 2 ^ (8 * n)
     k ≤ 9 → (k = 5 → d ≠ 62) → va % n = 0 → s.reach1 s.myLc va .atomic = (.ok l, u) → u.hole s.myLc true [(l, n)] = none →
      pends (.atg g d a scope cls fn) (e (.atomic k) va n cls.toNat scope.toNat x y (.g d.toNat false))
        (fun st => if s.myCtx.det = true ∧ va < 0xFF000000000000 then
            let ds := foldDS st.dgsta va (leBytes n x)
            { st with dgsta := if k = 5 then foldDS ds va (leBytes n y) else ds }
          else st))) ∧
  (∀ (s : State) (g : Guard) (d a : R6) (scope : F4) (cls fn : F3) (l : Loc) (u : State), s.runs g →
    let va := (s.gv a).toNat
    let pends := fun (i : Instr) (op : AccOp) (n x : Nat) =>
      exec i s = .next (u.setStrand s.cur { s.me with
        acc := s.me.acc ++ [{ op := op, num := s.me.accNo, far := s.isFar s.myLc l, ahead := [], gid := s.me.gid, va := va, pa := l.key,
                              size := n, cls := cls.toNat, scope := l.scope scope.toNat, kind := l.kind, data := x, data2 := 0, dst := .none,
                              leaf := l.leaf, sent := false, guess := 0, stale := false }]
        accNo := s.me.accNo + 1
        dgsta := if s.myCtx.det = true ∧ ¬(0xFF000000000000 ≤ va ∧ va < 2 ^ 56) then
            foldDS s.me.dgsta va (leBytes (if n = 8 ∧ op ≠ .store then 4 else n) x) else s.me.dgsta })
    (let n := 2 ^ (fn.toNat % 4)
     va % n = 0 → s.reach1 s.myLc va .write = (.ok l, u) → u.hole s.myLc false [(l, n)] = none →
      pends (.stg g d a scope cls fn) .store n ((s.gv d).toNat % 2 ^ (8 * n))) ∧
    (va % 8 = 0 → s.reach1 s.myLc va .xadd = (.ok l, u) → u.hole s.myLc true [(l, 8)] = none →
      pends (.xadd g d a scope cls fn) (.xadd (leafAnchor l.leaf)) 8 ((s.gv d).toNat % 2 ^ 32))) ∧
  (∀ (s : State) (g : Guard) (d a : R6) (scope : F4) (cls fn : F3) (rs : List (Nat × Nat × Loc)) (u : State), s.runs g →
    let lanes := s.glLanes a fn
    (∀ e ∈ lanes, e.2 % 4 = 0) →
    (State.reachLanes .read s lanes = (.ok rs, u) → u.hole s.myLc true (rs.map (fun e => (e.2.2, 4))) = none →
      ∃ t, exec (.vldg g d a scope cls fn) s = .next t ∧ t.me.blk = .after ∧ t.me.v = s.me.v ∧ t.mem = u.mem) ∧
    (State.reachLanes .write s lanes = (.ok rs, u) → u.hole s.myLc false (rs.map (fun e => (e.2.2, 4))) = none →
      ∃ t, exec (.vstg g d a scope cls fn) s = .next t ∧ t.me.blk = s.me.blk ∧ t.me.v = s.me.v ∧ t.mem = u.mem))

/-- VLDG and VSTG complete where every lane's address is aligned, translates and can be accessed: one access of 4 bytes a lane is pending
(R387: each lane is one access of 4 bytes, and no order holds among the lanes), all ordered by the strongest kind of page the instruction
touches; VLDG blocks its strand after issue (R247, R387). What a global access
traps on: a misaligned address ALIGN, with the lowest lane in EINFO; a translation fault its cause, with reason, level and whether it
writes; a physical address that names no memory, or that no way reaches, kills the context (R30, R177, R186, R378). That every lane is translated before a hole is
reported is the model's reading (log entry 52). -/
def Obligations.GlobalVectorsAndTraps : Prop :=
  (∀ (s : State) (g : Guard) (d a : R6) (scope : F4) (cls fn : F3) (rs : List (Nat × Nat × Loc)) (u : State), s.runs g →
    let k := s.kLit
    let adr := fun (l : Nat) =>
      match fn.toNat with
      | 0 => (s.gv a + BitVec.ofNat 64 (4 * l)).toNat
      | 1 => (s.gv a + BitVec.ofNat 64 l * k.signExtend 64).toNat
      | _ => (s.gv a + (s.op.lane (k.toNat % 32) l).signExtend 64).toNat
    let lanes := (List.range 64).map (fun l => (l, adr l))
    let kinds : List Nat := rs.map (fun e => e.2.2.kind)
    let kind := if 1 ∈ kinds then 1 else if 0 ∈ kinds then 0 else 2
    let accs := fun (op : AccOp) (x : Nat → Nat) (dst : Nat → AccDst) => rs.zipIdx.map (fun (e, i) =>
      ({ op := op, num := s.me.accNo + i, far := s.isFar s.myLc e.2.2, ahead := [], gid := s.me.gid, va := e.2.1, pa := e.2.2.key,
         size := 4, cls := cls.toNat, scope := e.2.2.scope scope.toNat, kind := kind, data := x e.1, data2 := 0, dst := dst e.1, leaf := e.2.2.leaf,
         sent := false, guess := 0, stale := false } : Access))
    (∀ l, l < 64 → adr l % 4 = 0) →
      (State.reachLanes .read s lanes = (.ok rs, u) → u.hole s.myLc true (rs.map (fun e => (e.2.2, 4))) = none →
        rs.map (fun e => (e.1, e.2.1)) = lanes ∧
        exec (.vldg g d a scope cls fn) s = .next (u.setStrand s.cur { s.me with
          acc := s.me.acc ++ accs .load (fun _ => 0) (fun l => .lane d.toNat l), accNo := s.me.accNo + 64, blk := .after,
          since := s.cycle })) ∧
      (State.reachLanes .write s lanes = (.ok rs, u) → u.hole s.myLc false (rs.map (fun e => (e.2.2, 4))) = none →
        rs.map (fun e => (e.1, e.2.1)) = lanes ∧
        exec (.vstg g d a scope cls fn) s = .next (u.setStrand s.cur { s.me with
          acc := s.me.acc ++ accs .store (fun l => (s.src d l).toNat) (fun _ => .none)
          accNo := s.me.accNo + 64
          dgsta := lanes.foldl (fun ds e =>
            if s.myCtx.det = true ∧ ¬(0xFF000000000000 ≤ e.2 ∧ e.2 < 2 ^ 56) then foldDS ds e.2 (leBytes 4 (s.src d e.1).toNat) else ds)
            s.me.dgsta }))) ∧
  (∀ (s : State) (g : Guard) (d a : R6) (scope : F4) (cls fn : F3), s.runs g →
    let va := (s.gv a).toNat
    let n := 2 ^ (fn.toNat % 4)
    (va % n ≠ 0 →
      exec (.ldg g d a scope cls fn) s = .next (s.raise { cause := 0x04, addr := s.gv a, info := 0 }) ∧
      exec (.stg g d a scope cls fn) s = .next (s.raise { cause := 0x04, addr := s.gv a, info := 0 })) ∧
    (va % n = 0 → ∀ (c r lv : Nat) (u : State),
      (s.reach1 s.myLc va .read = (.error (.fault c r lv va), u) →
        exec (.ldg g d a scope cls fn) s = .next (s.raise { cause := c, addr := s.gv a, info := BitVec.ofNat 64 (r + lv * 16) })) ∧
      (s.reach1 s.myLc va .write = (.error (.fault c r lv va), u) →
        exec (.stg g d a scope cls fn) s = .next (s.raise { cause := c, addr := s.gv a, info := BitVec.ofNat 64 (r + lv * 16 + 64) }))) ∧
    (va % n = 0 → ∀ (l : Loc) (u : State) (p : Nat × Nat), s.reach1 s.myLc va .read = (.ok l, u) → u.hole s.myLc true [(l, n)] = some p →
      ∃ t, exec (.ldg g d a scope cls fn) s = .next t ∧ (t.ctx s.mySlot).used = false))

/-- RST, RLD and RAT complete with a free tag, a physical address inside die space whose range stays in its 128-byte block, and a local
range in order: the request stands among the outstanding ones under a tag no other of its die has, its flit goes on its way from the
strand's die, and RLD and RAT block after issue. With no tag free RST is held back with no effect and no switch of strands, and RLD and RAT
block after issue, to be sent once a tag is free (R380, R391-R393). -/
def Obligations.RemoteOperations : Prop :=
  ∀ (s : State) (g : Guard) (d a : R6) (scope : F4) (cls fn : F3), s.runs g →
    let k := s.kLit.toNat
    let p := (s.gv a).toNat
    let n := k % 128 + 1
    let die := (s.lc s.myLc).die
    let c := s.op.gGet (d.toNat + 1)
    let src := (s.op.gGet d.toNat).toNat
    let dst := (s.gv d).toNat
    let z := s.specS s.myLc
    let inLoc := fun (x m : Nat) => x + m ≤ 0x100000 ∧ (z = 0 ∨ x + m ≤ 0x100000 - z)
    let goes := fun (i : Instr) (u : State) (f : Flit) (why : TxnFor) (after : Strand → Strand) (stuck : State) =>
      (∀ tag, s.freeTag die = some tag →
        (∀ x ∈ s.txns, x.die = die → x.tag ≠ tag) ∧ tag < 4096 ∧
        ∃ t, exec i s = .next t ∧
          t.txns = s.txns ++ [⟨die, tag, f.typ, p, f.len + 1, s.me.accNo, f.ord, false, s.mySlot, why, false⟩] ∧
          (let f' := { f with src := s.env.pkgNo * 8 + die, tag := tag }
           (t.waitq = s.waitq ∧ t.inbox = s.inbox ++ [(die, f')]) ∨
            ∃ w, t.waitq = s.waitq ++ [w] ∧ w.flit = f' ∧ w.since = s.cycle ∧ t.inbox = s.inbox) ∧
          t.me = { after s.me with accNo := s.me.accNo + 1 } ∧ t.mem = s.mem ∧ t.lcs = u.lcs ∧ t.ctxs = s.ctxs ∧ ∀ j, j ≠ s.cur → t.strand j = s.strand j) ∧
      (s.freeTag die = none → exec i s = .next stuck)
    let pended := fun (op : AccOp) (m x y : Nat) (dst : AccDst) (st : Strand) =>
      { st with
        acc := st.acc ++ [{ op := op, num := st.accNo, far := s.isFar s.myLc (.phys p 0), ahead := [], gid := st.gid, va := p, pa := p,
                            size := m, cls := 1, scope := 7, kind := 0, data := x, data2 := y, dst := dst, leaf := 0, sent := false,
                            guess := 0, stale := false }]
        accNo := st.accNo + 1, blk := .after, since := s.cycle }
    let folds := fun (st : Strand) (ds : W64) =>
      if s.myCtx.det = true then { st with dgsta := ds } else st
    p < 2 ^ 51 →
      (k < 256 → p % 128 + n ≤ 128 → inLoc src n →
        let u := s.ltouch s.myLc src n
        let bs := u.lread s.myLc src n
        goes (.rst g d a scope cls fn) u
          { typ := 1, tc := 0, ord := decide (128 ≤ k), ref := false, pass := false, len := k % 128, op := c.toNat / 2 ^ 62 % 2,
            rcnt := 0, rsv := 0, src := 0, tag := 0, fv := c.getLsbD 63, flag := c.toNat % 2 ^ 23, addr := p, payload := bs, note := 0 }
          (.rst s.cur s.me.gid) (fun st => folds st (foldDS st.dgsta p bs)) { u with latch := { u.latch with out := .stalled } }) ∧
      (k < 128 → p % 128 + n ≤ 128 → inLoc dst n →
        goes (.rld g d a scope cls fn) s
          { typ := 3, tc := 0, ord := false, ref := false, pass := false, len := k, op := 0, rcnt := 0, rsv := 0, src := 0, tag := 0,
            fv := false, flag := 0, addr := p, payload := [], note := 0 }
          (.rld s.cur dst) (fun st => { st with blk := .after, since := s.cycle })
          (s.setStrand s.cur (pended (.rld dst) n 0 0 .none s.me))) ∧
      (k ≤ 9 → (k = 5 → d ≠ 62) → p % 8 = 0 →
        let bs := leBytes 8 src ++ if k = 5 then leBytes 8 c.toNat else []
        goes (.rat g d a scope cls fn) s
          { typ := 5, tc := 0, ord := false, ref := false, pass := false, len := bs.length - 1, op := k, rcnt := 0, rsv := 0, src := 0,
            tag := 0, fv := false, flag := 0, addr := p, payload := bs, note := 0 }
          (.rat s.cur d.toNat) (fun st =>
            let ds := foldDS st.dgsta p (leBytes 8 src)
            { folds st (if k = 5 then foldDS ds p (leBytes 8 c.toNat) else ds) with blk := .after, since := s.cycle })
          (s.setStrand s.cur (pended (.rat k) 8 src c.toNat (.g d.toNat false)
            (let ds := foldDS s.me.dgsta p (leBytes 8 src)
             folds s.me (if k = 5 then foldDS ds p (leBytes 8 c.toNat) else ds)))))

/-- FENCE and CBFENCE complete where what they wait for is done, and block before issue until then: a release or full fence waits for the
strand's remote operations, and at a scope wider than the package a release fence for every pending access not UO too, a full fence for
every access (that up to package scope the agents of the scope wait for those in its place is the model's, log entry 66); CBFENCE drops the
context's cached control-block lines. What the strand must see of other stores changes as R243 gives it. TINV in trap mode with PAGER
blocks after issue. Once the strand's earlier accesses are performed it rebuilds the frame owner tags, or raises PROT with reason 9, which
kills the context of its bundle, one of trap mode, drops the cached translations of the page or of the context and every cached non-leaf
entry, and ends at once, or, while accesses of strands and engines that may have used one are pending, marks them and ends when they are
performed (R190, R356, R394, R395, R397). That the PROT is raised so late is the model's reading (log entry 73). -/
def Obligations.FencesAndInvalidation : Prop :=
  (∀ (s : State) (g : Guard) (d a : R6) (scope : F4) (cls : F3), s.runs g →
    let idle := s.fabricIdle s.cur = true
    let quiet := s.me.acc = [] ∧ idle
    let waits := fun (i : Instr) (p : Prop) (t : State) => (p → exec i s = .next t) ∧ (¬p → exec i s = .next s.block)
    waits (.fence g d a scope cls 0) True (s.fenceView s.cur 0 scope.toNat) ∧
    let asked := s.remotesIdle s.cur = true
    waits (.fence g d a scope cls 1) (if scope.toNat ≤ 5 then asked else (∀ e ∈ s.me.acc, e.kind = 2) ∧ idle) (s.fenceView s.cur 1 scope.toNat) ∧
    waits (.fence g d a scope cls 2) (if scope.toNat ≤ 5 then asked else quiet) (s.fenceView s.cur 2 scope.toNat) ∧
    waits (.cbfence g) quiet (s.setCtx s.mySlot { s.myCtx with cbc := [] }) ∧
    (s.op.tm = true → s.myCtx.pager = true → ∀ (fn : F3) (all : Bool), (fn = 0 ∧ all = false) ∨ (fn = 1 ∧ all = true) →
      ∃ e : Access, e.op = .tinv all ∧ e.va = (s.gv a).toNat ∧ e.data = s.latch.addr.toNat ∧ e.sent = false ∧ e.num = s.me.accNo ∧
        exec (.tinv g d a scope cls fn) s = .next (s.setStrand s.cur { s.me with
          acc := s.me.acc ++ [e], accNo := s.me.accNo + 1, blk := .after, since := s.cycle }))) ∧
  (∀ (s : State) (t i v : Nat) (e : Access) (all : Bool), (s.strand t).acc[i]? = some e → e.op = .tinv all →
    let x := t / 4 / 4096
    let c := s.ctx x
    let region := if all = true then none else some e.va
    let runs := fun (u : State) => exec (.globalAccessPerformed t ⟨i, v⟩) s = .next u
    let rest := ldel (s.strand t).acc i
    (e.sent = false → i ≠ 0 ∨ s.fabricIdle t = false → runs s) ∧
    (e.sent = false → i = 0 → s.fabricIdle t = true → s.tablesBad 3 c.ptroot = false →
      let r := if all = true then (s.retagAll x c.ptroot).map (fun ts => (ts, s.knownOf c.ptroot)) else s.retagPage x c.ptroot e.va
      (r = none → runs ((s.setStrand t { s.strand t with acc := rest }).kill x 3 0x07 (e.data % 2 ^ 64))) ∧
      (∀ ts ks, r = some (ts, ks) → ∃ u, runs u ∧ u.tags = ts ∧ u.mem = s.mem ∧ u.lcs = s.lcs ∧
        u.ctx x = { c with tlb := (u.ctx x).tlb, nodes := [], known := ks } ∧
        (∀ f, f ∈ (u.ctx x).tlb ↔ all = false ∧ f ∈ c.tlb ∧ f.covers e.va = false) ∧
        (s.usesPage x region = false →
          u.strand t = { s.strand t with acc := rest } ∧ u.outq = s.outq ∧ u.txns = s.txns ∧ ∀ j, j ≠ t → u.strand j = s.strand j) ∧
        (s.usesPage x region = true →
          u.outq = s.outq.map (fun h => if s.usedLeaf x region h.slot h.purpose h.flit.addr = true then { h with stale := true } else h) ∧
          u.txns = s.txns.map (fun k => if s.usedLeaf x region k.slot k.purpose k.addr = true then { k with stale := true } else k) ∧ ∀ j,
          let marked := (s.strand j).acc.map (fun k =>
            if j / 4 / 4096 = x ∧ k.usedRegion region = true then { k with stale := true } else k)
          u.strand j = { s.strand j with acc := if j = t then lmod (fun k => { k with sent := true }) marked i else marked }))) ∧
    (e.sent = true → mayPerform ((s.strand t).acc.take i) e = true →
      (s.staleUse x = true → runs s) ∧
      (s.staleUse x = false → ∃ u, runs u ∧ (u.strand t).acc = rest ∧ u.mem = s.mem ∧ ∀ j, j ≠ t → u.strand j = s.strand j)))

/-- A slot whose guard is false has no effect, whatever its instruction and operands (R302). -/
def Obligations.GuardFalse : Prop :=
  ∀ (s : State) (i : Instr) (g : Guard), i.guard = some g → s.me.occ = true → s.holds g = false → exec i s = .next s

/-! ### The E slot (R422-R455) -/

/-- Matrix commands whose operands are in order join the dependency table with their word, K and operand values, and, at its 32nd entry,
block before issue: MMA with its bank's declaration, extra value and footprint, MDRAIN, MZERO, MACCLD; MLOADW also declares its bank,
EPLOAD its slot (R281, R289, R291, R425, R426, R428-R432). What matrix commands trap on at issue: an MZERO anchor outside -512 to 511 ANCH
with the anchor; an MMA against a bank not loaded PCWR 2, of another format 3, of more slots than were loaded 4; an MDRAIN past row 32
PCWR 1, of raw entries through an epilogue 2, through an epilogue not loaded 3 (R282, R290, R429). -/
def Obligations.MatrixCommands : Prop :=
  (∀ (s : State) (g : Guard) (a b c : R6) (fn : F4), s.runs g →
    let l := s.lc s.myLc
    let va := (s.gv a).toNat
    let vb := (s.gv b).toNat
    let vc := (s.gv c).toNat
    let w := s.kLit.toNat
    let data := va % 2 ^ 20
    let side := va / 2 ^ 20 % 2 ^ 16
    let record := vc % 32 = 0 ∧ vc < 0x100000
    let cmd := fun (kind : CmdKind) (i : Instr) (p : Cmd → Prop) (k : Cmd) =>
      k.kind = kind ∧ k.word = encode i ∧ k.k = s.kLit ∧ k.a = s.gv a ∧ k.b = s.gv b ∧ k.c = s.gv c ∧ p k
    let then' := fun (i : Instr) (p : Cmd → Prop) (f : LCore → LCore) =>
      (l.edt.length < 32 → ∃ t, s.placed p t ∧ exec i s = .next (t.setLc s.myLc (f (t.lc s.myLc)))) ∧
      (32 ≤ l.edt.length → exec i s = .next s.block)
    let goes := fun (i : Instr) (p : Cmd → Prop) =>
      (l.edt.length < 32 → s.ends i (s.placed p)) ∧ (32 ≤ l.edt.length → exec i s = .next s.block)
    let pad := fun (start len sstart slen : Nat) => ({ start := start, len := len, sstart := sstart, slen := slen } : Range)
    let lines := fun (o n : Nat) => if n = 0 then 0 else (o + n - 1) / 64 + 1 - o / 64
    (let d := tget BankDecl.none l.bdecl (w / 2 ^ 20 % 8)
     let fa := w / 16 % 16
     let m := vb % 64
     let n := m * d.kbr
     let bytes := n * (if fa = 0 then 16 else if fa = 6 then 64 else 32)
     let n' := if fa = 6 then 0 else n
     let sel := w / 2 ^ 16 % 4
     va < 2 ^ 36 → (fn.getLsbD 0 = true → record) → w < 2 ^ 23 → w % 16 ≤ 6 → fa ≤ 6 → d.loaded = true → w % 16 = d.fmt →
      w / 256 % 32 ≤ d.bud → ¬(fa = 6 ∧ w % 16 ≤ 2) → 1 ≤ m → m ≤ 32 → vb / 256 % 32 + m ≤ 32 →
      (bytes = 0 ∨ data + bytes ≤ 0x100000) → (n' = 0 ∨ side + n' ≤ 0x10000) →
      goes (.mma g a b c fn) (cmd .mma (.mma g a b c fn) (fun k => k.bank = d ∧
        k.xv = (if fa = 0 ∧ sel ≠ 0 then (tget 0 s.op.xv sel).toNat % 32 else 0) ∧
        k.rd1 = pad data bytes (if n' = 0 then 0 else side / 64) (lines side n')))) ∧
    (let n := w / 64 % 32 + 1
     let o := w / 4 % 16
     let eps := w / 2 ^ 11 % 16
     let row := match o with
       | 0 => 512
       | 1 => 256
       | 2 => 64
       | 8 => 2048
       | _ => 128
     let n' := if 2 ≤ o ∧ o ≤ 7 then 4 * n else 0
     va < 2 ^ 36 → (vb = 0 ∨ (0x100000 ≤ vb ∧ vb + 16 * n ≤ 0x110000 ∧ vb % 16 = 0)) → (fn.getLsbD 0 = true → record) →
      w < 2 ^ 23 → eps ≤ 8 → o ≤ 8 → w / 2 ^ 18 % 32 + n ≤ 32 → ¬(o = 8 ∧ eps ≠ 0) → (eps = 0 ∨ eps - 1 ∈ l.epslot) →
      data + n * row ≤ 0x100000 → (n' = 0 ∨ side + n' ≤ 0x10000) →
      goes (.mdrain g a b c fn) (cmd .mdrain (.mdrain g a b c fn) (fun k => k.wr.start = data ∧ k.wr.len = n * row))) ∧
    (-512 ≤ (s.gv a).toInt → (s.gv a).toInt ≤ 511 → goes (.mzero g a b c fn) (cmd .mzero (.mzero g a b c fn) (fun _ => True))) ∧
    (let n := vb % 64
     va < 2 ^ 36 → data % 16 = 0 → 1 ≤ n → n ≤ 32 → vb / 256 % 32 + n ≤ 32 → (fn.getLsbD 2 = true → record) →
      data + 2048 * n ≤ 0x100000 →
      goes (.maccld g a b c fn) (cmd .maccld (.maccld g a b c fn) (fun k => k.rd1 = pad data (2048 * n) 0 0))) ∧
    (let fmt := vb / 16 % 16
     let bud := vb / 256 % 32
     va % 16 = 0 → va < 0x110000 → vb < 2 ^ 20 → vb / 2 ^ 13 % 8 = 0 → vb / 8 % 2 = 0 → fmt ≤ 6 → 1 ≤ bud → bud ≤ 16 →
      ¬(fmt = 4 ∧ bud = 1) → (fn.getLsbD 0 = true → record) →
      then' (.mloadw g a b c fn) (cmd .mloadw (.mloadw g a b c fn) (fun k =>
          k.rd1 = (if va < 0x100000 then pad va 16 0 0 else pad 0 0 ((va - 0x100000) / 64) 1) ∧ k.rd2 = wholeRange))
        (fun x => { x with bdecl := tset BankDecl.none x.bdecl (vb % 8) ⟨fmt, bud, vb / 2 ^ 16 % 16 + 1, true⟩ })) ∧
    (va % 32 = 0 → (b = 0 ∨ vb % 64 = 0) →
      then' (.epload g a b c fn) (cmd .epload (.epload g a b c fn) (fun _ => True))
        (fun x => { x with epslot := sins (fn.toNat % 8) x.epslot }))) ∧
  (∀ (s : State) (g : Guard) (a b c : R6) (fn : F4), s.runs g →
    let w := s.kLit.toNat
    let d := tget BankDecl.none (s.lc s.myLc).bdecl (w / 2 ^ 20 % 8)
    let tr := fun (i : Instr) (cause info : Nat) =>
      exec i s = .next (s.raise { cause := cause, addr := 0, info := BitVec.ofNat 64 info })
    ((s.gv a).toInt < -512 ∨ 511 < (s.gv a).toInt → tr (.mzero g a b c fn) 0x0D (s.gv a).toNat) ∧
    ((s.gv a).toNat < 2 ^ 36 → fn.getLsbD 0 = false → w < 2 ^ 23 → w % 16 ≤ 6 → w / 16 % 16 ≤ 6 →
      (d.loaded = false → tr (.mma g a b c fn) 0x0C 2) ∧
      (d.loaded = true → w % 16 ≠ d.fmt → tr (.mma g a b c fn) 0x0C 3) ∧
      (d.loaded = true → w % 16 = d.fmt → d.bud < w / 256 % 32 → tr (.mma g a b c fn) 0x0C 4)) ∧
    (let o := w / 4 % 16
     let eps := w / 2 ^ 11 % 16
     (s.gv a).toNat < 2 ^ 36 → s.gv b = 0 → fn.getLsbD 0 = false → w < 2 ^ 23 → eps ≤ 8 → o ≤ 8 →
      (32 < w / 2 ^ 18 % 32 + (w / 64 % 32 + 1) → tr (.mdrain g a b c fn) 0x0C 1) ∧
      (w / 2 ^ 18 % 32 + (w / 64 % 32 + 1) ≤ 32 →
        (o = 8 → eps ≠ 0 → tr (.mdrain g a b c fn) 0x0C 2) ∧
        (o ≠ 8 → eps ≠ 0 → eps - 1 ∉ (s.lc s.myLc).epslot → tr (.mdrain g a b c fn) 0x0C 3))))

/-- Sketch commands and collectives whose operands are in order join the dependency table, and block before issue with it full; CSIG
signals a bucket of the oldest COLL on its descriptor, as a pending release, and raises QERR 1 where there is none (R443-R447). -/
def Obligations.SketchesAndCollectives : Prop :=
  ∀ (s : State) (g : Guard) (a b c : R6) (fn : F4), s.runs g →
    let l := s.lc s.myLc
    let vb := (s.gv b).toNat
    let vc := (s.gv c).toNat
    let z := if fn.getLsbD 0 then 8 else 4
    let goes := fun (kind : CmdKind) (i : Instr) (p : Cmd → Prop) =>
      (l.edt.length < 32 → s.ends i (s.placed (fun k =>
        k.kind = kind ∧ k.word = encode i ∧ k.a = s.gv a ∧ k.b = s.gv b ∧ k.c = s.gv c ∧ p k))) ∧
      (32 ≤ l.edt.length → exec i s = .next s.block)
    let pad := fun (start len : Nat) => ({ start := start, len := len, sstart := 0, slen := 0 } : Range)
    ((s.gv a).toNat % 64 = 0 →
      (let keys := vb % 2 ^ 20
       let vals := vb / 2 ^ 32 % 2 ^ 20
       vb / 2 ^ 20 % 2 ^ 12 = 0 → vb < 2 ^ 52 → 1 ≤ vc → vc ≤ 16384 → keys % z = 0 → vals % 4 = 0 → keys + z * vc ≤ 0x100000 →
        vals + 4 * vc ≤ 0x100000 →
        goes .skupd (.skupd g a b c fn) (fun k => k.rd1 = pad keys (z * vc) ∧ k.rd2 = pad vals (4 * vc))) ∧
      (let keys := vb % 2 ^ 20
       let n := vb / 2 ^ 32 % 2 ^ 14 + 1
       let out := vc % 2 ^ 20
       vb / 2 ^ 20 % 2 ^ 12 = 0 → vb < 2 ^ 46 → vc / 2 ^ 20 % 2 ^ 12 = 0 → vc / 2 ^ 47 % 2 ^ 16 = 0 → keys % z = 0 → out % 4 = 0 →
        keys + z * n ≤ 0x100000 → out + 4 * n ≤ 0x100000 →
        goes .skqry (.skqry g a b c fn) (fun k => k.rd1 = pad keys (z * n) ∧ k.wr = pad out (4 * n))) ∧
      (vb % 64 = 0 → goes .skadd (.skadd g a b c fn) (fun _ => True)) ∧
      goes .skclr (.skclr g a b c fn) (fun _ => True) ∧
      goes .coll (.coll g a b c fn) (fun _ => True)) ∧
    (vb < 32 →
      ((∀ k ∈ l.edt, ¬(k.kind = .coll ∧ k.a = s.gv a)) →
        exec (.csig g a b c fn) s = .next (s.raise { cause := 0x13, addr := 0, info := 1 })) ∧
      (∀ k, l.edt.find? (fun k => k.kind == .coll && k.a == s.gv a) = some k →
        ∃ e : Access, e.op = .csig s.myLc k.id vb ∧ e.releases = true ∧ e.gid = s.me.gid ∧ e.dst = .none ∧ e.sent = false ∧
          e.num = s.me.accNo ∧
          exec (.csig g a b c fn) s = .next (s.setStrand s.cur { s.me with acc := s.me.acc ++ [e], accNo := s.me.accNo + 1 })))

/-- Arrival records: ARINIT writes one at once; ARRIVE is pending as a release that subtracts one arrival; an update subtracts bytes and
arrivals, notes an underflow, and inverts PHASE and reloads both counts when both reach zero; ARWAIT and ARWAITM go on or block by PHASE
and the chunk mask, ARTEST and ARTESTM write the same condition to a predicate; EFENCE waits for the strand's own commands (R199-R201,
R437-R441). A condition found true lets the strand see every store performed before (R250). The waits are those of a strand with no fault
left to report. -/
def Obligations.ArrivalRecords : Prop :=
  (∀ (s : State) (g : Guard) (a b c : R6) (fn : F4), s.runs g →
    let x := (s.gv a).toNat
    let z := s.specS s.myLc
    let l := s.lc s.myLc
    x % 32 = 0 → x < 0x100000 → (z = 0 ∨ x + 32 ≤ 0x100000 - z) →
    (let i := (s.gv b).toNat
     let w := s.gv c
     w.toNat / 2 ^ 61 % 4 = 0 → w.toNat / 2 ^ 20 % 2 ^ 40 = 0 → w.toNat % 512 = 0 →
      exec (.arinit g a b c fn) s = .next (s.lwrite s.myLc x (arBytes ⟨i % 2 ^ 48, i / 2 ^ 48, i % 2 ^ 48, i / 2 ^ 48, 0, w⟩))) ∧
    (∃ e : Access, e.op = .arrive s.myLc x ∧ e.releases = true ∧ e.gid = s.me.gid ∧ e.dst = .none ∧ e.sent = false ∧
      e.num = s.me.accNo ∧
      exec (.arrive g a b c fn) s = .next (s.setStrand s.cur { s.me with acc := s.me.acc ++ [e], accNo := s.me.accNo + 1 })) ∧
    (let u := s.ltouch s.myLc x 32
     let r := u.arAt s.myLc x
     let one := r.w3.getLsbD 63 != fn.getLsbD 0
     let many := one || (r.chunk &&& s.gv b) == s.gv b
     let if' := fun (yes : Bool) (v : State) => if yes = true then v.syncAll s.cur else v
     s.ends (.artest g a b c fn) ((if' one u).putsP (fn.toNat / 2) one 3 0) ∧
     s.ends (.artestm g a b c fn) ((if' many u).putsP (fn.toNat / 2) many 3 0) ∧
     (l.unreported (s.cur % 4) (fun _ => true) = none →
       exec (.arwait g a b c fn) s = .next (if one = true then u.syncAll s.cur else s.block) ∧
       exec (.arwaitm g a b c fn) s = .next (if many = true then u.syncAll s.cur else s.block) ∧
       exec (.efence g a b c fn) s = .next (if ∃ k ∈ l.edt, k.strand = s.cur % 4 then s.block else s.syncAll s.cur)))) ∧
  (∀ (r : ArRec) (bytes n : Nat) (m : W64),
    let t := arUpdate r bytes n m
    let w := if r.pend < bytes ∨ r.arrv < n then r.w3 ||| 0x4000000000000000#64 else r.w3
    let ch := if r.w3.getLsbD 60 then r.chunk ||| m else r.chunk
    t.ipend = r.ipend ∧ t.iarrv = r.iarrv ∧
    (¬(bytes = 0 ∧ n = 0) → r.pend ≤ bytes → r.arrv ≤ n →
      t = { r with pend := r.ipend, arrv := r.iarrv, chunk := 0, w3 := w ^^^ 0x8000000000000000#64 }) ∧
    ((bytes = 0 ∧ n = 0) ∨ bytes < r.pend ∨ n < r.arrv →
      t = { r with pend := r.pend - bytes, arrv := r.arrv - n, chunk := ch, w3 := w }) ∧
    (r.pend < 2 ^ 48 → r.arrv < 2 ^ 16 → r.ipend < 2 ^ 48 → r.iarrv < 2 ^ 16 → arOf (arBytes r) = r))

/-- Channels of a firing's graph, named by its stage's masks: QPUSH with a free slot reserves it with the entry's bytes, and blocks before
issue with none; QPOP with an entry published claims it and blocks after issue for the copy; QTRY writes whether the push or the pop could
issue. An index of 64 or more is ILLOP, a channel that the masks leave out QERR (R99-R101, R448-R450). A channel is a queue: a reserved
slot that is published is what a pop of the same firing's number, or of an unordered channel whose HEAD stands there, may claim; the
claimed slot's copy frees it, and POPS and PUSHES count (R98-R100). Where a push takes the slot of a pop whose copy is not complete, that
claim stands at an empty slot instead. -/
def Obligations.Channels : Prop :=
  (∀ (s : State) (g : Guard) (a b c : R6) (fn : F4), s.runs g →
    let ch := (s.gv a).toNat
    let x := (s.gv b).toNat
    let z := s.specS s.myLc
    let tr := fun (i : Instr) (cause info : Nat) =>
      exec i s = .next (s.raise { cause := cause, addr := 0, info := BitVec.ofNat 64 info })
    (64 ≤ ch → tr (.qpush g a b c fn) 0x01 22 ∧ tr (.qpop g a b c fn) 0x01 22 ∧ tr (.qtry g a b c fn) 0x01 22) ∧
    (ch < 64 → ∀ (gr : Graph) (d : StageD), s.myCtx.graph? s.me.gid = some gr → gr.stages[s.op.stage]? = some d →
      let n := gr.esz ch
      let fits := x % 16 = 0 ∧ x + n ≤ 0x100000 ∧ 1 ≤ n ∧ (z = 0 ∨ x + n ≤ 0x100000 - z)
      (d.outmask.getLsbD ch = false → tr (.qpush g a b c fn) 0x13 (ch * 256) ∧
        (fn.getLsbD 0 = false → tr (.qtry g a b c fn) 0x13 (7 + ch * 256))) ∧
      (d.inmask.getLsbD ch = false → tr (.qpop g a b c fn) 0x13 (ch * 256) ∧
        (fn.getLsbD 0 = true → tr (.qtry g a b c fn) 0x13 (7 + ch * 256))) ∧
      (d.outmask.getLsbD ch = true →
        (fn.getLsbD 0 = false → s.ends (.qtry g a b c fn) (s.putsP (fn.toNat / 2) (gr.pushOk ch s.op.q) 3 0)) ∧
        (fits → ¬(gr.isOrdered ch = true ∧ s.op.opush.getLsbD ch = true) →
          (gr.pushOk ch s.op.q = false → exec (.qpush g a b c fn) s = .next s.block) ∧
          (gr.pushOk ch s.op.q = true →
            let u := s.ltouch s.myLc x n
            exec (.qpush g a b c fn) s = .next ((u.setCtx s.mySlot (s.myCtx.modGraph gr.gid (fun gr =>
                gr.reserve ch s.op.q s.cur (u.lread s.myLc x n)))).setStrand s.cur
              { s.me with opush := if gr.isOrdered ch then s.me.opush ||| BitVec.ofNat 64 (2 ^ ch) else s.me.opush })))) ∧
      (d.inmask.getLsbD ch = true →
        (fn.getLsbD 0 = true → s.ends (.qtry g a b c fn) (s.putsP (fn.toNat / 2) (gr.popOk ch s.op.q) 3 0)) ∧
        (gr.popHopeless ch = true → tr (.qpop g a b c fn) 0x13 (4 + ch * 256)) ∧
        (fits → gr.popHopeless ch = false → ¬(gr.isOrdered ch = true ∧ s.op.opop.getLsbD ch = true) →
          (gr.popOk ch s.op.q = false → exec (.qpop g a b c fn) s = .next (s.setStrand s.cur { s.me with popWait := some ch }).block) ∧
          (gr.popOk ch s.op.q = true →
            let i := gr.popSlot ch s.op.q
            ∃ e : Access, e.op = .pop gr.gid ch i (s.entryBytes s.mySlot gr ch i) ∧ e.dst = .loc x ∧ e.size = n ∧ e.sent = false ∧
              exec (.qpop g a b c fn) s = .next ((s.setCtx s.mySlot (s.myCtx.modGraph gr.gid (fun gr => gr.claim ch s.op.q))).setStrand
                s.cur { s.me with opop := if gr.isOrdered ch then s.me.opop ||| BitVec.ofNat 64 (2 ^ ch) else s.me.opop,
                                  acc := s.me.acc ++ [e], accNo := s.me.accNo + 1, blk := .after, since := s.cycle })))))) ∧
  (∀ (gr : Graph) (c q t : Nat) (bs : List Byte), c < gr.cst.length → gr.pushOk c q = true → 1 ≤ gr.cap c →
    let r := gr.chrec c
    let i := if gr.isOrdered c then q % gr.cap c else r.tail % gr.cap c
    let g1 := gr.reserve c q t bs
    let g2 := g1.modChan c (fun r =>
      { r with slots := tset ChSlot.empty r.slots i (.published q bs), pushes := (r.pushes + 1) % 2 ^ 32 })
    (g1.chrec c).slot i = .reserved q t bs ∧ (g1.chrec c).tail = (r.tail + 1) % gr.cap c ∧ (g1.chrec c).head = r.head ∧
    (r.slot i ≠ .claimed → ∀ j, j ≠ i → (g1.chrec c).slot j = r.slot j) ∧
    (r.slot i = .claimed → ∀ j, j ≠ i → (g1.chrec c).slot j = r.slot j ∨ (r.slot j = .empty ∧ (g1.chrec c).slot j = .claimed)) ∧
    (∀ d, d ≠ c → g1.chrec d = gr.chrec d) ∧
    (gr.isOrdered c = true ∨ r.head % gr.cap c = i → g2.popOk c q = true ∧ g2.popSlot c q = i ∧
      ((g2.claim c q).chrec c).slot i = .claimed ∧ ((g2.claim c q).chrec c).head = (r.head + 1) % gr.cap c ∧
      (((g2.claim c q).freeSlot c i).chrec c).slot i = .empty ∧ (((g2.claim c q).freeSlot c i).chrec c).pops = (r.pops + 1) % 2 ^ 32 ∧
      (((g2.claim c q).freeSlot c i).chrec c).pushes = (r.pushes + 1) % 2 ^ 32))

/-- LAUNCH of a descriptor in order adds one pending child to the context, with its key, its place in the path and its parameter, and
counts it in the firing, and blocks the strand after issue; at depth 7 or with 65,536 children it raises QERR 2, and a misaligned descriptor QERR 0x30 (R102, R103, R451). -/
def Obligations.ChildLaunch : Prop :=
  ∀ (s : State) (g : Guard) (a b c : R6) (fn : F4), s.runs g →
    let st := s.op
    let va := (s.gv a).toNat
    let tr := fun (info : Nat) => exec (.launch g a b c fn) s = .next (s.raise { cause := 0x13, addr := 0, info := BitVec.ofNat 64 info })
    (st.depth = 7 ∨ 65536 ≤ st.nchild → tr 2) ∧
    (st.depth ≠ 7 → st.nchild < 65536 →
      (256 ≤ (s.myCtx.graphs.filter (fun h => !h.live)).length ∨ st.acc ≠ [] ∨ s.latch.calm = false →
        exec (.launch g a b c fn) s = .next s.block) ∧
      ((s.myCtx.graphs.filter (fun h => !h.live)).length < 256 → st.acc = [] → s.latch.calm = true →
        (va % 64 ≠ 0 → tr 0x30) ∧
        (va % 64 = 0 → ∀ (d : GraphDesc) (u : State) (gr : Graph), (s.beforeBundle.readGraph s.mySlot va).1 = .ok d →
          (s.readGraph s.mySlot va).2 = u → u.graphCheck s.mySlot d = none → u.hearthRoom d.chans = true →
          s.myCtx.graph? s.me.gid = some gr →
          ∃ t h, exec (.launch g a b c fn) s = .next t ∧
            t = (u.setCtx s.mySlot { u.ctx s.mySlot with graphs := s.myCtx.graphs ++ [h], nextGid := s.myCtx.nextGid + 1 }).setStrand s.cur
              { s.me with nchild := s.me.nchild + 1, blk := .after, since := s.cycle } ∧
            h.gid = s.myCtx.nextGid ∧ h.live = false ∧ h.parent = some gr.gid ∧ h.param = s.gv b ∧ h.launch = gr.launch ∧
            h.path = gr.path ++ [(st.stage, st.q, st.nchild)] ∧
            h.key = (st.fkey ^^^ BitVec.ofNat 64 (0x100000000 + st.nchild)) * 0xBF58476D1CE4E5B9#64 ∧
            h.stages = d.stages ∧ h.chans = d.chans ∧ h.dgst = 0 ∧ h.lastProgress = s.cycle ∧ h.wide = s.myCtx.serialGraph.isSome ∧
            (∀ x ∈ h.sst, x = { nextq := 0, ended := 0 }) ∧
            (∀ x ∈ h.cst, x = { head := 0, tail := 0, pops := 0, pushes := 0, slots := [] }))))

/-- GBAR of a group that has the logical core as a member sets its bit and blocks until every member's bit is set; the last arrival goes
on, the bits cleared and every waiting GBAR of the group satisfied, which then issues; a strand that passes the barrier sees every store
performed before (R251). DGST without DET has no effect; with DET it waits
at its checkpoint until DGST_CHECKPOINT lets it issue, and then blocks its strand after issue while the checkpoint is compared (R83, R155,
R452, R455). -/
def Obligations.BarriersAndCheckpoints : Prop :=
  ∀ (s : State) (g : Guard) (a b c : R6) (fn : F4), s.runs g →
    let n := (s.gv a).toNat
    let me := s.cur / 4 % 4096
    let ms := if n = 0 then List.range s.myCtx.nlc else tget [] s.myCtx.groups n
    let bits := tget [] s.myCtx.gbar n
    (n < 256 →
      (me ∉ ms → exec (.gbar g a b c fn) s = .next (s.raise { cause := 0x13, addr := 0, info := 3 })) ∧
      (me ∈ ms →
        (∀ k, s.me.gbar.find? (fun m => m.group == n) = some k →
          (k.met = true → exec (.gbar g a b c fn) s =
            .next ((s.setStrand s.cur { s.me with gbar := s.me.gbar.filter (fun m => m.group != n) }).syncStrong s.cur)) ∧
          (k.met = false → exec (.gbar g a b c fn) s = .next s.block)) ∧
        ((∀ k ∈ s.me.gbar, k.group ≠ n) →
          (s.op.drained = false ∨ s.latch.calm = false → exec (.gbar g a b c fn) s = .next s.block) ∧
          (s.op.drained = true → s.latch.calm = true →
            ((∃ m ∈ ms, m ≠ me ∧ m ∉ bits) → ∃ t u, exec (.gbar g a b c fn) s = .next t.block ∧
              t = (s.setCtx s.mySlot { s.myCtx with gbar := u }).setStrand s.cur
                { s.me with gbar := { group := n, met := false, tm := s.me.tm } :: s.me.gbar } ∧
              (∀ k, k ≠ n → tget [] u k = tget [] s.myCtx.gbar k) ∧ (∀ m, m ∈ tget [] u n ↔ m = me ∨ m ∈ bits)) ∧
            ((∀ m ∈ ms, m = me ∨ m ∈ bits) → ∃ t, exec (.gbar g a b c fn) s = .next t ∧ t.me = { s.me with view := t.me.view } ∧
              tget [] (t.ctx s.mySlot).gbar n = [] ∧ (∀ k, k ≠ n → tget [] (t.ctx s.mySlot).gbar k = tget [] s.myCtx.gbar k) ∧
              (∀ j, j ≠ s.cur → t.strand j =
                if j / 4 / 4096 = s.mySlot then
                  { s.strand j with gbar := (s.strand j).gbar.map (fun m => if m.group = n then { m with met := true } else m) }
                else s.strand j) ∧
              t.mem = s.mem ∧ t.lcs = s.lcs))))) ∧
    (n < 65536 →
      (s.myCtx.det = false → exec (.dgst g a b c fn) s = .next s) ∧
      (s.myCtx.det = true → (∀ h ∈ s.myCtx.graphs, h.serial = none) →
        (s.me.dgstGo = true → exec (.dgst g a b c fn) s =
          .next (s.setStrand s.cur { s.me with dgst := some n, dgstAt := s.latch.addr, blk := .after, since := s.cycle })) ∧
        (s.me.dgstGo = false → exec (.dgst g a b c fn) s = .next (s.setStrand s.cur { s.me with dgst := some n }).block)))

/-- SPECB, SPECC and SPECA: in a context with SPEC, SPECB opens a region where none is open and no engine command touches the speculable
range, SPECC by the opener commits it (the loads and stores of the range give afterwards what they gave within the region), SPECA discards
it (they give what they gave before it, the committed copy); any other raises SPECX, and a command in the range blocks them (R120-R122,
R454). -/
def Obligations.SpeculationRegions : Prop :=
  ∀ (s : State) (g : Guard) (a b c : R6) (fn : F4), s.runs g →
    let l := s.myLc
    let x := s.lc l
    let z := s.specS l
    let specx := fun (i : Instr) => exec i s = .next (s.raise { cause := 0x15, addr := 0, info := 0 })
    let mine := x.act = true ∧ x.opener = s.me.fkey
    let busy := ∃ k ∈ x.edt, ({ start := 0, len := z, sstart := 0, slen := 0 } : Range).meets k.rd1 = true ∨
      ({ start := 0, len := z, sstart := 0, slen := 0 } : Range).meets k.rd2 = true ∨
      ({ start := 0, len := z, sstart := 0, slen := 0 } : Range).meets k.wr = true
    (s.myCtx.spec = false → specx (.specb g a b c fn) ∧ specx (.specc g a b c fn) ∧ specx (.speca g a b c fn)) ∧
    (x.act = true → specx (.specb g a b c fn)) ∧
    (¬mine → specx (.specc g a b c fn) ∧ specx (.speca g a b c fn)) ∧
    (s.myCtx.spec = true → x.act = false →
      (busy → exec (.specb g a b c fn) s = .next s.block) ∧
      (¬busy → exec (.specb g a b c fn) s = .next (s.setLc l { x with act := true, opener := s.op.fkey, fill := [] }))) ∧
    (s.myCtx.spec = true → mine →
      (busy → exec (.specc g a b c fn) s = .next s.block ∧ exec (.speca g a b c fn) s = .next s.block) ∧
      (¬busy → exec (.speca g a b c fn) s = .next (s.setLc l { x with act := false, fill := [], opener := 0 }) ∧
        ∃ t, exec (.specc g a b c fn) s = .next t ∧ (t.lc l).act = false ∧ (t.lc l).sel = (!x.sel) ∧ (t.lc l).fill = [] ∧
          t = s.setLc l { x with act := false, sel := !x.sel, fill := [], opener := 0, loc := (t.lc l).loc } ∧
          (z ≤ 0x20000 → ∀ y n, y + n ≤ z → t.lread l y n = s.lread l y n)))

/-! ### The epilogue processor (R293, R434-R436) -/

/-- Each epilogue operation completes in a run that has not ended, on a resident array that no stop holds: on every one of the 128 columns
it changes the register x (E0-E7 or X) or the mask bit as its effect says, from the column's own registers; the run is at its next
operation, ended after the sixteenth with X as its output; nothing else changes. ENDP and QOUT end it with X or the register named, every
register unchanged. Arithmetic rounds once to nearest even (R293, R434-R436). -/
def Obligations.EpilogueOperations : Prop :=
  ∀ (s : State) (x y z : F4) (r : EpiRun),
    let l := s.lc s.myLc
    l.epi = some r → r.out = none → l.core ≠ none → l.mstop = false →
    let on := fun (i : Instr) (f : EpiLane → EpiLane) =>
      ∃ k r', exec i s = .next (s.setLc s.myLc { l with ereg := k, epi := some r' }) ∧
        r'.cmd = r.cmd ∧ r'.slot = r.slot ∧ r'.op = r.op + 1 ∧ r'.out = (if 16 ≤ r.op + 1 then some r'.x else none) ∧
        ∀ c, c < 128 → laneOf k r' c = f (laneOf l.ereg r c)
    let ends := fun (i : Instr) (f : EpiLane → W32) =>
      ∃ r' o, exec i s = .next (s.setLc s.myLc { l with epi := some r' }) ∧ r' = { r with op := r.op + 1, out := some o } ∧
        ∀ c, c < 128 → tget 0 o c = f (laneOf l.ereg r c)
    let v := fun (k : EpiLane) (n : F4) => val32 (k.get n)
    let to' := fun (i : Instr) (f : EpiLane → W32) => on i (fun k => k.put x (f k))
    let rounded := fun (i : Instr) (f : EpiLane → Nat × Nat) => to' i (fun k => BitVec.ofNat 32 (f k).1)
    ends (.endp x y z) (fun k => k.x) ∧ ends (.qout x 0 0) (fun k => k.get x) ∧
    to' (.cvt x y z) (fun k => roundIntegral z.toNat (k.get y)) ∧
    rounded (.addv x y z) (fun k => addV fp32 .rne (v k y) (v k z)) ∧
    rounded (.mulv x y z) (fun k => mulV fp32 .rne (v k y) (v k z)) ∧
    rounded (.fmav x y z) (fun k => fmaV fp32 .rne (v k y) (v k z) (v k x)) ∧
    rounded (.adds x y z) (fun k => addV fp32 .rne (v k y) (val32 (epiConst z))) ∧
    rounded (.muls x y z) (fun k => mulV fp32 .rne (v k y) (val32 (epiConst z))) ∧
    on (.relum x y 0) (fun k =>
      if ltV (val32 0) (v k y) then ({ k with m := true } : EpiLane).put x (k.get y) else ({ k with m := false } : EpiLane).put x 0) ∧
    rounded (.clamp x y z) (fun k => minmax fp32 false (minmax fp32 true (k.get x).toNat (k.get y).toNat).1 (k.get z).toNat) ∧
    to' (.lutp x y z) (fun k => (lutLane z.toNat (k.get y)).1) ∧
    rounded (.maxe x y z) (fun k => minmax fp32 true (k.get y).toNat (k.get z).toNat) ∧
    rounded (.mine x y z) (fun k => minmax fp32 false (k.get y).toNat (k.get z).toNat) ∧
    to' (.move x y 0) (fun k => k.get y) ∧
    to' (.cvtb x y z) (fun k => BitVec.ofNat 32 (65536 * (convV bf16 (rmodeOf z.toNat) (v k y)).1)) ∧
    (∀ c : Nat, ∀ p : FVal → FVal → Bool,
      (c = 0 ∧ p = fun a b => ltV b a) ∨ (c = 1 ∧ p = fun a b => ltV b a || eqV a b) ∨ (c = 2 ∧ p = eqV) ∨
        (c = 4 ∧ p = ltV) ∨ (c = 5 ∧ p = fun a b => ltV a b || eqV a b) →
      on (.maskw (BitVec.ofNat 4 c) y z) (fun k => { k with m := !((v k y).isNan || (v k z).isNan) && p (v k y) (v k z) })) ∧
    on (.maskw 3 y z) (fun k => { k with m := (v k y).isNan || (v k z).isNan || !eqV (v k y) (v k z) })

/-! ### Power, faults of the hardware, the host (R13-R26, R53-R77) -/

/-- Power-good and the release of reset start a Kindling at step 1, cold after a loss of power; these, an asserted reset and a power loss end
every context, queue, flit and event and leave the retired cores. A power loss loses the second tier's contents, and so does the start of a
Kindling where hold-up was lost; no other byte of memory changes before the Kindling's fifth step, which clears HBM and Hearth, and in a cold
Kindling the second tier. 45 s without READY end a Kindling with code 7. A Kindling step that fails its check stops with the step's number as
its code, and the last sets READY (R13, R17-R20). -/
def Obligations.PowerAndReset : Prop :=
  ∀ (s : State),
    let empty := fun (t : State) => t.ctxs = [] ∧ t.lcs = [] ∧ t.strands = [] ∧ t.lines = [] ∧ t.cmdQ = [] ∧ t.txns = [] ∧ t.waitq = [] ∧
      t.wires = [] ∧ t.exits = [] ∧ t.inbox = [] ∧ t.recov = [] ∧ t.stuck = [] ∧ t.links = [] ∧ t.tags = [] ∧ t.outq = [] ∧ t.arb = Arbiter.reset ∧
      t.retired = s.retired ∧ t.kstat.ready = false ∧ t.kstat.step = 1 ∧ t.kstat.err = 0
    let starts := fun (i : Instr) (cold : Bool) => ∃ t, exec i s = .next t ∧ empty t ∧ t.power = .kindling ∧ t.kstat.cold = cold ∧
      t.since = t.cycle ∧ (cold = true → t.rplc = 0) ∧ t.env.holdLost = false ∧
      ∀ a, tget 0 t.mem a = if s.env.holdLost = true ∧ 3 * 2 ^ 50 ≤ a then 0 else tget 0 s.mem a
    (s.power = .off → starts .powerGood true) ∧
    (s.power = .inReset → starts .packageResetRelease s.env.holdLost) ∧
    (s.power ≠ .off → ∃ t, exec .packageResetAsserted s = .next t ∧ empty t ∧ t.mem = s.mem ∧ t.power = .inReset) ∧
    (∃ t, exec .modulePowerLoss s = .next t ∧ empty t ∧ t.power = .off ∧ t.env.holdLost = true ∧ t.env.powered = false ∧
      ∀ a, tget 0 t.mem a = if 3 * 2 ^ 50 ≤ a then 0 else tget 0 s.mem a) ∧
    (s.power = .kindling → s.since + 45 * 1250000000 ≤ s.cycle → ∃ t, exec .kindlingTimeout s = .next t ∧
      t = { s with power := .failed, kstat := t.kstat } ∧ t.kstat.err = 7 ∧ t.kstat.ready = s.kstat.ready) ∧
    (s.power = .kindling → s.agenda = [] → s.since + 45 * 1250000000 < s.cycle → ∃ t, step s = .next t ∧
      t.power = .failed ∧ t.kstat.err = 7 ∧ t.mem = s.mem) ∧
    (s.power = .kindling → s.agenda = [] → s.env.kindleMs ≤ 45000 → s.cycle ≤ s.since + 45 * 1250000000 → ∃ t, step s = .next t ∧
      (let check := fun (k : Nat) (ok : Bool) => s.kstat.step = k →
         (ok = false → t.power = .failed ∧ t.kstat.err = k) ∧ (ok = true → t.power = .kindling ∧ t.kstat.step = k + 1)
       check 1 ((s.env.fwA.1 && decide (s.env.fuse ≤ s.env.fwA.2)) || (s.env.fwB.1 && decide (s.env.fuse ≤ s.env.fwB.2))) ∧
       check 2 s.env.phyOk ∧ check 3 s.env.vmonOk ∧ check 5 s.env.memOk ∧
       check 6 (s.env.trainOk && s.env.cmdBase != 0 && s.env.cmdBase % 4096 == 0) ∧
       (s.kstat.step = 5 → s.env.memOk = true → ∀ a, tget 0 t.mem a =
         if (2 * 2 ^ 50 ≤ a ∧ a < 3 * 2 ^ 50) ∨ (s.kstat.cold = false ∧ 3 * 2 ^ 50 ≤ a) then tget 0 s.mem a else 0) ∧
       (s.kstat.step = 7 → t.power = .ready ∧ t.kstat.ready = true)))

/-- Faults of the hardware: a retired core joins the retired ones, RETIRE is logged and the context resident there is killed, but for a
logical core that has stopped for a pre-emption, which only leaves its core; exhausted repair rows and lost lanes set their replacement bits
and log REPLACE; an Ablum link's lanes change and LINK is logged; an uncorrectable error of an agent logs MEMERR and kills its context with
cause 2, and one that a request meets at its target changes no memory and kills nothing there; an HBM block where one lay stays unreadable
until a write covers it whole; a sensor at 110 degrees or more resets the package; a block's clock is throttled and restored, its sensor's reading noted (R15,
R16, R21-R23, R26, R43, R53, R131, R193). That an error in an HBM block is one in its code is the model's reading (log entry 85), and which of an
event's two values stands in RESULT its choice (log entry 88). -/
def Obligations.HardwareFaults : Prop :=
  ∀ (s : State),
    let logged := fun (t : State) (p : Event → Prop) => ∃ e ∈ t.arb.held ++ t.arb.waiting, p e
    (∀ die core, die < 8 → core < 152 → (die * 152 + core) ∉ s.retired → s.power = .ready →
      ∃ t, exec (.coreRetirement die core) s = .next t ∧ (∀ n, n ∈ t.retired ↔ n = die * 152 + core ∨ n ∈ s.retired) ∧ t.mem = s.mem ∧
        logged t (fun e => e.typ = 6 ∧ e.ctxid = 0xFFFF ∧ e.src = die ∧ e.result = die ∧ e.info0 = core) ∧
        (∀ l, tget 0 s.busy (die * 152 + core) = l + 1 → (s.stoppedLc l = false → (t.ctx (l / 4096)).used = false) ∧
          (s.stoppedLc l = true → (t.ctx (l / 4096)).used = (s.ctx (l / 4096)).used ∧ (t.lc l).core = none))) ∧
    (∀ die stack, ∃ t, exec (.hbmRepairRowsExhausted die stack) s = .next t ∧ t = { s with hbmBit := true, arb := t.arb } ∧
      (s.hbmBit = false → logged t (fun e => e.typ = 7 ∧ e.result = t.rplc)) ∧ (s.hbmBit = true → t = s)) ∧
    (∀ link lanes, link < 4 → link < s.ablum.length → lanes ≤ 16 →
      (s.ablum.getD link 0 ≠ lanes → ∃ t, exec (.ablumLinkRetrained link lanes) s = .next t ∧ t = { s with ablum := t.ablum, arb := t.arb } ∧
        t.ablum = s.ablum.set link lanes ∧ logged t (fun e => e.typ = 9 ∧ e.result = link ∧ e.info0 = lanes)) ∧
      (s.ablum.getD link 0 ≠ 0 → ∃ t, exec (.ablumLinkFailure link) s = .next t ∧ t = { s with ablum := t.ablum, arb := t.arb } ∧
        t.ablum = s.ablum.set link 0 ∧ logged t (fun e => e.typ = 9 ∧ e.result = link ∧ e.info0 = 0))) ∧
    (∀ (a : Agent) (x pa : Nat), (s.ctx x).used = true →
      (∃ t, a = .strand t ∧ (s.strand t).occ = true ∧ x = t / 4 / 4096) ∨
        (∃ l, x = l / 4096 ∧ ((∃ k, a = .engine l k) ∨ a = .bellows l ∨ a = .sketch l ∨ a = .walker l)) →
      ∃ t, exec (.uncorrectableError a pa) s = .next t ∧ t.mem = s.mem ∧
        (∀ b, b ∈ t.bad ↔ b ∈ s.bad ∨ (b = pa / 512 ∧ isHbm pa = true ∧ s.ownFid (pa >>> 37) = true)) ∧
        (∀ y, y ≠ x → (s.ctx y).used = true → (t.ctx y).used = true) ∧
        (s.errorAt a pa = none → (t.ctx x).used = false ∧
          logged t (fun e => e.typ = 11 ∧ e.ctxid = s.ctxid x ∧ e.result = pa) ∧
          logged t (fun e => e.typ = 3 ∧ e.ctxid = s.ctxid x ∧ e.result = 2 ∧ e.info0 = pa)) ∧
        (∀ i, s.errorAt a pa = some i → t.ctxs = s.ctxs ∧ t.strands = s.strands ∧ t.arb = s.arb)) ∧
    (∀ (die block : Nat) (reading : W16) (i : Instr), die < 8 → 1760 ≤ reading.toInt → s.power ≠ .off → s.power ≠ .inReset →
      (i = .thermalTrip die reading ∧ block = 511) ∨ (i = .blockOverheat die ⟨block, reading⟩ ∧ block < 511) →
      ∃ t, exec i s = .next t ∧ t.power = .inReset ∧ t.ctxs = [] ∧ t.strands = [] ∧ t.retired = s.retired ∧
        ∀ k, tget none t.temps k = if k = die * 1024 + block then some reading else tget none s.temps k) ∧
    (∀ (die block : Nat) (reading : W16), die < 8 → block < 511 → 1600 < reading.toInt → reading.toInt < 1760 → (die, block) ∉ s.throttled →
      ∃ t, exec (.blockOverheat die ⟨block, reading⟩) s = .next t ∧ t = { s with throttled := t.throttled, temps := t.temps } ∧
        (∀ e, e ∈ t.throttled ↔ e = (die, block) ∨ e ∈ s.throttled) ∧
        ∀ k, tget none t.temps k = if k = die * 1024 + block then some reading else tget none s.temps k) ∧
    (∀ (die block : Nat) (reading : W16), die < 8 → block < 511 → reading.toInt < 1552 → (die, block) ∈ s.throttled →
      ∃ t, exec (.blockCooled die ⟨block, reading⟩) s = .next t ∧ t = { s with throttled := t.throttled, temps := t.temps } ∧
        (∀ e, e ∈ t.throttled ↔ e ≠ (die, block) ∧ e ∈ s.throttled) ∧
        ∀ k, tget none t.temps k = if k = die * 1024 + block then some reading else tget none s.temps k)

/-- The host's own accesses, with the package powered: a read gives the bytes of the package's range, or, of a unit with stores that the host
need not have seen yet, what stood there before one of them (R242, R254); a write there changes the bytes
written where memory lies behind them, and nothing else; a write to host memory changes those bytes and invalidates the monitored lines it
touches; a write to the management window is ignored (R26, R56, R57, R60). An invalidated command or launch line is read again: a record
whose SEQ differs from the one taken joins the queue, and another read of the same SEQ takes nothing; the log control line gives CONSUMED
and, where valid, the log's place. The next held event is written to its entry of the log where there is room, and without room nothing is
written (R60, R75-R77). That an entry's address is taken mod 2^48 is the model's reading (log entry 30). -/
def Obligations.HostMemoryAndLines : Prop :=
  (∀ (s : State), s.power ≠ .off → s.power ≠ .inReset → s.env.pkgNo < 1536 →
    (∀ off len, ∃ t, exec (.hostRead off len) s = .next t ∧ t = { s with lastRead := t.lastRead, fresh := t.fresh, hostView := t.hostView } ∧
      t.lastRead.length = len ∧ ∀ i, i < len → t.lastRead[i]? = some (s.hostByte (off + i)) ∨
        ∃ pa, s.hostMap (off + i) = some pa ∧ ∃ w ∈ s.past, w.unit = pa / 8 ∧ s.hostFloor w < w.time ∧
          t.lastRead[i]? = some (w.old.getD (pa % 8) 0)) ∧
    (∀ (off : Nat) (bs : List Byte), ∃ t, exec (.hostWrite (.window off) bs) s = .next t ∧
      t = { s with mem := t.mem, past := t.past, vtime := t.vtime, zips := t.zips, bad := t.bad } ∧ (∀ b ∈ t.bad, b ∈ s.bad) ∧
      ∀ o, t.hostByte o = match s.hostMap o with
        | some pa => if off ≤ o ∧ o < off + bs.length ∧ isMgmt pa = false then bs.getD (o - off) 0 else s.hostByte o
        | none => 0) ∧
    (∀ (h : Nat) (bs : List Byte), bs ≠ [] → h + bs.length ≤ 2 ^ 48 → ∃ t, exec (.hostWrite (.host h) bs) s = .next t ∧
      t = { s with mem := t.mem, past := t.past, vtime := t.vtime, lines := t.lines } ∧
      (∀ a, tget 0 t.mem a =
        if 2 ^ 51 + h ≤ a ∧ a < 2 ^ 51 + h + bs.length then bs.getD (a - (2 ^ 51 + h)) 0 else tget 0 s.mem a) ∧
      t.lines = s.lines.map (fun l => if l.addr < h + bs.length ∧ h < l.addr + 64 then { l with inval := true } else l)) ∧
    (∀ (off : Nat) (bs : List Byte), exec (.mgmtRegisterWrite off bs) s = .next s)) ∧
  ((∀ (s : State) (i : Nat) (l : MLine), s.power = .ready → s.lines[i]? = some l → l.inval = true →
    let bs := s.pread (2 ^ 51 + l.addr) 64
    (i ≠ 16 → s.taking = true →
      (fld bs 0 8 = l.seq → exec (.monitoredLineInvalidate i) s = .next { s with lines := s.lines.set i { l with inval := false } }) ∧
      (fld bs 0 8 ≠ l.seq → exec (.monitoredLineInvalidate i) s = .next
        { s with lines := s.lines.set i { l with inval := false, seq := fld bs 0 8 }, cmdQ := s.cmdQ ++ [⟨l.owner, bs,
          (s.slotOfId (fld bs 10 2)).any (fun x => (s.ctx x).freezeRec.isSome)⟩] })) ∧
    (i = 16 →
      let base := fld bs 0 8
      let ent := fld bs 8 1
      let ok := base ≠ 0 ∧ base % 4096 = 0 ∧ 6 ≤ ent ∧ ent ≤ 20
      let a := { s.arb with consumed := fld bs 16 8 }
      let u := { s with lines := s.lines.set i { l with inval := false } }
      (ok → exec (.monitoredLineInvalidate i) s = .next { u with arb := { a with logBase := base, logEnt := ent, logOn := true } }) ∧
      (¬ok → exec (.monitoredLineInvalidate i) s = .next { u with arb := a }))) ∧
  (∀ (s : State) (e : Event) (rest : List Event), s.arb.held = e :: rest → s.arb.logOn = true →
    let at' := 2 ^ 51 + (s.arb.logBase + 64 * (e.seq % 2 ^ s.arb.logEnt)) % 2 ^ 48
    (e.seq ≤ s.arb.consumed + 2 ^ s.arb.logEnt → ∃ t, exec .eventLogWrite s = .next t ∧
      (let w := fun (o n : Nat) => leNat (tread 0 t.mem (at' + o) n)
       w 0 8 = e.seq % 2 ^ 64 ∧ w 8 2 = e.typ % 2 ^ 16 ∧ w 10 2 = e.ctxid % 2 ^ 16 ∧ w 12 1 = e.status % 2 ^ 8 ∧ w 13 1 = 0 ∧
       w 14 2 = e.src % 2 ^ 16 ∧ w 16 8 = e.tag % 2 ^ 64 ∧ w 24 8 = e.result % 2 ^ 64 ∧ w 32 8 = e.info0 % 2 ^ 64 ∧
       w 40 8 = e.info1 % 2 ^ 64 ∧ w 48 8 = e.time % 2 ^ 64 ∧ w 56 8 = 0) ∧
      (∀ a, ¬(at' ≤ a ∧ a < at' + 64) → tget 0 t.mem a = tget 0 s.mem a) ∧
      t.arb.written = e.seq ∧ t.arb.ovw = s.arb.ovw ∧ (s.arb.waiting = [] → t.arb.held = rest) ∧
      t = { s with mem := t.mem, past := t.past, vtime := t.vtime, arb := t.arb, lines := t.lines, hostSaw := t.hostSaw }) ∧
    (s.arb.consumed + 2 ^ s.arb.logEnt < e.seq → (∀ x ∈ e :: rest, x.typ ≠ 10 ∧ ¬(x.typ = 3 ∧ x.result = 4)) →
      exec .eventLogWrite s = .next s)))

/-- Commands as queued records, performed in the order taken, of which each completes with one CMDDONE: a malformed or misplaced record with BADCMD, one that names no
context with BADCTX. CREATE and RESUME make a context in a free slot, LAUNCH adds a live graph, SETPRIO notes the priority for the next
rebalance, FREEZE starts a pre-emption with its time-out, KILL ends the context and completes the records queued for it with KILLED,
DIRTYSNAP copies and clears the dirty bitmap (R61-R72, R93,
R497). The four queries write their record where the destination names memory and complete with its length; a destination that names none
gives BADDESC, as a nonce that cannot be read does, a CTXSTATE of no context BADCTX (R25, R73). The order of the checks of a LAUNCH and of
CTXSTATE, BADCMD before BADCTX, RESULT of a SETPRIO after another, and SPACE before BADDESC are the model's choices (log entries 33, 84, 90,
92 and 93). The CTXID of a CMDDONE, its SRC 0x8000 and the generation of a slot that has had no context are its readings of R76 and R63 (log
entries 26, 56 and 29), and a nonce that cannot be read is log entry 85. -/
def Obligations.HostCommands : Prop :=
  (∀ (s : State) (i : Nat) (r : CmdRec), s.cmdQ[i]? = some r → s.power = .ready →
    let b := r.bytes
    let arg := fun (k : Nat) => fld b (16 + 8 * k) 8
    let opc := fld b 8 1
    let id := fld b 10 2
    let done := fun (u : State) (ctxid status result : Nat) =>
      ({ u with cmdQ := ldel s.cmdQ i } : State).report 1 ctxid status 0x8000 (fld b 40 8) result 0 0
    let concerns := if opc = 2 ∨ opc = 3 ∨ opc = 4 ∨ opc = 6 ∨ opc = 7 then id else if opc = 8 ∧ arg 0 = 1 then arg 1 % 65536 else 0xFFFF
    let bad := recReserved b = true ∨ s.recMisplaced r = true
    let all := [Instr.create i, .launchRecord i, .setprio i, .freeze i, .resume i, .kill i, .dirtysnap i, .queryDevinfo i,
        .queryCtxstate i, .queryAttest i, .queryLogstat i]
    (i = 0 → s.taking = true → s.mustWait r = false → s.turnOf i r = true) ∧
    (∀ k q, k < i → s.cmdQ[k]? = some q → sameCtx q r = true → s.amidFreeze r = false → s.turnOf i r = false) ∧
    (∀ k q, k < i → s.cmdQ[k]? = some q → s.mustWait q = false → (∀ p ∈ s.cmdQ.take k, sameCtx p q = false) → s.turnOf i r = false) ∧
    (s.turnOf i r = false → ∀ e ∈ all, exec e s = .next s) ∧
    (s.turnOf i r = true → bad → ∀ e ∈ all, exec e s = .next (done s concerns 1 0)) ∧
    (s.turnOf i r = true → ¬bad →
      (s.slotOfId id = none → ∀ e, (opc = 2 ∧ e = Instr.launchRecord i) ∨ (opc = 3 ∧ e = .setprio i) ∨ (opc = 4 ∧ e = .freeze i) ∨
        (opc = 6 ∧ e = .kill i) ∨ (opc = 7 ∧ e = .dirtysnap i) → exec e s = .next (done s id 2 0)) ∧
      (∀ (e : Instr) (m : Made), (opc = 1 ∧ e = .create i ∧ m = s.createCtx (arg 0)) ∨
          (opc = 5 ∧ e = .resume i ∧ m = s.resumeCtx (arg 0) (arg 1)) →
        (∀ c, m = .error c → exec e s = .next (done s 0xFFFF c 0)) ∧
        (∀ u x, m = .ok (u, x) → exec e s = .next (done u (u.ctxid x) 0 (u.ctxid x)) ∧ (s.ctx x).used = false ∧ x < 64 ∧
          (u.ctx x).used = true ∧ (u.ctx x).gen = tget 1 s.gens x ∧ ∀ y, (s.ctx y).used = true → (u.ctx y).used = true)) ∧
      (opc = 1 → ∀ u x, s.createCtx (arg 0) = .ok (u, x) →
        let d := s.pread (arg 0) 64
        (u.ctx x).ptroot = fld d 0 8 ∧ (u.ctx x).nlc = fld d 8 2 ∧ (u.ctx x).prio = fld d 10 1 ∧
          (u.ctx x).det = decide (fld d 11 1 % 2 = 1) ∧ (u.ctx x).spec = decide (fld d 11 1 / 2 % 2 = 1) ∧
          (u.ctx x).tvb = (BitVec.ofNat 64 (fld d 24 8) &&& ~~~63#64) ∧ (u.ctx x).graphs = []) ∧
      (∀ x, s.slotOfId id = some x →
        let c := s.ctx x
        (opc = 2 → (∃ h ∈ c.graphs, h.launch = arg 2 ∧ h.path = []) → arg 2 ≠ 0 → exec (.launchRecord i) s = .next (done s id 5 0)) ∧
        (opc = 2 → ∀ n (d : GraphDesc) u m, c.launchNumber (arg 2) = some n →
          arg 0 % 64 = 0 → s.readGraph x (arg 0) = (.ok d, u) → u.graphCheck x d = none → u.reserveSlots x d.stages = some m →
          u.hearthRoom d.chans = true → ∃ t h, exec (.launchRecord i) s = .next (done t id 0 n) ∧
            (t.ctx x).graphs = c.graphs ++ [h] ∧ h.live = true ∧ h.launch = n ∧ h.path = [] ∧ h.parent = none ∧ h.gid = c.nextGid ∧
            h.param = BitVec.ofNat 64 (arg 1) ∧ h.key = (BitVec.ofNat 64 n) * 0xBF58476D1CE4E5B9#64 ∧ h.stages = d.stages ∧
            h.chans = d.chans ∧ (t.ctx x).lastln = max c.lastln n) ∧
        (opc = 3 → exec (.setprio i) s = .next (done (s.setCtx x { c with newPrio := some (arg 0 % 128) }) id 0 (c.newPrio.getD c.prio))) ∧
        (opc = 4 → c.freezeRec = none → c.coll = none → s.env.form ≠ 0 → (∃ o, s.place (arg 0) = .tier o) →
          arg 0 % 2 ^ 50 + arg 1 ≤ 0xEE6B280000 → ∃ w, exec (.freeze i) s = .next
            { s.setCtx x { c with freezeRec := some r, coll := some w } with cmdQ := ldel s.cmdQ i } ∧
            w.cause = .freeze (s.cycle + (if arg 2 / 2 ^ 32 = 0 then 10000 else arg 2 / 2 ^ 32) * 1250000) ∧
            (∀ d, d < 8 → .fabric d ∈ w.waiting ∧ .bellows d ∈ w.waiting ∧ .sketch d ∈ w.waiting ∧ .hearth d ∈ w.waiting) ∧
            (∀ l, l < c.nlc → (((s.lc (x * 4096 + l)).core ≠ none ∨
                ∃ k, k < 4 ∧ ((s.strand ((x * 4096 + l) * 4 + k)).owesIssue = true ∨ (s.strand ((x * 4096 + l) * 4 + k)).dgstOut = true)) ↔ StopInst.strands (x * 4096 + l) ∈ w.waiting))) ∧
        (opc = 4 → c.freezeRec ≠ none → exec (.freeze i) s = .next (done s id 5 0)) ∧
        (opc = 6 → ∃ t, exec (.kill i) s = .next t ∧ (t.ctx x).used = false ∧ tget 1 t.gens x = (c.gen + 1) % 1024 ∧ t.mem = s.mem ∧
          (∃ e ∈ t.arb.held ++ t.arb.waiting, e.typ = 3 ∧ e.ctxid = id ∧ e.result = 1 ∧ e.info0 = arg 0) ∧
          (∃ e ∈ t.arb.held ++ t.arb.waiting, e.typ = 1 ∧ e.ctxid = id ∧ e.status = 0 ∧ e.tag = fld b 40 8) ∧
          (∀ q ∈ ldel s.cmdQ i, s.recNames x q = true → q ∉ t.cmdQ ∧
            ∃ e ∈ t.arb.held ++ t.arb.waiting, e.typ = 1 ∧ e.ctxid = id ∧ e.status = 10 ∧ e.tag = fld q.bytes 40 8)) ∧
        (opc = 7 →
          (arg 1 < c.dirtyBytes.length → exec (.dirtysnap i) s = .next (done s id 7 0)) ∧
          (c.dirtyBytes.length ≤ arg 1 → s.rangeOk (arg 0) c.dirtyBytes.length = true → ∃ t,
            exec (.dirtysnap i) s = .next (done t id 0 c.dirtyBytes.length) ∧
            t = (s.setCtx x { c with dirty := [] }).pwrite none false (arg 0) c.dirtyBytes ∧
            (2 ^ 51 ≤ arg 0 → (t.ctx x).dirty = [] ∧ tread 0 t.mem (arg 0) c.dirtyBytes.length = c.dirtyBytes)))))) ∧
  (∀ (s : State) (i : Nat) (r : CmdRec), s.cmdQ[i]? = some r → s.power = .ready → fld r.bytes 8 1 = 8 → recReserved r.bytes = false →
    s.recMisplaced r = false → s.turnOf i r = true →
    let arg := fun (k : Nat) => fld r.bytes (16 + 8 * k) 8
    let a := arg 2
    let done := fun (u : State) (ctxid status result : Nat) =>
      ({ u with cmdQ := ldel s.cmdQ i } : State).report 1 ctxid status 0x8000 (fld r.bytes 40 8) result 0 0
    let answers := fun (e : Instr) (ctxid n : Nat) (p : (Nat → Nat → Nat) → Prop) =>
      (s.rangeOk a n = false → exec e s = .next (done s ctxid 4 0)) ∧
      (s.rangeOk a n = true → ∃ bs, bs.length = n ∧ exec e s = .next (done (s.pwrite none false a bs) ctxid 0 n) ∧ p (fun o k => fld bs o k))
    (arg 0 = 0 → answers (.queryDevinfo i) 0xFFFF 256 (fun w =>
      w 0 8 = s.mid % 2 ^ 64 ∧ w 8 8 = s.env.serial % 2 ^ 64 ∧ w 16 8 = s.kstatWord % 2 ^ 64 ∧ w 24 8 = s.rplc % 2 ^ 64 ∧
      w 32 8 = s.corecnt % 2 ^ 64 ∧ (∀ d, d < 8 → ∀ k, k < 3 → w (40 + 24 * d + 8 * k) 8 = s.retm d k % 2 ^ 64) ∧
      w 232 2 = s.env.pkgNo % 2 ^ 16)) ∧
    (arg 0 = 1 →
      (s.slotOfId (arg 1) = none → exec (.queryCtxstate i) s = .next (done s (arg 1 % 65536) 2 0)) ∧
      (∀ x, s.slotOfId (arg 1) = some x → answers (.queryCtxstate i) (arg 1 % 65536) 64 (fun w =>
        w 0 1 = (if (s.ctx x).freezeRec = none then 1 else 2) ∧ w 1 1 = (s.ctx x).prio % 256 ∧ w 4 2 = (s.ctx x).nlc % 2 ^ 16 ∧
        w 6 2 = s.ctxid x % 2 ^ 16 ∧ w 8 4 = ((s.ctx x).graphs.filter (fun g => g.live)).length % 2 ^ 32))) ∧
    (arg 0 = 2 →
      (s.rangeOk (arg 1) 32 = false → exec (.queryAttest i) s = .next (done s 0xFFFF 4 0)) ∧
      (s.spoilt (arg 1) 32 = true → exec (.queryAttest i) s = .next (done s 0xFFFF 4 0)) ∧
      (s.rangeOk (arg 1) 32 = true → s.spoilt (arg 1) 32 = false → answers (.queryAttest i) 0xFFFF 448 (fun w =>
        (∀ k, k < 32 → w k 1 = fld (s.pread (arg 1) 32) k 1) ∧ w 128 8 = s.env.fuse % 2 ^ 64 ∧ w 136 8 = s.env.serial % 2 ^ 64))) ∧
    (arg 0 = 3 → answers (.queryLogstat i) 0xFFFF 32 (fun w =>
      w 0 8 = s.arb.nextSeq % 2 ^ 64 ∧ w 8 8 = s.arb.consumed % 2 ^ 64 ∧ w 16 4 = s.arb.held.length % 2 ^ 32 ∧
      w 24 8 = s.arb.ovw % 2 ^ 64)))

/-- Flits on the links of the package: a waiting flit enters a slot of its ring; at its exit node a flit is taken off where a buffer is free
or where nothing refuses it, goes on once more with PASS, and on a second refusal returns with REF and one more RCNT; a refused flit is
retried after its delay; an undamaged flit arrives and a damaged one is kept and NAKed (R31, R34-R37, R45, R494). Recovery and failure of
links: the sender answers a NAK with parity or, of kind 3, with the flit again; with the parity the stored copy is decoded and accepted
where its CRC passes, else the next NAK follows; the acknowledgement field of another package frees the replay entries it names, has a
flit sent again by NAK 3 or parity by NAK 1 and 2, and is ignored where its CHK fails; a retrained segment carries traffic again and is reported; a cut segment is left by what it
held; a request that no way leaves for 1 ms, or whose package is not there, returns UNREACH (R30, R45, R46, R495). The CRC-8 of CHK and what a
PAR flit takes of its link are the model's (log entries 97 and 87). The CTXID of a fabric event and the end of the context of
an unreachable BSEG are the model's readings (log entries 37 and 46). -/
def Obligations.FabricAndLinks : Prop :=
  (∀ (s : State) (i : Nat),
    let sent := fun (n inj : Node) (r : Ring) (cw : Bool) (f : Flit) (t : State) =>
      let l := s.portFor n r cw inj f
      let w : OnWire := { link := l, seq := (s.linkAt l).txSeq, ack := s.ackField l, inj := inj, ring := r,
                          cw := if l = linkFrom n r cw then cw else !cw, flit := f }
      (linkTo l ≠ none → (∃ ws, t.wires = ws ++ [w]) ∧ t.outside = s.outside) ∧
        (linkTo l = none → t.outside = s.outside ++ [(l, f)]) ∧ (t.linkAt l).txSeq = ((s.linkAt l).txSeq + 1) % 2 ^ 32
    let moved := fun (t : State) => t = { s with
      waitq := t.waitq, wrr := t.wrr, txns := t.txns, wires := t.wires, exits := t.exits, inbox := t.inbox, outside := t.outside,
      recov := t.recov, links := t.links }
    (∀ w, s.waitq[i]? = some w → s.canGo w = true →
      (w.recovered = true ∨ ∀ v ∈ s.waitq, s.portKey v = s.portKey w → v.flit.tc % 4 = w.flit.tc % 4 ∧ v.recovered = false) →
      ∃ t, exec (.flitInject i) s = .next t ∧ t.waitq = ldel s.waitq i ∧ moved t ∧ sent w.node w.inj w.ring w.cw w.flit t ∧
        (∀ u, s.txnOf w.flit = some u → ∀ k ∈ t.txns, k.die = u.die → k.tag = u.tag → k.injected = true)) ∧
    (∀ w, s.waitq[i]? = some w → w.refused = true → w.due ≤ s.cycle →
      exec (.refusedFlitRetry i) s = .next { s with waitq := s.waitq.set i { w with refused := false } }) ∧
    (∀ e (free reserve : Bool), s.exits[i]? = some e →
      let f := e.flit
      let sure := f.typ = 2 ∨ f.typ = 4 ∨ f.typ = 6 ∨ f.typ = 8
      let g := { f with pass := false, rcnt := 0 }
      (free = true ∨ sure → ∃ t, exec (.flitAtExitNode i free reserve) s = .next t ∧ t.exits = ldel s.exits i ∧ moved t ∧
        t.wires = s.wires ∧ (∀ d, e.node = .die d → s.way (.die d) (flitTarget f) = .arrived → t.inbox = s.inbox ++ [(d, g)] ∧ t.waitq = s.waitq) ∧
        (∀ r cw, s.way e.node (flitTarget f) = .ring r cw → t.inbox = s.inbox ∧ t.waitq = s.waitq ++
          [{ node := e.node, ring := r, cw := cw, flit := g, inj := e.node, since := s.cycle, recovered := false, refused := false, due := 0 }])) ∧
      (free = false → ¬sure → reserve = false ∨ f.rcnt < 4 →
        let f' := if f.pass then { f with pass := false, ref := true, rcnt := min (f.rcnt + 1) 15 } else { f with pass := true }
        s.linkRoom (s.portFor e.node e.ring e.cw e.inj f') = true →
        ∃ t, exec (.flitAtExitNode i free reserve) s = .next t ∧ t.exits = ldel s.exits i ∧ t.inbox = s.inbox ∧ moved t ∧
          sent e.node e.inj e.ring e.cw f' t)) ∧
    (∀ e, s.wires[i]? = some e → (∀ x ∈ s.wires.take i, x.link ≠ e.link) →
      (1 ≤ e.flit.typ → e.flit.typ < 10 → e.flit.rsv = 0 → e.flit.ref = false → s.isExit (linkEnd e.link) e.ring e.flit = true →
        ∃ t, exec (.linkFlitReceive (.wire i) []) s = .next t ∧ moved t ∧ t.wires = ldel s.wires i ∧ t.waitq = s.waitq ∧
          t.exits = s.exits ++ [{ node := linkEnd e.link, inj := e.inj, ring := e.ring, cw := e.cw, flit := e.flit }]) ∧
      (∀ errs, let bs := damage (flitBytes e.flit e.seq e.ack) errs
        errs ≠ [] → crcOk (bs.take 152) (bs.drop 152) = false → (∀ r ∈ s.recov, ¬(r.link = e.link ∧ r.seq = e.seq)) →
        let room := 0 < (s.linkAt e.link).store
        ∃ t, exec (.linkFlitReceive (.wire i) errs) s = .next t ∧ moved t ∧ t.wires = ldel s.wires i ∧ t.exits = s.exits ∧ t.waitq = s.waitq ∧
          t.recov = s.recov ++ [{
            link := e.link, seq := e.seq, inj := e.inj, ring := e.ring, cw := e.cw, sent := e.flit,
            bytes := if room then bs.take 152 else [], par := [], kind := if room then 1 else 3, naked := true, parSent := false,
            repeatAt := none, fails := 0, field := bs.drop 152, sentField := e.ack }] ∧
          (t.linkAt e.link).store = (s.linkAt e.link).store - 1)) ∧
    (∀ l f ack, 40 ≤ l → l < 56 → s.power = .ready → s.linkUp l = true → 1 ≤ f.typ → f.typ < 10 → f.rsv = 0 → f.ref = false →
      s.isExit (.station (l % 4)) (inboundRing l).1 f = true → ∃ t, exec (.linkFlitReceive (.outside l f ack) []) s = .next t ∧ moved t ∧
        t.exits = s.exits ++ [{ node := .station (l % 4), inj := .station (l % 4), ring := (inboundRing l).1, cw := (inboundRing l).2, flit := f }] ∧
        (∀ q g a, ack < 2 ^ 64 → crc8 ((leBytes 8 ack).drop 1).reverse = ack % 256 → (s.linkAt (oppLink l)).replay = [(q, g, a)] →
          ((bitsOf ack 63 40 + 2 ^ 24 - q % 2 ^ 24) % 2 ^ 24 < 2 ^ 23 → (t.linkAt (oppLink l)).replay = [] ∧ t.outside = s.outside) ∧
          (2 ^ 23 ≤ (bitsOf ack 63 40 + 2 ^ 24 - q % 2 ^ 24) % 2 ^ 24 → bitsOf ack 39 16 = q % 2 ^ 24 →
            (bitsOf ack 15 13 = 3 → t.outside = s.outside ++ [(oppLink l, g)]) ∧
            (∀ kind, bitsOf ack 15 13 = kind → kind = 1 ∨ kind = 2 → ∃ p : Flit, t.outside = s.outside ++ [(oppLink l, p)] ∧ p.typ = 8 ∧
              p.payload = parity (flitBytes g q a) (if kind = 1 then 0 else 16) 16 ++ leBytes 4 q))) ∧
        (crc8 ((leBytes 8 ack).drop 1).reverse ≠ ack % 256 → t.outside = s.outside ∧ t.linkAt (oppLink l) = s.linkAt (oppLink l)))) ∧
  (∀ (s : State) (i : Nat),
    (∀ r, s.recov[i]? = some r →
      (r.naked = true → r.kind < 3 →
        exec (.nakReceived i) s = .next { s with recov := s.recov.set i { r with naked := false, parSent := true } }) ∧
      (r.naked = true → 3 ≤ r.kind → exec (.nakReceived i) s = .next
        { s with
          recov := s.recov.set i { r with naked := false, par := [] },
          wires := s.wires ++ [{ link := r.link, seq := r.seq, ack := s.ackField r.link, inj := r.inj, ring := r.ring, cw := r.cw, flit := r.sent }] }) ∧
      (∀ c, r.repeatAt = some c → c ≤ s.cycle →
        exec (.nakRepeatTimeout i) s = .next { s with recov := s.recov.set i { r with naked := true, repeatAt := none } }) ∧
      (r.parSent = true →
        let par := r.par ++ parity (flitBytes r.sent r.seq r.sentField) (if r.kind = 1 then 0 else 16) 16
        (∀ b, rsDecode r.bytes par = some b → crcOk b r.field = true → ∃ t, exec (.par i []) s = .next t ∧
          (∀ x, x ∈ t.recov ↔ x ∈ s.recov ∧ ¬(x.link = r.link ∧ x.seq = r.seq)) ∧
          (let f := flitOf b r.sent
           1 ≤ f.typ → f.typ < 10 → f.rsv = 0 → f.ref = false → s.isExit (linkEnd r.link) r.ring f = true →
             t.exits = s.exits ++ [{ node := linkEnd r.link, inj := r.inj, ring := r.ring, cw := r.cw, flit := f }])) ∧
        (rsDecode r.bytes par = none → ∃ t, exec (.par i []) s = .next t ∧
          t.recov = s.recov.set i { r with par := par, kind := r.kind + 1, naked := true, parSent := false } ∧
          t = { s with recov := t.recov, links := t.links, outside := t.outside }))) ∧
    (∀ link fewer, link < 56 → s.linkUp link = false → (hallLink link = true → s.gatewayRole (link % 4) = true) → ∃ t, exec (.linkRetrainDone link fewer) s = .next t ∧
      t.linkUp link = true ∧ t.linkUp (oppLink link) = true ∧ (∀ l, l ≠ link → l ≠ oppLink link → t.linkAt l = s.linkAt l) ∧
      (∃ e ∈ t.arb.held ++ t.arb.waiting, e.typ = 8 ∧ e.ctxid = 0xFFFF ∧ e.result = 3) ∧
      (fewer = true → t.lanesBit = true ∧ ∃ e ∈ t.arb.held ++ t.arb.waiting, e.typ = 8 ∧ e.ctxid = 0xFFFF ∧ e.result = 4) ∧
      t = { s with links := t.links, fresh := t.fresh, arb := t.arb, lanesBit := t.lanesBit, stuck := t.stuck }) ∧
    (∀ link, link < 24 → ∃ t, exec (.segmentFailure link) s = .next t ∧ (t.linkAt link).down = true ∧ (t.linkAt (oppLink link)).down = true ∧
      (∀ w ∈ t.wires, w.link ≠ link ∧ w.link ≠ oppLink link) ∧ (∀ r ∈ t.recov, r.link ≠ link ∧ r.link ≠ oppLink link) ∧
      (∀ w ∈ s.wires, w.link = link → (∃ v ∈ t.wires, v.flit = w.flit) ∨ (∃ v ∈ t.waitq, v.flit = w.flit) ∨ (∃ e ∈ t.outside, e.2 = w.flit) ∨
        ∃ r ∈ s.recov, r.link = w.link ∧ r.seq = w.seq) ∧
      t = { s with links := t.links, wires := t.wires, recov := t.recov, waitq := t.waitq, outside := t.outside }) ∧
    (∀ w, s.waitq[i]? = some w → s.linkUp (s.portKey w) = false ∨ s.pkgPresent (flitTarget w.flit / 8) = false → w.since + 1250000 ≤ s.cycle →
      let f := w.flit
      (f.typ = 1 ∨ f.typ = 3 ∨ f.typ = 5 → ∃ t, exec (.unreachTimeout i) s = .next t ∧
        (∃ g, g.typ = f.typ + 1 ∧ g.op = 4 ∧ g.src = f.src ∧ g.tag = f.tag ∧ ((∃ d, (d, g) ∈ t.inbox) ∨ ∃ v ∈ t.waitq, v.flit = g)) ∧
        (∃ e ∈ t.arb.held ++ t.arb.waiting, e.typ = 8 ∧ e.result = 1) ∧
        t = { s with waitq := t.waitq, inbox := t.inbox, txns := t.txns, arb := t.arb }) ∧
      (f.typ = 7 → (s.ctx (f.note % 2 ^ 24 / 4096)).used = true → ∃ t, exec (.unreachTimeout i) s = .next t ∧
        (t.ctx (f.note % 2 ^ 24 / 4096)).used = false ∧ t.mem = s.mem)))

/-- A request that has reached its die: an RST writes its payload, adds 1 or the payload's length to its flag counter and answers RSTACK;
an RLD answers the bytes; a RAT makes one atomic operation and answers the old value; an address without memory answers ADDRERR, an
uncorrectable error MEMERR and a reserved operation OPERR, with nothing written (R38-R40, R43). A response at the requester ends its
transaction and frees its tag: an RSTACK performs the store, RLDDATA writes the scratchpad or the register of the load, RATDATA writes the
register; a status other than OK logs MEMERR, with a reserved status counted as MEMERR, and kills the context with cause 2; a response
that answers nothing is discarded, as is a management message (R32, R33, R40, R41, R43, R51). OPERR before ADDRERR and the units of an RST
in one step are the model's choices (log entry 81). -/
def Obligations.RemoteMessages : Prop :=
  (∀ (s : State) (i d : Nat) (f : Flit), s.inbox[i]? = some (d, f) → d < 8 → (∀ u, s.txnOf f = some u → s.mayInject u = true) →
    (∀ k e, s.senderAcc f = some (k, e) → s.owed k e = false) →
    f.addr < 2 ^ 51 → f.addr / 2 ^ 37 = s.env.pkgNo * 8 + d → f.addr % 2 ^ 37 < 0x1FFFFFF000 →
    let cell := fun (m : Mem) (a : Nat) => leNat (tread 0 m a 8)
    let answers := fun (e : Instr) (status : Nat) (bs : List Byte) (p : State → Prop) => ∃ t g, exec e s = .next t ∧
      t = { s with mem := t.mem, zips := t.zips, bad := t.bad, ctxs := t.ctxs, strands := t.strands, inbox := t.inbox, waitq := t.waitq,
                   txns := t.txns, past := t.past, vtime := t.vtime } ∧
      (∀ k, t.strand k = { s.strand k with view := (t.strand k).view, acc := (t.strand k).acc } ∧
        (t.strand k).acc.map (fun a => { a with ahead := [] }) = (s.strand k).acc.map (fun a => { a with ahead := [] })) ∧
      (∀ x, t.ctx x = { s.ctx x with dirty := (t.ctx x).dirty }) ∧
      g.typ = f.typ + 1 ∧ g.src = f.src ∧ g.tag = f.tag ∧ g.op = status ∧ g.payload = bs ∧
      ((∃ k, (k, g) ∈ t.inbox) ∨ ∃ w ∈ t.waitq, w.flit = g) ∧ p t
    let n := f.payload.length
    let flag := (s.env.pkgNo * 8 + d) * 2 ^ 37 + 0x1C00000000 + 8 * f.flag
    (f.typ = 1 → s.paOk f.addr n = true → f.op < 2 → 0 < n → f.flag < 2 ^ 23 → (f.addr + n ≤ flag ∨ flag + 8 ≤ f.addr) →
      answers (.rstAtTarget i) 0 [] (fun t =>
        (∀ a, f.addr ≤ a → a < f.addr + n → tget 0 t.mem a = f.payload.getD (a - f.addr) 0) ∧
        (f.fv = true → cell t.mem flag = (cell s.mem flag + if f.op = 0 then 1 else n) % 2 ^ 64) ∧
        (∀ a, ¬(f.addr ≤ a ∧ a < f.addr + n) → (f.fv = false ∨ a < flag ∨ flag + 8 ≤ a) → tget 0 t.mem a = tget 0 s.mem a))) ∧
    (f.typ = 1 → 2 ≤ f.op → answers (.rstAtTarget i) 3 [] (fun t => t.mem = s.mem)) ∧
    (f.typ = 1 → f.op < 2 → s.paOk f.addr n = false → answers (.rstAtTarget i) 2 [] (fun t => t.mem = s.mem)) ∧
    (f.typ = 3 → s.paOk f.addr (f.len + 1) = true → s.spoilt f.addr (f.len + 1) = false →
      (∀ k e, s.senderAcc f = some (k, e) → e.pa = f.addr ∧ e.size = f.len + 1) →
      answers (.rldAtTarget ⟨i, 0⟩) 0 (tread 0 s.mem f.addr (f.len + 1)) (fun t => t.mem = s.mem)) ∧
    (∀ v, f.typ = 3 → s.paOk f.addr (f.len + 1) = false → answers (.rldAtTarget ⟨i, v⟩) 2 [] (fun t => t.mem = s.mem)) ∧
    (∀ v, f.typ = 3 → s.paOk f.addr (f.len + 1) = true → s.spoilt f.addr (f.len + 1) = true →
      answers (.rldAtTarget ⟨i, v⟩) 1 [] (fun t => t.mem = s.mem)) ∧
    (f.typ = 5 → f.op < 10 → s.paOk f.addr 8 = false → answers (.ratAtTarget i) 2 (leBytes 8 0) (fun t => t.mem = s.mem)) ∧
    (f.typ = 5 → f.op < 10 → s.paOk f.addr 8 = true → s.spoilt f.addr 8 = true →
      answers (.ratAtTarget i) 1 (leBytes 8 0) (fun t => t.mem = s.mem)) ∧
    (f.typ = 5 → s.paOk f.addr 8 = true →
      let old := cell s.mem f.addr
      let x := fld f.payload 0 8
      let y := fld f.payload 8 8
      let becomes := fun (v : Nat) => answers (.ratAtTarget i) 0 (leBytes 8 old) (fun t => cell t.mem f.addr = v ∧
        ∀ a, a < f.addr ∨ f.addr + 8 ≤ a → tget 0 t.mem a = tget 0 s.mem a)
      let least := fun (p : Prop) [Decidable p] => if p then x else old
      (10 ≤ f.op → answers (.ratAtTarget i) 3 (leBytes 8 old) (fun t => t.mem = s.mem)) ∧
      (s.spoilt f.addr 8 = false →
        (f.op = 0 → n ≠ 16 → becomes ((old + x) % 2 ^ 64)) ∧ (f.op = 1 → becomes (old &&& x)) ∧ (f.op = 2 → becomes (old ||| x)) ∧
        (f.op = 3 → becomes (old ^^^ x)) ∧ (f.op = 4 → becomes x) ∧ (f.op = 5 → becomes (if old = x then y else old)) ∧
        (f.op = 6 → becomes (least (sgn 64 x < sgn 64 old))) ∧ (f.op = 7 → becomes (least (sgn 64 old < sgn 64 x))) ∧
        (f.op = 8 → becomes (min old x)) ∧ (f.op = 9 → becomes (max old x)) ∧
        (f.op = 0 → n = 16 →
          (old = 2 ^ 63 ∨ y = 2 ^ 63 → becomes (2 ^ 63)) ∧
          (old ≠ 2 ^ 63 → y ≠ 2 ^ 63 → let v := sgn 64 old + sgn 64 x
            (-(2 ^ 63 : Int) < v → v < (2 ^ 63 : Int) → becomes (unsg 64 v)) ∧
            (¬(-(2 ^ 63 : Int) < v ∧ v < (2 ^ 63 : Int)) → becomes (2 ^ 63))))))) ∧
  (∀ (s : State) (i d : Nat) (f : Flit), s.inbox[i]? = some (d, f) →
    let mine := fun (u : Txn) => u.die = d ∧ u.tag = f.tag ∧ u.typ + 1 = f.typ ∧ u.slot ≠ 64
    let freed := ({ s with inbox := ldel s.inbox i, txns := s.txns.filter (fun u => !(u.die == d && u.tag == f.tag)) } : State).sendAllHeld
    let dropped := ({ s with
      inbox := ldel s.inbox i,
      txns := s.txns.filter (fun u => !(u.die == d && u.tag == f.tag && u.slot == 64 && u.typ + 1 == f.typ)) } : State).sendAllHeld
    let runs := fun (e : Instr) => (f.typ = 2 ∧ e = .rstack i) ∨ (f.typ = 4 ∧ e = .rlddata i) ∨ (f.typ = 6 ∧ e = .ratdata i)
    (s.outq = [] → freed = { s with inbox := freed.inbox, txns := freed.txns } ∧ freed.inbox = ldel s.inbox i ∧
      ∀ u, u ∈ freed.txns ↔ u ∈ s.txns ∧ ¬(u.die = d ∧ u.tag = f.tag)) ∧
    (∀ u, u ∈ s.txns → mine u → (∀ v ∈ s.txns, mine v → v = u) →
      (f.op ≠ 0 → ∀ e x, runs e → (s.ctx x).used = true →
        (∃ k, x = k / 4 / 4096 ∧ ((∃ g, u.purpose = .rst k g) ∨ (∃ a, u.purpose = .rld k a) ∨ (∃ r, u.purpose = .rat k r) ∨
          ∃ a, u.purpose = .access k a)) ∨ (∃ l c n, x = l / 4096 ∧ u.purpose = .bte l c n) →
        ∃ t, exec e s = .next t ∧ (t.ctx x).used = false ∧ t.mem = s.mem ∧
          ∃ ev ∈ t.arb.held ++ t.arb.waiting, ev.typ = 11 ∧ ev.ctxid = s.ctxid x ∧ ev.result = u.addr ∧
            ev.info0 % 2 ^ 32 = (s.fid (s.dieOf u.agent) + agentKind u.agent * 2 ^ 16 + (if f.op < 5 then f.op else 1) * 2 ^ 24) % 2 ^ 32) ∧
      (f.op = 0 →
        (∀ k g, f.typ = 2 → u.purpose = .rst k g → exec (.rstack i) s = .next freed) ∧
        (∀ k a n e, f.typ = 2 → u.purpose = .access k a → s.accPos k a = some (n, e) → ∃ t, exec (.rstack i) s = .next t ∧
          t = { freed with ctxs := t.ctxs, past := t.past, strands := t.strands } ∧
          (∀ x, t.ctx x = { s.ctx x with dirty := (t.ctx x).dirty }) ∧
          (e.pa < 2 ^ 52 → 0 < e.size → ∀ j, e.va ≤ j → j < e.va + e.size → j / 2 ^ 21 ∈ (t.ctx (k / 4 / 4096)).dirty) ∧
          ∀ j, t.strand j = if j = k then { s.strand k with
              acc := ldel (s.strand k).acc n
              view := if (s.strand k).acc.length ≤ 1 then { (s.strand k).view with fences := [] } else (s.strand k).view }
            else s.strand j) ∧
        (∀ k la, f.typ = 4 → u.purpose = .rld k la → s.specS (k / 4) = 0 → ∃ t, exec (.rlddata i) s = .next t ∧
          t = { freed with lcs := t.lcs } ∧ (∀ l, t.lc l = { s.lc l with loc := (t.lc l).loc }) ∧
          ∀ l a, tget 0 (t.lc l).loc a = if l = k / 4 ∧ la ≤ a ∧ a < la + f.payload.length then f.payload.getD (a - la) 0
            else tget 0 (s.lc l).loc a) ∧
        (∀ k a n e r sx, f.typ = 4 → u.purpose = .access k a → s.accPos k a = some (n, e) → e.op = .load → e.dst = .g r sx →
          ∃ t, exec (.rlddata i) s = .next t ∧ t = { freed with past := t.past, strands := t.strands } ∧
            (∀ j, j ≠ k → t.strand j = s.strand j) ∧
            t.strand k = { s.strand k with g := (t.strand k).g, acc := ldel (s.strand k).acc n, view := (t.strand k).view } ∧
            ∀ q, (t.strand k).gGet q = if q = r ∧ r ≠ 0 then (if sx then BitVec.ofInt 64 (sgn (8 * e.size) (leNat f.payload))
              else BitVec.ofNat 64 (leNat f.payload % 2 ^ (8 * e.size))) else (s.strand k).gGet q) ∧
        (∀ k r, f.typ = 6 → u.purpose = .rat k r → ∃ t, exec (.ratdata i) s = .next t ∧ t = { freed with strands := t.strands } ∧
          (∀ j, j ≠ k → t.strand j = s.strand j) ∧ t.strand k = { s.strand k with g := (t.strand k).g } ∧
          ∀ q, (t.strand k).gGet q = if q = r ∧ r ≠ 0 then BitVec.ofNat 64 (leNat f.payload) else (s.strand k).gGet q) ∧
        (∀ k a n e o r, f.typ = 6 → u.purpose = .access k a → s.accPos k a = some (n, e) → e.op = .atomic o → e.size = 8 →
          e.dst = .g r false → ∃ t, exec (.ratdata i) s = .next t ∧
            t = { freed with ctxs := t.ctxs, past := t.past, strands := t.strands } ∧ (∀ x, t.ctx x = { s.ctx x with dirty := (t.ctx x).dirty }) ∧
            (∀ j, j ≠ k → t.strand j = s.strand j) ∧
            t.strand k = { s.strand k with g := (t.strand k).g, acc := ldel (s.strand k).acc n, view := (t.strand k).view } ∧
            ∀ q, (t.strand k).gGet q = if q = r ∧ r ≠ 0 then BitVec.ofNat 64 (leNat f.payload) else (s.strand k).gGet q))) ∧
    ((∀ u ∈ s.txns, ¬mine u) → ∀ e, runs e → exec e s = .next dropped) ∧
    (f.typ = 9 → exec (.mgmt i) s = .next dropped))

/-- The Stage Scheduler on a die and a core: a due rebalance takes up the new priorities on its own die, moves no register and leaves
reserved slots where they are; a quantum runs out after 200 us; a swap frees a core, completes the register writes of its strands and is a
full fence for them; aging rises every 10 ms to 8 at most; 100 ms without progress are reported once; the Damper's count moves within its
limits with the row-steps that its commands had ready once a window has passed (R106, R108-R112, R114, R116, R128, R234). Strands of a resident core: a switch takes two cycles and picks,
of the strands that are ready, the highest SPRI, then the one blocked earliest, then the lowest slot, and where none is ready the one that
YIELD blocked; a strand blocked by YIELD is ready after it; a strand blocked before issue is ready once its bundle would not block, one
blocked after issue once its results are written, when a waiting trap is entered (R83-R85, R345, R347, R376). -/
def Obligations.Scheduling : Prop :=
  ((∀ (s : State) (d : Nat), d < 8 → s.power = .ready → tget 0 s.nextReb d ≤ s.cycle → ∃ t, exec (.rebalance d) s = .next t ∧
    (∀ e, tget 0 t.nextReb e = if e = d then s.cycle + 2500 else tget 0 s.nextReb e) ∧
    (∀ x, (t.ctx x).graphs = (s.ctx x).graphs ∧ (∀ e, e < 8 → (t.ctx x).basePrio e =
      if e = d then (s.ctx x).newPrio.getD ((s.ctx x).basePrio d) else (s.ctx x).basePrio e)) ∧
    (∀ j, t.strand j = { s.strand j with assign := (t.strand j).assign, marked := (t.strand j).marked, blk := (t.strand j).blk } ∧
      ((t.strand j).blk ≠ (s.strand j).blk → ((s.strand j).blk = .before ∨ (s.strand j).blk = .yielded) ∧ (t.strand j).blk = .ready) ∧
      ((s.strand j).reserved = true → (s.strand j).assign ≠ none →
        (t.strand j).assign = (s.strand j).assign ∧ (t.strand j).marked = (s.strand j).marked)) ∧
    t = { s with ctxs := t.ctxs, lcs := t.lcs, strands := t.strands, busy := t.busy, rr := t.rr, nextReb := t.nextReb }) ∧
  (∀ (s : State) (l : Nat), (s.lc l).core ≠ none →
    ((s.lc l).grantedAt + 250000 ≤ s.cycle → exec (.quantumExpiry l) s = .next (s.setLc l { s.lc l with expired := true })) ∧
    (s.cycle < (s.lc l).grantedAt + 250000 → exec (.quantumExpiry l) s = .next s) ∧
    (s.active (l / 4096) = true ∨ s.stoppedLc l = true → s.mustYield l = true → s.stopPoint l = true →
      ∃ t, exec (.residencySwap l) s = .next t ∧
      (s.runnable l = false → (∀ k ∈ (s.lc l).edt, k.fault ≠ none) → (t.lc l).core = none) ∧
      (∀ j, (j / 4 = l ∧ (s.strand j).occ = true → t.strand j = { (s.strand j).settle with view := (t.strand j).view } ∧
          (t.strand j).lat = [] ∧ (t.strand j).fpend = [] ∧ (t.strand j).g = (s.strand j).g ∧ (t.strand j).view.sync = s.vtime ∧
          (t.strand j).view.uo = s.vtime) ∧
        (¬(j / 4 = l ∧ (s.strand j).occ = true) → t.strand j = s.strand j)) ∧
      (∀ k, t.lc k = { s.lc k with
        core := (t.lc k).core, grantedAt := (t.lc k).grantedAt, held := (t.lc k).held, expired := (t.lc k).expired,
        issuing := (t.lc k).issuing
        edt := if k = l then (s.lc k).edt.map (fun c => { c with view := View.upTo s.vtime }) else (s.lc k).edt }) ∧
      t = { s with ctxs := t.ctxs, lcs := t.lcs, strands := t.strands, busy := t.busy, rr := t.rr })) ∧
  (∀ (s : State) (x : Nat) (c : Ctx), s.ctx x = c → c.used = true → (∃ l ∈ s.lcKeys x, s.waits l = true) →
    (c.agingFrom + 12500000 ≤ s.cycle →
      exec (.agingTick x) s = .next (s.setCtx x { c with aging := min 8 (c.aging + 1), agingFrom := c.agingFrom + 12500000 })) ∧
    (s.cycle < c.agingFrom + 12500000 → exec (.agingTick x) s = .next s)) ∧
  (∀ (s : State) (x gid : Nat) (g : Graph) (i : Nat), (s.ctx x).graph? gid = some g → g.live = true → i < g.stages.length →
    (g.stageS i).ended < g.nfire i → (∀ j, j < i → g.nfire j ≤ (g.stageS j).ended) →
    (g.reported = false → g.lastProgress + 125000000 ≤ s.cycle → ∃ t, exec (.deadlockTimeout x gid) s = .next t ∧
      t = { s with ctxs := t.ctxs, arb := t.arb } ∧ (t.ctx x).graph? gid = some { g with reported := true } ∧
      ∃ e ∈ t.arb.held ++ t.arb.waiting, e.typ = 4 ∧ e.ctxid = s.ctxid x ∧ e.result = g.launch ∧ e.info0 = i) ∧
    (g.reported = true ∨ s.cycle < g.lastProgress + 125000000 → exec (.deadlockTimeout x gid) s = .next s)) ∧
  (∀ (s : State) (core demand : Nat),
    let k := s.env.damperK.getD (core / 152) 10
    let n := tget 0 s.damper core
    let left := tget 0 s.rowSteps core
    let real := min demand left
    (s.cycle < tget 0 s.damperAt core + 1250 → exec (.damperWindow core demand) s = .next s) ∧
    (tget 0 s.damperAt core + 1250 ≤ s.cycle → ∃ t, exec (.damperWindow core demand) s = .next t ∧
      t = { s with damper := t.damper, damperAt := t.damperAt, rowSteps := t.rowSteps } ∧
      tget 0 t.damperAt core = tget 0 s.damperAt core + 1250 ∧
      (∀ c, c ≠ core → tget 0 t.damper c = tget 0 s.damper c ∧ tget 0 t.rowSteps c = tget 0 s.rowSteps c) ∧
      tget 0 t.rowSteps core = left - min real (tget 0 t.damper core) ∧
      (k = 80 → tget 0 t.damper core = min real 10000) ∧
      (k ≠ 80 → tget 0 t.damper core ≤ n + k * 125 ∧ tget 0 t.damper core ≤ 10000 ∧
        (n ≤ 10000 → n ≤ tget 0 t.damper core + k * 125) ∧
        (real ≤ 10000 → n ≤ real + k * 125 → real ≤ n + k * 125 → tget 0 t.damper core = real))))) ∧
  ((∀ (s : State) (l c : Nat), (s.lc l).core ≠ none →
    let could := fun (t : Nat) => (s.strand t).occ = true ∧ (s.strand t).blk = .ready ∧ s.mayRun t = true
    let can := fun (t : Nat) => t / 4 = l ∧ could t
    can c → (∀ i, (s.lc l).issuing = some i → ¬could (l * 4 + i)) →
    (∀ u, can u → u ≠ c → s.spri u < s.spri c ∨ (s.spri u = s.spri c ∧ ((s.strand c).since < (s.strand u).since ∨
      ((s.strand c).since = (s.strand u).since ∧ c < u)))) →
    ∃ t, exec (.strandSwitch l) s = .next t ∧ t = { s with ctxs := t.ctxs, lcs := t.lcs, strands := t.strands, cycle := s.cycle + 2 } ∧
      (∀ k, t.lc k = if k = l then { s.lc l with issuing := some (c % 4) } else s.lc k) ∧
      ∀ u, t.strand u = if u / 4 = l ∧ (s.strand u).blk = .yielded then { s.strand u with blk := .ready } else s.strand u) ∧
  (∀ (s : State) (l c : Nat), (s.lc l).core ≠ none → c / 4 = l → (s.strand c).occ = true → (s.strand c).blk = .yielded → s.mayRun c = true →
    (∀ i, (s.lc l).issuing = some i → i < 4) →
    (∀ u, u / 4 = l → (s.strand u).occ = true → s.mayRun u = true → (s.strand u).blk ≠ .ready ∧ ((s.strand u).blk = .yielded → u = c)) →
    ∃ t, exec (.strandSwitch l) s = .next t ∧ t.cycle = s.cycle + 2 ∧ (t.lc l).issuing = some (c % 4) ∧
      t.strand c = { s.strand c with blk := .ready }) ∧
  (∀ (s : State) (t : Nat), (s.strand t).occ = true → (s.lc (t / 4)).core ≠ none →
    let ready := s.setStrand t { s.strand t with blk := .ready }
    ((s.strand t).blk = .before → s.mayRun t = true → s.wouldBlock t = false → exec (.strandReady t) s = .next ready) ∧
    ((s.strand t).blk = .before → s.wouldBlock t = true → exec (.strandReady t) s = .next s) ∧
    ((s.strand t).blk = .after → (s.strand t).dgst ≠ none → exec (.strandReady t) s = .next s) ∧
    ((s.strand t).blk = .after → s.resultsIn t = true → (s.strand t).dgst = none → (s.lc (t / 4)).stopping = false →
      ((s.strand t).late = none → (s.strand t).stepWait = none →
        exec (.strandReady t) s = .next (s.setStrand t { (s.strand t).flagsOf (s.strand t).since with blk := .ready })) ∧
      (∀ tr, (s.strand t).late = some tr → tr.cause ≠ 0x14 → (s.strand t).tm = false → ∃ u, exec (.strandReady t) s = .next u ∧
        (let k := u.strand t
         k.pc = (s.strand t).tvb ∧ k.tm = true ∧ k.blk = .ready ∧ k.epc = (s.strand t).pc ∧ k.ecause = BitVec.ofNat 64 tr.cause ∧
           k.eaddr = tr.addr ∧ k.einfo = tr.info ∧ k.late = none ∧ k.g = (s.strand t).g) ∧
        u = s.setStrand t (u.strand t))) ∧
    ((s.strand t).blk = .after → s.resultsIn t = false → exec (.strandReady t) s = .next s)))

/-- Firings and graphs: the stage's next firing starts in its slot with the registers of R94, in ascending (logical core, strand) where
several could start in one cycle; slots with no firing left to start become idle; a firing ends after HALT with no command left, one more
of the stage having ended and its digest folded, its registers as they were; a fault of its commands that was reported and not resolved
kills the context; a graph all of whose firings, children and stores are done ends, with GRAPHDONE for
a top-level one; the first child that waits is bound to slots of its groups; a reserved channel entry is published once its strand's
accesses are performed (R94-R98, R102-R105, R154, R448). -/
def Obligations.FiringsAndGraphs : Prop :=
  (∀ (s : State) (t gid i : Nat) (g : Graph) (d : StageD) (p : StageS),
    let x := t / 4 / 4096
    (s.strand t).occ = false → (s.strand t).assign = some (gid, i) → (s.ctx x).serialGraph = none → (s.lc (t / 4)).core ≠ none →
    s.mayRun t = true → (s.ctx x).graph? gid = some g → g.live = true → g.stages[i]? = some d → g.sst[i]? = some p → p.nextq < d.nfire →
    let mine := fun (u : Nat) => u / 4 ∈ s.lcKeys x
    ((∃ u, mine u ∧ u < t ∧ (s.lc (u / 4)).core ≠ none ∧ s.mayRun u = true ∧ s.startOf u = some (gid, i)) →
      exec (.firingStart t) s = .next s) ∧
    ((∀ u, mine u → u < t → ¬((s.lc (u / 4)).core ≠ none ∧ s.mayRun u = true ∧ s.startOf u = some (gid, i))) →
      (∀ u, mine u → t < u → ¬((s.strand u).occ = true ∧ (s.strand u).gid = gid ∧ (s.strand u).stage = i ∧ (s.strand u).began = s.cycle)) →
    ∃ u, exec (.firingStart t) s = .next u ∧
      (let k := u.strand t
       k.occ = true ∧ k.blk = .ready ∧ k.gid = gid ∧ k.stage = i ∧ k.q = p.nextq ∧ k.pc = d.entry ∧ k.entry = d.entry ∧ k.tm = false ∧
         k.tvb = (s.ctx x).tvb ∧ k.fkey = ((((g.key ^^^ BitVec.ofNat 64 i) * 0xBF58476D1CE4E5B9#64) ^^^ BitVec.ofNat 64 p.nextq) *
           0xBF58476D1CE4E5B9#64) ∧
         k.gGet 1 = g.param ∧ k.gGet 2 = d.sarg ∧ k.gGet 3 = BitVec.ofNat 64 p.nextq ∧ k.gGet 4 = k.fkey ∧
         (∀ n, 5 ≤ n → k.gGet n = 0) ∧ k.p = 0 ∧ k.v = [] ∧ k.qr = [] ∧ k.td = [] ∧ k.tst = [] ∧ k.tcfg = [] ∧ k.loopd = 0 ∧ k.lnkd = 0 ∧
         k.aflags = 0 ∧ k.amask = 0 ∧ k.acc = (s.strand t).acc ∧ k.assign = (s.strand t).assign ∧ k.reserved = (s.strand t).reserved) ∧
      (u.ctx x).graph? gid =
        some { g with sst := g.sst.set i { p with nextq := p.nextq + 1 }, lastProgress := s.cycle, reported := false } ∧
      (∀ j, j ≠ t → u.strand j = if p.nextq + 1 = d.nfire ∧ mine j ∧ (s.strand j).assign = some (gid, i) ∧ (s.strand j).occ = false ∧
          (s.strand j).reserved = false then { s.strand j with assign := none, marked := false } else s.strand j) ∧
      u = { s with ctxs := u.ctxs, strands := u.strands })) ∧
  (∀ (s : State) (t : Nat) (g : Graph) (p : StageS),
    let x := t / 4 / 4096
    let st := s.strand t
    st.occ = true → st.blk = .halted → st.dgst = none → s.mayRun t = true → s.resultsIn t = true → (∀ k ∈ (s.lc (t / 4)).edt, k.strand ≠ t % 4) →
    (s.ctx x).serialGraph = none → (s.ctx x).graph? st.gid = some g → g.sst[st.stage]? = some p →
    let term := (st.fkey ^^^ (st.dgsta + st.dgste)) * 0xBF58476D1CE4E5B9#64
    ∃ u, exec (.firingEnd t) s = .next u ∧ (u.strand t).occ = false ∧ (u.strand t).g = st.g ∧ (u.strand t).ecause = st.ecause ∧
      (u.strand t).eaddr = st.eaddr ∧ (u.strand t).einfo = st.einfo ∧ (u.strand t).acc = st.acc ∧
      (u.ctx x).ctxdgst = (s.ctx x).ctxdgst + (if (s.ctx x).det then term else 0) ∧
      (u.ctx x).graph? st.gid = some { g with
        dgst := g.dgst + (if (s.ctx x).det then term else 0), sst := g.sst.set st.stage { p with ended := p.ended + 1 },
        lastProgress := s.cycle, reported := false } ∧
      (∀ j, j ≠ t → u.strand j = { s.strand j with
        assign := (u.strand j).assign, reserved := (u.strand j).reserved, marked := (u.strand j).marked }) ∧
      u = { s with ctxs := u.ctxs, lcs := u.lcs, strands := u.strands }) ∧
  (∀ (s : State) (t : Nat), (s.strand t).occ = true → (s.strand t).blk = .halted → (s.strand t).dgst = none → s.mayRun t = true →
    s.resultsIn t = true →
    (s.ctx (t / 4 / 4096)).used = true → (∀ k ∈ (s.lc (t / 4)).edt, k.strand = t % 4 → k.fault ≠ none → k.reported = true) →
    (∃ k ∈ (s.lc (t / 4)).edt, k.strand = t % 4 ∧ k.fault ≠ none) → ∃ u, exec (.firingEnd t) s = .next u ∧
      (u.ctx (t / 4 / 4096)).used = false ∧ u.mem = s.mem) ∧
  (∀ (s : State) (x gid : Nat) (g : Graph), (s.ctx x).used = true → (s.ctx x).graph? gid = some g → g.live = true → g.serial = none →
    g.allEnded = true → (∀ h ∈ (s.ctx x).graphs, h.parent ≠ some gid) → s.graphStores x gid = false → ∃ u,
      exec (.graphEnd x gid) s = .next u ∧
      (∀ t, t / 4 / 4096 = x → t / 4 % 4096 < (s.ctx x).nlc → (∃ i, i < g.stages.length ∧ (s.strand t).assign = some (gid, i)) →
        (u.strand t).assign = none ∧ (u.strand t).reserved = false) ∧
      (g.parent = none → (u.ctx x).graphs = (s.ctx x).graphs.filter (fun h => h.gid != gid) ∧
        ∃ e ∈ u.arb.held ++ u.arb.waiting, e.typ = 2 ∧ e.ctxid = s.ctxid x ∧ e.result = g.launch) ∧
      (∀ p, g.parent = some p → u.arb = s.arb ∧ (u.ctx x).graphs = ((s.ctx x).graphs.map (fun h =>
        if h.gid = p then { h with dgst := h.dgst + g.dgst } else h)).filter (fun h => h.gid != gid)) ∧
      u = { s with ctxs := u.ctxs, strands := u.strands, arb := u.arb }) ∧
  (∀ (s : State) (x gid : Nat) (g : Graph) (m : List (Nat × Nat)), s.active x = true → (s.ctx x).graph? gid = some g → g.live = false →
    (s.ctx x).serialGraph = none → (s.ctx x).waiting.head? = some g → s.reserveSlots x g.stages = some m →
    m.map Prod.fst = reservationStages g.stages ∧ (m.map Prod.snd).Nodup ∧
    (∀ e ∈ m, (s.strand e.2).reserved = false ∧ ∃ l ∈ (s.ctx x).members (pgrpOf g.stages e.1), e.2 / 4 = x * 4096 + l) ∧
    ∃ u, exec (.childInstantiate x gid) s = .next u ∧ (u.ctx x).graph? gid = some { g with live := true, lastProgress := s.cycle } ∧
      (∀ e ∈ m, u.strand e.2 = { s.strand e.2 with assign := some (gid, e.1), reserved := true, marked := false }) ∧
      (∀ t, t ∉ m.map Prod.snd → u.strand t = s.strand t) ∧ u = { s with ctxs := u.ctxs, strands := u.strands }) ∧
  (∀ (s : State) (x gid ch idx q t : Nat) (bs : List Byte) (g : Graph) (r : Chan), (s.ctx x).graph? gid = some g → g.cst[ch]? = some r →
    r.slot idx = .reserved q t bs →
    (s.settled t = false → exec (.channelPublish x gid ch idx) s = .next s) ∧
    (s.settled t = true → ∃ u, exec (.channelPublish x gid ch idx) s = .next u ∧
      (u.ctx x).graph? gid = some { g with
        cst := g.cst.set ch { r with
          slots := tset .empty r.slots idx (.published q (if g.inPad ch then [] else bs)), pushes := (r.pushes + 1) % 2 ^ 32 }
        lastProgress := s.cycle, reported := false } ∧
      (g.inPad ch = false → u.lcs = s.lcs) ∧
      (∀ c, g.inPad ch = true → g.chans[ch]? = some c → s.specS (x * 4096 + c.splc) = 0 → ∀ a,
        tget 0 (u.lc (x * 4096 + c.splc)).loc a = if c.spaddr + idx * c.esz ≤ a ∧ a < c.spaddr + idx * c.esz + bs.length then
          bs.getD (a - (c.spaddr + idx * c.esz)) 0 else tget 0 (s.lc (x * 4096 + c.splc)).loc a) ∧
      u = { s with ctxs := u.ctxs, lcs := u.lcs }))

/-- Pre-emption: an instance acknowledges once what it depends on has, and its bit sets; a strand pipeline's register writes are complete
then, and a BTE's remote stores injected (R128, R489); at the time-out of a FREEZE with a bit clear the
context runs on and the CMDDONE says TIMEOUT; with every bit set the image goes to the second tier, or SPACE where it does not fit, and
EVICT ends the context (R69, R126-R132). That RESULT is the image's size at SPACE is the model's reading of R69 (log entry 34). -/
def Obligations.Preemption : Prop :=
  ∀ (s : State) (x : Nat) (c : Collector), (s.ctx x).coll = some c →
    let acks := fun (i : StopInst) (n : Nat) (u : State) => exec (.engineStopAck x i n) s = .next
      (u.setCtx x { s.ctx x with coll := some { c with waiting := c.waiting.filter (fun w => w != i) } })
    let clear := fun (i : StopInst) => i ∉ c.waiting
    (∀ i n, clear i → exec (.engineStopAck x i n) s = .next s) ∧
    (∀ d n, .hearth d ∈ c.waiting → acks (.hearth d) n s) ∧
    (∀ l n, .bte l ∈ c.waiting →
      (clear (.strands l) → (∀ h ∈ s.outq, h.purpose.engineOf ≠ some l) →
        (∀ t ∈ s.txns, t.injected = true ∨ t.purpose.engineOf ≠ some l) → acks (.bte l) n s) ∧
      (.strands l ∈ c.waiting → exec (.engineStopAck x (.bte l) n) s = .next s) ∧
      ((∃ h ∈ s.outq, h.purpose.engineOf = some l) → exec (.engineStopAck x (.bte l) n) s = .next s) ∧
      ((∃ t ∈ s.txns, t.injected = false ∧ t.purpose.engineOf = some l) → exec (.engineStopAck x (.bte l) n) s = .next s)) ∧
    (∀ l n, .strands l ∈ c.waiting →
      ((∀ t, t / 4 = l → s.strandAtPoint t = true ∧ (s.strand t).blk ≠ .after) → ∃ u : State, u = { s with strands := u.strands } ∧
        (∀ t, u.strand t = if t / 4 = l ∧ (s.strand t).occ = true then (s.strand t).settle else s.strand t) ∧
        acks (.strands l) n (u.setLc l { s.lc l with stopping := true, issuing := none })) ∧
      ((∃ t, t / 4 = l ∧ s.strandAtPoint t = false) → exec (.engineStopAck x (.strands l) n) s = .next s)) ∧
    (∀ l n, .matrix l ∈ c.waiting → clear (.strands l) → (s.lc l).epi = none →
      (∀ k ∈ (s.lc l).edt, ¬(k.st = 2 ∧ k.fault = none ∧ (k.kind = .mma ∨ k.kind = .maccld))) →
      acks (.matrix l) n (s.setLc l { s.lc l with mstop := true })) ∧
    (∀ d n, (∀ l ∈ s.lcsOn x d, clear (.strands l)) →
      (.sketch d ∈ c.waiting → (∀ l ∈ s.lcsOn x d, ∀ k ∈ (s.lc l).edt, k.isSketch = false) → acks (.sketch d) n s) ∧
      (.bellows d ∈ c.waiting → s.bellowsAtPoint x d = true → acks (.bellows d) n s) ∧
      (.fabric d ∈ c.waiting → (∀ l ∈ s.lcsOn x d, clear (.bte l)) → clear (.sketch d) → clear (.bellows d) →
        (∀ t ∈ s.txns, ¬(t.slot = x ∧ t.die = d)) → (∀ h ∈ s.outq, ¬(h.slot = x ∧ h.die = d)) → acks (.fabric d) n s)) ∧
    (∀ (r : CmdRec) (deadline : Nat), (s.ctx x).freezeRec = some r → c.cause = .freeze deadline →
      let arg := fun (k : Nat) => fld r.bytes (16 + 8 * k) 8
      let done := fun (t : State) (status result : Nat) => ∃ e ∈ t.arb.held ++ t.arb.waiting,
        e.typ = 1 ∧ e.ctxid = s.ctxid x ∧ e.status = status ∧ e.tag = fld r.bytes 40 8 ∧ e.result = result
      let runsOn := fun (t : State) => (t.ctx x).used = (s.ctx x).used ∧ (t.ctx x).coll = none ∧ (t.ctx x).freezeRec = none ∧
        t.strands = s.strands ∧ ∀ l, l < (s.ctx x).nlc → (t.lc (x * 4096 + l)).stopping = false ∧ (t.lc (x * 4096 + l)).mstop = false
      (deadline ≤ s.cycle → c.waiting ≠ [] → ∃ t, exec (.freezeTimeout x) s = .next t ∧ done t 8 0 ∧ runsOn t ∧ t.mem = s.mem) ∧
      (s.cycle < deadline ∨ c.waiting = [] → exec (.freezeTimeout x) s = .next s) ∧
      (c.waiting = [] → (s.ctx x).serialImg = [] → (∀ l ∈ s.lcKeys x, ∀ k ∈ (s.lc l).edt, k.sat = false) →
        let img := s.image x
        (arg 1 < img.length → ∃ t, exec (.preemptionComplete x) s = .next t ∧ done t 7 img.length ∧ runsOn t ∧ t.mem = s.mem) ∧
        (img.length ≤ arg 1 → 3 * 2 ^ 50 ≤ arg 0 → ∃ t, exec (.preemptionComplete x) s = .next t ∧ done t 0 img.length ∧
          tread 0 t.mem (arg 0) img.length = img ∧
          (∀ a, a < arg 0 ∨ arg 0 + img.length ≤ a → tget 0 t.mem a = tget 0 s.mem a) ∧
          (arg 2 % 2 = 0 → runsOn t) ∧ (arg 2 % 2 = 1 → (t.ctx x).used = false ∧ tget 1 t.gens x = ((s.ctx x).gen + 1) % 1024))))

/-- A digest checkpoint that all of its graph's firings have reached, ended before or cannot reach, since they pop from a producer that
waits there: the waiting DGSTs issue, and their bundles block after issue (R83, R455); once all have, with RECORD set in its entry V is
written there, else V is compared; both pass it, and every firing that waits goes on; a difference is DGSTMIS, the waiting firings take DGST
traps at their bundles, a FREEZE that was under way is queued again, and the graph is to be run again alone (R154-R157, R456). The new
DGSTIDX is the model's reading of R155 (log entry 42). -/
def Obligations.DigestCheckpoints : Prop :=
  ∀ (s : State) (x gid n : Nat) (g : Graph), (s.ctx x).graph? gid = some g → g.serial = none → (s.ctx x).serialGraph = none →
    (s.ctx x).det = true →
    let fam := (s.ctx x).family gid
    let ours := fun (j : Nat) => j / 4 ∈ s.lcKeys x ∧ (s.strand j).occ = true ∧ (s.strand j).dgst = some n ∧ ∃ h ∈ fam, h.gid = (s.strand j).gid
    let waits := fun (j : Nat) => ours j ∧ (s.strand j).blk = .before ∧ (s.strand j).dgstGo = false ∧ ∀ k ∈ (s.lc (j / 4)).edt, k.strand ≠ j % 4
    let ws := s.dgstIssued x n fam
    (∀ j, j ∈ ws ↔ ours j ∧ ((s.strand j).blk = .after ∨ (s.strand j).blk = .halted)) ∧
    (s.dgstForms x gid n fam = false → s.active x = true → s.dgstReady x gid n fam = true → ∃ t, exec (.dgstCheckpoint x gid n) s = .next t ∧
      t = { s with strands := t.strands } ∧
      ∀ j, (waits j → t.strand j = { s.strand j with dgstGo := true, blk := .ready }) ∧ (¬waits j → t.strand j = s.strand j)) ∧
    (s.dgstForms x gid n fam = false → s.active x = false ∨ s.dgstReady x gid n fam = false →
      exec (.dgstCheckpoint x gid n) s = .next s) ∧
    ∀ (bs : List Byte) (u : State), s.dgstForms x gid n fam = true →
    let va := ((s.ctx x).dgsttab + 16 * n) % 2 ^ 64
    let v := ((ws ++ s.popWaiters x fam ws).map (fun t => ((s.strand t).fkey ^^^ ((s.strand t).dgsta + (s.strand t).dgste)) *
      0xBF58476D1CE4E5B9#64)).foldl (· + ·) 0 + (fam.map (·.dgst)).foldl (· + ·) 0
    s.vread (launchLc x) va 16 = (.ok bs, u) →
    let passes := fun (w t : State) => (∀ j, t.strand j = if j ∈ ws then
        { s.strand j with
          dgst := none, dgstGo := false
          blk := if (s.strand j).parked = true ∧ (s.lc (j / 4)).core = none then .ready else (s.strand j).blk }
        else s.strand j) ∧
      (t.ctx x).dgstidx = max (s.ctx x).dgstidx (n + 1) ∧ t = { w with ctxs := t.ctxs, strands := t.strands }
    (fld bs 8 1 % 2 = 0 → fld bs 0 8 = v.toNat → ∃ t, exec (.dgstCheckpoint x gid n) s = .next t ∧ passes u t) ∧
    (fld bs 8 1 % 2 = 1 → ∀ w, u.vwrite (launchLc x) va (leBytes 8 v.toNat ++ leBytes 1 (fld bs 8 1 - 1)) = (.ok (), w) →
      ∃ t, exec (.dgstCheckpoint x gid n) s = .next t ∧ passes w t) ∧
    (fld bs 8 1 % 2 = 0 → fld bs 0 8 ≠ v.toNat → ∃ t, exec (.dgstCheckpoint x gid n) s = .next t ∧
      (∃ e ∈ t.arb.held ++ t.arb.waiting, e.typ = 5 ∧ e.ctxid = s.ctxid x ∧ e.result = g.launch % 2 ^ 32 + n * 2 ^ 32 ∧ e.info0 = 0 ∧
        e.info1 = g.key.toNat) ∧
      (∀ j, t.strand j = if j ∈ ws then
        { s.strand j with
          blk := .ready, ecause := 0x11, einfo := BitVec.ofNat 64 n, epc := (s.strand j).dgstAt, pc := (s.strand j).dgstAt, dgst := none
          dgstGo := false } else s.strand j) ∧
      (∃ k, (t.ctx x).coll = some k ∧ k.cause = .serial gid n) ∧ (t.ctx x).freezeRec = none ∧
      t = { u with ctxs := t.ctxs, strands := t.strands, arb := t.arb, cmdQ := (s.ctx x).freezeRec.toList ++ s.cmdQ })

/-- A pending access that its order allows is performed at its home: a load delivers what memory holds, or what a store that it need not
have seen replaced there, overlaid by the strand's own earlier stores; a store and an exact-add change their bytes alone and set the dirty
bit, an atomic returns the old value, an arrival is subtracted from its record, a popped entry reaches the scratchpad and frees its slot, a
bucket's mark is held for its command. One to another die is sent as a request; a read of a block with an uncorrectable error is MEMERR and
kills the context; one that its order holds back stays pending (R40, R43, R151, R177, R180, R193, R200, R236-R242, R389, R438, R447,
R449). Which stores a load need not have seen is the model's reading of R235-R244 (log entry 66). -/
def Obligations.GlobalAccesses : Prop :=
  ∀ (s : State) (t i v : Nat) (e : Access), (s.strand t).acc[i]? = some e → e.sent = false →
    let before := (s.strand t).acc.take i
    let x := t / 4 / 4096
    let die := (s.lc (t / 4)).die
    let runs := fun (u : State) => exec (.globalAccessPerformed t ⟨i, v⟩) s = .next u
    let plain := fun (as : List Access) => as.map (fun a => { a with ahead := [] })
    let dropped := fun (u : State) => plain (u.strand t).acc = plain (ldel (s.strand t).acc i) ∧
      (e.op.writes = false ∨ (∀ p ∈ (s.strand t).acc, p.num < e.num → (s.strand t).view.orders p e = none) →
        (u.strand t).acc = ldel (s.strand t).acc i) ∧ ∀ j, j ≠ t → u.strand j = s.strand j
    let value := fun (sx : Bool) (v : Nat) =>
      if sx then BitVec.ofInt 64 (sgn (8 * e.size) v) else BitVec.ofNat 64 (v % 2 ^ (8 * e.size))
    let receives := fun (u : State) (v : Nat) => ∀ r sx, e.dst = .g r sx →
      ∀ q, (u.strand t).gGet q = if q = r ∧ r ≠ 0 then value sx v else (s.strand t).gGet q
    (mayPerform before e = false ∨ s.remoteFirst t e = true ∨ (e.releases = true ∧ e.narrow = false ∧ s.fabricIdle t = false) ∨
      (e.releases = true ∧ s.remotesIdle t = false ∧ s.fabricIdle t = false) ∨ (e.op.atMem = true ∧ s.owed t e = true) → runs s) ∧
    (s.mayGo t i e = true →
      (e.far = true → e.op.reads = true ∨ e.op = .store →
        (s.freeTag die = none → runs s) ∧
        (∀ tag, s.freeTag die = some tag → ∃ u, runs u ∧ u.mem = s.mem ∧ ((u.strand t).acc[i]?).map (·.sent) = some true ∧
          ∃ k ∈ u.txns, k.die = die ∧ k.tag = tag ∧ k.purpose = .access t e.num ∧
            k.typ = (if e.op = .load then 3 else if e.op = .store then 1 else 5))) ∧
      (e.far = false → e.op.reads = true → e.pa < 2 ^ 52 → s.spoilt e.pa e.size = true → (s.ctx x).used = true → ∃ u, runs u ∧
        (u.ctx x).used = false ∧ u.mem = s.mem ∧ ∃ ev ∈ u.arb.held ++ u.arb.waiting, ev.typ = 11 ∧ ev.ctxid = s.ctxid x ∧ ev.result = e.pa) ∧
      (e.far = false → e.pa < 2 ^ 52 → (e.pa < 2 ^ 51 → e.pa / 2 ^ 37 / 8 = s.env.pkgNo ∧ e.pa % 2 ^ 37 < 0x1FFFFFF000) → 0 < e.size →
        (e.op.reads = true → s.spoilt e.pa e.size = false) →
        let old := tread 0 s.mem e.pa e.size
        let wrote := fun (bs : List Byte) (u : State) =>
          (∀ a, tget 0 u.mem a = if e.pa ≤ a ∧ a < e.pa + bs.length then bs.getD (a - e.pa) 0 else tget 0 s.mem a) ∧
            e.va / 2 ^ 21 ∈ (u.ctx x).dirty ∧
            u = { s with mem := u.mem, zips := u.zips, bad := u.bad, ctxs := u.ctxs, lines := u.lines, strands := u.strands, past := u.past,
                         vtime := u.vtime }
        (e.op = .load → ∃ u, runs u ∧ dropped u ∧
          (let seen := match (if v = 0 then none else (s.unseen t e)[v - 1]?) with
             | some w => slice w.old (e.pa % 8) e.size
             | none => old
           let got := leNat (overlay before e.pa seen)
           receives u got ∧ ∀ r l, e.dst = .lane r l → tget 0 (u.strand t).v (r * 64 + l) = BitVec.ofNat 32 got) ∧
          u = { s with strands := u.strands, lcs := u.lcs, past := u.past } ∧ ((∀ a, e.dst ≠ .loc a) → u.lcs = s.lcs)) ∧
        (e.op = .store → ∃ u, runs u ∧ dropped u ∧ wrote (leBytes e.size e.data) u) ∧
        (∀ code, e.op = .atomic code → e.size = 4 ∨ e.size = 8 → code ≤ 9 → (∀ a, e.dst ≠ .loc a) →
          let w := 8 * e.size
          let was := leNat old
          let becomes := [(was + e.data) % 2 ^ w, was &&& e.data, was ||| e.data, was ^^^ e.data, e.data, e.data2,
            if sgn w e.data < sgn w was then e.data else was, if sgn w was < sgn w e.data then e.data else was,
            min was e.data, max was e.data].getD code 0
          ∃ u, runs u ∧ dropped u ∧ receives u was ∧
            (code = 5 → was ≠ e.data → u.mem = s.mem) ∧ (code = 5 → was ≠ e.data ∨ wrote (leBytes e.size becomes) u) ∧
            (code ≠ 5 → wrote (leBytes e.size becomes) u)) ∧
        (∀ n, e.op = .xadd n → e.size = 8 → ∃ u, runs u ∧ dropped u ∧
          wrote (leBytes 8 (xaddCell (leNat old) (xaddQ (BitVec.ofNat 32 e.data) n))) u)) ∧
      (∀ l a, e.op = .arrive l a → s.specS l = 0 → ∃ u, runs u ∧ dropped u ∧
        u.lc l = { s.lc l with loc := twrite 0 (s.lc l).loc a (arBytes (arUpdate (arOf (tread 0 (s.lc l).loc a 32)) 0 1 0)) } ∧
        (∀ m, m ≠ l → u.lc m = s.lc m) ∧ u = { s with lcs := u.lcs, strands := u.strands, past := u.past }) ∧
      (∀ gid ch slot bs a g r, e.op = .pop gid ch slot bs → e.dst = .loc a → s.specS (t / 4) = 0 → (s.ctx x).graph? gid = some g →
        g.cst[ch]? = some r → ∃ u, runs u ∧ dropped u ∧
          u.lc (t / 4) = { s.lc (t / 4) with loc := twrite 0 (s.lc (t / 4)).loc a bs } ∧
          (u.ctx x).graph? gid = some { g with
            cst := g.cst.set ch { r with slots := tset .empty r.slots (r.claimAt slot) .empty, pops := (r.pops + 1) % 2 ^ 32 }
            lastProgress := s.cycle, reported := false } ∧
          (u.strand t).view.seen = s.vtime ∧ (u.strand t).view.sync = s.vtime ∧
          u = { s with lcs := u.lcs, ctxs := u.ctxs, strands := u.strands, past := u.past }) ∧
      (∀ l cmd b k, e.op = .csig l cmd b → (s.lc l).cmd? cmd = some k → k.snapped = false →
        ∃ u, runs u ∧ dropped u ∧ u.lc l = { s.lc l with
            csig := (s.lc l).csig ++ [(cmd, b)]
            edt := (s.lc l).edt.map (fun c =>
              if c.id = cmd then { c with view := { c.view with seen := s.vtime, sync := s.vtime } } else c) } ∧
          (∀ m, m ≠ l → u.lc m = s.lc m) ∧ u = { s with lcs := u.lcs, strands := u.strands, past := u.past }) ∧
      (∀ la tag, e.op = .rld la → s.freeTag die = some tag → ∃ u, runs u ∧ dropped u ∧ u.mem = s.mem ∧
        ∃ k ∈ u.txns, k.die = die ∧ k.tag = tag ∧ k.typ = 3 ∧ k.addr = e.pa ∧ k.num = e.num ∧ k.purpose = .rld t la) ∧
      (∀ o r sx tag, e.op = .rat o → e.dst = .g r sx → s.freeTag die = some tag → ∃ u, runs u ∧ dropped u ∧ u.mem = s.mem ∧
        ∃ k ∈ u.txns, k.die = die ∧ k.tag = tag ∧ k.typ = 5 ∧ k.addr = e.pa ∧ k.num = e.num ∧ k.purpose = .rat t r))

/-- Engine commands of a resident logical core that no serial re-execution holds: one with no edge left, the oldest such of its engine,
passes to its engine's queue; a queued matrix command starts once
nothing ahead conflicts with it, an MLOADW with its tile's header; MZERO clears its tile and sets its anchor; EPLOAD writes its program
and its image, or faults with reason 10 on a word that is none (R196, R264, R286, R287, R315, R428, R429, R431). -/
def Obligations.MatrixQueue : Prop :=
  ∀ (s : State) (l cmd : Nat) (k : Cmd), (s.lc l).cmd? cmd = some k → s.heldCmd l k = false → s.specS l = 0 →
    let c := s.lc l
    (s.mayPass l k = true → k.kind ≠ .epload →
      (k.kind.matrix = true → cmd ∉ c.mq → ∃ t, exec (.engineCommandReady l cmd) s = .next t ∧
        s.entryNow l { k with queued := true, st := max k.st 1 } { c with mq := c.mq ++ [cmd] } t) ∧
      (k.kind.matrix = false → ∃ t, exec (.engineCommandReady l cmd) s = .next t ∧ s.entryNow l { k with queued := true } c t)) ∧
    (s.mayPass l k = false → exec (.engineCommandReady l cmd) s = .next s) ∧
    (s.mayStart l k = true →
      (k.kind = .mma ∨ k.kind = .mzero ∨ k.kind = .maccld ∨ (k.kind = .mdrain ∧ k.k.toNat / 2 ^ 11 % 16 = 0) ∨
          (k.kind = .epload ∧ k.snapped = true) → ∃ t, exec (.matrixCommandStart l cmd) s = .next t ∧ s.entryNow l { k with st := 2 } c t) ∧
      (k.kind = .mdrain → dcwEps k.k.toNat ≠ 0 → c.epi = none → k.pos < dcwRows k.k.toNat →
        let w := k.k.toNat
        let x := (tread AccEnt.zero c.acc (dcwTile w * 4096 + (dcwFrow w + k.pos) * 128) 128).map (fun e =>
          BitVec.ofNat 32 (convV fp32 (dcwRnd w) (e.val (tget 0 c.anchor (dcwTile w)))).1)
        ∃ t, exec (.matrixCommandStart l cmd) s = .next t ∧ s.entryNow l { k with st := 2 } { c with
          epi := some { cmd := cmd, slot := dcwEps w - 1, op := 0, x := tlist 0 0 x, m := [], out := none } } t) ∧
      (k.kind = .mloadw →
        let h := tread 0 c.loc k.a.toNat 16
        let n := thKbr h * thNcol h
        let r := bothRange (spData (thSptr h)) ((thBud h + 1) * n * 4) (spSide (thSptr h)) (n * 4)
        (headerOk h k.b.toNat = true → r.fits = true → ∃ t, exec (.matrixCommandStart l cmd) s = .next t ∧
          s.entryNow l { k with st := 2, snap := h, rd2 := r } c t) ∧
        (headerOk h k.b.toNat = false → ∃ t, exec (.matrixCommandStart l cmd) s = .next t ∧
          s.entryNow l { k with fault := some { cause := 0x0F, addr := k.a, info := 10 + 256 }, reported := false } c t))) ∧
    (s.mayStart l k = false → exec (.matrixCommandStart l cmd) s = .next s) ∧
    ((s.engLc l).finishing k = true → k.kind = .mzero → ∃ (d : LCore) (t : State), exec (.mzeroComplete l cmd) s = .next t ∧ s.retires l k d t ∧
      d = { c with acc := d.acc, sat := d.sat, anchor := d.anchor } ∧
      (let tile := k.word.toNat % 4
       (∀ i, tget AccEnt.zero d.acc i = if tile * 4096 ≤ i ∧ i < (tile + 1) * 4096 then AccEnt.zero else tget AccEnt.zero c.acc i) ∧
       (∀ i, tget 0 d.anchor i = if i = tile then k.a.toInt else tget 0 c.anchor i) ∧ (∀ i, i ∈ d.sat ↔ i ∈ c.sat ∧ i ≠ tile))) ∧
    ((s.engLc l).finishing k = true → k.kind = .epload →
      let prog := fun (d : LCore) => ∀ i, tget 0 d.eprog i =
        if k.word.toNat % 8 * 16 ≤ i ∧ i < k.word.toNat % 8 * 16 + 16 then BitVec.ofNat 16 (fld k.snap (2 * (i - k.word.toNat % 8 * 16)) 2)
        else tget 0 c.eprog i
      (epiOk k.snap 16 = true → k.withImage = false → ∃ (d : LCore) (t : State), exec (.eploadComplete l cmd) s = .next t ∧ s.retires l k d t ∧
        d = { c with eprog := d.eprog } ∧ prog d) ∧
      (∀ bs u, epiOk k.snap 16 = true → k.withImage = true → s.cmdRead l k k.b.toNat 4096 = (.ok bs, u) → bs.length = 4096 →
        u.lcs = s.lcs → ∃ (d : LCore) (t : State), exec (.eploadComplete l cmd) s = .next t ∧ u.retires l k d t ∧
          d = { c with eprog := d.eprog, ereg := d.ereg } ∧ prog d ∧
          ∀ i, i < 1024 → tget 0 d.ereg i = BitVec.ofNat 32 (fld bs (4 * i) 4)) ∧
      (epiOk k.snap 16 = false → ∃ t, exec (.eploadComplete l cmd) s = .next t ∧
        s.entryNow l { k with
          fault := some { cause := 0x0F, addr := k.a, info := 10 + 256 }, reported := false, st := 1, snapped := false, snap := [] } c t))

/-- The matrix array's commands that run and are the oldest of the queue: an MMA adds every row left to its tile, each row from its own
activations, its row-steps counted for the Damper, and AANC.SAT shows then whether one of its additions has saturated; an MLOADW fills its
bank from the tile's words, every other cell inert; an MACCLD loads RAW96 rows, with one arrival at the record that it names. An MDRAIN that
runs writes its next row, from the entries, or from the output of the epilogue run once that has ended, with its scales and its mask record,
clears the entries under CLR, takes the row's bytes and finished chunks from the bound record, and starts the run of the next row with X the
next entries in FP32; the last row is written also behind a command that has faulted, and its update and the arrival follow, with the
completion, once the drain is the oldest of the queue (R200, R202, R265, R279, R283, R284, R286-R288, R291, R293, R430, R433, R434). That a
faulted command ahead leaves the last row written and its record waiting is the model's reading of R286 and R287 (log entry 79); that the
row-steps of a row wait for a window of the Damper is log entry 75. -/
def Obligations.MatrixArray : Prop :=
  (∀ (s : State) (l cmd : Nat) (k : Cmd), (s.lc l).cmd? cmd = some k → s.heldCmd l k = false → s.specS l = 0 →
    (s.engLc l).finishing k = true →
    let c := s.lc l
    let rows := shapeM k.b.toNat
    let word := fun (a : Nat) => leNat (tread 0 c.loc a 4)
    (k.kind = .mma → ∃ (d : LCore) (u t : State), exec (.mmaComplete l cmd) s = .next t ∧ u.retires l k d t ∧
      u = { s with rowSteps := u.rowSteps } ∧ d = { c with edt := d.edt, acc := d.acc, sat := d.sat } ∧
      (let w := k.k.toNat
       let base := fun (i : Nat) => pcwTile w * 4096 + (shapeT k.b.toNat + i) * 128
       let f : MmaCfg := { bank := k.bank, lim := if pcwF w = 0 then k.bank.bud else pcwF w, term := bitOf w 15, skip := bitOf w 14,
                           dual := bitOf w 13, anchor := tget 0 c.anchor (pcwTile w) }
       let cells := c.liveCells (pcwBank w)
       let row := fun (i : Nat) => mmaRow f cells (s.actLanes l k i) (tread AccEnt.zero c.acc (base i) 128)
       (∀ n, tget 0 u.rowSteps n = tget 0 s.rowSteps n + if c.core = some n then
         ((List.range (rows - k.pos)).map (fun i => rowStepsOf f cells (s.actLanes l k (k.pos + i)))).sum else 0) ∧
       (∀ i n, k.pos ≤ i → i < rows → n < 128 → tget AccEnt.zero d.acc (base i + n) = (row i).1.getD n AccEnt.zero) ∧
       (∀ j, (∀ i, k.pos ≤ i → i < rows → ¬(base i ≤ j ∧ j < base i + 128)) → tget AccEnt.zero d.acc j = tget AccEnt.zero c.acc j) ∧
       ∀ j, j ∈ d.sat ↔ j ∈ c.sat ∨ (j = pcwTile w ∧ (k.sat = true ∨ ∃ i, k.pos ≤ i ∧ i < rows ∧ (row i).2 = true)))) ∧
    (k.kind = .mloadw → headerOk k.snap k.b.toNat = true → ∃ (d : LCore) (t : State), exec (.mloadwComplete l cmd) s = .next t ∧
      s.retires l k d t ∧ d = { c with banks := d.banks } ∧
      (let h := k.snap
       let nb := thKbr h * thNcol h
       let bank := k.b.toNat % 8 * 2048
       (∀ j, ¬(bank ≤ j ∧ j < bank + 2048) → tget WCell.inert d.banks j = tget WCell.inert c.banks j) ∧
       ∀ r n, r < 16 → n < 128 →
         let cell := tget WCell.inert d.banks (bank + r * 128 + n)
         let b := r * thNcol h + n
         if r < thKbr h ∧ n < thNcol h then
           cell.side = BitVec.ofNat 32 (word (0x100000 + spSide (thSptr h) + 4 * b)) ∧ cell.slots.length = 17 ∧
             ∀ j, j < 17 → cell.slots.getD j 0 = if j ≤ thBud h then BitVec.ofNat 32 (word (spData (thSptr h) + 4 * (j * nb + b))) else 0
         else cell = WCell.inert)) ∧
    (k.kind = .maccld → ∃ (d : LCore) (t : State), exec (.maccldComplete l cmd) s = .next t ∧ s.retires l k d t ∧
      d = { c with
        edt := d.edt, acc := d.acc
        loc := if k.word.getLsbD 2 then
          twrite 0 c.loc k.c.toNat (arBytes (arUpdate (arOf (tread 0 c.loc k.c.toNat 32)) 0 1 0)) else c.loc } ∧
      (let base := fun (i : Nat) => k.word.toNat % 4 * 4096 + (shapeT k.b.toNat + i) * 128
       (∀ i n, k.pos ≤ i → i < rows → n < 128 →
         let e := tread 0 c.loc (spData k.a.toNat + 2048 * i + 16 * n) 16
         tget AccEnt.zero d.acc (base i + n) = { v := BitVec.ofNat 96 (fld e 0 12), cls := fld e 12 1 % 4 }) ∧
       ∀ j, (∀ i, k.pos ≤ i → i < rows → ¬(base i ≤ j ∧ j < base i + 128)) → tget AccEnt.zero d.acc j = tget AccEnt.zero c.acc j))) ∧
  ∀ (s : State) (l cmd : Nat) (k : Cmd), (s.lc l).cmd? cmd = some k → s.heldCmd l k = false → s.specS l = 0 →
    (s.lc l).core ≠ none → (s.lc l).mstop = false → k.kind = .mdrain → k.st = 2 → k.fault = none →
    let c := s.lc l
    let w := k.k.toNat
    let i := k.pos
    let rb := drainRow (dcwOfmt w)
    let base := dcwTile w * 4096 + (dcwFrow w + i) * 128
    let val := fun (e : AccEnt) => e.val (tget 0 c.anchor (dcwTile w))
    let update := fun (m : Tab Byte) (bytes arrivals : Nat) (chunks : W64) =>
      twrite 0 m k.c.toNat (arBytes (arUpdate (arOf (tread 0 m k.c.toNat 32)) bytes arrivals chunks))
    let chunks := fun (m : Tab Byte) (j : Nat) =>
      newChunks (arOf (tread 0 m k.c.toNat 32)) (spData k.a.toNat) (dcwRows w * rb) (j * rb) rb
    let ended := fun (m : Tab Byte) => if k.word.getLsbD 0 then update (update m rb 0 (chunks m (dcwRows w - 1))) 0 1 0 else m
    (i < dcwRows w → (dcwEps w = 0 ∧ c.epi = none) ∨ (dcwEps w ≠ 0 ∧ ∃ e, c.epi = some e ∧ e.out ≠ none) →
      let es := tread AccEnt.zero c.acc base 128
      let vs := match c.epi.bind (·.out) with
        | some o => (tread 0 o 0 128).map val32
        | none => es.map val
      let row := if dcwOfmt w = 8 then (rawBytes es, []) else drainBytes (dcwOfmt w) (dcwRnd w) vs
      let data := twrite 0 c.loc (spData k.a.toNat + i * rb) row.1
      let scales := if row.2 = [] then data else twrite 0 data (0x100000 + spSide k.a.toNat + 4 * i) row.2
      let wrote := if k.b = 0 then scales else twrite 0 scales (k.b.toNat + 16 * i) (maskBytes ((c.epi.map (·.m)).getD []))
      let acc := if dcwClr w then tclear c.acc base 128 else c.acc
      let x := (tread AccEnt.zero acc (base + 128) 128).map (fun e => BitVec.ofNat 32 (convV fp32 (dcwRnd w) (val e)).1)
      (i + 1 < dcwRows w → ∃ t, exec (.mdrainRowWritten l cmd) s = .next t ∧ s.entryNow l { k with pos := i + 1 } { c with
        loc := if k.word.getLsbD 0 then update wrote rb 0 (chunks wrote i) else wrote
        acc := acc
        epi := if dcwEps w = 0 then none
          else some { cmd := cmd, slot := dcwEps w - 1, op := 0, x := tlist 0 0 x, m := [], out := none } } t) ∧
      (i + 1 = dcwRows w → (s.engLc l).finishing k = true → ∃ t, exec (.mdrainRowWritten l cmd) s = .next t ∧
        s.retires l k { c with loc := ended wrote, acc := acc, epi := none } t) ∧
      (i + 1 = dcwRows w → (s.engLc l).finishing k = false → ∃ t, exec (.mdrainRowWritten l cmd) s = .next t ∧
        s.entryNow l { k with pos := i + 1 } { c with loc := wrote, acc := acc, epi := none } t)) ∧
    (i < dcwRows w → dcwEps w ≠ 0 → c.epi.bind (·.out) = none → exec (.mdrainRowWritten l cmd) s = .next s) ∧
    (dcwRows w ≤ i → (s.engLc l).finishing k = true → ∃ t, exec (.mdrainRowWritten l cmd) s = .next t ∧
      s.retires l k { c with loc := ended c.loc } t) ∧
    (dcwRows w ≤ i → (s.engLc l).finishing k = false → exec (.mdrainRowWritten l cmd) s = .next s)

/-- The block-transfer engine, of commands that no serial re-execution holds: a start whose template meets its checks is accepted with its
snapshot and its narrowed footprint, and a bad template faults with reason 10, its record known; the next chunk of a command writes its runs,
or sends each of their 128-byte blocks as an RST, or, of an FCMP, compares its bytes, and is counted at the record bound to the command,
remote bytes aside, which their RSTACKs count; with FPR the source bytes enter the fingerprint; a DECODE that stalls faults with reason 13; a
command whose chunks are all done writes its AUX result, arrives at its record under ARRV and completes (R202, R204, R214, R217, R219-R221,
R442). That a refused start keeps the template that it has read is the model's reading of R203 (log entries 58 and 69), and that a chunk is
one step, its bytes in ascending order, is the model's choice (log entry 82). -/
def Obligations.TransferEngine : Prop :=
  ∀ (s : State) (l cmd : Nat) (k : Cmd), (s.lc l).cmd? cmd = some k → s.heldCmd l k = false → s.specS l = 0 →
    let fault := fun (addr reason : Nat) => some ({ cause := 0x0F, addr := BitVec.ofNat 64 addr, info := BitVec.ofNat 64 (reason + 256) } : Trap)
    let at' := 0xFE000000000000 + 128 * (k.a.toNat % 4096)
    let lo := 512 * k.chunks
    let n := min 512 (k.streamBytes - lo)
    let first := (k.chunkUnits k.chunks).1
    let counted := fun (w : State) (bytes arrivals : Nat) (mask : Nat → ArRec → W64) =>
      match k.record l with
      | none => w
      | some (r, a) => w.setLc r { w.lc r with
          loc := twrite 0 (w.lc r).loc a (arBytes (arUpdate (arOf (tread 0 (w.lc r).loc a 32)) bytes arrivals
            (mask r (arOf (tread 0 (w.lc r).loc a 32))))) }
    let plain := fun (w : State) => ∀ r a, k.record l = some (r, a) → w.specS r = 0
    let chunkMask := fun (r : Nat) (e : ArRec) => k.chunkMask l r e lo (lo + n)
    (s.mayAccept l k = true →
      (k.a.toNat / 2 ^ 14 % 4 ≠ 0 → ∃ t, exec (.bteAccept l cmd) s = .next t ∧
        s.entryNow l { k with fault := fault at' 10, reported := false } (s.lc l) t) ∧
      (∀ tm u, k.a.toNat / 2 ^ 14 % 4 = 0 → s.cbRead l k at' 128 = (.ok tm, u) → u.lcs = s.lcs →
        let k1 := { k with snap := tm }
        let u1 := u.modCmd l cmd (fun k => { k with snap := tm })
        (tmplOk tm = false → ∃ t, exec (.bteAccept l cmd) s = .next t ∧
          u.entryNow l { k1 with fault := fault at' 10, reported := false } (s.lc l) t) ∧
        (tmplOk tm = true → (tmSkind tm = 1 → spOk k1.saddr = true) → (tmDkind tm = 1 → spOk k1.daddr = true) →
          (tmFpr tm = true → k1.streamBytes % 4 = 0) → tmXform tm ≠ 3 → tmArb tm < 2 ^ 30 →
          ∀ r v r1 r2 w, u1.bteFill l k1 = (.ok r, v) → v.lcs = u1.lcs → v.specS l = 0 → { k1 with snap2 := r }.derive = .ok (r1, r2, w) →
            ∃ t, exec (.bteAccept l cmd) s = .next t ∧ v.entryNow l { k with
              st := 1, snapped := true, snap := tm, snap2 := r, rd1 := r1, rd2 := r2, wr := w,
              xv := if tmXvs tm = 0 then 0 else (tget 0 (v.strand (l * 4 + k.strand)).xv (tmXvs tm)).toNat % 32 } (v.lc l) t))) ∧
    (s.mayAccept l k = false → exec (.bteAccept l cmd) s = .next s) ∧
    (s.mayMove l k = true → k.snap2 ≠ [] → ∀ raw out d u, s.chunkData l k k.chunks = (.ok raw out d, u) → u.lcs = s.lcs →
      let runs := k.chunkWrites k.chunks out
      let sums := fletcher (k.fletA, k.fletB) (wordsOf (slice raw (lo - first * k.unitBytes) n))
      let next := { k with
        st := 2, chunks := k.chunks + 1, dstate := d.st, pos := d.pos, emitted := d.n
        fletA := if tmFpr k.snap then sums.1 else k.fletA, fletB := if tmFpr k.snap then sums.2 else k.fletB }
      (tmXform k.snap ≠ 5 → k.dstEnd.kind = 1 → u.specS l = 0 → plain u → ∃ v t, exec (.bteChunkPerformed l cmd) s = .next t ∧
        u.entryNow l next { s.lc l with loc := runs.foldl (fun m r => twrite 0 m r.1.toNat r.2) (s.lc l).loc } v ∧
        t = counted v n 0 chunkMask) ∧
      (∀ v ps, tmXform k.snap ≠ 5 → k.dstEnd.kind = 0 ∨ k.dstEnd.kind = 3 → (∀ r ∈ runs, unsg 64 r.1 < 0xFF000000000000) →
        State.writable l runs u = (.ok ps, v) → v.lcs = s.lcs →
        let put := fun (w : State) (i : Nat) =>
          (w.vput l (unsg 64 (runs.getD i (0, [])).1) (ps.getD i []) (runs.getD i (0, [])).2).ownHeld l cmd w.outq.length
        let w := (List.range runs.length).foldl put v
        plain w → w.lcs = s.lcs → ∃ x t, exec (.bteChunkPerformed l cmd) s = .next t ∧
          w.entryNow l { next with spart := runs.foldl (fun a r => foldS a (unsg 64 r.1) r.2) k.spart } (s.lc l) x ∧
          t = counted x (n - w.heldSince v.outq.length) 0 chunkMask) ∧
      (tmXform k.snap ≠ 5 → k.dstEnd.kind = 2 →
        let blocks := runs.flatMap (fun r => blocks128 (r.2.length + 1) (unsg 64 r.1) r.2)
        (u.freeTags (s.lc l).die < blocks.length → exec (.bteChunkPerformed l cmd) s = .next u) ∧
        (blocks.length ≤ u.freeTags (s.lc l).die → (∀ r ∈ runs, unsg 64 r.1 < 2 ^ 51) → ∃ t, exec (.bteChunkPerformed l cmd) s = .next t ∧
          u.entryNow l { next with spart := runs.foldl (fun a r => foldS a (unsg 64 r.1) r.2) k.spart } (s.lc l)
            { t with txns := u.txns, nextTag := u.nextTag, inbox := u.inbox, waitq := u.waitq } ∧
          t.txns.take u.txns.length = u.txns ∧
          (t.txns.drop u.txns.length).map (fun x => (x.die, x.typ, x.addr, x.len, x.ord, x.slot, x.purpose)) = blocks.map (fun p =>
            ((s.lc l).die, 1, p.1, p.2.length, tmOrds k.snap, l / 4096, .bte l cmd p.2.length)) ∧
          let flags := (tmRflag k.snap).testBit 31 && !k.a.getLsbD 13
          ∀ p ∈ blocks, ∃ g, ((∃ e, (e, g) ∈ t.inbox) ∨ ∃ e ∈ t.waitq, e.flit = g) ∧ g.typ = 1 ∧ g.tc = 1 ∧ g.addr = p.1 ∧ g.payload = p.2 ∧
            g.ord = tmOrds k.snap ∧ g.fv = flags ∧ (flags = true → g.flag = tmRflag k.snap % 2 ^ 23 ∧
              g.op = if (tmRflag k.snap).testBit 30 then 1 else 0))) ∧
      (∀ other v, tmXform k.snap = 5 → State.dstUnits l k ((List.range (k.chunkUnits k.chunks).2).map (· + first)) u = (.ok other, v) →
        v.lcs = s.lcs → plain v →
        let cut := fun (b : List Byte) => wordsPad (slice b (lo - first * k.unitBytes) n)
        ∃ x t, exec (.bteChunkPerformed l cmd) s = .next t ∧ v.entryNow l { k with
          st := 2, chunks := k.chunks + 1
          match1 := if k.match1 ≠ 0xFFFFFFFF then k.match1 else (firstDiff (lo / 4) (cut raw) (cut other)).getD 0xFFFFFFFF } (s.lc l) x ∧
          t = counted x n 0 (fun _ _ => 0))) ∧
    (s.stalled l k = true → ∃ t, exec (.decodeStall l cmd) s = .next t ∧
      s.entryNow l { k with fault := fault (tmAux k.snap) 13, reported := false } (s.lc l) t) ∧
    (s.stalled l k = false → exec (.decodeStall l cmd) s = .next s) ∧
    (k.kind = .bte → k.snapped = true → k.fault = none → (s.lc l).core ≠ none → (s.lc l).stopping = false → k.chunkCount ≤ k.chunks →
      s.acked l cmd = true → plain s →
      let res := if tmXform k.snap = 5 then k.match1 * 2 ^ 32 + (if k.match1 = 0xFFFFFFFF then 1 else 0) else k.fletB * 2 ^ 32 + k.fletA
      let v := s.setLc l { s.lc l with
        loc := if tmFpr k.snap = true ∨ tmXform k.snap = 5 then twrite 0 (s.lc l).loc (tmAux k.snap) (leBytes 8 res) else (s.lc l).loc }
      let w := if tmArrv k.snap then counted v 0 1 (fun _ _ => 0) else v
      ∃ t, exec (.bteCommandComplete l cmd) s = .next t ∧ w.retires l k (w.lc l) t)

/-- Sketch units, of commands that no serial re-execution holds: the oldest that waits is accepted with bytes 0 to 15 of its descriptor, or
of both, or faults with reason 10, or, where an SKADD's descriptors disagree, with SKMIS; the next unit of a command: an SKUPD adds its value,
scaled and rounded, to the counter of every row with the row's sign, an SKADD a source counter to its destination, each saturating, and a
clamp, an infinity or a NaN sets SAT; an SKCLR makes a counter zero; a query reads its key's counters row by row, and its result, the FP32
value of the lower median of the signed counters, is counted at the record that it names; a command with no unit left completes (R196, R222,
R223, R274-R276, R443-R445). That the rows of a query follow in ascending order is the model's choice (log entry 82). Collectives: a COLL
whose descriptor is within its limits is accepted, in issue order, with the next match number of its group, and one whose is not faults with
reason 10, its record known; it completes, with one arrival at its record, once its buckets are finished and the segments that it sent
accepted; the next segment of a bucket that is to be passed to no further rank is written to DST and counted, and one of a context that is
gone is dropped (R203, R224-R226, R229, R230, R446). That a refused COLL keeps the descriptor that it has read is the model's reading of R203
(log entries 58 and 69). -/
def Obligations.SketchesAndCollectiveSteps : Prop :=
  (∀ (s : State) (l cmd : Nat) (k : Cmd), (s.lc l).cmd? cmd = some k → s.heldCmd l k = false → s.specS l = 0 → k.isSketch = true →
    let bad := fun (a : W64) => some ({ cause := 0x0F, addr := a, info := 10 + 256 } : Trap)
    let keep := fun (d : List Byte) => d.take 16 ++ List.replicate 48 0
    ((s.lc l).core ≠ none → (s.lc l).stopping = false → (s.ctx (l / 4096)).coll = none → k.queued = true → k.snapped = false →
      k.fault = none → (∀ j ∈ (s.engLc l).older cmd, j.isSketch = true → j.queued = true → j.snapped = true ∨ j.fault ≠ none) →
      ∀ d u, s.cbRead l k k.a.toNat 64 = (.ok d, u) → u.lcs = s.lcs →
        (skOk d = false → ∃ t, exec (.sketchAccept l cmd) s = .next t ∧
          u.entryNow l { k with fault := bad k.a, reported := false } (s.lc l) t) ∧
        (skOk d = true → ∀ p v, u.skPages l d (if k.kind = .skqry then .read else .write) = (.ok p, v) → v.lcs = s.lcs →
          (k.kind ≠ .skadd → ∃ t, exec (.sketchAccept l cmd) s = .next t ∧ v.entryNow l
            { k with st := 1, snapped := true, snap := keep d, dstate := p, emitted := 0 } (s.lc l) t) ∧
          (∀ e w, k.kind = .skadd → v.cbRead l k k.b.toNat 64 = (.ok e, w) → w.lcs = s.lcs →
            (skOk e = false → ∃ t, exec (.sketchAccept l cmd) s = .next t ∧
              w.entryNow l { k with fault := bad k.b, reported := false } (s.lc l) t) ∧
            (∀ q x, skOk e = true → w.skPages l e .read = (.ok q, x) → x.lcs = s.lcs →
              let agree := skRows d = skRows e ∧ skLogw d = skLogw e ∧ skExp d = skExp e ∧ skSeed d = skSeed e
              (agree → ∃ t, exec (.sketchAccept l cmd) s = .next t ∧ x.entryNow l
                { k with st := 1, snapped := true, snap := keep d ++ keep e, dstate := p, emitted := q } (s.lc l) t) ∧
              (¬agree → ∃ t, exec (.sketchAccept l cmd) s = .next t ∧ x.entryNow l
                { k with fault := some { cause := 0x12, addr := k.a, info := 256 }, reported := false } (s.lc l) t))))) ∧
    (s.sketchMay l k = true →
      let record := bitsOf k.c.toNat 46 32 * 32
      let update := fun (m : Tab Byte) (bytes arrivals : Nat) =>
        if k.kind = .skqry ∧ k.c.getLsbD 63 = true then
          twrite 0 m record (arBytes (arUpdate (arOf (tread 0 m record 32)) bytes arrivals 0))
        else m
      let z := if k.word.getLsbD 0 then 8 else 4
      let key := BitVec.ofNat 64 (leNat (tread 0 (s.lc l).loc (k.b.toNat % 2 ^ 20 + z * k.rows) z))
      let cell := fun (r : Nat) => (skBase k.snap + 4 * (r * 2 ^ skLogw k.snap + (skHash k.snap k.wideKeys key r).1)) % 2 ^ 64
      let neg := fun (r : Nat) => (skHash k.snap k.wideKeys key r).2
      let clamp := fun (v : Int) => max (-(2 ^ 31 : Int)) (min (2 ^ 31 - 1) v)
      let goes := fun (w : State) (c : Cmd) => ∃ t, exec (.sketchCommandComplete l ⟨cmd, 1⟩) s = .next t ∧
        (k.rows + 1 = k.sketchUnits → w.retires l c (w.lc l) t) ∧ (k.rows + 1 < k.sketchUnits → w.entryNow l c (w.lc l) t)
      let add := fun (r : State × Bool) (e : SkCell × Int) =>
        let v := sgn 32 (leNat (r.1.readLoc e.1.loc 4)) + e.2
        (r.1.vput l e.1.va [(e.1.loc, 4)] (leBytes 4 (unsg 32 (clamp v))), r.2 || clamp v != v)
      let adds := fun (u : State) (sat : Bool) (es : State → List (SkCell × Int)) (c : State → Cmd) =>
        let clamped := ((es u).foldl add (u, sat)).2
        ∀ ps v, u.skSatAt l k.a.toNat clamped = (.ok ps, v) → v.lcs = s.lcs → (clamped = true ↔ ps ≠ []) ∧
          let w := ((es v).foldl add (v, false)).1
          goes (if clamped then w.vput l (k.a.toNat + 16) ps (leBytes 8 (leNat (ps.flatMap (fun p => w.readLoc p.1 p.2)) ||| 1)) else w)
            { (c v) with
              st := 2, rows := k.rows + 1
              spart := (es v).foldl (fun a e => foldS a e.1.va (leBytes 4 (unsg 32 e.2))) k.spart }
      (∀ n, k.rows = k.sketchUnits → ∃ t, exec (.sketchCommandComplete l ⟨cmd, n⟩) s = .next t ∧
        s.retires l k { s.lc l with loc := update (s.lc l).loc 0 1 } t) ∧
      (k.kind = .skupd → k.rows < k.sketchUnits →
        let rows := List.range (skRows k.snap)
        let each := fun (q : Int) (sat : Bool) => ∀ place cs u,
          State.skUses l k.dstate (rows.map cell) s = (.ok (place, cs), u) → u.lcs = s.lcs →
            adds u sat (fun _ => List.zipWith (fun c r => (c, if neg r then -q else q)) cs rows) (fun _ => { k with dstate := place })
        match val32 (BitVec.ofNat 32 (leNat (tread 0 (s.lc l).loc (bitsOf k.b.toNat 51 32 + 4 * k.rows) 4))) with
        | .nan _ => adds s true (fun _ => []) (fun _ => k)
        | .inf down => each (if down then -(2 ^ 31 : Int) else 2 ^ 31 - 1) true
        | .fin _ x =>
          let q := roundNE (x.scale (-(skExp k.snap)))
          each (clamp q) (clamp q != q)) ∧
      (k.kind = .skadd → k.rows < k.sketchUnits → ∀ p q c e u v,
        s.skUse l ((skBase k.snap + 4 * k.rows) % 2 ^ 64) k.dstate .write true = (.ok (p, c), u) →
        u.skUse l ((skBase (k.snap.drop 64) + 4 * k.rows) % 2 ^ 64) k.emitted .read true = (.ok (q, e), v) → v.lcs = s.lcs →
        adds v false (fun w => [(c, sgn 32 (leNat (w.readLoc e.loc 4)))]) (fun _ => { k with dstate := p, emitted := q })) ∧
      (k.kind = .skclr → k.rows < k.sketchUnits → ∀ p c u, let va := (skBase k.snap + 4 * k.rows) % 2 ^ 64
        s.skUse l va k.dstate .write false = (.ok (p, c), u) → u.lcs = s.lcs →
        let w := u.vput l c.va [(c.loc, 4)] (leBytes 4 0)
        goes w { k with
          st := 2, rows := k.rows + 1, dstate := p
          spart := if k.rows = 0 ∨ va % 8 = 0 then foldS k.spart va (leBytes 4 0) else k.spart } ∧
        ∀ pa leaf, c.loc = .phys pa leaf → pa / 2 ^ 37 / 8 = s.env.pkgNo → pa % 2 ^ 37 < 0x1FFFFFF000 → pa < 2 ^ 51 → u.env = s.env →
          ∀ a, tget 0 w.mem a = if pa ≤ a ∧ a < pa + 4 then 0 else tget 0 u.mem a) ∧
      (k.kind = .skqry → k.rows < k.sketchUnits →
        let r := k.vals.length
        ∀ p e u, s.skUse l (cell r) k.dstate .read true = (.ok (p, e), u) → u.lcs = s.lcs → u.specS l = 0 →
          let v := sgn 32 (leNat (u.readLoc e.loc 4))
          let ts := k.vals ++ [if neg r then -v else v]
          (r + 1 < skRows k.snap → ∃ t, exec (.sketchCommandComplete l ⟨cmd, 1⟩) s = .next t ∧
            u.entryNow l { k with st := 2, vals := ts, dstate := p } (s.lc l) t) ∧
          (r + 1 = skRows k.snap →
            let loc := update (twrite 0 (s.lc l).loc (k.c.toNat % 2 ^ 20 + 4 * k.rows)
              (leBytes 4 (fp32.ofDy .rne { n := lowMedian ts, e := skExp k.snap } false).1)) 4 0
            ∃ t, exec (.sketchCommandComplete l ⟨cmd, 1⟩) s = .next t ∧
              (k.rows + 1 = k.sketchUnits → u.retires l k { s.lc l with loc := update loc 0 1 } t) ∧
              (k.rows + 1 < k.sketchUnits →
                u.entryNow l { k with st := 2, rows := k.rows + 1, vals := [], dstate := p } { s.lc l with loc := loc } t)))) ∧
    (∀ n, s.sketchMay l k = false → exec (.sketchCommandComplete l ⟨cmd, n⟩) s = .next s)) ∧
  ((∀ (s : State) (l cmd : Nat) (k : Cmd), (s.lc l).cmd? cmd = some k → s.heldCmd l k = false → k.kind = .coll → (s.lc l).core ≠ none →
    (s.lc l).stopping = false → (s.ctx (l / 4096)).coll = none → k.fault = none →
    ((∃ j ∈ (s.engLc l).older cmd, j.kind = .coll ∧ j.snapped = false) → exec (.collAccept l cmd) s = .next s) ∧
    (k.queued = true → k.snapped = false → (∀ j ∈ (s.engLc l).older cmd, j.kind = .coll → j.snapped = true) →
      ∀ d u, s.cbRead l k k.a.toNat 64 = (.ok d, u) → u.lcs = s.lcs → (u.ctx (l / 4096)).coll = none →
      (clOk d = false → ∃ t, exec (.collAccept l cmd) s = .next t ∧
        u.entryNow l { k with fault := some { cause := 0x0F, addr := k.a, info := 10 + 256 }, reported := false, snap := d } (s.lc l) t) ∧
      (clOk d = true → clArb d < 2 ^ 30 → l % 4096 ∈ (u.ctx (l / 4096)).members (clGrp d) →
        (clOp d = 3 → clRoot d < ((u.ctx (l / 4096)).members (clGrp d)).length) →
        (∀ m ∈ (u.ctx (l / 4096)).members (clGrp d), m ≠ l % 4096 → ∀ c,
          s.matched (l / 4096 * 4096 + m) (clGrp d) (tget 0 (s.lc l).collCount (clGrp d)) = some c → clSame c.snap d = true) →
        (∀ e ∈ (s.lc l).csig, e.1 ≠ cmd) →
        (∀ j ∈ (s.lc l).edt, j.kind = .coll → j.snapped = true → clGrp j.snap = clGrp d → j.pos ≠ tget 0 (s.lc l).collCount (clGrp d)) →
        let n := tget 0 (s.lc l).collCount (clGrp d)
        ∃ t, exec (.collAccept l cmd) s = .next t ∧ u.entryNow l { k with
            st := 1, snapped := true, snap := d, pos := n,
            buckets := List.replicate (clNbkt d) { signal := false, run := 0, sent := 0, got := 0 } }
          { s.lc l with collCount := tset 0 (s.lc l).collCount (clGrp d) (n + 1), csig := (t.lc l).csig } t ∧
          (t.lc l).csig = (s.lc l).csig)) ∧
    (k.snapped = true → s.collDone l k = true → s.outIdle l = true →
      (clArb k.snap < 2 ^ 31 → ∃ t, exec (.collComplete l cmd) s = .next t ∧ s.retires l k (s.lc l) t) ∧
      (2 ^ 31 ≤ clArb k.snap → clArb k.snap / 2 ^ 30 % 2 = 0 → k.sat = false → s.specS l = 0 →
        let a := clArb k.snap % 2 ^ 15 * 32
        ∃ t, exec (.collComplete l cmd) s = .next t ∧ s.retires l k { s.lc l with
          loc := twrite 0 (s.lc l).loc a (arBytes (arUpdate (arOf (tread 0 (s.lc l).loc a 32)) 0 1 0)) } t)) ∧
    (s.collDone l k = false ∨ s.outIdle l = false → exec (.collComplete l cmd) s = .next s)) ∧
  (∀ (s : State) (i d : Nat) (f : Flit), s.inbox[i]? = some (d, f) → f.typ = 7 →
    let l := f.note % 2 ^ 24
    let x := l / 4096
    ((s.ctx x).used = false ∨ s.ctxid x ≠ f.note / 2 ^ 24 % 2 ^ 24 → exec (.bseg i) s = .next { s with inbox := ldel s.inbox i }) ∧
    (∀ k u q lo hi, (s.ctx x).used = true → s.ctxid x = f.note / 2 ^ 24 % 2 ^ 24 → (s.lc l).cmd? k.id = some k →
      s.matched l (bitsOf f.addr 45 38) (f.note / 2 ^ 48 % 2 ^ 32) = some k → s.segDue l k f = true →
      let ring := s.collRing l k
      let p := ring.length
      let r := (s.ctx x).rank (clGrp k.snap) (l % 4096)
      let b := bitsOf f.addr 37 33
      let step := bitsOf f.addr 31 19
      (∀ j, s.matched (ring.getD ((r + p - 1) % p) l) (clGrp k.snap) k.pos = some j → clSame j.snap k.snap = true) →
      f.op / 4 % 2 = 0 → 2 ≤ clOp k.snap → clSteps k.snap p ≤ step + 1 → b < k.buckets.length →
      clItem k.snap p step ((r + p - 1) % p) = some (q, lo, hi) →
      s.collWrite l k.id (clDstAddr k.snap p b q (lo + f.flag * clPer k.snap)) (clWords k.snap f.payload) = (.ok (), u) →
      ∃ t, exec (.bseg i) s = .next t ∧ t.inbox = ldel s.inbox i ∧ t.mem = u.mem ∧ t.strands = u.strands ∧
        ((t.lc l).cmd? k.id).map (fun c => (c.bucket b).got) = some ((k.bucket b).got + 1))))

/-- Words written out from the tables of R300, R308-R314 and R436 decode to the instructions that they stand for, and the bundle of the
example of R298 to its two slots. -/
def Obligations.WordsDecode : Prop :=
  let g : Guard := { p := 0, neg := false }
  decodeWord .s 0x00051870 = some (.add g 5 6 7 0) ∧ decodeWord .s 0x38021052 = some (.cmp g 2 4 5 2) ∧
  decodeWord .s 0x3C061C83 = some (.sel g 6 7 8 3) ∧ decodeWord .s 0x58052040 = some (.addi g 5 8 64) ∧
  decodeWord .b 0x043FFFC0 = some (.br g 0x3FFFC0) ∧ decodeWord .b 0x1C114009 = some (.loop g 2 10 9) ∧
  decodeWord .m 0x010827F2 = some (.lds { p := 2, neg := false } 8 9 63 2) ∧ decodeWord .m 0x18032949 = some (.vldg g 3 10 5 1 1) ∧
  decodeWord .m 0x04002003 = some (.bteStart g 0 8 0 3) ∧ decodeWord .v 0x84020C40 = some (.tmovr { q := 0, z := false } 2 3 4 0) ∧
  decodeWord .e 0x000A2C00 = some (.mma g 10 11 0 0) ∧ decodeWord .e 0x180C4000 = some (.arinit g 12 16 0 0) ∧
  decodeEpi 0x7880 = some (.relum 8 8 0) ∧ decodeWord .e 0x70000000 = none ∧ decodeWord .b 0x00400000 = none ∧
  decodeBundle 64 [0x06, 0x52, 0x10, 0x02, 0x38, 0x83, 0x1C, 0x06, 0x3C] =
    .ok (some { len := 9, words := [(1, 0x38021052), (2, 0x3C061C83)], k := none })

/-- Decoding an encoded instruction gives it back: every well-formed slot instruction in a slot of its class, every operand at every value
that the encoding admits, and every epilogue operation. -/
def Obligations.DecodeEncode : Prop :=
  ∀ (i : Instr), i.wf = true →
    (i.slotClass ≠ .event → i.slotClass ≠ .epi → decodeWord i.slotClass (encode i) = some i) ∧
    (i.slotClass = .epi → decodeEpi (encodeEpi i) = some i)

/-- What a word decodes to is well-formed, is an instruction of the slot's class and encodes to that word, so a word has one meaning in a
slot; and so for an epilogue operation. -/
def Obligations.EncodeDecode : Prop :=
  (∀ (c : SlotClass) (w : W32) (i : Instr), decodeWord c w = some i → i.wf = true ∧ i.slotClass = c ∧ encode i = w) ∧
  (∀ (w : W16) (i : Instr), decodeEpi w = some i → i.wf = true ∧ i.slotClass = .epi ∧ encodeEpi i = w)

/-- A step on the issue of a logical core whose strand may issue, where the line at its PC holds a bundle of one slot word that encodes a
well-formed instruction `i` and nothing is wrong with it before a slot acts, is `exec i` in the state prepared for that bundle; then the PC
moves on, or the trap is entered, or the strand blocks or is held at its bundle, and a cycle passes (R295-R307, R380). Where what the
bundle does would report an event for which the arbiter has no room, it waits instead (R77). The one cycle is the model's choice (log
entry 7), as is where the wait stands (log entry 86). -/
def Obligations.StepRunsDecoded : Prop :=
  ∀ (s : State) (l t n : Nat) (rest : List Turn) (i : Instr) (bs : List Byte) (k : Option W32) (v : State), s.agenda = .issue l :: rest →
    let u := { s with agenda := rest }
    let pc := (s.strand t).pc
    let b : Bundle := { len := 1 + 4 * headerCount (bs.headD 0), words := [(n, encode i)], k := k }
    u.issuer l = some t → (u.modStrand t Strand.fresh).lineAt (t / 4) pc = (.ok bs, v) →
    i.wf = true → i.slotClass = slotClassOf n → i.slotClass ≠ .epi → i.slotClass ≠ .event →
    decodeBundle (64 - pc.toNat % 64) bs = .ok (some b) → illbOf ((v.strand t).inBody pc) k [i] = none → i.kOk (k.getD 0) = true →
    let p := v.prepare t pc b [(n, i)]
    p.screen [(n, i)] = none → p.me.occ = true → ∀ w, exec i (p.atSlot n) = .next w →
      let after := fun (x : State) => ((x.unlatch).handOver t).advance 1
      let comesTo := fun (x : State) =>
        (u.overflows (after x) = false → step s = .next (after x)) ∧ (u.overflows (after x) = true → step s = .next (u.idle 1))
      (w.latch.out = .ok → comesTo (w.commit p [(n, i)])) ∧
      (∀ tr, w.latch.out = .trapped tr → comesTo w) ∧
      (w.latch.out = .blocked → comesTo (w.onMe (fun st => { st with pc := pc }))) ∧
      (w.latch.out = .stalled → comesTo (p.onMe (fun st => { st with pc := pc })))

/-- Every step of every state is a next state: no instruction and no other agent's step ends in a fault or a refusal. That a step
which is not due leaves the state as it is, and that the one fault there is, of a slot word run without a firing, is reached by no step, are
the model's choices (log entries 63 and 64). -/
def Obligations.StepGoesOn : Prop := ∀ (s : State), ∃ t, step s = .next t

/-- Every step keeps memory in canonical form: addresses strictly rising and no byte listed that an unlisted address reads as. What an unlisted
address reads as, zero, is the model's choice (log entry 4). -/
def Obligations.MemoryCanonical : Prop := ∀ (s t : State), s.memOk → step s = .next t → t.memOk

/-- After power-good the package is in step 1 of a Kindling with READY clear; no context, logical core or strand is there, no event is
held and the first will bear SEQ 1, memory is canonical (R17, R20, R26, R74, R75). -/
def Obligations.ResetState : Prop :=
  let s := State.reset
  s.power = .kindling ∧ s.kstat.step = 1 ∧ s.kstat.ready = false ∧ s.kstat.err = 0 ∧ s.kstat.cold = true ∧ (∀ x, (s.ctx x).used = false) ∧
    (∀ l, (s.lc l).used = false) ∧ (∀ t, (s.strand t).occ = false) ∧ s.arb.held = [] ∧ s.arb.nextSeq = 1 ∧ s.arb.logOn = false ∧ s.memOk ∧
    s.cmdQ = [] ∧ s.lines = []
end

