-- ==== Sys2Proof/Laws/Tab.lean ====
section
/-! SUPPORT. Laws of the sparse tables: what each operation reads as at every key, and that each keeps the canonical form. -/

namespace Sys2Proof.Machine

variable {α : Type}

/-! ### Reading -/

theorem tget_filter (d : α) (p : Nat → Bool) (t : Tab α) (n : Nat) :
    tget d (t.filter (fun e => p e.1)) n = if p n then tget d t n else d := by
  induction t with
  | nil => simp [tget]
  | cons e t ih =>
    obtain ⟨k, v⟩ := e
    by_cases hk : k = n
    · subst hk
      by_cases hp : p k <;> simp [hp, tget, ih]
    · by_cases hp : p k <;> simp [hp, tget, ih, hk]

theorem tget_append_left (d : α) (l r : Tab α) (n : Nat) (h : ∀ e ∈ l, e.1 ≠ n) : tget d (l ++ r) n = tget d r n := by
  induction l with
  | nil => rfl
  | cons e l ih =>
    obtain ⟨k, v⟩ := e
    have hk : k ≠ n := h (k, v) (by simp)
    simp [tget, hk]
    exact ih (fun e he => h e (by simp [he]))

theorem tget_append_right (d : α) (l r : Tab α) (n : Nat) (h : tget d r n = d) : tget d (l ++ r) n = tget d l n := by
  induction l with
  | nil => simpa [tget] using h
  | cons e l ih =>
    obtain ⟨k, v⟩ := e
    by_cases hk : k = n <;> simp [tget, hk, ih]

theorem tget_absent (d : α) (t : Tab α) (n : Nat) (h : ∀ e ∈ t, e.1 ≠ n) : tget d t n = d := by
  simpa [tget] using tget_append_left d t [] n h

variable [DecidableEq α]

/-- A read after a write: the key written reads as the value, every other key as before. -/
theorem tget_tset (d : α) (t : Tab α) (n m : Nat) (v : α) : tget d (tset d t n v) m = if m = n then v else tget d t m := by
  have hl : ∀ e ∈ t.filter (fun e => decide (e.1 < n)), e.1 < n := by simp
  have hr : ∀ e ∈ t.filter (fun e => decide (n < e.1)), n < e.1 := by simp
  unfold tset
  rcases Nat.lt_trichotomy m n with h | h | h
  · rw [tget_append_right, tget_filter d (fun k => decide (k < n))]
    · simp [h, Nat.ne_of_lt h]
    · rw [tget_absent]
      intro e he
      simp only [List.mem_append] at he
      rcases he with he | he
      · split at he <;> simp at he
        subst he; simp; omega
      · have := hr e he; omega
  · subst h
    rw [tget_append_left _ _ _ _ (fun e he => by have := hl e he; omega)]
    by_cases hv : v = d
    · simp only [hv, if_true, List.nil_append]
      exact tget_absent _ _ _ (fun e he => by have := hr e he; omega)
    · simp [hv, tget]
  · rw [tget_append_left _ _ _ _ (fun e he => by have := hl e he; omega),
      tget_append_left, tget_filter d (fun k => decide (n < k))]
    · simp [h, Nat.ne_of_gt h]
    · intro e he
      split at he <;> simp at he
      subst he; simp; omega

@[simp] theorem tget_tset_same (d : α) (t : Tab α) (n : Nat) (v : α) : tget d (tset d t n v) n = v := by simp [tget_tset]

theorem tget_tset_other (d : α) (t : Tab α) (n m : Nat) (v : α) (h : m ≠ n) : tget d (tset d t n v) m = tget d t m := by
  simp [tget_tset, h]

theorem tget_tlist (d : α) (a : Nat) (vs : List α) (m : Nat) :
    tget d (tlist d a vs) m = if a ≤ m ∧ m < a + vs.length then vs.getD (m - a) d else d := by
  induction vs generalizing a with
  | nil => simp [tlist, tget]
  | cons v vs ih =>
    have hcons : tget d (tlist d a (v :: vs)) m = if a = m then v else tget d (tlist d (a + 1) vs) m := by
      by_cases hv : v = d
      · simp only [tlist, hv, if_true]
        split
        · subst_vars; rw [ih]; simp
        · rfl
      · simp [tlist, hv, tget]
    rw [hcons, ih]
    by_cases ham : a = m
    · subst ham; simp
    · simp only [ham, if_false, List.length_cons]
      by_cases h : a + 1 ≤ m ∧ m < a + 1 + vs.length
      · rw [if_pos h, if_pos (by omega)]
        obtain ⟨j, hj⟩ : ∃ j, m - a = j + 1 := ⟨m - a - 1, by omega⟩
        have : m - (a + 1) = j := by omega
        simp [hj, this]
      · rw [if_neg h, if_neg (by omega)]

/-- A read after a write of several values. -/
theorem tget_twrite (d : α) (t : Tab α) (a : Nat) (vs : List α) (m : Nat) :
    tget d (twrite d t a vs) m = if a ≤ m ∧ m < a + vs.length then vs.getD (m - a) d else tget d t m := by
  have hf : ∀ (p : Nat → Bool), tget d (t.filter (fun e => p e.1)) m = if p m then tget d t m else d := fun p => tget_filter d p t m
  have hmem : ∀ e ∈ tlist d a vs, a ≤ e.1 ∧ e.1 < a + vs.length := by
    clear hf
    induction vs generalizing a with
    | nil => simp [tlist]
    | cons v vs ih =>
      intro e he
      have := ih (a + 1) e
      unfold tlist at he
      simp only [List.length_cons]
      split at he
      · have := this he; omega
      · rcases List.mem_cons.1 he with rfl | he
        · simp
        · have := this he; omega
  unfold twrite
  by_cases h : a ≤ m ∧ m < a + vs.length
  · rw [if_pos h, tget_append_left _ _ _ _ (fun e he => by simp at he; omega), tget_append_right, tget_tlist, if_pos h]
    rw [hf (fun k => decide (a + vs.length ≤ k))]
    simp; omega
  · rw [if_neg h]
    by_cases hm : m < a
    · rw [tget_append_right, hf (fun k => decide (k < a))]
      · simp [hm]
      · rw [tget_absent]
        intro e he
        rcases List.mem_append.1 he with he | he
        · have := hmem e he; omega
        · simp at he; omega
    · rw [tget_append_left _ _ _ _ (fun e he => by simp at he; omega),
        tget_append_left _ _ _ _ (fun e he => by have := hmem e he; omega), hf (fun k => decide (a + vs.length ≤ k))]
      simp; omega

omit [DecidableEq α] in
theorem tget_tclear (d : α) (t : Tab α) (a n m : Nat) : tget d (tclear t a n) m = if a ≤ m ∧ m < a + n then d else tget d t m := by
  unfold tclear
  rw [tget_filter d (fun k => decide (k < a) || decide (a + n ≤ k))]
  by_cases h : a ≤ m ∧ m < a + n
  · rw [if_pos h, if_neg (by simp; omega)]
  · rw [if_neg h, if_pos (by simp; omega)]

omit [DecidableEq α] in
/-- A block read is one read for each key. -/
theorem tread_eq (d : α) (t : Tab α) (a n : Nat) : tread d t a n = (List.range n).map (fun i => tget d t (a + i)) := by
  unfold tread
  apply List.map_congr_left
  intro i hi
  rw [tget_filter d (fun k => decide (a ≤ k) && decide (k < a + n))]
  have := List.mem_range.1 hi
  simp; omega

omit [DecidableEq α] in
@[simp] theorem tread_length (d : α) (t : Tab α) (a n : Nat) : (tread d t a n).length = n := by simp [tread]

omit [DecidableEq α] in
theorem tread_getD (d : α) (t : Tab α) (a n i : Nat) (h : i < n) : (tread d t a n).getD i d = tget d t (a + i) := by
  rw [tread_eq]; simp [List.getD, h]

/-! ### The canonical form -/

theorem tOkFrom_mono (d : α) (lo lo' : Nat) (t : Tab α) (h : lo' ≤ lo) (ok : tOkFrom d lo t = true) : tOkFrom d lo' t = true := by
  cases t with
  | nil => rfl
  | cons e t =>
    obtain ⟨k, v⟩ := e
    simp only [tOkFrom, Bool.and_eq_true, decide_eq_true_eq] at ok ⊢
    exact ⟨⟨by omega, ok.1.2⟩, ok.2⟩

theorem tOkFrom_filter (d : α) (p : Nat × α → Bool) (lo : Nat) (t : Tab α) (ok : tOkFrom d lo t = true) :
    tOkFrom d lo (t.filter p) = true := by
  induction t generalizing lo with
  | nil => rfl
  | cons e t ih =>
    obtain ⟨k, v⟩ := e
    simp only [tOkFrom, Bool.and_eq_true, decide_eq_true_eq] at ok
    rw [List.filter_cons]
    split
    · simp only [tOkFrom, Bool.and_eq_true, decide_eq_true_eq]
      exact ⟨ok.1, ih _ ok.2⟩
    · exact tOkFrom_mono d (k + 1) lo _ (by omega) (ih _ ok.2)

theorem tOkFrom_lower (d : α) (lo n : Nat) (t : Tab α) (ok : tOkFrom d lo t = true) (h : ∀ e ∈ t, n ≤ e.1) : tOkFrom d n t = true := by
  cases t with
  | nil => rfl
  | cons e t =>
    obtain ⟨k, v⟩ := e
    have := h (k, v) (by simp)
    simp only [tOkFrom, Bool.and_eq_true, decide_eq_true_eq] at ok ⊢
    exact ⟨⟨this, ok.1.2⟩, ok.2⟩

theorem tOkFrom_append (d : α) (lo n : Nat) (l r : Tab α) (hl : tOkFrom d lo l = true) (hn : ∀ e ∈ l, e.1 < n) (hlo : lo ≤ n)
    (hr : tOkFrom d n r = true) : tOkFrom d lo (l ++ r) = true := by
  induction l generalizing lo with
  | nil => exact tOkFrom_mono d n lo _ hlo hr
  | cons e l ih =>
    obtain ⟨k, v⟩ := e
    have hk := hn (k, v) (by simp)
    simp only [tOkFrom, Bool.and_eq_true, decide_eq_true_eq, List.cons_append] at hl ⊢
    exact ⟨hl.1, ih _ hl.2 (fun e he => hn e (by simp [he])) (by simpa using hk)⟩

theorem tOkFrom_tlist (d : α) (a : Nat) (vs : List α) : tOkFrom d a (tlist d a vs) = true := by
  induction vs generalizing a with
  | nil => rfl
  | cons v vs ih =>
    unfold tlist
    split
    · exact tOkFrom_mono d (a + 1) a _ (by omega) (ih _)
    · simp only [tOkFrom, Bool.and_eq_true, decide_eq_true_eq]
      exact ⟨⟨Nat.le_refl _, ‹_›⟩, ih _⟩

theorem tlist_keys (d : α) (a : Nat) (vs : List α) : ∀ e ∈ tlist d a vs, a ≤ e.1 ∧ e.1 < a + vs.length := by
  induction vs generalizing a with
  | nil => simp [tlist]
  | cons v vs ih =>
    intro e he
    have h := ih (a + 1) e
    simp only [List.length_cons]
    unfold tlist at he
    split at he
    · have := h he; omega
    · rcases List.mem_cons.1 he with rfl | he
      · simp
      · have := h he; omega

theorem tOk_filter (d : α) (p : Nat × α → Bool) (t : Tab α) (ok : tOk d t = true) : tOk d (t.filter p) = true :=
  tOkFrom_filter d p 0 t ok

theorem tOk_tlist (d : α) (a : Nat) (vs : List α) : tOk d (tlist d a vs) = true :=
  tOkFrom_mono d a 0 _ (Nat.zero_le _) (tOkFrom_tlist d a vs)

theorem tOk_tset (d : α) (t : Tab α) (n : Nat) (v : α) (ok : tOk d t = true) : tOk d (tset d t n v) = true := by
  unfold tOk tset at *
  refine tOkFrom_append d 0 n _ _ (tOkFrom_filter _ _ _ _ ok) (by simp) (Nat.zero_le _) ?_
  have hr := tOkFrom_lower d 0 (n + 1) _ (tOkFrom_filter d (fun e => decide (n < e.1)) 0 t ok)
    (by intro e he; simp at he; omega)
  split
  · simpa using tOkFrom_mono d _ n _ (by omega) hr
  · simp only [List.singleton_append, tOkFrom, Bool.and_eq_true, decide_eq_true_eq]
    exact ⟨⟨Nat.le_refl _, ‹_›⟩, hr⟩

theorem tOk_twrite (d : α) (t : Tab α) (a : Nat) (vs : List α) (ok : tOk d t = true) : tOk d (twrite d t a vs) = true := by
  unfold tOk twrite at *
  refine tOkFrom_append d 0 a _ _ (tOkFrom_filter _ _ _ _ ok) (by simp) (Nat.zero_le _) ?_
  refine tOkFrom_append d a (a + vs.length) _ _ (tOkFrom_tlist d a vs) (fun e he => (tlist_keys d a vs e he).2) (by omega) ?_
  exact tOkFrom_lower d 0 _ _ (tOkFrom_filter _ _ _ _ ok) (by simp)

theorem tOk_tclear (d : α) (t : Tab α) (a n : Nat) (ok : tOk d t = true) : tOk d (tclear t a n) = true := tOk_filter d _ t ok

/-- Two tables in canonical form that read alike at every key are equal. -/
theorem tab_ext (d : α) (t u : Tab α) (ht : tOk d t = true) (hu : tOk d u = true) (h : ∀ n, tget d t n = tget d u n) : t = u := by
  have key : ∀ (lo : Nat) (t u : Tab α), tOkFrom d lo t = true → tOkFrom d lo u = true → (∀ n, tget d t n = tget d u n) → t = u := by
    have low : ∀ (lo : Nat) (t : Tab α) (n : Nat), tOkFrom d lo t = true → n < lo → tget d t n = d := by
      intro lo t
      induction t generalizing lo with
      | nil => intros; rfl
      | cons e t ih =>
        obtain ⟨k, v⟩ := e
        intro n ok hn
        simp only [tOkFrom, Bool.and_eq_true, decide_eq_true_eq] at ok
        rw [tget, if_neg (by omega), ih _ _ ok.2 (by omega)]
    intro lo t
    induction t generalizing lo with
    | nil =>
      intro u _ hu h
      cases u with
      | nil => rfl
      | cons e u =>
        obtain ⟨k, v⟩ := e
        simp only [tOkFrom, Bool.and_eq_true, decide_eq_true_eq] at hu
        have := h k
        simp [tget] at this
        exact absurd this.symm hu.1.2
    | cons e t ih =>
      obtain ⟨k, v⟩ := e
      intro u ht hu h
      simp only [tOkFrom, Bool.and_eq_true, decide_eq_true_eq] at ht
      cases u with
      | nil =>
        have := h k
        simp [tget] at this
        exact absurd this ht.1.2
      | cons e' u =>
        obtain ⟨k', v'⟩ := e'
        simp only [tOkFrom, Bool.and_eq_true, decide_eq_true_eq] at hu
        have hkk : k = k' := by
          rcases Nat.lt_trichotomy k k' with hlt | heq | hgt
          · have := h k
            rw [tget, if_pos rfl, tget, if_neg (by omega), low _ u k hu.2 (by omega)] at this
            exact absurd this ht.1.2
          · exact heq
          · have := h k'
            rw [tget, if_neg (by omega), tget, if_pos rfl, low _ t k' ht.2 (by omega)] at this
            exact absurd this.symm hu.1.2
        subst hkk
        have hv := h k
        simp only [tget, if_true] at hv
        subst hv
        rw [ih (k + 1) u ht.2 hu.2]
        intro n
        by_cases hn : k = n
        · subst hn
          rw [low _ t k ht.2 (by omega), low _ u k hu.2 (by omega)]
        · have := h n
          simpa [tget, hn] using this
  exact key 0 t u ht hu h

/-- Writing a value back leaves a canonical table as it is. -/
theorem tset_tget (d : α) (t : Tab α) (n : Nat) (ok : tOk d t = true) : tset d t n (tget d t n) = t := by
  apply tab_ext d _ _ (tOk_tset d t n _ ok) ok
  intro m
  rw [tget_tset]
  split
  · subst_vars; rfl
  · rfl

end Sys2Proof.Machine
end

