-- ==== Sys2Proof/Laws/Image.lean ====
section
/-! SUPPORT. Laws of images (R132-R148): fields and sections of a byte string that ends in zeros, its Fletcher-64 sum, and the body of the
image of an idle context. -/

namespace Sys2Proof.Machine

theorem slice_replicate {α : Type} (a : α) (m n k : Nat) : slice (List.replicate m a) n k = List.replicate (min k (m - n)) a := by
  simp [slice, List.drop_replicate, List.take_replicate]

theorem slice_append_left {α : Type} (l r : List α) (n k : Nat) (h : n + k ≤ l.length) : slice (l ++ r) n k = slice l n k := by
  rw [slice, List.drop_append_of_le_length (by omega), List.take_append_of_le_length (by simp; omega), slice]

theorem slice_append_right {α : Type} (l r : List α) (n k : Nat) (h : l.length ≤ n) : slice (l ++ r) n k = slice r (n - l.length) k := by
  rw [slice, List.drop_append, List.drop_eq_nil_of_le h, List.nil_append, slice]

theorem leNat_zeros (n : Nat) : leNat (List.replicate n 0#8) = 0 := by
  induction n with
  | zero => rfl
  | succ n ih => rw [List.replicate_succ, leNat, ih]; rfl

theorem fld_zeros (m n k : Nat) : fld (List.replicate m 0#8) n k = 0 := by rw [fld, slice_replicate, leNat_zeros]

theorem fld_append_left (l r : List Byte) (n k : Nat) (h : n + k ≤ l.length) : fld (l ++ r) n k = fld l n k := by
  rw [fld, slice_append_left l r n k h, fld]

/-- A region that lists nothing past its first `k` keys reads as defaults there. -/
theorem tread_zeros {α : Type} (d : α) (t : Tab α) (a k m : Nat) (h : ∀ e ∈ t, e.1 < a + k ∨ a + k + m ≤ e.1) :
    tread d t a (k + m) = tread d t a k ++ List.replicate m d := by
  rw [tread_eq, tread_eq, List.range_add, List.map_append, List.map_map]
  congr 1
  rw [List.eq_replicate_iff]
  refine ⟨by simp, fun b hb => ?_⟩
  obtain ⟨i, hi, rfl⟩ := List.mem_map.1 hb
  exact tget_absent _ _ _ (fun e he => by have := h e he; have := List.mem_range.1 hi; show e.1 ≠ a + (k + i); omega)

theorem wordsOf_append (n : Nat) : ∀ (l r : List Byte), l.length = 4 * n → wordsOf (l ++ r) = wordsOf l ++ wordsOf r := by
  induction n with
  | zero => intro l r h; simp at h; simp [h, wordsOf]
  | succ n ih =>
    intro l r h
    match l, h with
    | a :: b :: c :: d :: t, h => simp [wordsOf, ih t r (by simp at h; omega)]

theorem wordsOf_zeros (n : Nat) : wordsOf (List.replicate (4 * n) 0#8) = List.replicate n 0#32 := by
  induction n with
  | zero => rfl
  | succ n ih => rw [Nat.mul_succ]; simp [List.replicate_succ, wordsOf, ih, leNat]

theorem fletcher_append (ab : Nat × Nat) (l r : List W32) : fletcher ab (l ++ r) = fletcher (fletcher ab l) r := by
  simp [fletcher, List.foldl_append]

/-- Words of zeros leave the first sum and add it to the second. -/
theorem fletcher_zeros (n a b : Nat) (h : a < 0xFFFFFFFF) (hb : b < 0xFFFFFFFF) :
    fletcher (a, b) (List.replicate n 0#32) = (a, (b + n * a) % 0xFFFFFFFF) := by
  induction n generalizing b with
  | zero => simp [fletcher, Nat.mod_eq_of_lt hb]
  | succ n ih =>
    have e : fletcher (a, b) (List.replicate (n + 1) 0#32) = fletcher (a, (b + a) % 0xFFFFFFFF) (List.replicate n 0#32) := by
      simp [fletcher, List.replicate_succ, Nat.mod_eq_of_lt h]
    rw [e, ih _ (Nat.mod_lt _ (by decide)), Nat.mod_add_mod]
    congr 2; ring

theorem readStrand_zeros (gs : List Graph) (now n : Nat) : readStrand gs now (List.replicate n 0#8) = some Strand.idle := by
  simp [readStrand, fld_zeros, bitOf]

theorem tlist_defaults {α : Type} [DecidableEq α] (d : α) (n a : Nat) : tlist d a (List.replicate n d) = [] := by
  induction n generalizing a with
  | zero => rfl
  | succ n ih => simp [List.replicate_succ, tlist, ih]

theorem rawEntriesAll_zeros (n : Nat) : readLCore.rawEntriesAll (List.replicate n 0#8) = List.replicate (n / 16) AccEnt.zero := by
  have h : ∀ i, AccEnt.mk (BitVec.ofNat 96 (fld (slice (List.replicate n 0#8) (i * 16) 16) 0 12))
      (fld (slice (List.replicate n 0#8) (i * 16) 16) 12 1 % 4) = AccEnt.zero := by
    intro i; rw [slice_replicate, fld_zeros, fld_zeros]; rfl
  simp only [readLCore.rawEntriesAll, parts, List.map_map, List.length_replicate]
  rw [List.eq_replicate_iff]
  refine ⟨by simp, fun b hb => ?_⟩
  obtain ⟨i, -, rfl⟩ := List.mem_map.1 hb
  exact h i

/-- The logical core that a record of zeros describes: an idle one with nothing in it. -/
def idleLCore : LCore :=
  { LCore.none with
    used := true, bdecl := tlist BankDecl.none 0 (List.replicate 8 { fmt := 0, bud := 0, kbr := 1, loaded := false }) }

theorem readLCore_zeros (gs : List Graph) (now m : Nat) (hm : m = 0x4A700) :
    readLCore gs now 0 (List.replicate m 0#8) = some (idleLCore, List.replicate 4 Strand.idle) := by
  have hb : ∀ n, bitsList 0 n = [] := by intro n; simp [bitsList, bitOf]
  have hs : (List.range 4).map (fun i => readStrand gs now (slice (List.replicate m 0#8) (0x100 + 0x2500 * i) 0x2500)) =
      List.replicate 4 (some Strand.idle) := by
    simp only [slice_replicate, readStrand_zeros]; rfl
  have ha : tlist AccEnt.zero 0 (readLCore.rawEntriesAll (slice (List.replicate m 0#8) 0x9500 0x40000)) = [] := by
    rw [slice_replicate, rawEntriesAll_zeros, tlist_defaults]
  have hr : tlist (0 : W32) 0 (wordsOf (slice (List.replicate m 0#8) 0x49600 0x1000)) = [] := by
    rw [slice_replicate, show min 0x1000 (m - 0x49600) = 4 * 1024 by omega, wordsOf_zeros]; exact tlist_defaults _ _ _
  have hp : tlist (0 : BitVec 16) 0 ((List.range 128).map (fun _ => 0#16)) = [] := by rw [List.map_const']; exact tlist_defaults _ _ _
  unfold readLCore
  simp only [fld_zeros, hb, hs, List.length_replicate, ha, hr, hp]
  rw [if_neg (by rw [hm]; decide), if_neg (by decide)]
  simp only [show ((List.replicate 4 (some Strand.idle)).filterMap id) = List.replicate 4 Strand.idle from rfl,
    show (List.replicate 4 Strand.idle).zipIdx.flatMap (fun e => e.1.dirtyTiles.map (fun m => (e.2, m))) = [] by decide]
  rw [if_neg (by simp)]
  simp only [List.range_zero, List.map_nil, List.filterMap_nil, List.zipIdx_nil, List.filter_nil, List.flatMap_nil]
  rfl

theorem imgPart_tail (p : List Byte) (z a n : Nat) (h : p.length ≤ a) (hz : a + n ≤ p.length + z) :
    imgPart (p ++ List.replicate z 0#8) a n = some (List.replicate n 0#8) := by
  rw [imgPart, if_pos (by simpa using hz), slice_append_right _ _ _ _ h, slice_replicate, Nat.min_eq_left (by omega)]

theorem imgPart_head (p r : List Byte) (a n : Nat) (h : a + n ≤ p.length) : imgPart (p ++ r) a n = some (slice p a n) := by
  rw [imgPart, if_pos (by simp; omega), slice_append_left _ _ _ _ h]

/-- The Fletcher-64 sum of bytes that end in zeros. -/
theorem fletcherOf_zeros (l : List Byte) (j n a b : Nat) (hl : l.length = 4 * j) (h : fletcher (0, 0) (wordsOf l) = (a, b))
    (ha : a < 0xFFFFFFFF) (hb : b < 0xFFFFFFFF) :
    fletcherOf (l ++ List.replicate (4 * n) 0#8) = (b + n * a) % 0xFFFFFFFF * 2 ^ 32 + a := by
  rw [fletcherOf, wordsOf_append j l _ hl, wordsOf_zeros, fletcher_append, h, fletcher_zeros n a b ha hb]

/-- An image that lies in the second tier, its bytes `p` followed by zeros, is read where its header and its sum are right. -/
theorem State.readImage_zeros (s : State) (addr j n a b : Nat) (p : List Byte) (hp : p.length = 4 * j) (h32 : 32 ≤ p.length) (hi : 2 ^ 51 ≤ addr)
    (hm : isMgmt addr = false) (hr : tread 0 s.mem addr p.length = p)
    (hz : ∀ e ∈ s.mem, e.1 < addr + p.length ∨ addr + p.length + 4 * n ≤ e.1)
    (hh : let h := s.pread addr 256
      fld h 0 8 = imageMagic ∧ fld h 10 2 = 1 ∧ fld h 16 8 = p.length + 4 * n ∧ 256 ≤ p.length ∧ addr % 2 ^ 50 + (p.length + 4 * n) ≤ Config.tierSize)
    (hs : fletcher (0, 0) (wordsOf (p.take 24 ++ List.replicate 8 0 ++ p.drop 32)) = (a, b)) (ha : a < 0xFFFFFFFF) (hb : b < 0xFFFFFFFF)
    (hf : (b + n * a) % 0xFFFFFFFF * 2 ^ 32 + a = fld p 24 8) :
    s.readImage addr = some (p ++ List.replicate (4 * n) 0#8) := by
  obtain ⟨m0, m1, m2, m3, m4⟩ := hh
  have hb' : s.pread addr (p.length + 4 * n) = p ++ List.replicate (4 * n) 0#8 := by
    rw [State.pread, if_neg (by omega), hm, if_neg (by simp), tread_zeros 0 s.mem addr p.length (4 * n) hz, hr]; rfl
  unfold State.readImage
  simp only [m0, m1, m2, hb']
  rw [if_neg (by omega), if_neg (by omega)]
  have e : (p ++ List.replicate (4 * n) 0#8).take 24 ++ List.replicate 8 0 ++ (p ++ List.replicate (4 * n) 0#8).drop 32 =
      (p.take 24 ++ List.replicate 8 0 ++ p.drop 32) ++ List.replicate (4 * n) 0#8 := by
    rw [List.take_append_of_le_length (by omega), List.drop_append_of_le_length (by omega), List.append_assoc, List.append_assoc, List.append_assoc]
  rw [e, fletcherOf_zeros _ j n a b (by simp; omega) hs ha hb, hf, fld_append_left _ _ _ _ (by omega), if_pos rfl]

/-- The body of the image of an idle context of one logical core, of which only the header and the directory are not zero. -/
theorem readBody_idle (img d : List Byte) (now m : Nat) (hm : m = 0x4A700) (hl : img.length = 0x4B300) (hd : imgPart img 256 16 = some d)
    (hz : ∀ a n, 272 ≤ a → a + n ≤ 0x4B300 → imgPart img a n = some (List.replicate n 0#8))
    (h1 : fld img 32 2 = 1) (h2 : fld img 80 8 = 256) (h3 : fld img 88 8 = 0x4A900) (h4 : fld img 96 8 = 0x4B100)
    (h5 : fld img 104 8 = 0x4B200) (h6 : fld img 112 8 = 0x4B200) (h7 : fld d 0 8 = 0x200) (h8 : fld d 8 8 = m) :
    readBody img now = some (ImageBody.mk [] [] [] [(idleLCore, List.replicate 4 Strand.idle)] [] []) := by
  have hc := readLCore_zeros [] now m hm
  have hb : ∀ n, bitsList 0 n = [] := by intro n; simp [bitsList, bitOf]
  unfold readBody
  simp only [h1, h2, h3, h4, h5, h6, Nat.mul_one, hd, hz 0x4A900 _ (by decide) (show 0x4A900 + 255 * (8 * cdiv 1 64) ≤ 0x4B300 by decide),
    hz 0x4B100 8 (by decide) (by decide), hz 0x4B200 16 (by decide) (by decide), fld_zeros, readGraphs, Nat.mul_zero,
    hz (0x4B200 + 16) 0 (by decide) (by decide), hl]
  rw [if_neg (by decide), show List.range 1 = [0] from rfl]
  simp only [List.map_cons, List.map_nil, Nat.mul_zero, Nat.zero_add, h7, h8, hz 0x200 m (by decide) (by omega), Option.bind_some, hc, allSome,
    Option.map_some, Nat.sub_self, readRegions, List.any_nil, List.flatMap_nil, hb, List.replicate_zero]
  rw [if_neg (by decide)]
  rw [show (List.range 255).map (fun _ => ([] : List Nat)) = List.replicate 255 [] by simp [List.map_const'], tlist_defaults]
  rfl

/-- The context of an image does not depend on the bytes past its header. -/
theorem ctxOfImage_append (p r desc : List Byte) (gen now : Nat) (b : ImageBody) (h : 144 ≤ p.length) :
    ctxOfImage (p ++ r) desc gen now b = ctxOfImage p desc gen now b := by
  have f : ∀ n k, n + k ≤ 144 → fld (p ++ r) n k = fld p n k := fun n k h => fld_append_left _ _ _ _ (by omega)
  unfold ctxOfImage
  simp (discharger := decide) only [f]

/-- RESUME, without a descriptor, of an image with no regions that was not written here, once its checks are met. -/
theorem State.resumeCtx_plain (s s1 s2 : State) (a x : Nat) (img : List Byte) (b : ImageBody) (c : Ctx) (tags : List Tag) (ht : s.hasTier = true)
    (hi : s.isTier a = true) (himg : s.readImage a = some img) (hb : readBody img s.cycle = some b) (hx : s.freeCtxSlot = some x)
    (hn : s.lines.length ≤ 512) (hr : b.regions = []) (hu : s.unsaid = []) (hc : ctxOfImage img [] (tget 1 s.gens x) s.cycle b = c)
    (h1 : s.setCtx x c = s1) (hbad : s1.tablesBad 3 c.ptroot = false) (htags : s1.retagAll x c.ptroot = some tags)
    (h2 : ({ s1 with tags := tags } : State).modCtx x (fun d => { d with known := s1.knownOf c.ptroot }) = s2) :
    s.resumeCtx a 0 = ((s2.claim x []).install x b none).orNoSwap x := by
  have hu2 : s2.unsaid = [] := by rw [← h2, ← h1]; exact hu
  unfold State.resumeCtx
  rw [if_neg (by simp [ht]), if_neg (by simp [hi]), himg]
  simp only [hb, hx, ne_eq, not_true_eq_false, false_and, if_true, if_false, List.length_nil, Nat.add_zero, if_neg (Nat.not_lt.2 hn), hr,
    State.restoreRegions, hc, h1, hbad, htags, Bool.false_eq_true]
  rw [h2, hu2, List.find?_nil]

end Sys2Proof.Machine
end

