-- ==== Sys2Proof/Laws/State.lean ====
section
/-! SUPPORT. One lemma for each field and each update of the state and of a strand, and what tables read as after a write. -/

namespace Sys2Proof.Machine

/-! ### The state's tables -/

@[simp] theorem State.setCtx_power (s : State) (x : Nat) (c : Ctx) : (s.setCtx x c).power = s.power := rfl
@[simp] theorem State.setCtx_kstat (s : State) (x : Nat) (c : Ctx) : (s.setCtx x c).kstat = s.kstat := rfl
@[simp] theorem State.setCtx_env (s : State) (x : Nat) (c : Ctx) : (s.setCtx x c).env = s.env := rfl
@[simp] theorem State.setCtx_lanesBit (s : State) (x : Nat) (c : Ctx) : (s.setCtx x c).lanesBit = s.lanesBit := rfl
@[simp] theorem State.setCtx_hbmBit (s : State) (x : Nat) (c : Ctx) : (s.setCtx x c).hbmBit = s.hbmBit := rfl
@[simp] theorem State.setCtx_sparesBit (s : State) (x : Nat) (c : Ctx) : (s.setCtx x c).sparesBit = s.sparesBit := rfl
@[simp] theorem State.setCtx_retired (s : State) (x : Nat) (c : Ctx) : (s.setCtx x c).retired = s.retired := rfl
@[simp] theorem State.setCtx_temps (s : State) (x : Nat) (c : Ctx) : (s.setCtx x c).temps = s.temps := rfl
@[simp] theorem State.setCtx_throttled (s : State) (x : Nat) (c : Ctx) : (s.setCtx x c).throttled = s.throttled := rfl
@[simp] theorem State.setCtx_mem (s : State) (x : Nat) (c : Ctx) : (s.setCtx x c).mem = s.mem := rfl
@[simp] theorem State.setCtx_past (s : State) (x : Nat) (c : Ctx) : (s.setCtx x c).past = s.past := rfl
@[simp] theorem State.setCtx_vtime (s : State) (x : Nat) (c : Ctx) : (s.setCtx x c).vtime = s.vtime := rfl
@[simp] theorem State.setCtx_hostView (s : State) (x : Nat) (c : Ctx) : (s.setCtx x c).hostView = s.hostView := rfl
@[simp] theorem State.setCtx_hostSaw (s : State) (x : Nat) (c : Ctx) : (s.setCtx x c).hostSaw = s.hostSaw := rfl
@[simp] theorem State.setCtx_zips (s : State) (x : Nat) (c : Ctx) : (s.setCtx x c).zips = s.zips := rfl
@[simp] theorem State.setCtx_bad (s : State) (x : Nat) (c : Ctx) : (s.setCtx x c).bad = s.bad := rfl
@[simp] theorem State.setCtx_lcs (s : State) (x : Nat) (c : Ctx) : (s.setCtx x c).lcs = s.lcs := rfl
@[simp] theorem State.setCtx_strands (s : State) (x : Nat) (c : Ctx) : (s.setCtx x c).strands = s.strands := rfl
@[simp] theorem State.setCtx_gens (s : State) (x : Nat) (c : Ctx) : (s.setCtx x c).gens = s.gens := rfl
@[simp] theorem State.setCtx_lines (s : State) (x : Nat) (c : Ctx) : (s.setCtx x c).lines = s.lines := rfl
@[simp] theorem State.setCtx_cmdQ (s : State) (x : Nat) (c : Ctx) : (s.setCtx x c).cmdQ = s.cmdQ := rfl
@[simp] theorem State.setCtx_arb (s : State) (x : Nat) (c : Ctx) : (s.setCtx x c).arb = s.arb := rfl
@[simp] theorem State.setCtx_ablum (s : State) (x : Nat) (c : Ctx) : (s.setCtx x c).ablum = s.ablum := rfl
@[simp] theorem State.setCtx_tags (s : State) (x : Nat) (c : Ctx) : (s.setCtx x c).tags = s.tags := rfl
@[simp] theorem State.setCtx_busy (s : State) (x : Nat) (c : Ctx) : (s.setCtx x c).busy = s.busy := rfl
@[simp] theorem State.setCtx_rr (s : State) (x : Nat) (c : Ctx) : (s.setCtx x c).rr = s.rr := rfl
@[simp] theorem State.setCtx_damper (s : State) (x : Nat) (c : Ctx) : (s.setCtx x c).damper = s.damper := rfl
@[simp] theorem State.setCtx_damperAt (s : State) (x : Nat) (c : Ctx) : (s.setCtx x c).damperAt = s.damperAt := rfl
@[simp] theorem State.setCtx_rowSteps (s : State) (x : Nat) (c : Ctx) : (s.setCtx x c).rowSteps = s.rowSteps := rfl
@[simp] theorem State.setCtx_nextReb (s : State) (x : Nat) (c : Ctx) : (s.setCtx x c).nextReb = s.nextReb := rfl
@[simp] theorem State.setCtx_waitq (s : State) (x : Nat) (c : Ctx) : (s.setCtx x c).waitq = s.waitq := rfl
@[simp] theorem State.setCtx_wires (s : State) (x : Nat) (c : Ctx) : (s.setCtx x c).wires = s.wires := rfl
@[simp] theorem State.setCtx_exits (s : State) (x : Nat) (c : Ctx) : (s.setCtx x c).exits = s.exits := rfl
@[simp] theorem State.setCtx_inbox (s : State) (x : Nat) (c : Ctx) : (s.setCtx x c).inbox = s.inbox := rfl
@[simp] theorem State.setCtx_outside (s : State) (x : Nat) (c : Ctx) : (s.setCtx x c).outside = s.outside := rfl
@[simp] theorem State.setCtx_recov (s : State) (x : Nat) (c : Ctx) : (s.setCtx x c).recov = s.recov := rfl
@[simp] theorem State.setCtx_links (s : State) (x : Nat) (c : Ctx) : (s.setCtx x c).links = s.links := rfl
@[simp] theorem State.setCtx_wrr (s : State) (x : Nat) (c : Ctx) : (s.setCtx x c).wrr = s.wrr := rfl
@[simp] theorem State.setCtx_txns (s : State) (x : Nat) (c : Ctx) : (s.setCtx x c).txns = s.txns := rfl
@[simp] theorem State.setCtx_outq (s : State) (x : Nat) (c : Ctx) : (s.setCtx x c).outq = s.outq := rfl
@[simp] theorem State.setCtx_stuck (s : State) (x : Nat) (c : Ctx) : (s.setCtx x c).stuck = s.stuck := rfl
@[simp] theorem State.setCtx_unsaid (s : State) (x : Nat) (c : Ctx) : (s.setCtx x c).unsaid = s.unsaid := rfl
@[simp] theorem State.setCtx_nextTag (s : State) (x : Nat) (c : Ctx) : (s.setCtx x c).nextTag = s.nextTag := rfl
@[simp] theorem State.setCtx_cycle (s : State) (x : Nat) (c : Ctx) : (s.setCtx x c).cycle = s.cycle := rfl
@[simp] theorem State.setCtx_since (s : State) (x : Nat) (c : Ctx) : (s.setCtx x c).since = s.since := rfl
@[simp] theorem State.setCtx_lastRead (s : State) (x : Nat) (c : Ctx) : (s.setCtx x c).lastRead = s.lastRead := rfl
@[simp] theorem State.setCtx_agenda (s : State) (x : Nat) (c : Ctx) : (s.setCtx x c).agenda = s.agenda := rfl
@[simp] theorem State.setCtx_cur (s : State) (x : Nat) (c : Ctx) : (s.setCtx x c).cur = s.cur := rfl
@[simp] theorem State.setCtx_latch (s : State) (x : Nat) (c : Ctx) : (s.setCtx x c).latch = s.latch := rfl
@[simp] theorem State.setCtx_turn (s : State) (x : Nat) (c : Ctx) : (s.setCtx x c).turn = s.turn := rfl
@[simp] theorem State.setCtx_fresh (s : State) (x : Nat) (c : Ctx) : (s.setCtx x c).fresh = s.fresh := rfl
@[simp] theorem State.setLc_power (s : State) (x : Nat) (c : LCore) : (s.setLc x c).power = s.power := rfl
@[simp] theorem State.setLc_kstat (s : State) (x : Nat) (c : LCore) : (s.setLc x c).kstat = s.kstat := rfl
@[simp] theorem State.setLc_env (s : State) (x : Nat) (c : LCore) : (s.setLc x c).env = s.env := rfl
@[simp] theorem State.setLc_lanesBit (s : State) (x : Nat) (c : LCore) : (s.setLc x c).lanesBit = s.lanesBit := rfl
@[simp] theorem State.setLc_hbmBit (s : State) (x : Nat) (c : LCore) : (s.setLc x c).hbmBit = s.hbmBit := rfl
@[simp] theorem State.setLc_sparesBit (s : State) (x : Nat) (c : LCore) : (s.setLc x c).sparesBit = s.sparesBit := rfl
@[simp] theorem State.setLc_retired (s : State) (x : Nat) (c : LCore) : (s.setLc x c).retired = s.retired := rfl
@[simp] theorem State.setLc_temps (s : State) (x : Nat) (c : LCore) : (s.setLc x c).temps = s.temps := rfl
@[simp] theorem State.setLc_throttled (s : State) (x : Nat) (c : LCore) : (s.setLc x c).throttled = s.throttled := rfl
@[simp] theorem State.setLc_mem (s : State) (x : Nat) (c : LCore) : (s.setLc x c).mem = s.mem := rfl
@[simp] theorem State.setLc_past (s : State) (x : Nat) (c : LCore) : (s.setLc x c).past = s.past := rfl
@[simp] theorem State.setLc_vtime (s : State) (x : Nat) (c : LCore) : (s.setLc x c).vtime = s.vtime := rfl
@[simp] theorem State.setLc_hostView (s : State) (x : Nat) (c : LCore) : (s.setLc x c).hostView = s.hostView := rfl
@[simp] theorem State.setLc_hostSaw (s : State) (x : Nat) (c : LCore) : (s.setLc x c).hostSaw = s.hostSaw := rfl
@[simp] theorem State.setLc_zips (s : State) (x : Nat) (c : LCore) : (s.setLc x c).zips = s.zips := rfl
@[simp] theorem State.setLc_bad (s : State) (x : Nat) (c : LCore) : (s.setLc x c).bad = s.bad := rfl
@[simp] theorem State.setLc_ctxs (s : State) (x : Nat) (c : LCore) : (s.setLc x c).ctxs = s.ctxs := rfl
@[simp] theorem State.setLc_strands (s : State) (x : Nat) (c : LCore) : (s.setLc x c).strands = s.strands := rfl
@[simp] theorem State.setLc_gens (s : State) (x : Nat) (c : LCore) : (s.setLc x c).gens = s.gens := rfl
@[simp] theorem State.setLc_lines (s : State) (x : Nat) (c : LCore) : (s.setLc x c).lines = s.lines := rfl
@[simp] theorem State.setLc_cmdQ (s : State) (x : Nat) (c : LCore) : (s.setLc x c).cmdQ = s.cmdQ := rfl
@[simp] theorem State.setLc_arb (s : State) (x : Nat) (c : LCore) : (s.setLc x c).arb = s.arb := rfl
@[simp] theorem State.setLc_ablum (s : State) (x : Nat) (c : LCore) : (s.setLc x c).ablum = s.ablum := rfl
@[simp] theorem State.setLc_tags (s : State) (x : Nat) (c : LCore) : (s.setLc x c).tags = s.tags := rfl
@[simp] theorem State.setLc_busy (s : State) (x : Nat) (c : LCore) : (s.setLc x c).busy = s.busy := rfl
@[simp] theorem State.setLc_rr (s : State) (x : Nat) (c : LCore) : (s.setLc x c).rr = s.rr := rfl
@[simp] theorem State.setLc_damper (s : State) (x : Nat) (c : LCore) : (s.setLc x c).damper = s.damper := rfl
@[simp] theorem State.setLc_damperAt (s : State) (x : Nat) (c : LCore) : (s.setLc x c).damperAt = s.damperAt := rfl
@[simp] theorem State.setLc_rowSteps (s : State) (x : Nat) (c : LCore) : (s.setLc x c).rowSteps = s.rowSteps := rfl
@[simp] theorem State.setLc_nextReb (s : State) (x : Nat) (c : LCore) : (s.setLc x c).nextReb = s.nextReb := rfl
@[simp] theorem State.setLc_waitq (s : State) (x : Nat) (c : LCore) : (s.setLc x c).waitq = s.waitq := rfl
@[simp] theorem State.setLc_wires (s : State) (x : Nat) (c : LCore) : (s.setLc x c).wires = s.wires := rfl
@[simp] theorem State.setLc_exits (s : State) (x : Nat) (c : LCore) : (s.setLc x c).exits = s.exits := rfl
@[simp] theorem State.setLc_inbox (s : State) (x : Nat) (c : LCore) : (s.setLc x c).inbox = s.inbox := rfl
@[simp] theorem State.setLc_outside (s : State) (x : Nat) (c : LCore) : (s.setLc x c).outside = s.outside := rfl
@[simp] theorem State.setLc_recov (s : State) (x : Nat) (c : LCore) : (s.setLc x c).recov = s.recov := rfl
@[simp] theorem State.setLc_links (s : State) (x : Nat) (c : LCore) : (s.setLc x c).links = s.links := rfl
@[simp] theorem State.setLc_wrr (s : State) (x : Nat) (c : LCore) : (s.setLc x c).wrr = s.wrr := rfl
@[simp] theorem State.setLc_txns (s : State) (x : Nat) (c : LCore) : (s.setLc x c).txns = s.txns := rfl
@[simp] theorem State.setLc_outq (s : State) (x : Nat) (c : LCore) : (s.setLc x c).outq = s.outq := rfl
@[simp] theorem State.setLc_stuck (s : State) (x : Nat) (c : LCore) : (s.setLc x c).stuck = s.stuck := rfl
@[simp] theorem State.setLc_unsaid (s : State) (x : Nat) (c : LCore) : (s.setLc x c).unsaid = s.unsaid := rfl
@[simp] theorem State.setLc_nextTag (s : State) (x : Nat) (c : LCore) : (s.setLc x c).nextTag = s.nextTag := rfl
@[simp] theorem State.setLc_cycle (s : State) (x : Nat) (c : LCore) : (s.setLc x c).cycle = s.cycle := rfl
@[simp] theorem State.setLc_since (s : State) (x : Nat) (c : LCore) : (s.setLc x c).since = s.since := rfl
@[simp] theorem State.setLc_lastRead (s : State) (x : Nat) (c : LCore) : (s.setLc x c).lastRead = s.lastRead := rfl
@[simp] theorem State.setLc_agenda (s : State) (x : Nat) (c : LCore) : (s.setLc x c).agenda = s.agenda := rfl
@[simp] theorem State.setLc_cur (s : State) (x : Nat) (c : LCore) : (s.setLc x c).cur = s.cur := rfl
@[simp] theorem State.setLc_latch (s : State) (x : Nat) (c : LCore) : (s.setLc x c).latch = s.latch := rfl
@[simp] theorem State.setLc_turn (s : State) (x : Nat) (c : LCore) : (s.setLc x c).turn = s.turn := rfl
@[simp] theorem State.setLc_fresh (s : State) (x : Nat) (c : LCore) : (s.setLc x c).fresh = s.fresh := rfl
@[simp] theorem State.setStrand_power (s : State) (x : Nat) (c : Strand) : (s.setStrand x c).power = s.power := rfl
@[simp] theorem State.setStrand_kstat (s : State) (x : Nat) (c : Strand) : (s.setStrand x c).kstat = s.kstat := rfl
@[simp] theorem State.setStrand_env (s : State) (x : Nat) (c : Strand) : (s.setStrand x c).env = s.env := rfl
@[simp] theorem State.setStrand_lanesBit (s : State) (x : Nat) (c : Strand) : (s.setStrand x c).lanesBit = s.lanesBit := rfl
@[simp] theorem State.setStrand_hbmBit (s : State) (x : Nat) (c : Strand) : (s.setStrand x c).hbmBit = s.hbmBit := rfl
@[simp] theorem State.setStrand_sparesBit (s : State) (x : Nat) (c : Strand) : (s.setStrand x c).sparesBit = s.sparesBit := rfl
@[simp] theorem State.setStrand_retired (s : State) (x : Nat) (c : Strand) : (s.setStrand x c).retired = s.retired := rfl
@[simp] theorem State.setStrand_temps (s : State) (x : Nat) (c : Strand) : (s.setStrand x c).temps = s.temps := rfl
@[simp] theorem State.setStrand_throttled (s : State) (x : Nat) (c : Strand) : (s.setStrand x c).throttled = s.throttled := rfl
@[simp] theorem State.setStrand_mem (s : State) (x : Nat) (c : Strand) : (s.setStrand x c).mem = s.mem := rfl
@[simp] theorem State.setStrand_past (s : State) (x : Nat) (c : Strand) : (s.setStrand x c).past = s.past := rfl
@[simp] theorem State.setStrand_vtime (s : State) (x : Nat) (c : Strand) : (s.setStrand x c).vtime = s.vtime := rfl
@[simp] theorem State.setStrand_hostView (s : State) (x : Nat) (c : Strand) : (s.setStrand x c).hostView = s.hostView := rfl
@[simp] theorem State.setStrand_hostSaw (s : State) (x : Nat) (c : Strand) : (s.setStrand x c).hostSaw = s.hostSaw := rfl
@[simp] theorem State.setStrand_zips (s : State) (x : Nat) (c : Strand) : (s.setStrand x c).zips = s.zips := rfl
@[simp] theorem State.setStrand_bad (s : State) (x : Nat) (c : Strand) : (s.setStrand x c).bad = s.bad := rfl
@[simp] theorem State.setStrand_ctxs (s : State) (x : Nat) (c : Strand) : (s.setStrand x c).ctxs = s.ctxs := rfl
@[simp] theorem State.setStrand_lcs (s : State) (x : Nat) (c : Strand) : (s.setStrand x c).lcs = s.lcs := rfl
@[simp] theorem State.setStrand_gens (s : State) (x : Nat) (c : Strand) : (s.setStrand x c).gens = s.gens := rfl
@[simp] theorem State.setStrand_lines (s : State) (x : Nat) (c : Strand) : (s.setStrand x c).lines = s.lines := rfl
@[simp] theorem State.setStrand_cmdQ (s : State) (x : Nat) (c : Strand) : (s.setStrand x c).cmdQ = s.cmdQ := rfl
@[simp] theorem State.setStrand_arb (s : State) (x : Nat) (c : Strand) : (s.setStrand x c).arb = s.arb := rfl
@[simp] theorem State.setStrand_ablum (s : State) (x : Nat) (c : Strand) : (s.setStrand x c).ablum = s.ablum := rfl
@[simp] theorem State.setStrand_tags (s : State) (x : Nat) (c : Strand) : (s.setStrand x c).tags = s.tags := rfl
@[simp] theorem State.setStrand_busy (s : State) (x : Nat) (c : Strand) : (s.setStrand x c).busy = s.busy := rfl
@[simp] theorem State.setStrand_rr (s : State) (x : Nat) (c : Strand) : (s.setStrand x c).rr = s.rr := rfl
@[simp] theorem State.setStrand_damper (s : State) (x : Nat) (c : Strand) : (s.setStrand x c).damper = s.damper := rfl
@[simp] theorem State.setStrand_damperAt (s : State) (x : Nat) (c : Strand) : (s.setStrand x c).damperAt = s.damperAt := rfl
@[simp] theorem State.setStrand_rowSteps (s : State) (x : Nat) (c : Strand) : (s.setStrand x c).rowSteps = s.rowSteps := rfl
@[simp] theorem State.setStrand_nextReb (s : State) (x : Nat) (c : Strand) : (s.setStrand x c).nextReb = s.nextReb := rfl
@[simp] theorem State.setStrand_waitq (s : State) (x : Nat) (c : Strand) : (s.setStrand x c).waitq = s.waitq := rfl
@[simp] theorem State.setStrand_wires (s : State) (x : Nat) (c : Strand) : (s.setStrand x c).wires = s.wires := rfl
@[simp] theorem State.setStrand_exits (s : State) (x : Nat) (c : Strand) : (s.setStrand x c).exits = s.exits := rfl
@[simp] theorem State.setStrand_inbox (s : State) (x : Nat) (c : Strand) : (s.setStrand x c).inbox = s.inbox := rfl
@[simp] theorem State.setStrand_outside (s : State) (x : Nat) (c : Strand) : (s.setStrand x c).outside = s.outside := rfl
@[simp] theorem State.setStrand_recov (s : State) (x : Nat) (c : Strand) : (s.setStrand x c).recov = s.recov := rfl
@[simp] theorem State.setStrand_links (s : State) (x : Nat) (c : Strand) : (s.setStrand x c).links = s.links := rfl
@[simp] theorem State.setStrand_wrr (s : State) (x : Nat) (c : Strand) : (s.setStrand x c).wrr = s.wrr := rfl
@[simp] theorem State.setStrand_txns (s : State) (x : Nat) (c : Strand) : (s.setStrand x c).txns = s.txns := rfl
@[simp] theorem State.setStrand_outq (s : State) (x : Nat) (c : Strand) : (s.setStrand x c).outq = s.outq := rfl
@[simp] theorem State.setStrand_stuck (s : State) (x : Nat) (c : Strand) : (s.setStrand x c).stuck = s.stuck := rfl
@[simp] theorem State.setStrand_unsaid (s : State) (x : Nat) (c : Strand) : (s.setStrand x c).unsaid = s.unsaid := rfl
@[simp] theorem State.setStrand_nextTag (s : State) (x : Nat) (c : Strand) : (s.setStrand x c).nextTag = s.nextTag := rfl
@[simp] theorem State.setStrand_cycle (s : State) (x : Nat) (c : Strand) : (s.setStrand x c).cycle = s.cycle := rfl
@[simp] theorem State.setStrand_since (s : State) (x : Nat) (c : Strand) : (s.setStrand x c).since = s.since := rfl
@[simp] theorem State.setStrand_lastRead (s : State) (x : Nat) (c : Strand) : (s.setStrand x c).lastRead = s.lastRead := rfl
@[simp] theorem State.setStrand_agenda (s : State) (x : Nat) (c : Strand) : (s.setStrand x c).agenda = s.agenda := rfl
@[simp] theorem State.setStrand_cur (s : State) (x : Nat) (c : Strand) : (s.setStrand x c).cur = s.cur := rfl
@[simp] theorem State.setStrand_latch (s : State) (x : Nat) (c : Strand) : (s.setStrand x c).latch = s.latch := rfl
@[simp] theorem State.setStrand_turn (s : State) (x : Nat) (c : Strand) : (s.setStrand x c).turn = s.turn := rfl
@[simp] theorem State.setStrand_fresh (s : State) (x : Nat) (c : Strand) : (s.setStrand x c).fresh = s.fresh := rfl
@[simp] theorem State.modCtx_power (s : State) (x : Nat) (c : Ctx → Ctx) : (s.modCtx x c).power = s.power := rfl
@[simp] theorem State.modCtx_kstat (s : State) (x : Nat) (c : Ctx → Ctx) : (s.modCtx x c).kstat = s.kstat := rfl
@[simp] theorem State.modCtx_env (s : State) (x : Nat) (c : Ctx → Ctx) : (s.modCtx x c).env = s.env := rfl
@[simp] theorem State.modCtx_lanesBit (s : State) (x : Nat) (c : Ctx → Ctx) : (s.modCtx x c).lanesBit = s.lanesBit := rfl
@[simp] theorem State.modCtx_hbmBit (s : State) (x : Nat) (c : Ctx → Ctx) : (s.modCtx x c).hbmBit = s.hbmBit := rfl
@[simp] theorem State.modCtx_sparesBit (s : State) (x : Nat) (c : Ctx → Ctx) : (s.modCtx x c).sparesBit = s.sparesBit := rfl
@[simp] theorem State.modCtx_retired (s : State) (x : Nat) (c : Ctx → Ctx) : (s.modCtx x c).retired = s.retired := rfl
@[simp] theorem State.modCtx_temps (s : State) (x : Nat) (c : Ctx → Ctx) : (s.modCtx x c).temps = s.temps := rfl
@[simp] theorem State.modCtx_throttled (s : State) (x : Nat) (c : Ctx → Ctx) : (s.modCtx x c).throttled = s.throttled := rfl
@[simp] theorem State.modCtx_mem (s : State) (x : Nat) (c : Ctx → Ctx) : (s.modCtx x c).mem = s.mem := rfl
@[simp] theorem State.modCtx_past (s : State) (x : Nat) (c : Ctx → Ctx) : (s.modCtx x c).past = s.past := rfl
@[simp] theorem State.modCtx_vtime (s : State) (x : Nat) (c : Ctx → Ctx) : (s.modCtx x c).vtime = s.vtime := rfl
@[simp] theorem State.modCtx_hostView (s : State) (x : Nat) (c : Ctx → Ctx) : (s.modCtx x c).hostView = s.hostView := rfl
@[simp] theorem State.modCtx_hostSaw (s : State) (x : Nat) (c : Ctx → Ctx) : (s.modCtx x c).hostSaw = s.hostSaw := rfl
@[simp] theorem State.modCtx_zips (s : State) (x : Nat) (c : Ctx → Ctx) : (s.modCtx x c).zips = s.zips := rfl
@[simp] theorem State.modCtx_bad (s : State) (x : Nat) (c : Ctx → Ctx) : (s.modCtx x c).bad = s.bad := rfl
@[simp] theorem State.modCtx_lcs (s : State) (x : Nat) (c : Ctx → Ctx) : (s.modCtx x c).lcs = s.lcs := rfl
@[simp] theorem State.modCtx_strands (s : State) (x : Nat) (c : Ctx → Ctx) : (s.modCtx x c).strands = s.strands := rfl
@[simp] theorem State.modCtx_gens (s : State) (x : Nat) (c : Ctx → Ctx) : (s.modCtx x c).gens = s.gens := rfl
@[simp] theorem State.modCtx_lines (s : State) (x : Nat) (c : Ctx → Ctx) : (s.modCtx x c).lines = s.lines := rfl
@[simp] theorem State.modCtx_cmdQ (s : State) (x : Nat) (c : Ctx → Ctx) : (s.modCtx x c).cmdQ = s.cmdQ := rfl
@[simp] theorem State.modCtx_arb (s : State) (x : Nat) (c : Ctx → Ctx) : (s.modCtx x c).arb = s.arb := rfl
@[simp] theorem State.modCtx_ablum (s : State) (x : Nat) (c : Ctx → Ctx) : (s.modCtx x c).ablum = s.ablum := rfl
@[simp] theorem State.modCtx_tags (s : State) (x : Nat) (c : Ctx → Ctx) : (s.modCtx x c).tags = s.tags := rfl
@[simp] theorem State.modCtx_busy (s : State) (x : Nat) (c : Ctx → Ctx) : (s.modCtx x c).busy = s.busy := rfl
@[simp] theorem State.modCtx_rr (s : State) (x : Nat) (c : Ctx → Ctx) : (s.modCtx x c).rr = s.rr := rfl
@[simp] theorem State.modCtx_damper (s : State) (x : Nat) (c : Ctx → Ctx) : (s.modCtx x c).damper = s.damper := rfl
@[simp] theorem State.modCtx_damperAt (s : State) (x : Nat) (c : Ctx → Ctx) : (s.modCtx x c).damperAt = s.damperAt := rfl
@[simp] theorem State.modCtx_rowSteps (s : State) (x : Nat) (c : Ctx → Ctx) : (s.modCtx x c).rowSteps = s.rowSteps := rfl
@[simp] theorem State.modCtx_nextReb (s : State) (x : Nat) (c : Ctx → Ctx) : (s.modCtx x c).nextReb = s.nextReb := rfl
@[simp] theorem State.modCtx_waitq (s : State) (x : Nat) (c : Ctx → Ctx) : (s.modCtx x c).waitq = s.waitq := rfl
@[simp] theorem State.modCtx_wires (s : State) (x : Nat) (c : Ctx → Ctx) : (s.modCtx x c).wires = s.wires := rfl
@[simp] theorem State.modCtx_exits (s : State) (x : Nat) (c : Ctx → Ctx) : (s.modCtx x c).exits = s.exits := rfl
@[simp] theorem State.modCtx_inbox (s : State) (x : Nat) (c : Ctx → Ctx) : (s.modCtx x c).inbox = s.inbox := rfl
@[simp] theorem State.modCtx_outside (s : State) (x : Nat) (c : Ctx → Ctx) : (s.modCtx x c).outside = s.outside := rfl
@[simp] theorem State.modCtx_recov (s : State) (x : Nat) (c : Ctx → Ctx) : (s.modCtx x c).recov = s.recov := rfl
@[simp] theorem State.modCtx_links (s : State) (x : Nat) (c : Ctx → Ctx) : (s.modCtx x c).links = s.links := rfl
@[simp] theorem State.modCtx_wrr (s : State) (x : Nat) (c : Ctx → Ctx) : (s.modCtx x c).wrr = s.wrr := rfl
@[simp] theorem State.modCtx_txns (s : State) (x : Nat) (c : Ctx → Ctx) : (s.modCtx x c).txns = s.txns := rfl
@[simp] theorem State.modCtx_outq (s : State) (x : Nat) (c : Ctx → Ctx) : (s.modCtx x c).outq = s.outq := rfl
@[simp] theorem State.modCtx_stuck (s : State) (x : Nat) (c : Ctx → Ctx) : (s.modCtx x c).stuck = s.stuck := rfl
@[simp] theorem State.modCtx_unsaid (s : State) (x : Nat) (c : Ctx → Ctx) : (s.modCtx x c).unsaid = s.unsaid := rfl
@[simp] theorem State.modCtx_nextTag (s : State) (x : Nat) (c : Ctx → Ctx) : (s.modCtx x c).nextTag = s.nextTag := rfl
@[simp] theorem State.modCtx_cycle (s : State) (x : Nat) (c : Ctx → Ctx) : (s.modCtx x c).cycle = s.cycle := rfl
@[simp] theorem State.modCtx_since (s : State) (x : Nat) (c : Ctx → Ctx) : (s.modCtx x c).since = s.since := rfl
@[simp] theorem State.modCtx_lastRead (s : State) (x : Nat) (c : Ctx → Ctx) : (s.modCtx x c).lastRead = s.lastRead := rfl
@[simp] theorem State.modCtx_agenda (s : State) (x : Nat) (c : Ctx → Ctx) : (s.modCtx x c).agenda = s.agenda := rfl
@[simp] theorem State.modCtx_cur (s : State) (x : Nat) (c : Ctx → Ctx) : (s.modCtx x c).cur = s.cur := rfl
@[simp] theorem State.modCtx_latch (s : State) (x : Nat) (c : Ctx → Ctx) : (s.modCtx x c).latch = s.latch := rfl
@[simp] theorem State.modCtx_turn (s : State) (x : Nat) (c : Ctx → Ctx) : (s.modCtx x c).turn = s.turn := rfl
@[simp] theorem State.modCtx_fresh (s : State) (x : Nat) (c : Ctx → Ctx) : (s.modCtx x c).fresh = s.fresh := rfl
@[simp] theorem State.modLc_power (s : State) (x : Nat) (c : LCore → LCore) : (s.modLc x c).power = s.power := rfl
@[simp] theorem State.modLc_kstat (s : State) (x : Nat) (c : LCore → LCore) : (s.modLc x c).kstat = s.kstat := rfl
@[simp] theorem State.modLc_env (s : State) (x : Nat) (c : LCore → LCore) : (s.modLc x c).env = s.env := rfl
@[simp] theorem State.modLc_lanesBit (s : State) (x : Nat) (c : LCore → LCore) : (s.modLc x c).lanesBit = s.lanesBit := rfl
@[simp] theorem State.modLc_hbmBit (s : State) (x : Nat) (c : LCore → LCore) : (s.modLc x c).hbmBit = s.hbmBit := rfl
@[simp] theorem State.modLc_sparesBit (s : State) (x : Nat) (c : LCore → LCore) : (s.modLc x c).sparesBit = s.sparesBit := rfl
@[simp] theorem State.modLc_retired (s : State) (x : Nat) (c : LCore → LCore) : (s.modLc x c).retired = s.retired := rfl
@[simp] theorem State.modLc_temps (s : State) (x : Nat) (c : LCore → LCore) : (s.modLc x c).temps = s.temps := rfl
@[simp] theorem State.modLc_throttled (s : State) (x : Nat) (c : LCore → LCore) : (s.modLc x c).throttled = s.throttled := rfl
@[simp] theorem State.modLc_mem (s : State) (x : Nat) (c : LCore → LCore) : (s.modLc x c).mem = s.mem := rfl
@[simp] theorem State.modLc_past (s : State) (x : Nat) (c : LCore → LCore) : (s.modLc x c).past = s.past := rfl
@[simp] theorem State.modLc_vtime (s : State) (x : Nat) (c : LCore → LCore) : (s.modLc x c).vtime = s.vtime := rfl
@[simp] theorem State.modLc_hostView (s : State) (x : Nat) (c : LCore → LCore) : (s.modLc x c).hostView = s.hostView := rfl
@[simp] theorem State.modLc_hostSaw (s : State) (x : Nat) (c : LCore → LCore) : (s.modLc x c).hostSaw = s.hostSaw := rfl
@[simp] theorem State.modLc_zips (s : State) (x : Nat) (c : LCore → LCore) : (s.modLc x c).zips = s.zips := rfl
@[simp] theorem State.modLc_bad (s : State) (x : Nat) (c : LCore → LCore) : (s.modLc x c).bad = s.bad := rfl
@[simp] theorem State.modLc_ctxs (s : State) (x : Nat) (c : LCore → LCore) : (s.modLc x c).ctxs = s.ctxs := rfl
@[simp] theorem State.modLc_strands (s : State) (x : Nat) (c : LCore → LCore) : (s.modLc x c).strands = s.strands := rfl
@[simp] theorem State.modLc_gens (s : State) (x : Nat) (c : LCore → LCore) : (s.modLc x c).gens = s.gens := rfl
@[simp] theorem State.modLc_lines (s : State) (x : Nat) (c : LCore → LCore) : (s.modLc x c).lines = s.lines := rfl
@[simp] theorem State.modLc_cmdQ (s : State) (x : Nat) (c : LCore → LCore) : (s.modLc x c).cmdQ = s.cmdQ := rfl
@[simp] theorem State.modLc_arb (s : State) (x : Nat) (c : LCore → LCore) : (s.modLc x c).arb = s.arb := rfl
@[simp] theorem State.modLc_ablum (s : State) (x : Nat) (c : LCore → LCore) : (s.modLc x c).ablum = s.ablum := rfl
@[simp] theorem State.modLc_tags (s : State) (x : Nat) (c : LCore → LCore) : (s.modLc x c).tags = s.tags := rfl
@[simp] theorem State.modLc_busy (s : State) (x : Nat) (c : LCore → LCore) : (s.modLc x c).busy = s.busy := rfl
@[simp] theorem State.modLc_rr (s : State) (x : Nat) (c : LCore → LCore) : (s.modLc x c).rr = s.rr := rfl
@[simp] theorem State.modLc_damper (s : State) (x : Nat) (c : LCore → LCore) : (s.modLc x c).damper = s.damper := rfl
@[simp] theorem State.modLc_damperAt (s : State) (x : Nat) (c : LCore → LCore) : (s.modLc x c).damperAt = s.damperAt := rfl
@[simp] theorem State.modLc_rowSteps (s : State) (x : Nat) (c : LCore → LCore) : (s.modLc x c).rowSteps = s.rowSteps := rfl
@[simp] theorem State.modLc_nextReb (s : State) (x : Nat) (c : LCore → LCore) : (s.modLc x c).nextReb = s.nextReb := rfl
@[simp] theorem State.modLc_waitq (s : State) (x : Nat) (c : LCore → LCore) : (s.modLc x c).waitq = s.waitq := rfl
@[simp] theorem State.modLc_wires (s : State) (x : Nat) (c : LCore → LCore) : (s.modLc x c).wires = s.wires := rfl
@[simp] theorem State.modLc_exits (s : State) (x : Nat) (c : LCore → LCore) : (s.modLc x c).exits = s.exits := rfl
@[simp] theorem State.modLc_inbox (s : State) (x : Nat) (c : LCore → LCore) : (s.modLc x c).inbox = s.inbox := rfl
@[simp] theorem State.modLc_outside (s : State) (x : Nat) (c : LCore → LCore) : (s.modLc x c).outside = s.outside := rfl
@[simp] theorem State.modLc_recov (s : State) (x : Nat) (c : LCore → LCore) : (s.modLc x c).recov = s.recov := rfl
@[simp] theorem State.modLc_links (s : State) (x : Nat) (c : LCore → LCore) : (s.modLc x c).links = s.links := rfl
@[simp] theorem State.modLc_wrr (s : State) (x : Nat) (c : LCore → LCore) : (s.modLc x c).wrr = s.wrr := rfl
@[simp] theorem State.modLc_txns (s : State) (x : Nat) (c : LCore → LCore) : (s.modLc x c).txns = s.txns := rfl
@[simp] theorem State.modLc_outq (s : State) (x : Nat) (c : LCore → LCore) : (s.modLc x c).outq = s.outq := rfl
@[simp] theorem State.modLc_stuck (s : State) (x : Nat) (c : LCore → LCore) : (s.modLc x c).stuck = s.stuck := rfl
@[simp] theorem State.modLc_unsaid (s : State) (x : Nat) (c : LCore → LCore) : (s.modLc x c).unsaid = s.unsaid := rfl
@[simp] theorem State.modLc_nextTag (s : State) (x : Nat) (c : LCore → LCore) : (s.modLc x c).nextTag = s.nextTag := rfl
@[simp] theorem State.modLc_cycle (s : State) (x : Nat) (c : LCore → LCore) : (s.modLc x c).cycle = s.cycle := rfl
@[simp] theorem State.modLc_since (s : State) (x : Nat) (c : LCore → LCore) : (s.modLc x c).since = s.since := rfl
@[simp] theorem State.modLc_lastRead (s : State) (x : Nat) (c : LCore → LCore) : (s.modLc x c).lastRead = s.lastRead := rfl
@[simp] theorem State.modLc_agenda (s : State) (x : Nat) (c : LCore → LCore) : (s.modLc x c).agenda = s.agenda := rfl
@[simp] theorem State.modLc_cur (s : State) (x : Nat) (c : LCore → LCore) : (s.modLc x c).cur = s.cur := rfl
@[simp] theorem State.modLc_latch (s : State) (x : Nat) (c : LCore → LCore) : (s.modLc x c).latch = s.latch := rfl
@[simp] theorem State.modLc_turn (s : State) (x : Nat) (c : LCore → LCore) : (s.modLc x c).turn = s.turn := rfl
@[simp] theorem State.modLc_fresh (s : State) (x : Nat) (c : LCore → LCore) : (s.modLc x c).fresh = s.fresh := rfl
@[simp] theorem State.modStrand_power (s : State) (x : Nat) (c : Strand → Strand) : (s.modStrand x c).power = s.power := rfl
@[simp] theorem State.modStrand_kstat (s : State) (x : Nat) (c : Strand → Strand) : (s.modStrand x c).kstat = s.kstat := rfl
@[simp] theorem State.modStrand_env (s : State) (x : Nat) (c : Strand → Strand) : (s.modStrand x c).env = s.env := rfl
@[simp] theorem State.modStrand_lanesBit (s : State) (x : Nat) (c : Strand → Strand) : (s.modStrand x c).lanesBit = s.lanesBit := rfl
@[simp] theorem State.modStrand_hbmBit (s : State) (x : Nat) (c : Strand → Strand) : (s.modStrand x c).hbmBit = s.hbmBit := rfl
@[simp] theorem State.modStrand_sparesBit (s : State) (x : Nat) (c : Strand → Strand) : (s.modStrand x c).sparesBit = s.sparesBit := rfl
@[simp] theorem State.modStrand_retired (s : State) (x : Nat) (c : Strand → Strand) : (s.modStrand x c).retired = s.retired := rfl
@[simp] theorem State.modStrand_temps (s : State) (x : Nat) (c : Strand → Strand) : (s.modStrand x c).temps = s.temps := rfl
@[simp] theorem State.modStrand_throttled (s : State) (x : Nat) (c : Strand → Strand) : (s.modStrand x c).throttled = s.throttled := rfl
@[simp] theorem State.modStrand_mem (s : State) (x : Nat) (c : Strand → Strand) : (s.modStrand x c).mem = s.mem := rfl
@[simp] theorem State.modStrand_past (s : State) (x : Nat) (c : Strand → Strand) : (s.modStrand x c).past = s.past := rfl
@[simp] theorem State.modStrand_vtime (s : State) (x : Nat) (c : Strand → Strand) : (s.modStrand x c).vtime = s.vtime := rfl
@[simp] theorem State.modStrand_hostView (s : State) (x : Nat) (c : Strand → Strand) : (s.modStrand x c).hostView = s.hostView := rfl
@[simp] theorem State.modStrand_hostSaw (s : State) (x : Nat) (c : Strand → Strand) : (s.modStrand x c).hostSaw = s.hostSaw := rfl
@[simp] theorem State.modStrand_zips (s : State) (x : Nat) (c : Strand → Strand) : (s.modStrand x c).zips = s.zips := rfl
@[simp] theorem State.modStrand_bad (s : State) (x : Nat) (c : Strand → Strand) : (s.modStrand x c).bad = s.bad := rfl
@[simp] theorem State.modStrand_ctxs (s : State) (x : Nat) (c : Strand → Strand) : (s.modStrand x c).ctxs = s.ctxs := rfl
@[simp] theorem State.modStrand_lcs (s : State) (x : Nat) (c : Strand → Strand) : (s.modStrand x c).lcs = s.lcs := rfl
@[simp] theorem State.modStrand_gens (s : State) (x : Nat) (c : Strand → Strand) : (s.modStrand x c).gens = s.gens := rfl
@[simp] theorem State.modStrand_lines (s : State) (x : Nat) (c : Strand → Strand) : (s.modStrand x c).lines = s.lines := rfl
@[simp] theorem State.modStrand_cmdQ (s : State) (x : Nat) (c : Strand → Strand) : (s.modStrand x c).cmdQ = s.cmdQ := rfl
@[simp] theorem State.modStrand_arb (s : State) (x : Nat) (c : Strand → Strand) : (s.modStrand x c).arb = s.arb := rfl
@[simp] theorem State.modStrand_ablum (s : State) (x : Nat) (c : Strand → Strand) : (s.modStrand x c).ablum = s.ablum := rfl
@[simp] theorem State.modStrand_tags (s : State) (x : Nat) (c : Strand → Strand) : (s.modStrand x c).tags = s.tags := rfl
@[simp] theorem State.modStrand_busy (s : State) (x : Nat) (c : Strand → Strand) : (s.modStrand x c).busy = s.busy := rfl
@[simp] theorem State.modStrand_rr (s : State) (x : Nat) (c : Strand → Strand) : (s.modStrand x c).rr = s.rr := rfl
@[simp] theorem State.modStrand_damper (s : State) (x : Nat) (c : Strand → Strand) : (s.modStrand x c).damper = s.damper := rfl
@[simp] theorem State.modStrand_damperAt (s : State) (x : Nat) (c : Strand → Strand) : (s.modStrand x c).damperAt = s.damperAt := rfl
@[simp] theorem State.modStrand_rowSteps (s : State) (x : Nat) (c : Strand → Strand) : (s.modStrand x c).rowSteps = s.rowSteps := rfl
@[simp] theorem State.modStrand_nextReb (s : State) (x : Nat) (c : Strand → Strand) : (s.modStrand x c).nextReb = s.nextReb := rfl
@[simp] theorem State.modStrand_waitq (s : State) (x : Nat) (c : Strand → Strand) : (s.modStrand x c).waitq = s.waitq := rfl
@[simp] theorem State.modStrand_wires (s : State) (x : Nat) (c : Strand → Strand) : (s.modStrand x c).wires = s.wires := rfl
@[simp] theorem State.modStrand_exits (s : State) (x : Nat) (c : Strand → Strand) : (s.modStrand x c).exits = s.exits := rfl
@[simp] theorem State.modStrand_inbox (s : State) (x : Nat) (c : Strand → Strand) : (s.modStrand x c).inbox = s.inbox := rfl
@[simp] theorem State.modStrand_outside (s : State) (x : Nat) (c : Strand → Strand) : (s.modStrand x c).outside = s.outside := rfl
@[simp] theorem State.modStrand_recov (s : State) (x : Nat) (c : Strand → Strand) : (s.modStrand x c).recov = s.recov := rfl
@[simp] theorem State.modStrand_links (s : State) (x : Nat) (c : Strand → Strand) : (s.modStrand x c).links = s.links := rfl
@[simp] theorem State.modStrand_wrr (s : State) (x : Nat) (c : Strand → Strand) : (s.modStrand x c).wrr = s.wrr := rfl
@[simp] theorem State.modStrand_txns (s : State) (x : Nat) (c : Strand → Strand) : (s.modStrand x c).txns = s.txns := rfl
@[simp] theorem State.modStrand_outq (s : State) (x : Nat) (c : Strand → Strand) : (s.modStrand x c).outq = s.outq := rfl
@[simp] theorem State.modStrand_stuck (s : State) (x : Nat) (c : Strand → Strand) : (s.modStrand x c).stuck = s.stuck := rfl
@[simp] theorem State.modStrand_unsaid (s : State) (x : Nat) (c : Strand → Strand) : (s.modStrand x c).unsaid = s.unsaid := rfl
@[simp] theorem State.modStrand_nextTag (s : State) (x : Nat) (c : Strand → Strand) : (s.modStrand x c).nextTag = s.nextTag := rfl
@[simp] theorem State.modStrand_cycle (s : State) (x : Nat) (c : Strand → Strand) : (s.modStrand x c).cycle = s.cycle := rfl
@[simp] theorem State.modStrand_since (s : State) (x : Nat) (c : Strand → Strand) : (s.modStrand x c).since = s.since := rfl
@[simp] theorem State.modStrand_lastRead (s : State) (x : Nat) (c : Strand → Strand) : (s.modStrand x c).lastRead = s.lastRead := rfl
@[simp] theorem State.modStrand_agenda (s : State) (x : Nat) (c : Strand → Strand) : (s.modStrand x c).agenda = s.agenda := rfl
@[simp] theorem State.modStrand_cur (s : State) (x : Nat) (c : Strand → Strand) : (s.modStrand x c).cur = s.cur := rfl
@[simp] theorem State.modStrand_latch (s : State) (x : Nat) (c : Strand → Strand) : (s.modStrand x c).latch = s.latch := rfl
@[simp] theorem State.modStrand_turn (s : State) (x : Nat) (c : Strand → Strand) : (s.modStrand x c).turn = s.turn := rfl
@[simp] theorem State.modStrand_fresh (s : State) (x : Nat) (c : Strand → Strand) : (s.modStrand x c).fresh = s.fresh := rfl

/-! ### Reading after writing -/

theorem State.ctx_setCtx (s : State) (x y : Nat) (c : Ctx) : (s.setCtx x c).ctx y = if y = x then c else s.ctx y := by
  simp [State.ctx, State.setCtx, tget_tset]
@[simp] theorem State.ctx_setCtx_same (s : State) (x : Nat) (c : Ctx) : (s.setCtx x c).ctx x = c := by simp [State.ctx_setCtx]
theorem State.ctx_setCtx_other (s : State) (x y : Nat) (c : Ctx) (h : y ≠ x) : (s.setCtx x c).ctx y = s.ctx y := by
  simp [State.ctx_setCtx, h]
theorem State.ctx_modCtx (s : State) (x y : Nat) (f : Ctx → Ctx) :
    (s.modCtx x f).ctx y = if y = x then f (s.ctx x) else s.ctx y := by
  simp [State.modCtx, State.ctx_setCtx]
@[simp] theorem State.ctx_modCtx_same (s : State) (x : Nat) (f : Ctx → Ctx) : (s.modCtx x f).ctx x = f (s.ctx x) := by
  simp [State.ctx_modCtx]
@[simp] theorem State.lc_setCtx (s : State) (x y : Nat) (c : Ctx) : (s.setCtx x c).lc y = s.lc y := rfl
@[simp] theorem State.lc_modCtx (s : State) (x y : Nat) (f : Ctx → Ctx) : (s.modCtx x f).lc y = s.lc y := rfl
@[simp] theorem State.strand_setCtx (s : State) (x y : Nat) (c : Ctx) : (s.setCtx x c).strand y = s.strand y := rfl
@[simp] theorem State.strand_modCtx (s : State) (x y : Nat) (f : Ctx → Ctx) : (s.modCtx x f).strand y = s.strand y := rfl
theorem State.lc_setLc (s : State) (x y : Nat) (c : LCore) : (s.setLc x c).lc y = if y = x then c else s.lc y := by
  simp [State.lc, State.setLc, tget_tset]
@[simp] theorem State.lc_setLc_same (s : State) (x : Nat) (c : LCore) : (s.setLc x c).lc x = c := by simp [State.lc_setLc]
theorem State.lc_setLc_other (s : State) (x y : Nat) (c : LCore) (h : y ≠ x) : (s.setLc x c).lc y = s.lc y := by
  simp [State.lc_setLc, h]
theorem State.lc_modLc (s : State) (x y : Nat) (f : LCore → LCore) :
    (s.modLc x f).lc y = if y = x then f (s.lc x) else s.lc y := by
  simp [State.modLc, State.lc_setLc]
@[simp] theorem State.lc_modLc_same (s : State) (x : Nat) (f : LCore → LCore) : (s.modLc x f).lc x = f (s.lc x) := by
  simp [State.lc_modLc]
@[simp] theorem State.ctx_setLc (s : State) (x y : Nat) (c : LCore) : (s.setLc x c).ctx y = s.ctx y := rfl
@[simp] theorem State.ctx_modLc (s : State) (x y : Nat) (f : LCore → LCore) : (s.modLc x f).ctx y = s.ctx y := rfl
@[simp] theorem State.strand_setLc (s : State) (x y : Nat) (c : LCore) : (s.setLc x c).strand y = s.strand y := rfl
@[simp] theorem State.strand_modLc (s : State) (x y : Nat) (f : LCore → LCore) : (s.modLc x f).strand y = s.strand y := rfl
theorem State.strand_setStrand (s : State) (x y : Nat) (c : Strand) : (s.setStrand x c).strand y = if y = x then c else s.strand y := by
  simp [State.strand, State.setStrand, tget_tset]
@[simp] theorem State.strand_setStrand_same (s : State) (x : Nat) (c : Strand) : (s.setStrand x c).strand x = c := by simp [State.strand_setStrand]
theorem State.strand_setStrand_other (s : State) (x y : Nat) (c : Strand) (h : y ≠ x) : (s.setStrand x c).strand y = s.strand y := by
  simp [State.strand_setStrand, h]
theorem State.strand_modStrand (s : State) (x y : Nat) (f : Strand → Strand) :
    (s.modStrand x f).strand y = if y = x then f (s.strand x) else s.strand y := by
  simp [State.modStrand, State.strand_setStrand]
@[simp] theorem State.strand_modStrand_same (s : State) (x : Nat) (f : Strand → Strand) : (s.modStrand x f).strand x = f (s.strand x) := by
  simp [State.strand_modStrand]
@[simp] theorem State.ctx_setStrand (s : State) (x y : Nat) (c : Strand) : (s.setStrand x c).ctx y = s.ctx y := rfl
@[simp] theorem State.ctx_modStrand (s : State) (x y : Nat) (f : Strand → Strand) : (s.modStrand x f).ctx y = s.ctx y := rfl
@[simp] theorem State.lc_setStrand (s : State) (x y : Nat) (c : Strand) : (s.setStrand x c).lc y = s.lc y := rfl
@[simp] theorem State.lc_modStrand (s : State) (x y : Nat) (f : Strand → Strand) : (s.modStrand x f).lc y = s.lc y := rfl

/-! ### A strand's registers -/

@[simp] theorem Strand.gSet_occ (st : Strand) (n : Nat) (v : W64) : (st.gSet n v).occ = st.occ := by unfold Strand.gSet; split <;> rfl
@[simp] theorem Strand.gSet_blk (st : Strand) (n : Nat) (v : W64) : (st.gSet n v).blk = st.blk := by unfold Strand.gSet; split <;> rfl
@[simp] theorem Strand.gSet_since (st : Strand) (n : Nat) (v : W64) : (st.gSet n v).since = st.since := by unfold Strand.gSet; split <;> rfl
@[simp] theorem Strand.gSet_began (st : Strand) (n : Nat) (v : W64) : (st.gSet n v).began = st.began := by unfold Strand.gSet; split <;> rfl
@[simp] theorem Strand.gSet_gid (st : Strand) (n : Nat) (v : W64) : (st.gSet n v).gid = st.gid := by unfold Strand.gSet; split <;> rfl
@[simp] theorem Strand.gSet_stage (st : Strand) (n : Nat) (v : W64) : (st.gSet n v).stage = st.stage := by unfold Strand.gSet; split <;> rfl
@[simp] theorem Strand.gSet_q (st : Strand) (n : Nat) (v : W64) : (st.gSet n v).q = st.q := by unfold Strand.gSet; split <;> rfl
@[simp] theorem Strand.gSet_depth (st : Strand) (n : Nat) (v : W64) : (st.gSet n v).depth = st.depth := by unfold Strand.gSet; split <;> rfl
@[simp] theorem Strand.gSet_call (st : Strand) (n : Nat) (v : W64) : (st.gSet n v).call = st.call := by unfold Strand.gSet; split <;> rfl
@[simp] theorem Strand.gSet_fkey (st : Strand) (n : Nat) (v : W64) : (st.gSet n v).fkey = st.fkey := by unfold Strand.gSet; split <;> rfl
@[simp] theorem Strand.gSet_nchild (st : Strand) (n : Nat) (v : W64) : (st.gSet n v).nchild = st.nchild := by unfold Strand.gSet; split <;> rfl
@[simp] theorem Strand.gSet_entry (st : Strand) (n : Nat) (v : W64) : (st.gSet n v).entry = st.entry := by unfold Strand.gSet; split <;> rfl
@[simp] theorem Strand.gSet_pc (st : Strand) (n : Nat) (v : W64) : (st.gSet n v).pc = st.pc := by unfold Strand.gSet; split <;> rfl
@[simp] theorem Strand.gSet_p (st : Strand) (n : Nat) (v : W64) : (st.gSet n v).p = st.p := by unfold Strand.gSet; split <;> rfl
@[simp] theorem Strand.gSet_v (st : Strand) (n : Nat) (v : W64) : (st.gSet n v).v = st.v := by unfold Strand.gSet; split <;> rfl
@[simp] theorem Strand.gSet_qr (st : Strand) (n : Nat) (v : W64) : (st.gSet n v).qr = st.qr := by unfold Strand.gSet; split <;> rfl
@[simp] theorem Strand.gSet_tcfg (st : Strand) (n : Nat) (v : W64) : (st.gSet n v).tcfg = st.tcfg := by unfold Strand.gSet; split <;> rfl
@[simp] theorem Strand.gSet_tst (st : Strand) (n : Nat) (v : W64) : (st.gSet n v).tst = st.tst := by unfold Strand.gSet; split <;> rfl
@[simp] theorem Strand.gSet_td (st : Strand) (n : Nat) (v : W64) : (st.gSet n v).td = st.td := by unfold Strand.gSet; split <;> rfl
@[simp] theorem Strand.gSet_tm (st : Strand) (n : Nat) (v : W64) : (st.gSet n v).tm = st.tm := by unfold Strand.gSet; split <;> rfl
@[simp] theorem Strand.gSet_sstep (st : Strand) (n : Nat) (v : W64) : (st.gSet n v).sstep = st.sstep := by unfold Strand.gSet; split <;> rfl
@[simp] theorem Strand.gSet_sdrain (st : Strand) (n : Nat) (v : W64) : (st.gSet n v).sdrain = st.sdrain := by unfold Strand.gSet; split <;> rfl
@[simp] theorem Strand.gSet_tvb (st : Strand) (n : Nat) (v : W64) : (st.gSet n v).tvb = st.tvb := by unfold Strand.gSet; split <;> rfl
@[simp] theorem Strand.gSet_epc (st : Strand) (n : Nat) (v : W64) : (st.gSet n v).epc = st.epc := by unfold Strand.gSet; split <;> rfl
@[simp] theorem Strand.gSet_ecause (st : Strand) (n : Nat) (v : W64) : (st.gSet n v).ecause = st.ecause := by unfold Strand.gSet; split <;> rfl
@[simp] theorem Strand.gSet_eaddr (st : Strand) (n : Nat) (v : W64) : (st.gSet n v).eaddr = st.eaddr := by unfold Strand.gSet; split <;> rfl
@[simp] theorem Strand.gSet_einfo (st : Strand) (n : Nat) (v : W64) : (st.gSet n v).einfo = st.einfo := by unfold Strand.gSet; split <;> rfl
@[simp] theorem Strand.gSet_aflags (st : Strand) (n : Nat) (v : W64) : (st.gSet n v).aflags = st.aflags := by unfold Strand.gSet; split <;> rfl
@[simp] theorem Strand.gSet_amask (st : Strand) (n : Nat) (v : W64) : (st.gSet n v).amask = st.amask := by unfold Strand.gSet; split <;> rfl
@[simp] theorem Strand.gSet_xv (st : Strand) (n : Nat) (v : W64) : (st.gSet n v).xv = st.xv := by unfold Strand.gSet; split <;> rfl
@[simp] theorem Strand.gSet_lnk (st : Strand) (n : Nat) (v : W64) : (st.gSet n v).lnk = st.lnk := by unfold Strand.gSet; split <;> rfl
@[simp] theorem Strand.gSet_lnkd (st : Strand) (n : Nat) (v : W64) : (st.gSet n v).lnkd = st.lnkd := by unfold Strand.gSet; split <;> rfl
@[simp] theorem Strand.gSet_lcnt (st : Strand) (n : Nat) (v : W64) : (st.gSet n v).lcnt = st.lcnt := by unfold Strand.gSet; split <;> rfl
@[simp] theorem Strand.gSet_loopd (st : Strand) (n : Nat) (v : W64) : (st.gSet n v).loopd = st.loopd := by unfold Strand.gSet; split <;> rfl
@[simp] theorem Strand.gSet_loopStart (st : Strand) (n : Nat) (v : W64) : (st.gSet n v).loopStart = st.loopStart := by unfold Strand.gSet; split <;> rfl
@[simp] theorem Strand.gSet_loopEnd (st : Strand) (n : Nat) (v : W64) : (st.gSet n v).loopEnd = st.loopEnd := by unfold Strand.gSet; split <;> rfl
@[simp] theorem Strand.gSet_dgsta (st : Strand) (n : Nat) (v : W64) : (st.gSet n v).dgsta = st.dgsta := by unfold Strand.gSet; split <;> rfl
@[simp] theorem Strand.gSet_dgste (st : Strand) (n : Nat) (v : W64) : (st.gSet n v).dgste = st.dgste := by unfold Strand.gSet; split <;> rfl
@[simp] theorem Strand.gSet_ecmd (st : Strand) (n : Nat) (v : W64) : (st.gSet n v).ecmd = st.ecmd := by unfold Strand.gSet; split <;> rfl
@[simp] theorem Strand.gSet_opush (st : Strand) (n : Nat) (v : W64) : (st.gSet n v).opush = st.opush := by unfold Strand.gSet; split <;> rfl
@[simp] theorem Strand.gSet_opop (st : Strand) (n : Nat) (v : W64) : (st.gSet n v).opop = st.opop := by unfold Strand.gSet; split <;> rfl
@[simp] theorem Strand.gSet_lat (st : Strand) (n : Nat) (v : W64) : (st.gSet n v).lat = st.lat := by unfold Strand.gSet; split <;> rfl
@[simp] theorem Strand.gSet_bcount (st : Strand) (n : Nat) (v : W64) : (st.gSet n v).bcount = st.bcount := by unfold Strand.gSet; split <;> rfl
@[simp] theorem Strand.gSet_fpend (st : Strand) (n : Nat) (v : W64) : (st.gSet n v).fpend = st.fpend := by unfold Strand.gSet; split <;> rfl
@[simp] theorem Strand.gSet_acc (st : Strand) (n : Nat) (v : W64) : (st.gSet n v).acc = st.acc := by unfold Strand.gSet; split <;> rfl
@[simp] theorem Strand.gSet_accNo (st : Strand) (n : Nat) (v : W64) : (st.gSet n v).accNo = st.accNo := by unfold Strand.gSet; split <;> rfl
@[simp] theorem Strand.gSet_view (st : Strand) (n : Nat) (v : W64) : (st.gSet n v).view = st.view := by unfold Strand.gSet; split <;> rfl
@[simp] theorem Strand.gSet_flagGot (st : Strand) (n : Nat) (v : W64) : (st.gSet n v).flagGot = st.flagGot := by unfold Strand.gSet; split <;> rfl
@[simp] theorem Strand.gSet_assign (st : Strand) (n : Nat) (v : W64) : (st.gSet n v).assign = st.assign := by unfold Strand.gSet; split <;> rfl
@[simp] theorem Strand.gSet_reserved (st : Strand) (n : Nat) (v : W64) : (st.gSet n v).reserved = st.reserved := by unfold Strand.gSet; split <;> rfl
@[simp] theorem Strand.gSet_marked (st : Strand) (n : Nat) (v : W64) : (st.gSet n v).marked = st.marked := by unfold Strand.gSet; split <;> rfl
@[simp] theorem Strand.gSet_gbar (st : Strand) (n : Nat) (v : W64) : (st.gSet n v).gbar = st.gbar := by unfold Strand.gSet; split <;> rfl
@[simp] theorem Strand.gSet_popWait (st : Strand) (n : Nat) (v : W64) : (st.gSet n v).popWait = st.popWait := by unfold Strand.gSet; split <;> rfl
@[simp] theorem Strand.gSet_dgst (st : Strand) (n : Nat) (v : W64) : (st.gSet n v).dgst = st.dgst := by unfold Strand.gSet; split <;> rfl
@[simp] theorem Strand.gSet_dgstGo (st : Strand) (n : Nat) (v : W64) : (st.gSet n v).dgstGo = st.dgstGo := by unfold Strand.gSet; split <;> rfl
@[simp] theorem Strand.gSet_dgstAt (st : Strand) (n : Nat) (v : W64) : (st.gSet n v).dgstAt = st.dgstAt := by unfold Strand.gSet; split <;> rfl
@[simp] theorem Strand.gSet_stepWait (st : Strand) (n : Nat) (v : W64) : (st.gSet n v).stepWait = st.stepWait := by unfold Strand.gSet; split <;> rfl
@[simp] theorem Strand.gSet_late (st : Strand) (n : Nat) (v : W64) : (st.gSet n v).late = st.late := by unfold Strand.gSet; split <;> rfl
@[simp] theorem Strand.pSet_occ (st : Strand) (n : Nat) (v : Bool) : (st.pSet n v).occ = st.occ := by unfold Strand.pSet; split <;> rfl
@[simp] theorem Strand.pSet_blk (st : Strand) (n : Nat) (v : Bool) : (st.pSet n v).blk = st.blk := by unfold Strand.pSet; split <;> rfl
@[simp] theorem Strand.pSet_since (st : Strand) (n : Nat) (v : Bool) : (st.pSet n v).since = st.since := by unfold Strand.pSet; split <;> rfl
@[simp] theorem Strand.pSet_began (st : Strand) (n : Nat) (v : Bool) : (st.pSet n v).began = st.began := by unfold Strand.pSet; split <;> rfl
@[simp] theorem Strand.pSet_gid (st : Strand) (n : Nat) (v : Bool) : (st.pSet n v).gid = st.gid := by unfold Strand.pSet; split <;> rfl
@[simp] theorem Strand.pSet_stage (st : Strand) (n : Nat) (v : Bool) : (st.pSet n v).stage = st.stage := by unfold Strand.pSet; split <;> rfl
@[simp] theorem Strand.pSet_q (st : Strand) (n : Nat) (v : Bool) : (st.pSet n v).q = st.q := by unfold Strand.pSet; split <;> rfl
@[simp] theorem Strand.pSet_depth (st : Strand) (n : Nat) (v : Bool) : (st.pSet n v).depth = st.depth := by unfold Strand.pSet; split <;> rfl
@[simp] theorem Strand.pSet_call (st : Strand) (n : Nat) (v : Bool) : (st.pSet n v).call = st.call := by unfold Strand.pSet; split <;> rfl
@[simp] theorem Strand.pSet_fkey (st : Strand) (n : Nat) (v : Bool) : (st.pSet n v).fkey = st.fkey := by unfold Strand.pSet; split <;> rfl
@[simp] theorem Strand.pSet_nchild (st : Strand) (n : Nat) (v : Bool) : (st.pSet n v).nchild = st.nchild := by unfold Strand.pSet; split <;> rfl
@[simp] theorem Strand.pSet_entry (st : Strand) (n : Nat) (v : Bool) : (st.pSet n v).entry = st.entry := by unfold Strand.pSet; split <;> rfl
@[simp] theorem Strand.pSet_pc (st : Strand) (n : Nat) (v : Bool) : (st.pSet n v).pc = st.pc := by unfold Strand.pSet; split <;> rfl
@[simp] theorem Strand.pSet_g (st : Strand) (n : Nat) (v : Bool) : (st.pSet n v).g = st.g := by unfold Strand.pSet; split <;> rfl
@[simp] theorem Strand.pSet_v (st : Strand) (n : Nat) (v : Bool) : (st.pSet n v).v = st.v := by unfold Strand.pSet; split <;> rfl
@[simp] theorem Strand.pSet_qr (st : Strand) (n : Nat) (v : Bool) : (st.pSet n v).qr = st.qr := by unfold Strand.pSet; split <;> rfl
@[simp] theorem Strand.pSet_tcfg (st : Strand) (n : Nat) (v : Bool) : (st.pSet n v).tcfg = st.tcfg := by unfold Strand.pSet; split <;> rfl
@[simp] theorem Strand.pSet_tst (st : Strand) (n : Nat) (v : Bool) : (st.pSet n v).tst = st.tst := by unfold Strand.pSet; split <;> rfl
@[simp] theorem Strand.pSet_td (st : Strand) (n : Nat) (v : Bool) : (st.pSet n v).td = st.td := by unfold Strand.pSet; split <;> rfl
@[simp] theorem Strand.pSet_tm (st : Strand) (n : Nat) (v : Bool) : (st.pSet n v).tm = st.tm := by unfold Strand.pSet; split <;> rfl
@[simp] theorem Strand.pSet_sstep (st : Strand) (n : Nat) (v : Bool) : (st.pSet n v).sstep = st.sstep := by unfold Strand.pSet; split <;> rfl
@[simp] theorem Strand.pSet_sdrain (st : Strand) (n : Nat) (v : Bool) : (st.pSet n v).sdrain = st.sdrain := by unfold Strand.pSet; split <;> rfl
@[simp] theorem Strand.pSet_tvb (st : Strand) (n : Nat) (v : Bool) : (st.pSet n v).tvb = st.tvb := by unfold Strand.pSet; split <;> rfl
@[simp] theorem Strand.pSet_epc (st : Strand) (n : Nat) (v : Bool) : (st.pSet n v).epc = st.epc := by unfold Strand.pSet; split <;> rfl
@[simp] theorem Strand.pSet_ecause (st : Strand) (n : Nat) (v : Bool) : (st.pSet n v).ecause = st.ecause := by unfold Strand.pSet; split <;> rfl
@[simp] theorem Strand.pSet_eaddr (st : Strand) (n : Nat) (v : Bool) : (st.pSet n v).eaddr = st.eaddr := by unfold Strand.pSet; split <;> rfl
@[simp] theorem Strand.pSet_einfo (st : Strand) (n : Nat) (v : Bool) : (st.pSet n v).einfo = st.einfo := by unfold Strand.pSet; split <;> rfl
@[simp] theorem Strand.pSet_aflags (st : Strand) (n : Nat) (v : Bool) : (st.pSet n v).aflags = st.aflags := by unfold Strand.pSet; split <;> rfl
@[simp] theorem Strand.pSet_amask (st : Strand) (n : Nat) (v : Bool) : (st.pSet n v).amask = st.amask := by unfold Strand.pSet; split <;> rfl
@[simp] theorem Strand.pSet_xv (st : Strand) (n : Nat) (v : Bool) : (st.pSet n v).xv = st.xv := by unfold Strand.pSet; split <;> rfl
@[simp] theorem Strand.pSet_lnk (st : Strand) (n : Nat) (v : Bool) : (st.pSet n v).lnk = st.lnk := by unfold Strand.pSet; split <;> rfl
@[simp] theorem Strand.pSet_lnkd (st : Strand) (n : Nat) (v : Bool) : (st.pSet n v).lnkd = st.lnkd := by unfold Strand.pSet; split <;> rfl
@[simp] theorem Strand.pSet_lcnt (st : Strand) (n : Nat) (v : Bool) : (st.pSet n v).lcnt = st.lcnt := by unfold Strand.pSet; split <;> rfl
@[simp] theorem Strand.pSet_loopd (st : Strand) (n : Nat) (v : Bool) : (st.pSet n v).loopd = st.loopd := by unfold Strand.pSet; split <;> rfl
@[simp] theorem Strand.pSet_loopStart (st : Strand) (n : Nat) (v : Bool) : (st.pSet n v).loopStart = st.loopStart := by unfold Strand.pSet; split <;> rfl
@[simp] theorem Strand.pSet_loopEnd (st : Strand) (n : Nat) (v : Bool) : (st.pSet n v).loopEnd = st.loopEnd := by unfold Strand.pSet; split <;> rfl
@[simp] theorem Strand.pSet_dgsta (st : Strand) (n : Nat) (v : Bool) : (st.pSet n v).dgsta = st.dgsta := by unfold Strand.pSet; split <;> rfl
@[simp] theorem Strand.pSet_dgste (st : Strand) (n : Nat) (v : Bool) : (st.pSet n v).dgste = st.dgste := by unfold Strand.pSet; split <;> rfl
@[simp] theorem Strand.pSet_ecmd (st : Strand) (n : Nat) (v : Bool) : (st.pSet n v).ecmd = st.ecmd := by unfold Strand.pSet; split <;> rfl
@[simp] theorem Strand.pSet_opush (st : Strand) (n : Nat) (v : Bool) : (st.pSet n v).opush = st.opush := by unfold Strand.pSet; split <;> rfl
@[simp] theorem Strand.pSet_opop (st : Strand) (n : Nat) (v : Bool) : (st.pSet n v).opop = st.opop := by unfold Strand.pSet; split <;> rfl
@[simp] theorem Strand.pSet_lat (st : Strand) (n : Nat) (v : Bool) : (st.pSet n v).lat = st.lat := by unfold Strand.pSet; split <;> rfl
@[simp] theorem Strand.pSet_bcount (st : Strand) (n : Nat) (v : Bool) : (st.pSet n v).bcount = st.bcount := by unfold Strand.pSet; split <;> rfl
@[simp] theorem Strand.pSet_fpend (st : Strand) (n : Nat) (v : Bool) : (st.pSet n v).fpend = st.fpend := by unfold Strand.pSet; split <;> rfl
@[simp] theorem Strand.pSet_acc (st : Strand) (n : Nat) (v : Bool) : (st.pSet n v).acc = st.acc := by unfold Strand.pSet; split <;> rfl
@[simp] theorem Strand.pSet_accNo (st : Strand) (n : Nat) (v : Bool) : (st.pSet n v).accNo = st.accNo := by unfold Strand.pSet; split <;> rfl
@[simp] theorem Strand.pSet_view (st : Strand) (n : Nat) (v : Bool) : (st.pSet n v).view = st.view := by unfold Strand.pSet; split <;> rfl
@[simp] theorem Strand.pSet_flagGot (st : Strand) (n : Nat) (v : Bool) : (st.pSet n v).flagGot = st.flagGot := by unfold Strand.pSet; split <;> rfl
@[simp] theorem Strand.pSet_assign (st : Strand) (n : Nat) (v : Bool) : (st.pSet n v).assign = st.assign := by unfold Strand.pSet; split <;> rfl
@[simp] theorem Strand.pSet_reserved (st : Strand) (n : Nat) (v : Bool) : (st.pSet n v).reserved = st.reserved := by unfold Strand.pSet; split <;> rfl
@[simp] theorem Strand.pSet_marked (st : Strand) (n : Nat) (v : Bool) : (st.pSet n v).marked = st.marked := by unfold Strand.pSet; split <;> rfl
@[simp] theorem Strand.pSet_gbar (st : Strand) (n : Nat) (v : Bool) : (st.pSet n v).gbar = st.gbar := by unfold Strand.pSet; split <;> rfl
@[simp] theorem Strand.pSet_popWait (st : Strand) (n : Nat) (v : Bool) : (st.pSet n v).popWait = st.popWait := by unfold Strand.pSet; split <;> rfl
@[simp] theorem Strand.pSet_dgst (st : Strand) (n : Nat) (v : Bool) : (st.pSet n v).dgst = st.dgst := by unfold Strand.pSet; split <;> rfl
@[simp] theorem Strand.pSet_dgstGo (st : Strand) (n : Nat) (v : Bool) : (st.pSet n v).dgstGo = st.dgstGo := by unfold Strand.pSet; split <;> rfl
@[simp] theorem Strand.pSet_dgstAt (st : Strand) (n : Nat) (v : Bool) : (st.pSet n v).dgstAt = st.dgstAt := by unfold Strand.pSet; split <;> rfl
@[simp] theorem Strand.pSet_stepWait (st : Strand) (n : Nat) (v : Bool) : (st.pSet n v).stepWait = st.stepWait := by unfold Strand.pSet; split <;> rfl
@[simp] theorem Strand.pSet_late (st : Strand) (n : Nat) (v : Bool) : (st.pSet n v).late = st.late := by unfold Strand.pSet; split <;> rfl
@[simp] theorem Strand.qSet_occ (st : Strand) (n : Nat) (v : W64) : (st.qSet n v).occ = st.occ := by unfold Strand.qSet; split <;> rfl
@[simp] theorem Strand.qSet_blk (st : Strand) (n : Nat) (v : W64) : (st.qSet n v).blk = st.blk := by unfold Strand.qSet; split <;> rfl
@[simp] theorem Strand.qSet_since (st : Strand) (n : Nat) (v : W64) : (st.qSet n v).since = st.since := by unfold Strand.qSet; split <;> rfl
@[simp] theorem Strand.qSet_began (st : Strand) (n : Nat) (v : W64) : (st.qSet n v).began = st.began := by unfold Strand.qSet; split <;> rfl
@[simp] theorem Strand.qSet_gid (st : Strand) (n : Nat) (v : W64) : (st.qSet n v).gid = st.gid := by unfold Strand.qSet; split <;> rfl
@[simp] theorem Strand.qSet_stage (st : Strand) (n : Nat) (v : W64) : (st.qSet n v).stage = st.stage := by unfold Strand.qSet; split <;> rfl
@[simp] theorem Strand.qSet_q (st : Strand) (n : Nat) (v : W64) : (st.qSet n v).q = st.q := by unfold Strand.qSet; split <;> rfl
@[simp] theorem Strand.qSet_depth (st : Strand) (n : Nat) (v : W64) : (st.qSet n v).depth = st.depth := by unfold Strand.qSet; split <;> rfl
@[simp] theorem Strand.qSet_call (st : Strand) (n : Nat) (v : W64) : (st.qSet n v).call = st.call := by unfold Strand.qSet; split <;> rfl
@[simp] theorem Strand.qSet_fkey (st : Strand) (n : Nat) (v : W64) : (st.qSet n v).fkey = st.fkey := by unfold Strand.qSet; split <;> rfl
@[simp] theorem Strand.qSet_nchild (st : Strand) (n : Nat) (v : W64) : (st.qSet n v).nchild = st.nchild := by unfold Strand.qSet; split <;> rfl
@[simp] theorem Strand.qSet_entry (st : Strand) (n : Nat) (v : W64) : (st.qSet n v).entry = st.entry := by unfold Strand.qSet; split <;> rfl
@[simp] theorem Strand.qSet_pc (st : Strand) (n : Nat) (v : W64) : (st.qSet n v).pc = st.pc := by unfold Strand.qSet; split <;> rfl
@[simp] theorem Strand.qSet_g (st : Strand) (n : Nat) (v : W64) : (st.qSet n v).g = st.g := by unfold Strand.qSet; split <;> rfl
@[simp] theorem Strand.qSet_p (st : Strand) (n : Nat) (v : W64) : (st.qSet n v).p = st.p := by unfold Strand.qSet; split <;> rfl
@[simp] theorem Strand.qSet_v (st : Strand) (n : Nat) (v : W64) : (st.qSet n v).v = st.v := by unfold Strand.qSet; split <;> rfl
@[simp] theorem Strand.qSet_tcfg (st : Strand) (n : Nat) (v : W64) : (st.qSet n v).tcfg = st.tcfg := by unfold Strand.qSet; split <;> rfl
@[simp] theorem Strand.qSet_tst (st : Strand) (n : Nat) (v : W64) : (st.qSet n v).tst = st.tst := by unfold Strand.qSet; split <;> rfl
@[simp] theorem Strand.qSet_td (st : Strand) (n : Nat) (v : W64) : (st.qSet n v).td = st.td := by unfold Strand.qSet; split <;> rfl
@[simp] theorem Strand.qSet_tm (st : Strand) (n : Nat) (v : W64) : (st.qSet n v).tm = st.tm := by unfold Strand.qSet; split <;> rfl
@[simp] theorem Strand.qSet_sstep (st : Strand) (n : Nat) (v : W64) : (st.qSet n v).sstep = st.sstep := by unfold Strand.qSet; split <;> rfl
@[simp] theorem Strand.qSet_sdrain (st : Strand) (n : Nat) (v : W64) : (st.qSet n v).sdrain = st.sdrain := by unfold Strand.qSet; split <;> rfl
@[simp] theorem Strand.qSet_tvb (st : Strand) (n : Nat) (v : W64) : (st.qSet n v).tvb = st.tvb := by unfold Strand.qSet; split <;> rfl
@[simp] theorem Strand.qSet_epc (st : Strand) (n : Nat) (v : W64) : (st.qSet n v).epc = st.epc := by unfold Strand.qSet; split <;> rfl
@[simp] theorem Strand.qSet_ecause (st : Strand) (n : Nat) (v : W64) : (st.qSet n v).ecause = st.ecause := by unfold Strand.qSet; split <;> rfl
@[simp] theorem Strand.qSet_eaddr (st : Strand) (n : Nat) (v : W64) : (st.qSet n v).eaddr = st.eaddr := by unfold Strand.qSet; split <;> rfl
@[simp] theorem Strand.qSet_einfo (st : Strand) (n : Nat) (v : W64) : (st.qSet n v).einfo = st.einfo := by unfold Strand.qSet; split <;> rfl
@[simp] theorem Strand.qSet_aflags (st : Strand) (n : Nat) (v : W64) : (st.qSet n v).aflags = st.aflags := by unfold Strand.qSet; split <;> rfl
@[simp] theorem Strand.qSet_amask (st : Strand) (n : Nat) (v : W64) : (st.qSet n v).amask = st.amask := by unfold Strand.qSet; split <;> rfl
@[simp] theorem Strand.qSet_xv (st : Strand) (n : Nat) (v : W64) : (st.qSet n v).xv = st.xv := by unfold Strand.qSet; split <;> rfl
@[simp] theorem Strand.qSet_lnk (st : Strand) (n : Nat) (v : W64) : (st.qSet n v).lnk = st.lnk := by unfold Strand.qSet; split <;> rfl
@[simp] theorem Strand.qSet_lnkd (st : Strand) (n : Nat) (v : W64) : (st.qSet n v).lnkd = st.lnkd := by unfold Strand.qSet; split <;> rfl
@[simp] theorem Strand.qSet_lcnt (st : Strand) (n : Nat) (v : W64) : (st.qSet n v).lcnt = st.lcnt := by unfold Strand.qSet; split <;> rfl
@[simp] theorem Strand.qSet_loopd (st : Strand) (n : Nat) (v : W64) : (st.qSet n v).loopd = st.loopd := by unfold Strand.qSet; split <;> rfl
@[simp] theorem Strand.qSet_loopStart (st : Strand) (n : Nat) (v : W64) : (st.qSet n v).loopStart = st.loopStart := by unfold Strand.qSet; split <;> rfl
@[simp] theorem Strand.qSet_loopEnd (st : Strand) (n : Nat) (v : W64) : (st.qSet n v).loopEnd = st.loopEnd := by unfold Strand.qSet; split <;> rfl
@[simp] theorem Strand.qSet_dgsta (st : Strand) (n : Nat) (v : W64) : (st.qSet n v).dgsta = st.dgsta := by unfold Strand.qSet; split <;> rfl
@[simp] theorem Strand.qSet_dgste (st : Strand) (n : Nat) (v : W64) : (st.qSet n v).dgste = st.dgste := by unfold Strand.qSet; split <;> rfl
@[simp] theorem Strand.qSet_ecmd (st : Strand) (n : Nat) (v : W64) : (st.qSet n v).ecmd = st.ecmd := by unfold Strand.qSet; split <;> rfl
@[simp] theorem Strand.qSet_opush (st : Strand) (n : Nat) (v : W64) : (st.qSet n v).opush = st.opush := by unfold Strand.qSet; split <;> rfl
@[simp] theorem Strand.qSet_opop (st : Strand) (n : Nat) (v : W64) : (st.qSet n v).opop = st.opop := by unfold Strand.qSet; split <;> rfl
@[simp] theorem Strand.qSet_lat (st : Strand) (n : Nat) (v : W64) : (st.qSet n v).lat = st.lat := by unfold Strand.qSet; split <;> rfl
@[simp] theorem Strand.qSet_bcount (st : Strand) (n : Nat) (v : W64) : (st.qSet n v).bcount = st.bcount := by unfold Strand.qSet; split <;> rfl
@[simp] theorem Strand.qSet_fpend (st : Strand) (n : Nat) (v : W64) : (st.qSet n v).fpend = st.fpend := by unfold Strand.qSet; split <;> rfl
@[simp] theorem Strand.qSet_acc (st : Strand) (n : Nat) (v : W64) : (st.qSet n v).acc = st.acc := by unfold Strand.qSet; split <;> rfl
@[simp] theorem Strand.qSet_accNo (st : Strand) (n : Nat) (v : W64) : (st.qSet n v).accNo = st.accNo := by unfold Strand.qSet; split <;> rfl
@[simp] theorem Strand.qSet_view (st : Strand) (n : Nat) (v : W64) : (st.qSet n v).view = st.view := by unfold Strand.qSet; split <;> rfl
@[simp] theorem Strand.qSet_flagGot (st : Strand) (n : Nat) (v : W64) : (st.qSet n v).flagGot = st.flagGot := by unfold Strand.qSet; split <;> rfl
@[simp] theorem Strand.qSet_assign (st : Strand) (n : Nat) (v : W64) : (st.qSet n v).assign = st.assign := by unfold Strand.qSet; split <;> rfl
@[simp] theorem Strand.qSet_reserved (st : Strand) (n : Nat) (v : W64) : (st.qSet n v).reserved = st.reserved := by unfold Strand.qSet; split <;> rfl
@[simp] theorem Strand.qSet_marked (st : Strand) (n : Nat) (v : W64) : (st.qSet n v).marked = st.marked := by unfold Strand.qSet; split <;> rfl
@[simp] theorem Strand.qSet_gbar (st : Strand) (n : Nat) (v : W64) : (st.qSet n v).gbar = st.gbar := by unfold Strand.qSet; split <;> rfl
@[simp] theorem Strand.qSet_popWait (st : Strand) (n : Nat) (v : W64) : (st.qSet n v).popWait = st.popWait := by unfold Strand.qSet; split <;> rfl
@[simp] theorem Strand.qSet_dgst (st : Strand) (n : Nat) (v : W64) : (st.qSet n v).dgst = st.dgst := by unfold Strand.qSet; split <;> rfl
@[simp] theorem Strand.qSet_dgstGo (st : Strand) (n : Nat) (v : W64) : (st.qSet n v).dgstGo = st.dgstGo := by unfold Strand.qSet; split <;> rfl
@[simp] theorem Strand.qSet_dgstAt (st : Strand) (n : Nat) (v : W64) : (st.qSet n v).dgstAt = st.dgstAt := by unfold Strand.qSet; split <;> rfl
@[simp] theorem Strand.qSet_stepWait (st : Strand) (n : Nat) (v : W64) : (st.qSet n v).stepWait = st.stepWait := by unfold Strand.qSet; split <;> rfl
@[simp] theorem Strand.qSet_late (st : Strand) (n : Nat) (v : W64) : (st.qSet n v).late = st.late := by unfold Strand.qSet; split <;> rfl
@[simp] theorem Strand.vSet_occ (st : Strand) (n : Nat) (v : List W32) : (st.vSet n v).occ = st.occ := rfl
@[simp] theorem Strand.vSet_blk (st : Strand) (n : Nat) (v : List W32) : (st.vSet n v).blk = st.blk := rfl
@[simp] theorem Strand.vSet_since (st : Strand) (n : Nat) (v : List W32) : (st.vSet n v).since = st.since := rfl
@[simp] theorem Strand.vSet_began (st : Strand) (n : Nat) (v : List W32) : (st.vSet n v).began = st.began := rfl
@[simp] theorem Strand.vSet_gid (st : Strand) (n : Nat) (v : List W32) : (st.vSet n v).gid = st.gid := rfl
@[simp] theorem Strand.vSet_stage (st : Strand) (n : Nat) (v : List W32) : (st.vSet n v).stage = st.stage := rfl
@[simp] theorem Strand.vSet_q (st : Strand) (n : Nat) (v : List W32) : (st.vSet n v).q = st.q := rfl
@[simp] theorem Strand.vSet_depth (st : Strand) (n : Nat) (v : List W32) : (st.vSet n v).depth = st.depth := rfl
@[simp] theorem Strand.vSet_call (st : Strand) (n : Nat) (v : List W32) : (st.vSet n v).call = st.call := rfl
@[simp] theorem Strand.vSet_fkey (st : Strand) (n : Nat) (v : List W32) : (st.vSet n v).fkey = st.fkey := rfl
@[simp] theorem Strand.vSet_nchild (st : Strand) (n : Nat) (v : List W32) : (st.vSet n v).nchild = st.nchild := rfl
@[simp] theorem Strand.vSet_entry (st : Strand) (n : Nat) (v : List W32) : (st.vSet n v).entry = st.entry := rfl
@[simp] theorem Strand.vSet_pc (st : Strand) (n : Nat) (v : List W32) : (st.vSet n v).pc = st.pc := rfl
@[simp] theorem Strand.vSet_g (st : Strand) (n : Nat) (v : List W32) : (st.vSet n v).g = st.g := rfl
@[simp] theorem Strand.vSet_p (st : Strand) (n : Nat) (v : List W32) : (st.vSet n v).p = st.p := rfl
@[simp] theorem Strand.vSet_qr (st : Strand) (n : Nat) (v : List W32) : (st.vSet n v).qr = st.qr := rfl
@[simp] theorem Strand.vSet_tcfg (st : Strand) (n : Nat) (v : List W32) : (st.vSet n v).tcfg = st.tcfg := rfl
@[simp] theorem Strand.vSet_tst (st : Strand) (n : Nat) (v : List W32) : (st.vSet n v).tst = st.tst := rfl
@[simp] theorem Strand.vSet_td (st : Strand) (n : Nat) (v : List W32) : (st.vSet n v).td = st.td := rfl
@[simp] theorem Strand.vSet_tm (st : Strand) (n : Nat) (v : List W32) : (st.vSet n v).tm = st.tm := rfl
@[simp] theorem Strand.vSet_sstep (st : Strand) (n : Nat) (v : List W32) : (st.vSet n v).sstep = st.sstep := rfl
@[simp] theorem Strand.vSet_sdrain (st : Strand) (n : Nat) (v : List W32) : (st.vSet n v).sdrain = st.sdrain := rfl
@[simp] theorem Strand.vSet_tvb (st : Strand) (n : Nat) (v : List W32) : (st.vSet n v).tvb = st.tvb := rfl
@[simp] theorem Strand.vSet_epc (st : Strand) (n : Nat) (v : List W32) : (st.vSet n v).epc = st.epc := rfl
@[simp] theorem Strand.vSet_ecause (st : Strand) (n : Nat) (v : List W32) : (st.vSet n v).ecause = st.ecause := rfl
@[simp] theorem Strand.vSet_eaddr (st : Strand) (n : Nat) (v : List W32) : (st.vSet n v).eaddr = st.eaddr := rfl
@[simp] theorem Strand.vSet_einfo (st : Strand) (n : Nat) (v : List W32) : (st.vSet n v).einfo = st.einfo := rfl
@[simp] theorem Strand.vSet_aflags (st : Strand) (n : Nat) (v : List W32) : (st.vSet n v).aflags = st.aflags := rfl
@[simp] theorem Strand.vSet_amask (st : Strand) (n : Nat) (v : List W32) : (st.vSet n v).amask = st.amask := rfl
@[simp] theorem Strand.vSet_xv (st : Strand) (n : Nat) (v : List W32) : (st.vSet n v).xv = st.xv := rfl
@[simp] theorem Strand.vSet_lnk (st : Strand) (n : Nat) (v : List W32) : (st.vSet n v).lnk = st.lnk := rfl
@[simp] theorem Strand.vSet_lnkd (st : Strand) (n : Nat) (v : List W32) : (st.vSet n v).lnkd = st.lnkd := rfl
@[simp] theorem Strand.vSet_lcnt (st : Strand) (n : Nat) (v : List W32) : (st.vSet n v).lcnt = st.lcnt := rfl
@[simp] theorem Strand.vSet_loopd (st : Strand) (n : Nat) (v : List W32) : (st.vSet n v).loopd = st.loopd := rfl
@[simp] theorem Strand.vSet_loopStart (st : Strand) (n : Nat) (v : List W32) : (st.vSet n v).loopStart = st.loopStart := rfl
@[simp] theorem Strand.vSet_loopEnd (st : Strand) (n : Nat) (v : List W32) : (st.vSet n v).loopEnd = st.loopEnd := rfl
@[simp] theorem Strand.vSet_dgsta (st : Strand) (n : Nat) (v : List W32) : (st.vSet n v).dgsta = st.dgsta := rfl
@[simp] theorem Strand.vSet_dgste (st : Strand) (n : Nat) (v : List W32) : (st.vSet n v).dgste = st.dgste := rfl
@[simp] theorem Strand.vSet_ecmd (st : Strand) (n : Nat) (v : List W32) : (st.vSet n v).ecmd = st.ecmd := rfl
@[simp] theorem Strand.vSet_opush (st : Strand) (n : Nat) (v : List W32) : (st.vSet n v).opush = st.opush := rfl
@[simp] theorem Strand.vSet_opop (st : Strand) (n : Nat) (v : List W32) : (st.vSet n v).opop = st.opop := rfl
@[simp] theorem Strand.vSet_lat (st : Strand) (n : Nat) (v : List W32) : (st.vSet n v).lat = st.lat := rfl
@[simp] theorem Strand.vSet_bcount (st : Strand) (n : Nat) (v : List W32) : (st.vSet n v).bcount = st.bcount := rfl
@[simp] theorem Strand.vSet_fpend (st : Strand) (n : Nat) (v : List W32) : (st.vSet n v).fpend = st.fpend := rfl
@[simp] theorem Strand.vSet_acc (st : Strand) (n : Nat) (v : List W32) : (st.vSet n v).acc = st.acc := rfl
@[simp] theorem Strand.vSet_accNo (st : Strand) (n : Nat) (v : List W32) : (st.vSet n v).accNo = st.accNo := rfl
@[simp] theorem Strand.vSet_view (st : Strand) (n : Nat) (v : List W32) : (st.vSet n v).view = st.view := rfl
@[simp] theorem Strand.vSet_flagGot (st : Strand) (n : Nat) (v : List W32) : (st.vSet n v).flagGot = st.flagGot := rfl
@[simp] theorem Strand.vSet_assign (st : Strand) (n : Nat) (v : List W32) : (st.vSet n v).assign = st.assign := rfl
@[simp] theorem Strand.vSet_reserved (st : Strand) (n : Nat) (v : List W32) : (st.vSet n v).reserved = st.reserved := rfl
@[simp] theorem Strand.vSet_marked (st : Strand) (n : Nat) (v : List W32) : (st.vSet n v).marked = st.marked := rfl
@[simp] theorem Strand.vSet_gbar (st : Strand) (n : Nat) (v : List W32) : (st.vSet n v).gbar = st.gbar := rfl
@[simp] theorem Strand.vSet_popWait (st : Strand) (n : Nat) (v : List W32) : (st.vSet n v).popWait = st.popWait := rfl
@[simp] theorem Strand.vSet_dgst (st : Strand) (n : Nat) (v : List W32) : (st.vSet n v).dgst = st.dgst := rfl
@[simp] theorem Strand.vSet_dgstGo (st : Strand) (n : Nat) (v : List W32) : (st.vSet n v).dgstGo = st.dgstGo := rfl
@[simp] theorem Strand.vSet_dgstAt (st : Strand) (n : Nat) (v : List W32) : (st.vSet n v).dgstAt = st.dgstAt := rfl
@[simp] theorem Strand.vSet_stepWait (st : Strand) (n : Nat) (v : List W32) : (st.vSet n v).stepWait = st.stepWait := rfl
@[simp] theorem Strand.vSet_late (st : Strand) (n : Nat) (v : List W32) : (st.vSet n v).late = st.late := rfl
@[simp] theorem Strand.tWrite_occ (st : Strand) (n o : Nat) (v : List Byte) : (st.tWrite n o v).occ = st.occ := rfl
@[simp] theorem Strand.tWrite_blk (st : Strand) (n o : Nat) (v : List Byte) : (st.tWrite n o v).blk = st.blk := rfl
@[simp] theorem Strand.tWrite_since (st : Strand) (n o : Nat) (v : List Byte) : (st.tWrite n o v).since = st.since := rfl
@[simp] theorem Strand.tWrite_began (st : Strand) (n o : Nat) (v : List Byte) : (st.tWrite n o v).began = st.began := rfl
@[simp] theorem Strand.tWrite_gid (st : Strand) (n o : Nat) (v : List Byte) : (st.tWrite n o v).gid = st.gid := rfl
@[simp] theorem Strand.tWrite_stage (st : Strand) (n o : Nat) (v : List Byte) : (st.tWrite n o v).stage = st.stage := rfl
@[simp] theorem Strand.tWrite_q (st : Strand) (n o : Nat) (v : List Byte) : (st.tWrite n o v).q = st.q := rfl
@[simp] theorem Strand.tWrite_depth (st : Strand) (n o : Nat) (v : List Byte) : (st.tWrite n o v).depth = st.depth := rfl
@[simp] theorem Strand.tWrite_call (st : Strand) (n o : Nat) (v : List Byte) : (st.tWrite n o v).call = st.call := rfl
@[simp] theorem Strand.tWrite_fkey (st : Strand) (n o : Nat) (v : List Byte) : (st.tWrite n o v).fkey = st.fkey := rfl
@[simp] theorem Strand.tWrite_nchild (st : Strand) (n o : Nat) (v : List Byte) : (st.tWrite n o v).nchild = st.nchild := rfl
@[simp] theorem Strand.tWrite_entry (st : Strand) (n o : Nat) (v : List Byte) : (st.tWrite n o v).entry = st.entry := rfl
@[simp] theorem Strand.tWrite_pc (st : Strand) (n o : Nat) (v : List Byte) : (st.tWrite n o v).pc = st.pc := rfl
@[simp] theorem Strand.tWrite_g (st : Strand) (n o : Nat) (v : List Byte) : (st.tWrite n o v).g = st.g := rfl
@[simp] theorem Strand.tWrite_p (st : Strand) (n o : Nat) (v : List Byte) : (st.tWrite n o v).p = st.p := rfl
@[simp] theorem Strand.tWrite_v (st : Strand) (n o : Nat) (v : List Byte) : (st.tWrite n o v).v = st.v := rfl
@[simp] theorem Strand.tWrite_qr (st : Strand) (n o : Nat) (v : List Byte) : (st.tWrite n o v).qr = st.qr := rfl
@[simp] theorem Strand.tWrite_tcfg (st : Strand) (n o : Nat) (v : List Byte) : (st.tWrite n o v).tcfg = st.tcfg := rfl
@[simp] theorem Strand.tWrite_tm (st : Strand) (n o : Nat) (v : List Byte) : (st.tWrite n o v).tm = st.tm := rfl
@[simp] theorem Strand.tWrite_sstep (st : Strand) (n o : Nat) (v : List Byte) : (st.tWrite n o v).sstep = st.sstep := rfl
@[simp] theorem Strand.tWrite_sdrain (st : Strand) (n o : Nat) (v : List Byte) : (st.tWrite n o v).sdrain = st.sdrain := rfl
@[simp] theorem Strand.tWrite_tvb (st : Strand) (n o : Nat) (v : List Byte) : (st.tWrite n o v).tvb = st.tvb := rfl
@[simp] theorem Strand.tWrite_epc (st : Strand) (n o : Nat) (v : List Byte) : (st.tWrite n o v).epc = st.epc := rfl
@[simp] theorem Strand.tWrite_ecause (st : Strand) (n o : Nat) (v : List Byte) : (st.tWrite n o v).ecause = st.ecause := rfl
@[simp] theorem Strand.tWrite_eaddr (st : Strand) (n o : Nat) (v : List Byte) : (st.tWrite n o v).eaddr = st.eaddr := rfl
@[simp] theorem Strand.tWrite_einfo (st : Strand) (n o : Nat) (v : List Byte) : (st.tWrite n o v).einfo = st.einfo := rfl
@[simp] theorem Strand.tWrite_aflags (st : Strand) (n o : Nat) (v : List Byte) : (st.tWrite n o v).aflags = st.aflags := rfl
@[simp] theorem Strand.tWrite_amask (st : Strand) (n o : Nat) (v : List Byte) : (st.tWrite n o v).amask = st.amask := rfl
@[simp] theorem Strand.tWrite_xv (st : Strand) (n o : Nat) (v : List Byte) : (st.tWrite n o v).xv = st.xv := rfl
@[simp] theorem Strand.tWrite_lnk (st : Strand) (n o : Nat) (v : List Byte) : (st.tWrite n o v).lnk = st.lnk := rfl
@[simp] theorem Strand.tWrite_lnkd (st : Strand) (n o : Nat) (v : List Byte) : (st.tWrite n o v).lnkd = st.lnkd := rfl
@[simp] theorem Strand.tWrite_lcnt (st : Strand) (n o : Nat) (v : List Byte) : (st.tWrite n o v).lcnt = st.lcnt := rfl
@[simp] theorem Strand.tWrite_loopd (st : Strand) (n o : Nat) (v : List Byte) : (st.tWrite n o v).loopd = st.loopd := rfl
@[simp] theorem Strand.tWrite_loopStart (st : Strand) (n o : Nat) (v : List Byte) : (st.tWrite n o v).loopStart = st.loopStart := rfl
@[simp] theorem Strand.tWrite_loopEnd (st : Strand) (n o : Nat) (v : List Byte) : (st.tWrite n o v).loopEnd = st.loopEnd := rfl
@[simp] theorem Strand.tWrite_dgsta (st : Strand) (n o : Nat) (v : List Byte) : (st.tWrite n o v).dgsta = st.dgsta := rfl
@[simp] theorem Strand.tWrite_dgste (st : Strand) (n o : Nat) (v : List Byte) : (st.tWrite n o v).dgste = st.dgste := rfl
@[simp] theorem Strand.tWrite_ecmd (st : Strand) (n o : Nat) (v : List Byte) : (st.tWrite n o v).ecmd = st.ecmd := rfl
@[simp] theorem Strand.tWrite_opush (st : Strand) (n o : Nat) (v : List Byte) : (st.tWrite n o v).opush = st.opush := rfl
@[simp] theorem Strand.tWrite_opop (st : Strand) (n o : Nat) (v : List Byte) : (st.tWrite n o v).opop = st.opop := rfl
@[simp] theorem Strand.tWrite_lat (st : Strand) (n o : Nat) (v : List Byte) : (st.tWrite n o v).lat = st.lat := rfl
@[simp] theorem Strand.tWrite_bcount (st : Strand) (n o : Nat) (v : List Byte) : (st.tWrite n o v).bcount = st.bcount := rfl
@[simp] theorem Strand.tWrite_fpend (st : Strand) (n o : Nat) (v : List Byte) : (st.tWrite n o v).fpend = st.fpend := rfl
@[simp] theorem Strand.tWrite_acc (st : Strand) (n o : Nat) (v : List Byte) : (st.tWrite n o v).acc = st.acc := rfl
@[simp] theorem Strand.tWrite_accNo (st : Strand) (n o : Nat) (v : List Byte) : (st.tWrite n o v).accNo = st.accNo := rfl
@[simp] theorem Strand.tWrite_view (st : Strand) (n o : Nat) (v : List Byte) : (st.tWrite n o v).view = st.view := rfl
@[simp] theorem Strand.tWrite_flagGot (st : Strand) (n o : Nat) (v : List Byte) : (st.tWrite n o v).flagGot = st.flagGot := rfl
@[simp] theorem Strand.tWrite_assign (st : Strand) (n o : Nat) (v : List Byte) : (st.tWrite n o v).assign = st.assign := rfl
@[simp] theorem Strand.tWrite_reserved (st : Strand) (n o : Nat) (v : List Byte) : (st.tWrite n o v).reserved = st.reserved := rfl
@[simp] theorem Strand.tWrite_marked (st : Strand) (n o : Nat) (v : List Byte) : (st.tWrite n o v).marked = st.marked := rfl
@[simp] theorem Strand.tWrite_gbar (st : Strand) (n o : Nat) (v : List Byte) : (st.tWrite n o v).gbar = st.gbar := rfl
@[simp] theorem Strand.tWrite_popWait (st : Strand) (n o : Nat) (v : List Byte) : (st.tWrite n o v).popWait = st.popWait := rfl
@[simp] theorem Strand.tWrite_dgst (st : Strand) (n o : Nat) (v : List Byte) : (st.tWrite n o v).dgst = st.dgst := rfl
@[simp] theorem Strand.tWrite_dgstGo (st : Strand) (n o : Nat) (v : List Byte) : (st.tWrite n o v).dgstGo = st.dgstGo := rfl
@[simp] theorem Strand.tWrite_dgstAt (st : Strand) (n o : Nat) (v : List Byte) : (st.tWrite n o v).dgstAt = st.dgstAt := rfl
@[simp] theorem Strand.tWrite_stepWait (st : Strand) (n o : Nat) (v : List Byte) : (st.tWrite n o v).stepWait = st.stepWait := rfl
@[simp] theorem Strand.tWrite_late (st : Strand) (n o : Nat) (v : List Byte) : (st.tWrite n o v).late = st.late := rfl
@[simp] theorem Strand.latency_occ (st : Strand) (r : RegName) (n : Nat) : (st.latency r n).occ = st.occ := by unfold Strand.latency; split <;> rfl
@[simp] theorem Strand.latency_blk (st : Strand) (r : RegName) (n : Nat) : (st.latency r n).blk = st.blk := by unfold Strand.latency; split <;> rfl
@[simp] theorem Strand.latency_since (st : Strand) (r : RegName) (n : Nat) : (st.latency r n).since = st.since := by unfold Strand.latency; split <;> rfl
@[simp] theorem Strand.latency_began (st : Strand) (r : RegName) (n : Nat) : (st.latency r n).began = st.began := by unfold Strand.latency; split <;> rfl
@[simp] theorem Strand.latency_gid (st : Strand) (r : RegName) (n : Nat) : (st.latency r n).gid = st.gid := by unfold Strand.latency; split <;> rfl
@[simp] theorem Strand.latency_stage (st : Strand) (r : RegName) (n : Nat) : (st.latency r n).stage = st.stage := by unfold Strand.latency; split <;> rfl
@[simp] theorem Strand.latency_q (st : Strand) (r : RegName) (n : Nat) : (st.latency r n).q = st.q := by unfold Strand.latency; split <;> rfl
@[simp] theorem Strand.latency_depth (st : Strand) (r : RegName) (n : Nat) : (st.latency r n).depth = st.depth := by unfold Strand.latency; split <;> rfl
@[simp] theorem Strand.latency_call (st : Strand) (r : RegName) (n : Nat) : (st.latency r n).call = st.call := by unfold Strand.latency; split <;> rfl
@[simp] theorem Strand.latency_fkey (st : Strand) (r : RegName) (n : Nat) : (st.latency r n).fkey = st.fkey := by unfold Strand.latency; split <;> rfl
@[simp] theorem Strand.latency_nchild (st : Strand) (r : RegName) (n : Nat) : (st.latency r n).nchild = st.nchild := by unfold Strand.latency; split <;> rfl
@[simp] theorem Strand.latency_entry (st : Strand) (r : RegName) (n : Nat) : (st.latency r n).entry = st.entry := by unfold Strand.latency; split <;> rfl
@[simp] theorem Strand.latency_pc (st : Strand) (r : RegName) (n : Nat) : (st.latency r n).pc = st.pc := by unfold Strand.latency; split <;> rfl
@[simp] theorem Strand.latency_g (st : Strand) (r : RegName) (n : Nat) : (st.latency r n).g = st.g := by unfold Strand.latency; split <;> rfl
@[simp] theorem Strand.latency_p (st : Strand) (r : RegName) (n : Nat) : (st.latency r n).p = st.p := by unfold Strand.latency; split <;> rfl
@[simp] theorem Strand.latency_v (st : Strand) (r : RegName) (n : Nat) : (st.latency r n).v = st.v := by unfold Strand.latency; split <;> rfl
@[simp] theorem Strand.latency_qr (st : Strand) (r : RegName) (n : Nat) : (st.latency r n).qr = st.qr := by unfold Strand.latency; split <;> rfl
@[simp] theorem Strand.latency_tcfg (st : Strand) (r : RegName) (n : Nat) : (st.latency r n).tcfg = st.tcfg := by unfold Strand.latency; split <;> rfl
@[simp] theorem Strand.latency_tst (st : Strand) (r : RegName) (n : Nat) : (st.latency r n).tst = st.tst := by unfold Strand.latency; split <;> rfl
@[simp] theorem Strand.latency_td (st : Strand) (r : RegName) (n : Nat) : (st.latency r n).td = st.td := by unfold Strand.latency; split <;> rfl
@[simp] theorem Strand.latency_tm (st : Strand) (r : RegName) (n : Nat) : (st.latency r n).tm = st.tm := by unfold Strand.latency; split <;> rfl
@[simp] theorem Strand.latency_sstep (st : Strand) (r : RegName) (n : Nat) : (st.latency r n).sstep = st.sstep := by unfold Strand.latency; split <;> rfl
@[simp] theorem Strand.latency_sdrain (st : Strand) (r : RegName) (n : Nat) : (st.latency r n).sdrain = st.sdrain := by unfold Strand.latency; split <;> rfl
@[simp] theorem Strand.latency_tvb (st : Strand) (r : RegName) (n : Nat) : (st.latency r n).tvb = st.tvb := by unfold Strand.latency; split <;> rfl
@[simp] theorem Strand.latency_epc (st : Strand) (r : RegName) (n : Nat) : (st.latency r n).epc = st.epc := by unfold Strand.latency; split <;> rfl
@[simp] theorem Strand.latency_ecause (st : Strand) (r : RegName) (n : Nat) : (st.latency r n).ecause = st.ecause := by unfold Strand.latency; split <;> rfl
@[simp] theorem Strand.latency_eaddr (st : Strand) (r : RegName) (n : Nat) : (st.latency r n).eaddr = st.eaddr := by unfold Strand.latency; split <;> rfl
@[simp] theorem Strand.latency_einfo (st : Strand) (r : RegName) (n : Nat) : (st.latency r n).einfo = st.einfo := by unfold Strand.latency; split <;> rfl
@[simp] theorem Strand.latency_aflags (st : Strand) (r : RegName) (n : Nat) : (st.latency r n).aflags = st.aflags := by unfold Strand.latency; split <;> rfl
@[simp] theorem Strand.latency_amask (st : Strand) (r : RegName) (n : Nat) : (st.latency r n).amask = st.amask := by unfold Strand.latency; split <;> rfl
@[simp] theorem Strand.latency_xv (st : Strand) (r : RegName) (n : Nat) : (st.latency r n).xv = st.xv := by unfold Strand.latency; split <;> rfl
@[simp] theorem Strand.latency_lnk (st : Strand) (r : RegName) (n : Nat) : (st.latency r n).lnk = st.lnk := by unfold Strand.latency; split <;> rfl
@[simp] theorem Strand.latency_lnkd (st : Strand) (r : RegName) (n : Nat) : (st.latency r n).lnkd = st.lnkd := by unfold Strand.latency; split <;> rfl
@[simp] theorem Strand.latency_lcnt (st : Strand) (r : RegName) (n : Nat) : (st.latency r n).lcnt = st.lcnt := by unfold Strand.latency; split <;> rfl
@[simp] theorem Strand.latency_loopd (st : Strand) (r : RegName) (n : Nat) : (st.latency r n).loopd = st.loopd := by unfold Strand.latency; split <;> rfl
@[simp] theorem Strand.latency_loopStart (st : Strand) (r : RegName) (n : Nat) : (st.latency r n).loopStart = st.loopStart := by unfold Strand.latency; split <;> rfl
@[simp] theorem Strand.latency_loopEnd (st : Strand) (r : RegName) (n : Nat) : (st.latency r n).loopEnd = st.loopEnd := by unfold Strand.latency; split <;> rfl
@[simp] theorem Strand.latency_dgsta (st : Strand) (r : RegName) (n : Nat) : (st.latency r n).dgsta = st.dgsta := by unfold Strand.latency; split <;> rfl
@[simp] theorem Strand.latency_dgste (st : Strand) (r : RegName) (n : Nat) : (st.latency r n).dgste = st.dgste := by unfold Strand.latency; split <;> rfl
@[simp] theorem Strand.latency_ecmd (st : Strand) (r : RegName) (n : Nat) : (st.latency r n).ecmd = st.ecmd := by unfold Strand.latency; split <;> rfl
@[simp] theorem Strand.latency_opush (st : Strand) (r : RegName) (n : Nat) : (st.latency r n).opush = st.opush := by unfold Strand.latency; split <;> rfl
@[simp] theorem Strand.latency_opop (st : Strand) (r : RegName) (n : Nat) : (st.latency r n).opop = st.opop := by unfold Strand.latency; split <;> rfl
@[simp] theorem Strand.latency_bcount (st : Strand) (r : RegName) (n : Nat) : (st.latency r n).bcount = st.bcount := by unfold Strand.latency; split <;> rfl
@[simp] theorem Strand.latency_fpend (st : Strand) (r : RegName) (n : Nat) : (st.latency r n).fpend = st.fpend := by unfold Strand.latency; split <;> rfl
@[simp] theorem Strand.latency_acc (st : Strand) (r : RegName) (n : Nat) : (st.latency r n).acc = st.acc := by unfold Strand.latency; split <;> rfl
@[simp] theorem Strand.latency_accNo (st : Strand) (r : RegName) (n : Nat) : (st.latency r n).accNo = st.accNo := by unfold Strand.latency; split <;> rfl
@[simp] theorem Strand.latency_view (st : Strand) (r : RegName) (n : Nat) : (st.latency r n).view = st.view := by unfold Strand.latency; split <;> rfl
@[simp] theorem Strand.latency_flagGot (st : Strand) (r : RegName) (n : Nat) : (st.latency r n).flagGot = st.flagGot := by unfold Strand.latency; split <;> rfl
@[simp] theorem Strand.latency_assign (st : Strand) (r : RegName) (n : Nat) : (st.latency r n).assign = st.assign := by unfold Strand.latency; split <;> rfl
@[simp] theorem Strand.latency_reserved (st : Strand) (r : RegName) (n : Nat) : (st.latency r n).reserved = st.reserved := by unfold Strand.latency; split <;> rfl
@[simp] theorem Strand.latency_marked (st : Strand) (r : RegName) (n : Nat) : (st.latency r n).marked = st.marked := by unfold Strand.latency; split <;> rfl
@[simp] theorem Strand.latency_gbar (st : Strand) (r : RegName) (n : Nat) : (st.latency r n).gbar = st.gbar := by unfold Strand.latency; split <;> rfl
@[simp] theorem Strand.latency_popWait (st : Strand) (r : RegName) (n : Nat) : (st.latency r n).popWait = st.popWait := by unfold Strand.latency; split <;> rfl
@[simp] theorem Strand.latency_dgst (st : Strand) (r : RegName) (n : Nat) : (st.latency r n).dgst = st.dgst := by unfold Strand.latency; split <;> rfl
@[simp] theorem Strand.latency_dgstGo (st : Strand) (r : RegName) (n : Nat) : (st.latency r n).dgstGo = st.dgstGo := by unfold Strand.latency; split <;> rfl
@[simp] theorem Strand.latency_dgstAt (st : Strand) (r : RegName) (n : Nat) : (st.latency r n).dgstAt = st.dgstAt := by unfold Strand.latency; split <;> rfl
@[simp] theorem Strand.latency_stepWait (st : Strand) (r : RegName) (n : Nat) : (st.latency r n).stepWait = st.stepWait := by unfold Strand.latency; split <;> rfl
@[simp] theorem Strand.latency_late (st : Strand) (r : RegName) (n : Nat) : (st.latency r n).late = st.late := by unfold Strand.latency; split <;> rfl
@[simp] theorem Strand.flagsAt_occ (st : Strand) (now n fl : Nat) : (st.flagsAt now n fl).occ = st.occ := by unfold Strand.flagsAt; split <;> rfl
@[simp] theorem Strand.flagsAt_blk (st : Strand) (now n fl : Nat) : (st.flagsAt now n fl).blk = st.blk := by unfold Strand.flagsAt; split <;> rfl
@[simp] theorem Strand.flagsAt_since (st : Strand) (now n fl : Nat) : (st.flagsAt now n fl).since = st.since := by unfold Strand.flagsAt; split <;> rfl
@[simp] theorem Strand.flagsAt_began (st : Strand) (now n fl : Nat) : (st.flagsAt now n fl).began = st.began := by unfold Strand.flagsAt; split <;> rfl
@[simp] theorem Strand.flagsAt_gid (st : Strand) (now n fl : Nat) : (st.flagsAt now n fl).gid = st.gid := by unfold Strand.flagsAt; split <;> rfl
@[simp] theorem Strand.flagsAt_stage (st : Strand) (now n fl : Nat) : (st.flagsAt now n fl).stage = st.stage := by unfold Strand.flagsAt; split <;> rfl
@[simp] theorem Strand.flagsAt_q (st : Strand) (now n fl : Nat) : (st.flagsAt now n fl).q = st.q := by unfold Strand.flagsAt; split <;> rfl
@[simp] theorem Strand.flagsAt_depth (st : Strand) (now n fl : Nat) : (st.flagsAt now n fl).depth = st.depth := by unfold Strand.flagsAt; split <;> rfl
@[simp] theorem Strand.flagsAt_call (st : Strand) (now n fl : Nat) : (st.flagsAt now n fl).call = st.call := by unfold Strand.flagsAt; split <;> rfl
@[simp] theorem Strand.flagsAt_fkey (st : Strand) (now n fl : Nat) : (st.flagsAt now n fl).fkey = st.fkey := by unfold Strand.flagsAt; split <;> rfl
@[simp] theorem Strand.flagsAt_nchild (st : Strand) (now n fl : Nat) : (st.flagsAt now n fl).nchild = st.nchild := by unfold Strand.flagsAt; split <;> rfl
@[simp] theorem Strand.flagsAt_entry (st : Strand) (now n fl : Nat) : (st.flagsAt now n fl).entry = st.entry := by unfold Strand.flagsAt; split <;> rfl
@[simp] theorem Strand.flagsAt_pc (st : Strand) (now n fl : Nat) : (st.flagsAt now n fl).pc = st.pc := by unfold Strand.flagsAt; split <;> rfl
@[simp] theorem Strand.flagsAt_g (st : Strand) (now n fl : Nat) : (st.flagsAt now n fl).g = st.g := by unfold Strand.flagsAt; split <;> rfl
@[simp] theorem Strand.flagsAt_p (st : Strand) (now n fl : Nat) : (st.flagsAt now n fl).p = st.p := by unfold Strand.flagsAt; split <;> rfl
@[simp] theorem Strand.flagsAt_v (st : Strand) (now n fl : Nat) : (st.flagsAt now n fl).v = st.v := by unfold Strand.flagsAt; split <;> rfl
@[simp] theorem Strand.flagsAt_qr (st : Strand) (now n fl : Nat) : (st.flagsAt now n fl).qr = st.qr := by unfold Strand.flagsAt; split <;> rfl
@[simp] theorem Strand.flagsAt_tcfg (st : Strand) (now n fl : Nat) : (st.flagsAt now n fl).tcfg = st.tcfg := by unfold Strand.flagsAt; split <;> rfl
@[simp] theorem Strand.flagsAt_tst (st : Strand) (now n fl : Nat) : (st.flagsAt now n fl).tst = st.tst := by unfold Strand.flagsAt; split <;> rfl
@[simp] theorem Strand.flagsAt_td (st : Strand) (now n fl : Nat) : (st.flagsAt now n fl).td = st.td := by unfold Strand.flagsAt; split <;> rfl
@[simp] theorem Strand.flagsAt_tm (st : Strand) (now n fl : Nat) : (st.flagsAt now n fl).tm = st.tm := by unfold Strand.flagsAt; split <;> rfl
@[simp] theorem Strand.flagsAt_sstep (st : Strand) (now n fl : Nat) : (st.flagsAt now n fl).sstep = st.sstep := by unfold Strand.flagsAt; split <;> rfl
@[simp] theorem Strand.flagsAt_sdrain (st : Strand) (now n fl : Nat) : (st.flagsAt now n fl).sdrain = st.sdrain := by unfold Strand.flagsAt; split <;> rfl
@[simp] theorem Strand.flagsAt_tvb (st : Strand) (now n fl : Nat) : (st.flagsAt now n fl).tvb = st.tvb := by unfold Strand.flagsAt; split <;> rfl
@[simp] theorem Strand.flagsAt_epc (st : Strand) (now n fl : Nat) : (st.flagsAt now n fl).epc = st.epc := by unfold Strand.flagsAt; split <;> rfl
@[simp] theorem Strand.flagsAt_ecause (st : Strand) (now n fl : Nat) : (st.flagsAt now n fl).ecause = st.ecause := by unfold Strand.flagsAt; split <;> rfl
@[simp] theorem Strand.flagsAt_eaddr (st : Strand) (now n fl : Nat) : (st.flagsAt now n fl).eaddr = st.eaddr := by unfold Strand.flagsAt; split <;> rfl
@[simp] theorem Strand.flagsAt_einfo (st : Strand) (now n fl : Nat) : (st.flagsAt now n fl).einfo = st.einfo := by unfold Strand.flagsAt; split <;> rfl
@[simp] theorem Strand.flagsAt_aflags (st : Strand) (now n fl : Nat) : (st.flagsAt now n fl).aflags = st.aflags := by unfold Strand.flagsAt; split <;> rfl
@[simp] theorem Strand.flagsAt_amask (st : Strand) (now n fl : Nat) : (st.flagsAt now n fl).amask = st.amask := by unfold Strand.flagsAt; split <;> rfl
@[simp] theorem Strand.flagsAt_xv (st : Strand) (now n fl : Nat) : (st.flagsAt now n fl).xv = st.xv := by unfold Strand.flagsAt; split <;> rfl
@[simp] theorem Strand.flagsAt_lnk (st : Strand) (now n fl : Nat) : (st.flagsAt now n fl).lnk = st.lnk := by unfold Strand.flagsAt; split <;> rfl
@[simp] theorem Strand.flagsAt_lnkd (st : Strand) (now n fl : Nat) : (st.flagsAt now n fl).lnkd = st.lnkd := by unfold Strand.flagsAt; split <;> rfl
@[simp] theorem Strand.flagsAt_lcnt (st : Strand) (now n fl : Nat) : (st.flagsAt now n fl).lcnt = st.lcnt := by unfold Strand.flagsAt; split <;> rfl
@[simp] theorem Strand.flagsAt_loopd (st : Strand) (now n fl : Nat) : (st.flagsAt now n fl).loopd = st.loopd := by unfold Strand.flagsAt; split <;> rfl
@[simp] theorem Strand.flagsAt_loopStart (st : Strand) (now n fl : Nat) : (st.flagsAt now n fl).loopStart = st.loopStart := by unfold Strand.flagsAt; split <;> rfl
@[simp] theorem Strand.flagsAt_loopEnd (st : Strand) (now n fl : Nat) : (st.flagsAt now n fl).loopEnd = st.loopEnd := by unfold Strand.flagsAt; split <;> rfl
@[simp] theorem Strand.flagsAt_dgsta (st : Strand) (now n fl : Nat) : (st.flagsAt now n fl).dgsta = st.dgsta := by unfold Strand.flagsAt; split <;> rfl
@[simp] theorem Strand.flagsAt_dgste (st : Strand) (now n fl : Nat) : (st.flagsAt now n fl).dgste = st.dgste := by unfold Strand.flagsAt; split <;> rfl
@[simp] theorem Strand.flagsAt_ecmd (st : Strand) (now n fl : Nat) : (st.flagsAt now n fl).ecmd = st.ecmd := by unfold Strand.flagsAt; split <;> rfl
@[simp] theorem Strand.flagsAt_opush (st : Strand) (now n fl : Nat) : (st.flagsAt now n fl).opush = st.opush := by unfold Strand.flagsAt; split <;> rfl
@[simp] theorem Strand.flagsAt_opop (st : Strand) (now n fl : Nat) : (st.flagsAt now n fl).opop = st.opop := by unfold Strand.flagsAt; split <;> rfl
@[simp] theorem Strand.flagsAt_lat (st : Strand) (now n fl : Nat) : (st.flagsAt now n fl).lat = st.lat := by unfold Strand.flagsAt; split <;> rfl
@[simp] theorem Strand.flagsAt_bcount (st : Strand) (now n fl : Nat) : (st.flagsAt now n fl).bcount = st.bcount := by unfold Strand.flagsAt; split <;> rfl
@[simp] theorem Strand.flagsAt_acc (st : Strand) (now n fl : Nat) : (st.flagsAt now n fl).acc = st.acc := by unfold Strand.flagsAt; split <;> rfl
@[simp] theorem Strand.flagsAt_accNo (st : Strand) (now n fl : Nat) : (st.flagsAt now n fl).accNo = st.accNo := by unfold Strand.flagsAt; split <;> rfl
@[simp] theorem Strand.flagsAt_view (st : Strand) (now n fl : Nat) : (st.flagsAt now n fl).view = st.view := by unfold Strand.flagsAt; split <;> rfl
@[simp] theorem Strand.flagsAt_flagGot (st : Strand) (now n fl : Nat) : (st.flagsAt now n fl).flagGot = st.flagGot := by unfold Strand.flagsAt; split <;> rfl
@[simp] theorem Strand.flagsAt_assign (st : Strand) (now n fl : Nat) : (st.flagsAt now n fl).assign = st.assign := by unfold Strand.flagsAt; split <;> rfl
@[simp] theorem Strand.flagsAt_reserved (st : Strand) (now n fl : Nat) : (st.flagsAt now n fl).reserved = st.reserved := by unfold Strand.flagsAt; split <;> rfl
@[simp] theorem Strand.flagsAt_marked (st : Strand) (now n fl : Nat) : (st.flagsAt now n fl).marked = st.marked := by unfold Strand.flagsAt; split <;> rfl
@[simp] theorem Strand.flagsAt_gbar (st : Strand) (now n fl : Nat) : (st.flagsAt now n fl).gbar = st.gbar := by unfold Strand.flagsAt; split <;> rfl
@[simp] theorem Strand.flagsAt_popWait (st : Strand) (now n fl : Nat) : (st.flagsAt now n fl).popWait = st.popWait := by unfold Strand.flagsAt; split <;> rfl
@[simp] theorem Strand.flagsAt_dgst (st : Strand) (now n fl : Nat) : (st.flagsAt now n fl).dgst = st.dgst := by unfold Strand.flagsAt; split <;> rfl
@[simp] theorem Strand.flagsAt_dgstGo (st : Strand) (now n fl : Nat) : (st.flagsAt now n fl).dgstGo = st.dgstGo := by unfold Strand.flagsAt; split <;> rfl
@[simp] theorem Strand.flagsAt_dgstAt (st : Strand) (now n fl : Nat) : (st.flagsAt now n fl).dgstAt = st.dgstAt := by unfold Strand.flagsAt; split <;> rfl
@[simp] theorem Strand.flagsAt_stepWait (st : Strand) (now n fl : Nat) : (st.flagsAt now n fl).stepWait = st.stepWait := by unfold Strand.flagsAt; split <;> rfl
@[simp] theorem Strand.flagsAt_late (st : Strand) (now n fl : Nat) : (st.flagsAt now n fl).late = st.late := by unfold Strand.flagsAt; split <;> rfl
@[simp] theorem Strand.settleFlags_occ (st : Strand) (now : Nat) : (st.settleFlags now).occ = st.occ := rfl
@[simp] theorem Strand.settleFlags_blk (st : Strand) (now : Nat) : (st.settleFlags now).blk = st.blk := rfl
@[simp] theorem Strand.settleFlags_since (st : Strand) (now : Nat) : (st.settleFlags now).since = st.since := rfl
@[simp] theorem Strand.settleFlags_began (st : Strand) (now : Nat) : (st.settleFlags now).began = st.began := rfl
@[simp] theorem Strand.settleFlags_gid (st : Strand) (now : Nat) : (st.settleFlags now).gid = st.gid := rfl
@[simp] theorem Strand.settleFlags_stage (st : Strand) (now : Nat) : (st.settleFlags now).stage = st.stage := rfl
@[simp] theorem Strand.settleFlags_q (st : Strand) (now : Nat) : (st.settleFlags now).q = st.q := rfl
@[simp] theorem Strand.settleFlags_depth (st : Strand) (now : Nat) : (st.settleFlags now).depth = st.depth := rfl
@[simp] theorem Strand.settleFlags_call (st : Strand) (now : Nat) : (st.settleFlags now).call = st.call := rfl
@[simp] theorem Strand.settleFlags_fkey (st : Strand) (now : Nat) : (st.settleFlags now).fkey = st.fkey := rfl
@[simp] theorem Strand.settleFlags_nchild (st : Strand) (now : Nat) : (st.settleFlags now).nchild = st.nchild := rfl
@[simp] theorem Strand.settleFlags_entry (st : Strand) (now : Nat) : (st.settleFlags now).entry = st.entry := rfl
@[simp] theorem Strand.settleFlags_pc (st : Strand) (now : Nat) : (st.settleFlags now).pc = st.pc := rfl
@[simp] theorem Strand.settleFlags_g (st : Strand) (now : Nat) : (st.settleFlags now).g = st.g := rfl
@[simp] theorem Strand.settleFlags_p (st : Strand) (now : Nat) : (st.settleFlags now).p = st.p := rfl
@[simp] theorem Strand.settleFlags_v (st : Strand) (now : Nat) : (st.settleFlags now).v = st.v := rfl
@[simp] theorem Strand.settleFlags_qr (st : Strand) (now : Nat) : (st.settleFlags now).qr = st.qr := rfl
@[simp] theorem Strand.settleFlags_tcfg (st : Strand) (now : Nat) : (st.settleFlags now).tcfg = st.tcfg := rfl
@[simp] theorem Strand.settleFlags_tst (st : Strand) (now : Nat) : (st.settleFlags now).tst = st.tst := rfl
@[simp] theorem Strand.settleFlags_td (st : Strand) (now : Nat) : (st.settleFlags now).td = st.td := rfl
@[simp] theorem Strand.settleFlags_tm (st : Strand) (now : Nat) : (st.settleFlags now).tm = st.tm := rfl
@[simp] theorem Strand.settleFlags_sstep (st : Strand) (now : Nat) : (st.settleFlags now).sstep = st.sstep := rfl
@[simp] theorem Strand.settleFlags_sdrain (st : Strand) (now : Nat) : (st.settleFlags now).sdrain = st.sdrain := rfl
@[simp] theorem Strand.settleFlags_tvb (st : Strand) (now : Nat) : (st.settleFlags now).tvb = st.tvb := rfl
@[simp] theorem Strand.settleFlags_epc (st : Strand) (now : Nat) : (st.settleFlags now).epc = st.epc := rfl
@[simp] theorem Strand.settleFlags_ecause (st : Strand) (now : Nat) : (st.settleFlags now).ecause = st.ecause := rfl
@[simp] theorem Strand.settleFlags_eaddr (st : Strand) (now : Nat) : (st.settleFlags now).eaddr = st.eaddr := rfl
@[simp] theorem Strand.settleFlags_einfo (st : Strand) (now : Nat) : (st.settleFlags now).einfo = st.einfo := rfl
@[simp] theorem Strand.settleFlags_amask (st : Strand) (now : Nat) : (st.settleFlags now).amask = st.amask := rfl
@[simp] theorem Strand.settleFlags_xv (st : Strand) (now : Nat) : (st.settleFlags now).xv = st.xv := rfl
@[simp] theorem Strand.settleFlags_lnk (st : Strand) (now : Nat) : (st.settleFlags now).lnk = st.lnk := rfl
@[simp] theorem Strand.settleFlags_lnkd (st : Strand) (now : Nat) : (st.settleFlags now).lnkd = st.lnkd := rfl
@[simp] theorem Strand.settleFlags_lcnt (st : Strand) (now : Nat) : (st.settleFlags now).lcnt = st.lcnt := rfl
@[simp] theorem Strand.settleFlags_loopd (st : Strand) (now : Nat) : (st.settleFlags now).loopd = st.loopd := rfl
@[simp] theorem Strand.settleFlags_loopStart (st : Strand) (now : Nat) : (st.settleFlags now).loopStart = st.loopStart := rfl
@[simp] theorem Strand.settleFlags_loopEnd (st : Strand) (now : Nat) : (st.settleFlags now).loopEnd = st.loopEnd := rfl
@[simp] theorem Strand.settleFlags_dgsta (st : Strand) (now : Nat) : (st.settleFlags now).dgsta = st.dgsta := rfl
@[simp] theorem Strand.settleFlags_dgste (st : Strand) (now : Nat) : (st.settleFlags now).dgste = st.dgste := rfl
@[simp] theorem Strand.settleFlags_ecmd (st : Strand) (now : Nat) : (st.settleFlags now).ecmd = st.ecmd := rfl
@[simp] theorem Strand.settleFlags_opush (st : Strand) (now : Nat) : (st.settleFlags now).opush = st.opush := rfl
@[simp] theorem Strand.settleFlags_opop (st : Strand) (now : Nat) : (st.settleFlags now).opop = st.opop := rfl
@[simp] theorem Strand.settleFlags_lat (st : Strand) (now : Nat) : (st.settleFlags now).lat = st.lat := rfl
@[simp] theorem Strand.settleFlags_bcount (st : Strand) (now : Nat) : (st.settleFlags now).bcount = st.bcount := rfl
@[simp] theorem Strand.settleFlags_acc (st : Strand) (now : Nat) : (st.settleFlags now).acc = st.acc := rfl
@[simp] theorem Strand.settleFlags_accNo (st : Strand) (now : Nat) : (st.settleFlags now).accNo = st.accNo := rfl
@[simp] theorem Strand.settleFlags_view (st : Strand) (now : Nat) : (st.settleFlags now).view = st.view := rfl
@[simp] theorem Strand.settleFlags_flagGot (st : Strand) (now : Nat) : (st.settleFlags now).flagGot = st.flagGot := rfl
@[simp] theorem Strand.settleFlags_assign (st : Strand) (now : Nat) : (st.settleFlags now).assign = st.assign := rfl
@[simp] theorem Strand.settleFlags_reserved (st : Strand) (now : Nat) : (st.settleFlags now).reserved = st.reserved := rfl
@[simp] theorem Strand.settleFlags_marked (st : Strand) (now : Nat) : (st.settleFlags now).marked = st.marked := rfl
@[simp] theorem Strand.settleFlags_gbar (st : Strand) (now : Nat) : (st.settleFlags now).gbar = st.gbar := rfl
@[simp] theorem Strand.settleFlags_popWait (st : Strand) (now : Nat) : (st.settleFlags now).popWait = st.popWait := rfl
@[simp] theorem Strand.settleFlags_dgst (st : Strand) (now : Nat) : (st.settleFlags now).dgst = st.dgst := rfl
@[simp] theorem Strand.settleFlags_dgstGo (st : Strand) (now : Nat) : (st.settleFlags now).dgstGo = st.dgstGo := rfl
@[simp] theorem Strand.settleFlags_dgstAt (st : Strand) (now : Nat) : (st.settleFlags now).dgstAt = st.dgstAt := rfl
@[simp] theorem Strand.settleFlags_stepWait (st : Strand) (now : Nat) : (st.settleFlags now).stepWait = st.stepWait := rfl
@[simp] theorem Strand.settleFlags_late (st : Strand) (now : Nat) : (st.settleFlags now).late = st.late := rfl
@[simp] theorem Strand.settle_occ (st : Strand) : st.settle.occ = st.occ := rfl
@[simp] theorem Strand.settle_blk (st : Strand) : st.settle.blk = st.blk := rfl
@[simp] theorem Strand.settle_since (st : Strand) : st.settle.since = st.since := rfl
@[simp] theorem Strand.settle_began (st : Strand) : st.settle.began = st.began := rfl
@[simp] theorem Strand.settle_gid (st : Strand) : st.settle.gid = st.gid := rfl
@[simp] theorem Strand.settle_stage (st : Strand) : st.settle.stage = st.stage := rfl
@[simp] theorem Strand.settle_q (st : Strand) : st.settle.q = st.q := rfl
@[simp] theorem Strand.settle_depth (st : Strand) : st.settle.depth = st.depth := rfl
@[simp] theorem Strand.settle_call (st : Strand) : st.settle.call = st.call := rfl
@[simp] theorem Strand.settle_fkey (st : Strand) : st.settle.fkey = st.fkey := rfl
@[simp] theorem Strand.settle_nchild (st : Strand) : st.settle.nchild = st.nchild := rfl
@[simp] theorem Strand.settle_entry (st : Strand) : st.settle.entry = st.entry := rfl
@[simp] theorem Strand.settle_pc (st : Strand) : st.settle.pc = st.pc := rfl
@[simp] theorem Strand.settle_g (st : Strand) : st.settle.g = st.g := rfl
@[simp] theorem Strand.settle_p (st : Strand) : st.settle.p = st.p := rfl
@[simp] theorem Strand.settle_v (st : Strand) : st.settle.v = st.v := rfl
@[simp] theorem Strand.settle_qr (st : Strand) : st.settle.qr = st.qr := rfl
@[simp] theorem Strand.settle_tcfg (st : Strand) : st.settle.tcfg = st.tcfg := rfl
@[simp] theorem Strand.settle_tst (st : Strand) : st.settle.tst = st.tst := rfl
@[simp] theorem Strand.settle_td (st : Strand) : st.settle.td = st.td := rfl
@[simp] theorem Strand.settle_tm (st : Strand) : st.settle.tm = st.tm := rfl
@[simp] theorem Strand.settle_sstep (st : Strand) : st.settle.sstep = st.sstep := rfl
@[simp] theorem Strand.settle_sdrain (st : Strand) : st.settle.sdrain = st.sdrain := rfl
@[simp] theorem Strand.settle_tvb (st : Strand) : st.settle.tvb = st.tvb := rfl
@[simp] theorem Strand.settle_epc (st : Strand) : st.settle.epc = st.epc := rfl
@[simp] theorem Strand.settle_ecause (st : Strand) : st.settle.ecause = st.ecause := rfl
@[simp] theorem Strand.settle_eaddr (st : Strand) : st.settle.eaddr = st.eaddr := rfl
@[simp] theorem Strand.settle_einfo (st : Strand) : st.settle.einfo = st.einfo := rfl
@[simp] theorem Strand.settle_amask (st : Strand) : st.settle.amask = st.amask := rfl
@[simp] theorem Strand.settle_xv (st : Strand) : st.settle.xv = st.xv := rfl
@[simp] theorem Strand.settle_lnk (st : Strand) : st.settle.lnk = st.lnk := rfl
@[simp] theorem Strand.settle_lnkd (st : Strand) : st.settle.lnkd = st.lnkd := rfl
@[simp] theorem Strand.settle_lcnt (st : Strand) : st.settle.lcnt = st.lcnt := rfl
@[simp] theorem Strand.settle_loopd (st : Strand) : st.settle.loopd = st.loopd := rfl
@[simp] theorem Strand.settle_loopStart (st : Strand) : st.settle.loopStart = st.loopStart := rfl
@[simp] theorem Strand.settle_loopEnd (st : Strand) : st.settle.loopEnd = st.loopEnd := rfl
@[simp] theorem Strand.settle_dgsta (st : Strand) : st.settle.dgsta = st.dgsta := rfl
@[simp] theorem Strand.settle_dgste (st : Strand) : st.settle.dgste = st.dgste := rfl
@[simp] theorem Strand.settle_ecmd (st : Strand) : st.settle.ecmd = st.ecmd := rfl
@[simp] theorem Strand.settle_opush (st : Strand) : st.settle.opush = st.opush := rfl
@[simp] theorem Strand.settle_opop (st : Strand) : st.settle.opop = st.opop := rfl
@[simp] theorem Strand.settle_bcount (st : Strand) : st.settle.bcount = st.bcount := rfl
@[simp] theorem Strand.settle_acc (st : Strand) : st.settle.acc = st.acc := rfl
@[simp] theorem Strand.settle_accNo (st : Strand) : st.settle.accNo = st.accNo := rfl
@[simp] theorem Strand.settle_view (st : Strand) : st.settle.view = st.view := rfl
@[simp] theorem Strand.settle_assign (st : Strand) : st.settle.assign = st.assign := rfl
@[simp] theorem Strand.settle_reserved (st : Strand) : st.settle.reserved = st.reserved := rfl
@[simp] theorem Strand.settle_marked (st : Strand) : st.settle.marked = st.marked := rfl
@[simp] theorem Strand.settle_gbar (st : Strand) : st.settle.gbar = st.gbar := rfl
@[simp] theorem Strand.settle_popWait (st : Strand) : st.settle.popWait = st.popWait := rfl
@[simp] theorem Strand.settle_dgst (st : Strand) : st.settle.dgst = st.dgst := rfl
@[simp] theorem Strand.settle_dgstGo (st : Strand) : st.settle.dgstGo = st.dgstGo := rfl
@[simp] theorem Strand.settle_dgstAt (st : Strand) : st.settle.dgstAt = st.dgstAt := rfl
@[simp] theorem Strand.settle_stepWait (st : Strand) : st.settle.stepWait = st.stepWait := rfl
@[simp] theorem Strand.settle_late (st : Strand) : st.settle.late = st.late := rfl

/-- G registers after a write: G0 reads zero, and a write to it is discarded (R159). -/
theorem Strand.gGet_gSet (st : Strand) (n m : Nat) (v : W64) :
    (st.gSet n v).gGet m = if m = n ∧ n ≠ 0 then v else st.gGet m := by
  unfold Strand.gSet Strand.gGet
  by_cases hn : n = 0 <;> by_cases hm : m = 0 <;> by_cases h : m = n <;> simp_all [tget_tset]

/-- P registers after a write: P0 reads true, and a write to it is discarded (R159). -/
theorem Strand.pGet_pSet (st : Strand) (n m : Nat) (v : Bool) (hn : n < 8) (hm : m < 8) :
    (st.pSet n v).pGet m = if m = n ∧ n ≠ 0 then v else st.pGet m := by
  have hb : ∀ m n : Fin 8, (BitVec.ofNat 8 (2 ^ n.val)).getLsbD m.val = decide (m = n) := by decide
  have hb' := hb ⟨m, hm⟩ ⟨n, hn⟩
  simp only [Fin.mk.injEq] at hb'
  unfold Strand.pSet Strand.pGet
  generalize BitVec.ofNat 8 (2 ^ n) = x at hb' ⊢
  by_cases hz : n = 0
  · simp [hz]
  · by_cases h : m = n
    · subst h
      cases v <;> simp_all
    · cases v <;> simp_all

/-- Q registers after a write: Q0 reads all ones, and a write to it is discarded (R159). -/
theorem Strand.qGet_qSet (st : Strand) (n m : Nat) (v : W64) :
    (st.qSet n v).qGet m = if m = n ∧ n ≠ 0 then v else st.qGet m := by
  unfold Strand.qSet Strand.qGet
  by_cases hn : n = 0 <;> by_cases hm : m = 0 <;> by_cases h : m = n <;> simp_all [tget_tset]

/-- Lanes after a write of a whole V register. -/
theorem Strand.lane_vSet (st : Strand) (n m l : Nat) (vs : List W32) (hv : vs.length = 64) (hl : l < 64) :
    (st.vSet n vs).lane m l = if m = n then vs.getD l 0 else st.lane m l := by
  unfold Strand.lane Strand.vSet
  rw [tget_twrite, hv]
  by_cases h : m = n
  · subst h
    rw [if_pos (by omega), if_pos rfl]
    congr 1; omega
  · rw [if_neg (by omega), if_neg h]

@[simp] theorem Strand.vGet_length (st : Strand) (n : Nat) : (st.vGet n).length = 64 := by simp [Strand.vGet]

theorem Strand.vGet_getD (st : Strand) (n l : Nat) (h : l < 64) : (st.vGet n).getD l 0 = st.lane n l := tread_getD 0 st.v (n * 64) 64 l h

@[simp] theorem Strand.gGet_zero (st : Strand) : st.gGet 0 = 0 := rfl
@[simp] theorem Strand.pGet_zero (st : Strand) : st.pGet 0 = true := rfl
@[simp] theorem Strand.qGet_zero (st : Strand) : st.qGet 0 = ones64 := rfl
@[simp] theorem Strand.pGet_gSet (st : Strand) (n : Nat) (v : W64) (m : Nat) : (st.gSet n v).pGet m = st.pGet m := by simp [Strand.pGet]
@[simp] theorem Strand.qGet_gSet (st : Strand) (n : Nat) (v : W64) (m : Nat) : (st.gSet n v).qGet m = st.qGet m := by simp [Strand.qGet]
@[simp] theorem Strand.lane_gSet (st : Strand) (n : Nat) (v : W64) (m l : Nat) : (st.gSet n v).lane m l = st.lane m l := by simp [Strand.lane]
@[simp] theorem Strand.gGet_pSet (st : Strand) (n : Nat) (v : Bool) (m : Nat) : (st.pSet n v).gGet m = st.gGet m := by simp [Strand.gGet]
@[simp] theorem Strand.qGet_pSet (st : Strand) (n : Nat) (v : Bool) (m : Nat) : (st.pSet n v).qGet m = st.qGet m := by simp [Strand.qGet]
@[simp] theorem Strand.lane_pSet (st : Strand) (n : Nat) (v : Bool) (m l : Nat) : (st.pSet n v).lane m l = st.lane m l := by simp [Strand.lane]
@[simp] theorem Strand.gGet_qSet (st : Strand) (n : Nat) (v : W64) (m : Nat) : (st.qSet n v).gGet m = st.gGet m := by simp [Strand.gGet]
@[simp] theorem Strand.pGet_qSet (st : Strand) (n : Nat) (v : W64) (m : Nat) : (st.qSet n v).pGet m = st.pGet m := by simp [Strand.pGet]
@[simp] theorem Strand.lane_qSet (st : Strand) (n : Nat) (v : W64) (m l : Nat) : (st.qSet n v).lane m l = st.lane m l := by simp [Strand.lane]
@[simp] theorem Strand.gGet_vSet (st : Strand) (n : Nat) (v : List W32) (m : Nat) : (st.vSet n v).gGet m = st.gGet m := by simp [Strand.gGet]
@[simp] theorem Strand.pGet_vSet (st : Strand) (n : Nat) (v : List W32) (m : Nat) : (st.vSet n v).pGet m = st.pGet m := by simp [Strand.pGet]
@[simp] theorem Strand.qGet_vSet (st : Strand) (n : Nat) (v : List W32) (m : Nat) : (st.vSet n v).qGet m = st.qGet m := by simp [Strand.qGet]
@[simp] theorem Strand.gGet_tWrite (st : Strand) (n o : Nat) (v : List Byte) (m : Nat) : (st.tWrite n o v).gGet m = st.gGet m := by simp [Strand.gGet]
@[simp] theorem Strand.pGet_tWrite (st : Strand) (n o : Nat) (v : List Byte) (m : Nat) : (st.tWrite n o v).pGet m = st.pGet m := by simp [Strand.pGet]
@[simp] theorem Strand.qGet_tWrite (st : Strand) (n o : Nat) (v : List Byte) (m : Nat) : (st.tWrite n o v).qGet m = st.qGet m := by simp [Strand.qGet]
@[simp] theorem Strand.lane_tWrite (st : Strand) (n o : Nat) (v : List Byte) (m l : Nat) : (st.tWrite n o v).lane m l = st.lane m l := by simp [Strand.lane]
@[simp] theorem Strand.gGet_latency (st : Strand) (r : RegName) (n : Nat) (m : Nat) : (st.latency r n).gGet m = st.gGet m := by simp [Strand.gGet]
@[simp] theorem Strand.pGet_latency (st : Strand) (r : RegName) (n : Nat) (m : Nat) : (st.latency r n).pGet m = st.pGet m := by simp [Strand.pGet]
@[simp] theorem Strand.qGet_latency (st : Strand) (r : RegName) (n : Nat) (m : Nat) : (st.latency r n).qGet m = st.qGet m := by simp [Strand.qGet]
@[simp] theorem Strand.lane_latency (st : Strand) (r : RegName) (n : Nat) (m l : Nat) : (st.latency r n).lane m l = st.lane m l := by simp [Strand.lane]
@[simp] theorem Strand.gGet_flagsAt (st : Strand) (now n fl : Nat) (m : Nat) : (st.flagsAt now n fl).gGet m = st.gGet m := by simp [Strand.gGet]
@[simp] theorem Strand.pGet_flagsAt (st : Strand) (now n fl : Nat) (m : Nat) : (st.flagsAt now n fl).pGet m = st.pGet m := by simp [Strand.pGet]
@[simp] theorem Strand.qGet_flagsAt (st : Strand) (now n fl : Nat) (m : Nat) : (st.flagsAt now n fl).qGet m = st.qGet m := by simp [Strand.qGet]
@[simp] theorem Strand.lane_flagsAt (st : Strand) (now n fl : Nat) (m l : Nat) : (st.flagsAt now n fl).lane m l = st.lane m l := by simp [Strand.lane]
@[simp] theorem Strand.gGet_settleFlags (st : Strand) (now : Nat) (m : Nat) : (st.settleFlags now).gGet m = st.gGet m := by simp [Strand.gGet]
@[simp] theorem Strand.pGet_settleFlags (st : Strand) (now : Nat) (m : Nat) : (st.settleFlags now).pGet m = st.pGet m := by simp [Strand.pGet]
@[simp] theorem Strand.qGet_settleFlags (st : Strand) (now : Nat) (m : Nat) : (st.settleFlags now).qGet m = st.qGet m := by simp [Strand.qGet]
@[simp] theorem Strand.lane_settleFlags (st : Strand) (now : Nat) (m l : Nat) : (st.settleFlags now).lane m l = st.lane m l := by simp [Strand.lane]
@[simp] theorem Strand.gGet_settle (st : Strand) (m : Nat) : st.settle.gGet m = st.gGet m := by simp [Strand.gGet]
@[simp] theorem Strand.pGet_settle (st : Strand) (m : Nat) : st.settle.pGet m = st.pGet m := by simp [Strand.pGet]
@[simp] theorem Strand.qGet_settle (st : Strand) (m : Nat) : st.settle.qGet m = st.qGet m := by simp [Strand.qGet]
@[simp] theorem Strand.lane_settle (st : Strand) (m l : Nat) : st.settle.lane m l = st.lane m l := by simp [Strand.lane]

end Sys2Proof.Machine
end

