-- ==== Sys2Proof/Laws/Mem.lean ====
section
/-! SUPPORT. Memory: every operation that writes it keeps its canonical form, reset has it, and what a write makes each address read
as. Every change of memory in the model is one of these operations. -/

namespace Sys2Proof.Machine

theorem reset_memOk : State.reset.memOk := rfl

/-- What the owner tags of a written frame do: dirty bitmaps alone. -/
theorem State.tagDirty_same (s : State) (who : Option Nat) (f : Nat) : s.tagDirty who f = { s with ctxs := (s.tagDirty who f).ctxs } := by
  unfold State.tagDirty
  generalize s.tags.filter _ = l
  induction l generalizing s with
  | nil => rfl
  | cons a l ih =>
    rw [List.foldl_cons, ih]
    rfl

/-- A fold of updates each of which keeps a field keeps it. -/
theorem foldl_keeps {σ α β : Type} (p : σ → β) (f : σ → α → σ) (h : ∀ s a, p (f s a) = p s) (l : List α) (s : σ) :
    p (l.foldl f s) = p s := by
  induction l generalizing s with
  | nil => rfl
  | cons a l ih => rw [List.foldl_cons, ih, h]

@[simp] theorem State.tagDirty_mem (s : State) (who : Option Nat) (f : Nat) : (s.tagDirty who f).mem = s.mem := by
  rw [State.tagDirty_same]

/-- Memory after a physical write: the bytes written, or, where there is nothing to write or no memory of this package, as before. -/
theorem State.pwrite_mem (s : State) (who : Option Nat) (zip : Bool) (pa : Nat) (bs : List Byte) :
    (s.pwrite who zip pa bs).mem =
      if (bs.isEmpty || (decide (pa < 2 ^ 51) && !s.ownFid (pa >>> 37)) || isMgmt pa) = true then s.mem else twrite 0 s.mem pa bs := by
  have k : ∀ (l : List Nat) (t : State), (l.foldl (fun s i => s.tagDirty who (pa / 65536 + i)) t).mem = t.mem :=
    fun l t => foldl_keeps State.mem _ (fun s i => s.tagDirty_mem _ _) l t
  have lines : ∀ (c : Prop) [Decidable c] (t : State) (ls : List MLine), (if c then { t with lines := ls } else t).mem = t.mem := by
    intro c _ t ls; split <;> rfl
  have tags : ∀ (c : Bool) (t : State) (l : List Nat),
      (if c = true then l.foldl (fun s i => s.tagDirty who (pa / 65536 + i)) t else t).mem = t.mem := by
    intro c t l; split
    · exact k l t
    · rfl
  unfold State.pwrite
  by_cases h : (bs.isEmpty || (decide (pa < 2 ^ 51) && !s.ownFid (pa >>> 37)) || isMgmt pa) = true
  · rw [if_pos h, if_pos h]
  · rw [if_neg h, if_neg h]
    dsimp only
    rw [lines, tags]

/-- A physical write keeps the canonical form. -/
theorem State.memOk_pwrite (s : State) (who : Option Nat) (zip : Bool) (pa : Nat) (bs : List Byte) (h : s.memOk) :
    (s.pwrite who zip pa bs).memOk := by
  unfold State.memOk
  rw [State.pwrite_mem]
  split
  · exact h
  · exact tOk_twrite _ _ _ _ h

/-- A byte after a physical write that names memory. -/
theorem State.pwrite_get (s : State) (who : Option Nat) (zip : Bool) (pa a : Nat) (bs : List Byte)
    (h : (bs.isEmpty || (decide (pa < 2 ^ 51) && !s.ownFid (pa >>> 37)) || isMgmt pa) = false) :
    tget 0 (s.pwrite who zip pa bs).mem a = if pa ≤ a ∧ a < pa + bs.length then bs.getD (a - pa) 0 else tget 0 s.mem a := by
  rw [State.pwrite_mem, h, if_neg (by simp), tget_twrite]

/-- A byte that a physical write does not name reads as before. -/
theorem State.pwrite_other (s : State) (who : Option Nat) (zip : Bool) (pa a : Nat) (bs : List Byte) (h : ¬(pa ≤ a ∧ a < pa + bs.length)) :
    tget 0 (s.pwrite who zip pa bs).mem a = tget 0 s.mem a := by
  rw [State.pwrite_mem]
  split
  · rfl
  · rw [tget_twrite, if_neg h]

/-- A host write of bytes of one unit keeps the canonical form. -/
theorem State.memOk_hostPut (s : State) (off : Nat) (bs : List Byte) (h : s.memOk) : (s.hostPut off bs).memOk := by
  unfold State.hostPut
  split
  · split
    · exact h
    · exact tOk_twrite _ _ _ _ h
  · exact h

/-- The clearing of memory in a Kindling keeps the canonical form. -/
theorem State.memOk_filter (s : State) (p : Nat × Byte → Bool) (h : s.memOk) : State.memOk { s with mem := s.mem.filter p } :=
  tOk_filter _ _ _ h

/-- Placing a context or an instruction keeps the canonical form. -/
theorem State.memOk_withFetchWord (s : State) (nbits w : Nat) (h : s.memOk) : (s.withFetchWord nbits w).memOk := by
  have hc : s.withContext.memOk := by
    unfold State.memOk State.withContext
    exact tOk_twrite _ _ _ _ (tOk_twrite _ _ _ _ h)
  unfold State.withFetchWord
  split
  · exact hc
  · exact tOk_twrite _ _ _ _ hc

/-- A write of a logical core's local memory keeps its canonical form, and fills of the uncommitted copy do. -/
theorem State.locOk_ltouch (s : State) (l a n m : Nat) (h : tOk (0 : Byte) (s.lc m).loc = true) :
    tOk (0 : Byte) ((s.ltouch l a n).lc m).loc = true := by
  unfold State.ltouch
  dsimp only
  by_cases hc : (!(s.lc l).act || decide (s.specS l ≤ a) || decide (n = 0)) = true
  · rw [if_pos hc]; exact h
  rw [if_neg hc]
  · rw [State.lc_setLc]
    split
    · rename_i hm
      subst hm
      generalize List.filter _ _ = ks
      have : ∀ (c : LCore), tOk (0 : Byte) c.loc = true → tOk (0 : Byte) (ks.foldl (fun c k =>
          { c with
            loc := twrite 0 c.loc (locBack c (s.specS m) (k * 64)) (tread 0 c.loc (locCommitted c (s.specS m) (k * 64)) 64)
            fill := sins k c.fill }) c).loc = true := by
        induction ks with
        | nil => intro c hc; exact hc
        | cons k ks ih => intro c hc; exact ih _ (tOk_twrite _ _ _ _ hc)
      exact this _ h
    · exact h

theorem State.locOk_lwrite (s : State) (l a m : Nat) (bs : List Byte) (h : tOk (0 : Byte) (s.lc m).loc = true) :
    tOk (0 : Byte) ((s.lwrite l a bs).lc m).loc = true := by
  have ht : tOk (0 : Byte) ((s.ltouch l a bs.length).lc m).loc = true := s.locOk_ltouch l a bs.length m h
  unfold State.lwrite
  simp only [State.modLc, State.lc_setLc]
  split
  · rename_i hm
    subst hm
    split
    · exact tOk_twrite _ _ _ _ (tOk_twrite _ _ _ _ ht)
    · exact tOk_twrite _ _ _ _ ht
  · exact ht

end Sys2Proof.Machine
end

