-- ==== Sys2Proof/Laws/Ops.lean ====
section
/-! SUPPORT. What the shared operations of the slots do, once each. -/

namespace Sys2Proof.Machine

/-! ### Guards -/

/-- A slot that acts. -/
theorem act_runs (g : Guard) (s : State) (f : State → State) (h : s.runs g) : act g s f = .next (f s) := by
  simp [act, h.1, h.2]

/-- A slot whose guard is false has no effect. -/
theorem act_off (g : Guard) (s : State) (f : State → State) (ho : s.me.occ = true) (h : s.holds g = false) :
    act g s f = .next s := by
  simp [act, ho, h]

/-- A slot word never refuses, and faults only with no firing. -/
theorem act_total (g : Guard) (s : State) (f : State → State) (h : s.me.occ = true) : ∃ t, act g s f = .next t := by
  simp only [act, h, if_true]; exact ⟨_, rfl⟩

/-- A slot word that acts completes in the state its effect gives; `m` is its meaning. -/
theorem State.ends_act {s : State} {i : Instr} {g : Guard} {f : State → State} {post : State → Prop} (m : Out) (h : s.runs g)
    (e : exec i s = m) (em : m = act g s f) (p : post (f s)) : s.ends i post :=
  ⟨f s, e.trans (em.trans (act_runs g s f h)), p⟩

/-! ### Tables written twice -/

theorem tset_tset {α : Type} [DecidableEq α] (d : α) (t : Tab α) (n : Nat) (v w : α) : tset d (tset d t n v) n w = tset d t n w := by
  have h1 : ∀ v : α, (tset d t n v).filter (fun e => decide (e.1 < n)) = t.filter (fun e => decide (e.1 < n)) := by
    intro v
    unfold tset
    rw [List.filter_append, List.filter_append, List.filter_filter, List.filter_filter]
    have : (t.filter (fun e => decide (e.1 < n) && decide (n < e.1))) = [] := by
      apply List.filter_eq_nil_iff.2; intro e _; simp; omega
    rw [this]
    split <;> simp
  have h2 : ∀ v : α, (tset d t n v).filter (fun e => decide (n < e.1)) = t.filter (fun e => decide (n < e.1)) := by
    intro v
    unfold tset
    rw [List.filter_append, List.filter_append, List.filter_filter, List.filter_filter]
    have : (t.filter (fun e => decide (n < e.1) && decide (e.1 < n))) = [] := by
      apply List.filter_eq_nil_iff.2; intro e _; simp; omega
    rw [this]
    split <;> simp
  show (tset d t n v).filter _ ++ (_ ++ (tset d t n v).filter _) = _
  rw [h1, h2]; rfl

@[simp] theorem State.setStrand_setStrand (s : State) (x : Nat) (a b : Strand) : (s.setStrand x a).setStrand x b = s.setStrand x b := by
  simp [State.setStrand, tset_tset]

/-! ### The issuing strand -/

@[simp] theorem State.me_onMe (s : State) (f : Strand → Strand) : (s.onMe f).me = f s.me := by
  simp [State.me, State.onMe]

@[simp] theorem State.cycle_onMe (s : State) (f : Strand → Strand) : (s.onMe f).cycle = s.cycle := rfl

theorem State.onMe_onMe (s : State) (f h : Strand → Strand) : (s.onMe f).onMe h = s.onMe (fun st => h (f st)) := by
  simp [State.onMe, State.modStrand]

theorem State.onlyMe_onMe (s : State) (f : Strand → Strand) : s.onlyMe (s.onMe f) := by
  simp [State.onlyMe, State.onMe, State.modStrand]

theorem State.me_eq (s : State) (f : Strand → Strand) : (s.onMe f).strand s.cur = f s.me := by
  simp [State.me, State.onMe]

/-! ### Results in registers -/

/-- A latency of one register, key by key. -/
theorem Strand.latency_lat (st : Strand) (r : RegName) (n k : Nat) :
    tget 0 (st.latency r n).lat k = if k = r.key ∧ r.discards = false then max (tget 0 st.lat k) (st.bcount + n) else tget 0 st.lat k := by
  unfold Strand.latency
  by_cases h : r.discards = true
  · simp [h]
  · rw [if_neg h, tget_tset]
    by_cases hk : k = r.key <;> simp [hk, h]

theorem Strand.flagsAt_fpend (st : Strand) (now n fl : Nat) :
    (st.flagsAt now n fl).fpend = st.fpend ++ (if fl = 0 then [] else [{ at' := now, due := now + n, flags := BitVec.ofNat 64 fl }]) := by
  unfold Strand.flagsAt
  by_cases h : fl = 0 <;> simp [h]

/-- The timing of a result, from the strand's update. -/
theorem State.timed_onMe (s : State) (f : Strand → Strand) (r : RegName) (n fl : Nat)
    (hf : ∀ st, (f st).lat = st.lat ∧ (f st).bcount = st.bcount ∧ (f st).fpend = st.fpend) :
    s.timed r n fl (s.onMe (fun st => ((f st).latency r n).flagsAt s.cycle n fl)) := by
  obtain ⟨h1, h2, h3⟩ := hf s.me
  simp [State.timed, Strand.latency_lat, Strand.flagsAt_fpend, h1, h2, h3]

theorem Strand.flagsAt_zero (st : Strand) (now n : Nat) : st.flagsAt now n 0 = st := by simp [Strand.flagsAt]

theorem R6.eq_zero_iff (d : R6) : d = 0 ↔ d.toNat = 0 := by
  constructor
  · rintro rfl; rfl
  · intro h; exact BitVec.eq_of_toNat_eq (by simpa using h)

/-- A result in a G register. -/
theorem State.putsG_wG (s : State) (d : R6) (v : W64) (n fl : Nat) : s.putsG d v n fl ((s.wG d v n).flag fl n) := by
  have e : (s.wG d v n).flag fl n = s.onMe (fun st => ((st.gSet d.toNat v).latency (.g d.toNat) n).flagsAt s.cycle n fl) := by
    simp [State.wG, State.flag, State.onMe_onMe]
  rw [e]
  refine ⟨⟨State.onlyMe_onMe _ _, ?_, ?_⟩, ?_, State.timed_onMe _ _ _ _ _ (by simp)⟩
  · rw [State.me_eq]
    simp only [Strand.restSame]
    unfold Strand.flagsAt Strand.latency Strand.gSet
    split <;> split <;> split <;> rfl
  · rw [State.me_eq]
    refine ⟨?_, by simp, by simp, by simp, by simp⟩
    intro k hk
    simp only [List.mem_singleton] at hk
    simp [Strand.gGet_gSet, hk]
  · simp only [State.me_onMe, Strand.gGet_flagsAt, Strand.gGet_latency, Strand.gGet_gSet, R6.eq_zero_iff]
    by_cases h : d.toNat = 0 <;> simp [h]

theorem State.putsG_wG0 (s : State) (d : R6) (v : W64) (n : Nat) : s.putsG d v n 0 (s.wG d v n) := by
  have := s.putsG_wG d v n 0
  simpa [State.flag, Strand.flagsAt_zero, State.onMe, State.modStrand, State.wG] using this

/-- P registers other than the one written. -/
theorem Strand.pGet_pSet_other (st : Strand) (n m : Nat) (v : Bool) (h : m ≠ n) : (st.pSet n v).pGet m = st.pGet m := by
  by_cases hm : m < 8
  · by_cases hn : n < 8
    · simp [Strand.pGet_pSet, hn, hm, h]
    · have hz : BitVec.ofNat 8 (2 ^ n) = 0 := by
        apply BitVec.eq_of_toNat_eq
        have : 2 ^ n % 2 ^ 8 = 0 := Nat.mod_eq_zero_of_dvd (Nat.pow_dvd_pow 2 (by omega))
        simpa using this
      unfold Strand.pSet
      rw [hz]
      split
      · rfl
      · interval_cases m <;> cases v <;> simp [Strand.pGet]
  · have h1 : ∀ x : BitVec 8, x.getLsbD m = false := fun x => BitVec.getLsbD_of_ge x m (by omega)
    simp [Strand.pGet, h1]

/-- A result in a P register. -/
theorem State.putsP_wP (s : State) (d : Nat) (v : Bool) (n fl : Nat) (hd : d < 8) : s.putsP d v n fl ((s.wP d v n).flag fl n) := by
  have e : (s.wP d v n).flag fl n = s.onMe (fun st => ((st.pSet d v).latency (.p d) n).flagsAt s.cycle n fl) := by
    simp [State.wP, State.flag, State.onMe_onMe]
  rw [e]
  refine ⟨⟨State.onlyMe_onMe _ _, ?_, ?_⟩, ?_, State.timed_onMe _ _ _ _ _ (by simp)⟩
  · rw [State.me_eq]
    simp only [Strand.restSame]
    unfold Strand.flagsAt Strand.latency Strand.pSet
    split <;> split <;> split <;> rfl
  · rw [State.me_eq]
    refine ⟨by simp, ?_, by simp, by simp, by simp⟩
    intro k hk
    simp only [List.mem_singleton] at hk
    simp [Strand.pGet_pSet_other _ _ _ _ hk]
  · simp only [State.me_onMe, Strand.pGet_flagsAt, Strand.pGet_latency, Strand.pGet_pSet _ _ _ _ hd hd]
    by_cases h : d = 0 <;> simp [h]

theorem State.putsP_wP0 (s : State) (d : Nat) (v : Bool) (n : Nat) (hd : d < 8) : s.putsP d v n 0 (s.wP d v n) := by
  have := s.putsP_wP d v n 0 hd
  simpa [State.flag, Strand.flagsAt_zero, State.onMe, State.modStrand, State.wP] using this

/-- A result in a Q register. -/
theorem State.putsQ_wQ (s : State) (d : Nat) (v : W64) (n fl : Nat) : s.putsQ d v n fl ((s.wQ d v n).flag fl n) := by
  have e : (s.wQ d v n).flag fl n = s.onMe (fun st => ((st.qSet d v).latency (.q d) n).flagsAt s.cycle n fl) := by
    simp [State.wQ, State.flag, State.onMe_onMe]
  rw [e]
  refine ⟨⟨State.onlyMe_onMe _ _, ?_, ?_⟩, ?_, State.timed_onMe _ _ _ _ _ (by simp)⟩
  · rw [State.me_eq]
    simp only [Strand.restSame]
    unfold Strand.flagsAt Strand.latency Strand.qSet
    split <;> split <;> split <;> rfl
  · rw [State.me_eq]
    refine ⟨by simp, by simp, by simp, ?_, by simp⟩
    intro k hk
    simp only [List.mem_singleton] at hk
    simp [Strand.qGet_qSet, hk]
  · simp only [State.me_onMe, Strand.qGet_flagsAt, Strand.qGet_latency, Strand.qGet_qSet]
    by_cases h : d = 0 <;> simp [h]

theorem State.putsQ_wQ0 (s : State) (d : Nat) (v : W64) (n : Nat) : s.putsQ d v n 0 (s.wQ d v n) := by
  have := s.putsQ_wQ d v n 0
  simpa [State.flag, Strand.flagsAt_zero, State.onMe, State.modStrand, State.wQ] using this

/-- A result in a V register. -/
theorem State.putsV_wV (s : State) (d : R6) (vs : List W32) (n fl : Nat) (hv : vs.length = 64) :
    s.putsV d (fun l => vs.getD l 0) n fl ((s.wV d vs n).flag fl n) := by
  have e : (s.wV d vs n).flag fl n = s.onMe (fun st => ((st.vSet d.toNat vs).latency (.v d.toNat) n).flagsAt s.cycle n fl) := by
    simp [State.wV, State.flag, State.onMe_onMe]
  rw [e]
  refine ⟨⟨State.onlyMe_onMe _ _, ?_, ?_⟩, ?_, State.timed_onMe _ _ _ _ _ (by simp)⟩
  · rw [State.me_eq]
    simp only [Strand.restSame]
    unfold Strand.flagsAt Strand.latency Strand.vSet
    split <;> split <;> rfl
  · rw [State.me_eq]
    refine ⟨by simp, by simp, ?_, by simp, by simp⟩
    intro k l hl hk
    simp only [List.mem_singleton] at hk
    simp [Strand.lane_vSet _ _ _ _ _ hv hl, hk]
  · intro l hl
    simp [Strand.lane_vSet _ _ _ _ _ hv hl]

theorem State.putsV_wV0 (s : State) (d : R6) (vs : List W32) (n : Nat) (hv : vs.length = 64) :
    s.putsV d (fun l => vs.getD l 0) n 0 (s.wV d vs n) := by
  have := s.putsV_wV d vs n 0 hv
  simpa [State.flag, Strand.flagsAt_zero, State.onMe, State.modStrand, State.wV] using this

/-! ### Vector operands -/

theorem getD_replicate {α : Type} (n l : Nat) (x d : α) (h : l < n) : (List.replicate n x).getD l d = x := by
  simp [List.getD, h]

theorem State.vv_getD (s : State) (c : R6) (l : Nat) (h : l < 64) : (s.vv c).getD l 0 = s.src c l := by
  unfold State.vv State.src
  split
  · exact Strand.vGet_getD _ _ _ h
  · split <;> exact getD_replicate 64 l _ 0 h

/-- A lane-by-lane result under a mask. -/
theorem State.putsLanes_vOut (s : State) (m : Mask) (d : R6) (n : Nat) (f : Nat → W32 × Nat) : s.putsLanes m d n f (s.vOut m d n f) := by
  have hv : (mergeLanes (s.maskQ m) m.z (s.op.vGet d.toNat) ((lanes64.map f).map (·.1))).length = 64 := by simp [mergeLanes]
  have h := s.putsV_wV d _ n (laneFlags (s.maskQ m) ((lanes64.map f).map (·.2))) hv
  have hf : (lanes64.map f).map (·.2) = (List.range 64).map (fun l => (f l).2) := by simp [lanes64]
  unfold State.putsLanes
  rw [hf] at h
  refine ⟨by simpa [State.vOut, hf] using h.1, ?_, by simpa [State.vOut, hf] using h.2.2⟩
  intro l hl
  have := h.2.1 l hl
  simp only [State.vOut, hf] at this ⊢
  rw [this]
  simp only [mergeLanes, lanes64, List.getD, List.getElem?_map, List.getElem?_range hl, Option.map_some, Option.getD_some]
  by_cases hb : (s.maskQ m).getLsbD l = true
  · simp [hb]
  · simp only [hb]
    by_cases hz : m.z = true
    · simp [hz]
    · simp only [hz]
      have := Strand.vGet_getD s.op d.toNat l hl
      simpa [List.getD] using this

end Sys2Proof.Machine
end

