-- ==== Sys2Proof/Laws/PerInstr.lean ====
section
/-! SUPPORT. Laws proved one constructor at a time. GuardBits: the guard of a slot stands in bits 25 to 22 of its word, P number
above the negate bit (R300, R302); formats without one have no guard. -/

namespace Sys2Proof.Laws

/-- A word whose bits 25 to 22 hold a guard. -/
def HasGuard (g : Guard) (w : W32) : Prop := w.extractLsb' 23 3 = g.p ∧ w.getLsbD 22 = g.neg

theorem hasGuard_encB (op : R6) (g : Guard) (x : BitVec 22) : HasGuard g (encB op g x) := by
  constructor
  · ext i hi
    simp only [encB, BitVec.getElem_extractLsb', BitVec.getLsbD_append]
    repeat rw [if_neg (by omega)]
    rw [if_pos (by omega), ← BitVec.getLsbD_eq_getElem]
    congr 1; omega
  · simp only [encB, BitVec.getLsbD_append]
    simp

theorem hasGuard_encA (op : R6) (g : Guard) (d a b : R6) (fn : F4) : HasGuard g (encA op g d a b fn) := by
  constructor
  · ext i hi
    simp only [encA, BitVec.getElem_extractLsb', BitVec.getLsbD_append]
    repeat rw [if_neg (by omega)]
    rw [if_pos (by omega), ← BitVec.getLsbD_eq_getElem]
    congr 1; omega
  · simp only [encA, BitVec.getLsbD_append]
    simp

theorem hasGuard_encI (op : R6) (g : Guard) (d a : R6) (x : BitVec 10) : HasGuard g (encI op g d a x) := by
  constructor
  · ext i hi
    simp only [encI, BitVec.getElem_extractLsb', BitVec.getLsbD_append]
    repeat rw [if_neg (by omega)]
    rw [if_pos (by omega), ← BitVec.getLsbD_eq_getElem]
    congr 1; omega
  · simp only [encI, BitVec.getLsbD_append]
    simp

theorem hasGuard_encJ (op : R6) (g : Guard) (d : R6) (x : W16) : HasGuard g (encJ op g d x) := by
  constructor
  · ext i hi
    simp only [encJ, BitVec.getElem_extractLsb', BitVec.getLsbD_append]
    repeat rw [if_neg (by omega)]
    rw [if_pos (by omega), ← BitVec.getLsbD_eq_getElem]
    congr 1; omega
  · simp only [encJ, BitVec.getLsbD_append]
    simp

theorem hasGuard_encS (op : R6) (g : Guard) (d : R6) (x : BitVec 12) : HasGuard g (encS op g d x) := by
  constructor
  · ext i hi
    simp only [encS, BitVec.getElem_extractLsb', BitVec.getLsbD_append]
    repeat rw [if_neg (by omega)]
    rw [if_pos (by omega), ← BitVec.getLsbD_eq_getElem]
    congr 1; omega
  · simp only [encS, BitVec.getLsbD_append]
    simp

theorem hasGuard_encMG (op : R6) (g : Guard) (d a : R6) (scope : F4) (cls fn : F3) : HasGuard g (encMG op g d a scope cls fn) := by
  constructor
  · ext i hi
    simp only [encMG, BitVec.getElem_extractLsb', BitVec.getLsbD_append]
    repeat rw [if_neg (by omega)]
    rw [if_pos (by omega), ← BitVec.getLsbD_eq_getElem]
    congr 1; omega
  · simp only [encMG, BitVec.getLsbD_append]
    simp

namespace GuardBits

/-- The guard that a slot instruction has stands in bits 25 to 22 of its word. -/
def Statement (i : Instr) : Prop := ∀ g, i.guard = some g → HasGuard g (encode i)

/-- An instruction whose word has one guard. -/
theorem of_word {i : Instr} {g : Guard} (e : i.guard = some g) (h : HasGuard g (encode i)) : Statement i := by
  intro g' h'
  rw [e] at h'
  cases h'
  exact h

/-- An instruction without a guard. -/
theorem of_none {i : Instr} (e : i.guard = none) : Statement i := by
  intro g h
  rw [e] at h
  cases h

theorem powerGood : Statement .powerGood := of_none rfl
theorem packageResetRelease : Statement .packageResetRelease := of_none rfl
theorem kindlingTimeout : Statement .kindlingTimeout := of_none rfl
theorem modulePowerLoss : Statement .modulePowerLoss := of_none rfl
theorem blockOverheat (die : Nat) (block : BlockReading) : Statement (.blockOverheat die block) := of_none rfl
theorem blockCooled (die : Nat) (block : BlockReading) : Statement (.blockCooled die block) := of_none rfl
theorem thermalTrip (die : Nat) (reading : W16) : Statement (.thermalTrip die reading) := of_none rfl
theorem coreRetirement (die core : Nat) : Statement (.coreRetirement die core) := of_none rfl
theorem uncorrectableError (agent : Agent) (pa : Nat) : Statement (.uncorrectableError agent pa) := of_none rfl
theorem flitInject (i : Nat) : Statement (.flitInject i) := of_none rfl
theorem linkFlitReceive (w : WireSrc) (errs : List (Nat × Byte)) : Statement (.linkFlitReceive w errs) := of_none rfl
theorem nakReceived (i : Nat) : Statement (.nakReceived i) := of_none rfl
theorem par (i : Nat) (errs : List (Nat × Byte)) : Statement (.par i errs) := of_none rfl
theorem nakRepeatTimeout (i : Nat) : Statement (.nakRepeatTimeout i) := of_none rfl
theorem linkRetrainDone (link : Nat) (fewer : Bool) : Statement (.linkRetrainDone link fewer) := of_none rfl
theorem segmentFailure (link : Nat) : Statement (.segmentFailure link) := of_none rfl
theorem unreachTimeout (i : Nat) : Statement (.unreachTimeout i) := of_none rfl
theorem flitAtExitNode (i : Nat) (free : Bool) (reserve : Bool) : Statement (.flitAtExitNode i free reserve) := of_none rfl
theorem refusedFlitRetry (i : Nat) : Statement (.refusedFlitRetry i) := of_none rfl
theorem rstAtTarget (i : Nat) : Statement (.rstAtTarget i) := of_none rfl
theorem rldAtTarget (i : Pick) : Statement (.rldAtTarget i) := of_none rfl
theorem ratAtTarget (i : Nat) : Statement (.ratAtTarget i) := of_none rfl
theorem rstack (i : Nat) : Statement (.rstack i) := of_none rfl
theorem rlddata (i : Nat) : Statement (.rlddata i) := of_none rfl
theorem ratdata (i : Nat) : Statement (.ratdata i) := of_none rfl
theorem bseg (i : Nat) : Statement (.bseg i) := of_none rfl
theorem mgmt (i : Nat) : Statement (.mgmt i) := of_none rfl
theorem ablumLinkFailure (link : Nat) : Statement (.ablumLinkFailure link) := of_none rfl
theorem hostRead (off len : Nat) : Statement (.hostRead off len) := of_none rfl
theorem hostWrite (a : HostAddr) (bytes : List Byte) : Statement (.hostWrite a bytes) := of_none rfl
theorem mgmtRegisterWrite (off : Nat) (bytes : List Byte) : Statement (.mgmtRegisterWrite off bytes) := of_none rfl
theorem monitoredLineInvalidate (line : Nat) : Statement (.monitoredLineInvalidate line) := of_none rfl
theorem create (i : Nat) : Statement (.create i) := of_none rfl
theorem launchRecord (i : Nat) : Statement (.launchRecord i) := of_none rfl
theorem setprio (i : Nat) : Statement (.setprio i) := of_none rfl
theorem freeze (i : Nat) : Statement (.freeze i) := of_none rfl
theorem resume (i : Nat) : Statement (.resume i) := of_none rfl
theorem kill (i : Nat) : Statement (.kill i) := of_none rfl
theorem dirtysnap (i : Nat) : Statement (.dirtysnap i) := of_none rfl
theorem queryDevinfo (i : Nat) : Statement (.queryDevinfo i) := of_none rfl
theorem queryCtxstate (i : Nat) : Statement (.queryCtxstate i) := of_none rfl
theorem queryAttest (i : Nat) : Statement (.queryAttest i) := of_none rfl
theorem queryLogstat (i : Nat) : Statement (.queryLogstat i) := of_none rfl
theorem eventLogWrite : Statement .eventLogWrite := of_none rfl
theorem freezeTimeout (slot : Nat) : Statement (.freezeTimeout slot) := of_none rfl
theorem engineStopAck (slot : Nat) (inst : StopInst) (units : Nat) : Statement (.engineStopAck slot inst units) := of_none rfl
theorem preemptionComplete (slot : Nat) : Statement (.preemptionComplete slot) := of_none rfl
theorem rebalance (die : Nat) : Statement (.rebalance die) := of_none rfl
theorem quantumExpiry (lc : Nat) : Statement (.quantumExpiry lc) := of_none rfl
theorem residencySwap (lc : Nat) : Statement (.residencySwap lc) := of_none rfl
theorem agingTick (slot : Nat) : Statement (.agingTick slot) := of_none rfl
theorem deadlockTimeout (slot gid : Nat) : Statement (.deadlockTimeout slot gid) := of_none rfl
theorem damperWindow (core demand : Nat) : Statement (.damperWindow core demand) := of_none rfl
theorem strandSwitch (lc : Nat) : Statement (.strandSwitch lc) := of_none rfl
theorem strandReady (t : Nat) : Statement (.strandReady t) := of_none rfl
theorem firingStart (t : Nat) : Statement (.firingStart t) := of_none rfl
theorem firingEnd (t : Nat) : Statement (.firingEnd t) := of_none rfl
theorem graphEnd (slot gid : Nat) : Statement (.graphEnd slot gid) := of_none rfl
theorem childInstantiate (slot gid : Nat) : Statement (.childInstantiate slot gid) := of_none rfl
theorem channelPublish (slot gid ch idx : Nat) : Statement (.channelPublish slot gid ch idx) := of_none rfl
theorem engineCommandReady (lc cmd : Nat) : Statement (.engineCommandReady lc cmd) := of_none rfl
theorem bteAccept (lc cmd : Nat) : Statement (.bteAccept lc cmd) := of_none rfl
theorem bteChunkPerformed (lc cmd : Nat) : Statement (.bteChunkPerformed lc cmd) := of_none rfl
theorem bteCommandComplete (lc cmd : Nat) : Statement (.bteCommandComplete lc cmd) := of_none rfl
theorem decodeStall (lc cmd : Nat) : Statement (.decodeStall lc cmd) := of_none rfl
theorem matrixCommandStart (lc cmd : Nat) : Statement (.matrixCommandStart lc cmd) := of_none rfl
theorem mmaComplete (lc cmd : Nat) : Statement (.mmaComplete lc cmd) := of_none rfl
theorem mloadwComplete (lc cmd : Nat) : Statement (.mloadwComplete lc cmd) := of_none rfl
theorem mdrainRowWritten (lc cmd : Nat) : Statement (.mdrainRowWritten lc cmd) := of_none rfl
theorem maccldComplete (lc cmd : Nat) : Statement (.maccldComplete lc cmd) := of_none rfl
theorem eploadComplete (lc cmd : Nat) : Statement (.eploadComplete lc cmd) := of_none rfl
theorem sketchAccept (lc cmd : Nat) : Statement (.sketchAccept lc cmd) := of_none rfl
theorem sketchCommandComplete (lc : Nat) (cmd : UnitRun) : Statement (.sketchCommandComplete lc cmd) := of_none rfl
theorem collAccept (lc cmd : Nat) : Statement (.collAccept lc cmd) := of_none rfl
theorem collComplete (lc cmd : Nat) : Statement (.collComplete lc cmd) := of_none rfl
theorem dgstCheckpoint (slot gid n : Nat) : Statement (.dgstCheckpoint slot gid n) := of_none rfl
theorem nop (g : Guard) : Statement (.nop g) := of_word rfl (hasGuard_encB ..)
theorem br (g : Guard) (disp : BitVec 22) : Statement (.br g disp) := of_word rfl (hasGuard_encB ..)
theorem brv (g : Guard) (q : F3) (disp : BitVec 19) : Statement (.brv g q disp) := of_word rfl (hasGuard_encB ..)
theorem bri (g : Guard) (a : R6) : Statement (.bri g a) := of_word rfl (hasGuard_encB ..)
theorem call (g : Guard) (disp : BitVec 22) : Statement (.call g disp) := of_word rfl (hasGuard_encB ..)
theorem calli (g : Guard) (a : R6) : Statement (.calli g a) := of_word rfl (hasGuard_encB ..)
theorem ret (g : Guard) : Statement (.ret g) := of_word rfl (hasGuard_encB ..)
theorem loop (g : Guard) (dims : F3) (c : R6) (len : BitVec 9) : Statement (.loop g dims c len) := of_word rfl (hasGuard_encB ..)
theorem lexit (g : Guard) : Statement (.lexit g) := of_word rfl (hasGuard_encB ..)
theorem waitf (g : Guard) (a b : R6) : Statement (.waitf g a b) := of_word rfl (hasGuard_encB ..)
theorem yield (g : Guard) : Statement (.yield g) := of_word rfl (hasGuard_encB ..)
theorem halt (g : Guard) : Statement (.halt g) := of_word rfl (hasGuard_encB ..)
theorem trap (g : Guard) (code : W16) : Statement (.trap g code) := of_word rfl (hasGuard_encB ..)
theorem eret (g : Guard) : Statement (.eret g) := of_word rfl (hasGuard_encB ..)
theorem brk (g : Guard) (code : W16) : Statement (.brk g code) := of_word rfl (hasGuard_encB ..)
theorem tfence (g : Guard) : Statement (.tfence g) := of_word rfl (hasGuard_encB ..)
theorem add (g : Guard) (d a b : R6) (fn : F4) : Statement (.add g d a b fn) := of_word rfl (hasGuard_encA ..)
theorem sub (g : Guard) (d a b : R6) (fn : F4) : Statement (.sub g d a b fn) := of_word rfl (hasGuard_encA ..)
theorem mul (g : Guard) (d a b : R6) (fn : F4) : Statement (.mul g d a b fn) := of_word rfl (hasGuard_encA ..)
theorem div (g : Guard) (d a b : R6) (fn : F4) : Statement (.div g d a b fn) := of_word rfl (hasGuard_encA ..)
theorem and (g : Guard) (d a b : R6) (fn : F4) : Statement (.and g d a b fn) := of_word rfl (hasGuard_encA ..)
theorem or (g : Guard) (d a b : R6) (fn : F4) : Statement (.or g d a b fn) := of_word rfl (hasGuard_encA ..)
theorem xor (g : Guard) (d a b : R6) (fn : F4) : Statement (.xor g d a b fn) := of_word rfl (hasGuard_encA ..)
theorem andn (g : Guard) (d a b : R6) (fn : F4) : Statement (.andn g d a b fn) := of_word rfl (hasGuard_encA ..)
theorem shl (g : Guard) (d a b : R6) (fn : F4) : Statement (.shl g d a b fn) := of_word rfl (hasGuard_encA ..)
theorem shr (g : Guard) (d a b : R6) (fn : F4) : Statement (.shr g d a b fn) := of_word rfl (hasGuard_encA ..)
theorem sar (g : Guard) (d a b : R6) (fn : F4) : Statement (.sar g d a b fn) := of_word rfl (hasGuard_encA ..)
theorem rotr (g : Guard) (d a b : R6) (fn : F4) : Statement (.rotr g d a b fn) := of_word rfl (hasGuard_encA ..)
theorem min (g : Guard) (d a b : R6) (fn : F4) : Statement (.min g d a b fn) := of_word rfl (hasGuard_encA ..)
theorem max (g : Guard) (d a b : R6) (fn : F4) : Statement (.max g d a b fn) := of_word rfl (hasGuard_encA ..)
theorem cmp (g : Guard) (d a b : R6) (fn : F4) : Statement (.cmp g d a b fn) := of_word rfl (hasGuard_encA ..)
theorem sel (g : Guard) (d a b : R6) (fn : F4) : Statement (.sel g d a b fn) := of_word rfl (hasGuard_encA ..)
theorem clz (g : Guard) (d a b : R6) (fn : F4) : Statement (.clz g d a b fn) := of_word rfl (hasGuard_encA ..)
theorem ctz (g : Guard) (d a b : R6) (fn : F4) : Statement (.ctz g d a b fn) := of_word rfl (hasGuard_encA ..)
theorem popc (g : Guard) (d a b : R6) (fn : F4) : Statement (.popc g d a b fn) := of_word rfl (hasGuard_encA ..)
theorem extr (g : Guard) (d a b : R6) (fn : F4) : Statement (.extr g d a b fn) := of_word rfl (hasGuard_encA ..)
theorem insr (g : Guard) (d a b : R6) (fn : F4) : Statement (.insr g d a b fn) := of_word rfl (hasGuard_encA ..)
theorem lea (g : Guard) (d a b : R6) (fn : F4) : Statement (.lea g d a b fn) := of_word rfl (hasGuard_encA ..)
theorem addi (g : Guard) (d a : R6) (imm : BitVec 10) : Statement (.addi g d a imm) := of_word rfl (hasGuard_encI ..)
theorem movi (g : Guard) (d : R6) (imm : W16) : Statement (.movi g d imm) := of_word rfl (hasGuard_encJ ..)
theorem plog (g : Guard) (d a b : R6) (fn : F4) : Statement (.plog g d a b fn) := of_word rfl (hasGuard_encA ..)
theorem mfs (g : Guard) (d : R6) (num : BitVec 12) : Statement (.mfs g d num) := of_word rfl (hasGuard_encS ..)
theorem mts (g : Guard) (num : BitVec 12) (a : R6) : Statement (.mts g num a) := of_word rfl (hasGuard_encS ..)
theorem fadd (g : Guard) (d a b : R6) (fn : F4) : Statement (.fadd g d a b fn) := of_word rfl (hasGuard_encA ..)
theorem fsub (g : Guard) (d a b : R6) (fn : F4) : Statement (.fsub g d a b fn) := of_word rfl (hasGuard_encA ..)
theorem fmul (g : Guard) (d a b : R6) (fn : F4) : Statement (.fmul g d a b fn) := of_word rfl (hasGuard_encA ..)
theorem ffma (g : Guard) (d a b : R6) (fn : F4) : Statement (.ffma g d a b fn) := of_word rfl (hasGuard_encA ..)
theorem fmin (g : Guard) (d a b : R6) (fn : F4) : Statement (.fmin g d a b fn) := of_word rfl (hasGuard_encA ..)
theorem fmax (g : Guard) (d a b : R6) (fn : F4) : Statement (.fmax g d a b fn) := of_word rfl (hasGuard_encA ..)
theorem fcmp (g : Guard) (d a b : R6) (fn : F4) : Statement (.fcmp g d a b fn) := of_word rfl (hasGuard_encA ..)
theorem fcvt (g : Guard) (d a b : R6) (fn : F4) : Statement (.fcvt g d a b fn) := of_word rfl (hasGuard_encA ..)
theorem fdiv (g : Guard) (d a b : R6) (fn : F4) : Statement (.fdiv g d a b fn) := of_word rfl (hasGuard_encA ..)
theorem fsqrt (g : Guard) (d a b : R6) (fn : F4) : Statement (.fsqrt g d a b fn) := of_word rfl (hasGuard_encA ..)
theorem lds (g : Guard) (d a b : R6) (fn : F4) : Statement (.lds g d a b fn) := of_word rfl (hasGuard_encA ..)
theorem sts (g : Guard) (d a b : R6) (fn : F4) : Statement (.sts g d a b fn) := of_word rfl (hasGuard_encA ..)
theorem bteStart (g : Guard) (d a b : R6) (fn : F4) : Statement (.bteStart g d a b fn) := of_word rfl (hasGuard_encA ..)
theorem ldg (g : Guard) (d a : R6) (scope : F4) (cls fn : F3) : Statement (.ldg g d a scope cls fn) := of_word rfl (hasGuard_encMG ..)
theorem stg (g : Guard) (d a : R6) (scope : F4) (cls fn : F3) : Statement (.stg g d a scope cls fn) := of_word rfl (hasGuard_encMG ..)
theorem vlds (g : Guard) (d a b : R6) (fn : F4) : Statement (.vlds g d a b fn) := of_word rfl (hasGuard_encA ..)
theorem vsts (g : Guard) (d a b : R6) (fn : F4) : Statement (.vsts g d a b fn) := of_word rfl (hasGuard_encA ..)
theorem vldg (g : Guard) (d a : R6) (scope : F4) (cls fn : F3) : Statement (.vldg g d a scope cls fn) := of_word rfl (hasGuard_encMG ..)
theorem vstg (g : Guard) (d a : R6) (scope : F4) (cls fn : F3) : Statement (.vstg g d a scope cls fn) := of_word rfl (hasGuard_encMG ..)
theorem vstm (g : Guard) (d a b : R6) (fn : F4) : Statement (.vstm g d a b fn) := of_word rfl (hasGuard_encA ..)
theorem vldm (g : Guard) (d a b : R6) (fn : F4) : Statement (.vldm g d a b fn) := of_word rfl (hasGuard_encA ..)
theorem tlds (g : Guard) (d a b : R6) (fn : F4) : Statement (.tlds g d a b fn) := of_word rfl (hasGuard_encA ..)
theorem tsts (g : Guard) (d a b : R6) (fn : F4) : Statement (.tsts g d a b fn) := of_word rfl (hasGuard_encA ..)
theorem atg (g : Guard) (d a : R6) (scope : F4) (cls fn : F3) : Statement (.atg g d a scope cls fn) := of_word rfl (hasGuard_encMG ..)
theorem xadd (g : Guard) (d a : R6) (scope : F4) (cls fn : F3) : Statement (.xadd g d a scope cls fn) := of_word rfl (hasGuard_encMG ..)
theorem rst (g : Guard) (d a : R6) (scope : F4) (cls fn : F3) : Statement (.rst g d a scope cls fn) := of_word rfl (hasGuard_encMG ..)
theorem rld (g : Guard) (d a : R6) (scope : F4) (cls fn : F3) : Statement (.rld g d a scope cls fn) := of_word rfl (hasGuard_encMG ..)
theorem rat (g : Guard) (d a : R6) (scope : F4) (cls fn : F3) : Statement (.rat g d a scope cls fn) := of_word rfl (hasGuard_encMG ..)
theorem fence (g : Guard) (d a : R6) (scope : F4) (cls fn : F3) : Statement (.fence g d a scope cls fn) := of_word rfl (hasGuard_encMG ..)
theorem cbfence (g : Guard) : Statement (.cbfence g) := of_word rfl (hasGuard_encB ..)
theorem lbr (g : Guard) (d a b : R6) (fn : F4) : Statement (.lbr g d a b fn) := of_word rfl (hasGuard_encA ..)
theorem tinv (g : Guard) (d a : R6) (scope : F4) (cls fn : F3) : Statement (.tinv g d a scope cls fn) := of_word rfl (hasGuard_encMG ..)
theorem vadd (m : Mask) (d a b : R6) (fn : F4) : Statement (.vadd m d a b fn) := of_none rfl
theorem vsub (m : Mask) (d a b : R6) (fn : F4) : Statement (.vsub m d a b fn) := of_none rfl
theorem vmul (m : Mask) (d a b : R6) (fn : F4) : Statement (.vmul m d a b fn) := of_none rfl
theorem vfma (m : Mask) (d a b : R6) (fn : F4) : Statement (.vfma m d a b fn) := of_none rfl
theorem vmin (m : Mask) (d a b : R6) (fn : F4) : Statement (.vmin m d a b fn) := of_none rfl
theorem vmax (m : Mask) (d a b : R6) (fn : F4) : Statement (.vmax m d a b fn) := of_none rfl
theorem vabs (m : Mask) (d a b : R6) (fn : F4) : Statement (.vabs m d a b fn) := of_none rfl
theorem vneg (m : Mask) (d a b : R6) (fn : F4) : Statement (.vneg m d a b fn) := of_none rfl
theorem vrcp (m : Mask) (d a b : R6) (fn : F4) : Statement (.vrcp m d a b fn) := of_none rfl
theorem vrsq (m : Mask) (d a b : R6) (fn : F4) : Statement (.vrsq m d a b fn) := of_none rfl
theorem vexp2 (m : Mask) (d a b : R6) (fn : F4) : Statement (.vexp2 m d a b fn) := of_none rfl
theorem vlog2 (m : Mask) (d a b : R6) (fn : F4) : Statement (.vlog2 m d a b fn) := of_none rfl
theorem vlut (m : Mask) (d a b : R6) (fn : F4) : Statement (.vlut m d a b fn) := of_none rfl
theorem vcmp (m : Mask) (d a b : R6) (fn : F4) : Statement (.vcmp m d a b fn) := of_none rfl
theorem vsel (m : Mask) (d a b : R6) (fn : F4) : Statement (.vsel m d a b fn) := of_none rfl
theorem vmov (m : Mask) (d a b : R6) (fn : F4) : Statement (.vmov m d a b fn) := of_none rfl
theorem vand (m : Mask) (d a b : R6) (fn : F4) : Statement (.vand m d a b fn) := of_none rfl
theorem vor (m : Mask) (d a b : R6) (fn : F4) : Statement (.vor m d a b fn) := of_none rfl
theorem vxor (m : Mask) (d a b : R6) (fn : F4) : Statement (.vxor m d a b fn) := of_none rfl
theorem vshl (m : Mask) (d a b : R6) (fn : F4) : Statement (.vshl m d a b fn) := of_none rfl
theorem vshr (m : Mask) (d a b : R6) (fn : F4) : Statement (.vshr m d a b fn) := of_none rfl
theorem vsar (m : Mask) (d a b : R6) (fn : F4) : Statement (.vsar m d a b fn) := of_none rfl
theorem vcvt (m : Mask) (d a b : R6) (fn : F4) : Statement (.vcvt m d a b fn) := of_none rfl
theorem vqmx (m : Mask) (d a b : R6) (fn : F4) : Statement (.vqmx m d a b fn) := of_none rfl
theorem vdqmx (m : Mask) (d a b : R6) (fn : F4) : Statement (.vdqmx m d a b fn) := of_none rfl
theorem vred (m : Mask) (d a b : R6) (fn : F4) : Statement (.vred m d a b fn) := of_none rfl
theorem vperm (m : Mask) (d a b : R6) (fn : F4) : Statement (.vperm m d a b fn) := of_none rfl
theorem vrot (m : Mask) (d a b : R6) (fn : F4) : Statement (.vrot m d a b fn) := of_none rfl
theorem vbcast (m : Mask) (d a b : R6) (fn : F4) : Statement (.vbcast m d a b fn) := of_none rfl
theorem vext (m : Mask) (d a b : R6) (fn : F4) : Statement (.vext m d a b fn) := of_none rfl
theorem viota (m : Mask) (d a b : R6) (fn : F4) : Statement (.viota m d a b fn) := of_none rfl
theorem qlog (m : Mask) (d a b : R6) (fn : F4) : Statement (.qlog m d a b fn) := of_none rfl
theorem qpopc (m : Mask) (d a b : R6) (fn : F4) : Statement (.qpopc m d a b fn) := of_none rfl
theorem tmovr (m : Mask) (d a b : R6) (fn : F4) : Statement (.tmovr m d a b fn) := of_none rfl
theorem tmovc (m : Mask) (d a b : R6) (fn : F4) : Statement (.tmovc m d a b fn) := of_none rfl
theorem trowv (m : Mask) (d a b : R6) (fn : F4) : Statement (.trowv m d a b fn) := of_none rfl
theorem tzero (m : Mask) (d a b : R6) (fn : F4) : Statement (.tzero m d a b fn) := of_none rfl
theorem mma (g : Guard) (a b c : R6) (fn : F4) : Statement (.mma g a b c fn) := of_word rfl (hasGuard_encA ..)
theorem mloadw (g : Guard) (a b c : R6) (fn : F4) : Statement (.mloadw g a b c fn) := of_word rfl (hasGuard_encA ..)
theorem mdrain (g : Guard) (a b c : R6) (fn : F4) : Statement (.mdrain g a b c fn) := of_word rfl (hasGuard_encA ..)
theorem mzero (g : Guard) (a b c : R6) (fn : F4) : Statement (.mzero g a b c fn) := of_word rfl (hasGuard_encA ..)
theorem maccld (g : Guard) (a b c : R6) (fn : F4) : Statement (.maccld g a b c fn) := of_word rfl (hasGuard_encA ..)
theorem epload (g : Guard) (a b c : R6) (fn : F4) : Statement (.epload g a b c fn) := of_word rfl (hasGuard_encA ..)
theorem arinit (g : Guard) (a b c : R6) (fn : F4) : Statement (.arinit g a b c fn) := of_word rfl (hasGuard_encA ..)
theorem arrive (g : Guard) (a b c : R6) (fn : F4) : Statement (.arrive g a b c fn) := of_word rfl (hasGuard_encA ..)
theorem arwait (g : Guard) (a b c : R6) (fn : F4) : Statement (.arwait g a b c fn) := of_word rfl (hasGuard_encA ..)
theorem artest (g : Guard) (a b c : R6) (fn : F4) : Statement (.artest g a b c fn) := of_word rfl (hasGuard_encA ..)
theorem arwaitm (g : Guard) (a b c : R6) (fn : F4) : Statement (.arwaitm g a b c fn) := of_word rfl (hasGuard_encA ..)
theorem artestm (g : Guard) (a b c : R6) (fn : F4) : Statement (.artestm g a b c fn) := of_word rfl (hasGuard_encA ..)
theorem efence (g : Guard) (a b c : R6) (fn : F4) : Statement (.efence g a b c fn) := of_word rfl (hasGuard_encA ..)
theorem skupd (g : Guard) (a b c : R6) (fn : F4) : Statement (.skupd g a b c fn) := of_word rfl (hasGuard_encA ..)
theorem skqry (g : Guard) (a b c : R6) (fn : F4) : Statement (.skqry g a b c fn) := of_word rfl (hasGuard_encA ..)
theorem skadd (g : Guard) (a b c : R6) (fn : F4) : Statement (.skadd g a b c fn) := of_word rfl (hasGuard_encA ..)
theorem skclr (g : Guard) (a b c : R6) (fn : F4) : Statement (.skclr g a b c fn) := of_word rfl (hasGuard_encA ..)
theorem coll (g : Guard) (a b c : R6) (fn : F4) : Statement (.coll g a b c fn) := of_word rfl (hasGuard_encA ..)
theorem csig (g : Guard) (a b c : R6) (fn : F4) : Statement (.csig g a b c fn) := of_word rfl (hasGuard_encA ..)
theorem qpush (g : Guard) (a b c : R6) (fn : F4) : Statement (.qpush g a b c fn) := of_word rfl (hasGuard_encA ..)
theorem qpop (g : Guard) (a b c : R6) (fn : F4) : Statement (.qpop g a b c fn) := of_word rfl (hasGuard_encA ..)
theorem qtry (g : Guard) (a b c : R6) (fn : F4) : Statement (.qtry g a b c fn) := of_word rfl (hasGuard_encA ..)
theorem launch (g : Guard) (a b c : R6) (fn : F4) : Statement (.launch g a b c fn) := of_word rfl (hasGuard_encA ..)
theorem gbar (g : Guard) (a b c : R6) (fn : F4) : Statement (.gbar g a b c fn) := of_word rfl (hasGuard_encA ..)
theorem specb (g : Guard) (a b c : R6) (fn : F4) : Statement (.specb g a b c fn) := of_word rfl (hasGuard_encA ..)
theorem specc (g : Guard) (a b c : R6) (fn : F4) : Statement (.specc g a b c fn) := of_word rfl (hasGuard_encA ..)
theorem speca (g : Guard) (a b c : R6) (fn : F4) : Statement (.speca g a b c fn) := of_word rfl (hasGuard_encA ..)
theorem dgst (g : Guard) (a b c : R6) (fn : F4) : Statement (.dgst g a b c fn) := of_word rfl (hasGuard_encA ..)
theorem endp (x y z : F4) : Statement (.endp x y z) := of_none rfl
theorem cvt (x y z : F4) : Statement (.cvt x y z) := of_none rfl
theorem addv (x y z : F4) : Statement (.addv x y z) := of_none rfl
theorem mulv (x y z : F4) : Statement (.mulv x y z) := of_none rfl
theorem fmav (x y z : F4) : Statement (.fmav x y z) := of_none rfl
theorem adds (x y z : F4) : Statement (.adds x y z) := of_none rfl
theorem muls (x y z : F4) : Statement (.muls x y z) := of_none rfl
theorem relum (x y z : F4) : Statement (.relum x y z) := of_none rfl
theorem clamp (x y z : F4) : Statement (.clamp x y z) := of_none rfl
theorem lutp (x y z : F4) : Statement (.lutp x y z) := of_none rfl
theorem maxe (x y z : F4) : Statement (.maxe x y z) := of_none rfl
theorem mine (x y z : F4) : Statement (.mine x y z) := of_none rfl
theorem move (x y z : F4) : Statement (.move x y z) := of_none rfl
theorem cvtb (x y z : F4) : Statement (.cvtb x y z) := of_none rfl
theorem maskw (x y z : F4) : Statement (.maskw x y z) := of_none rfl
theorem qout (x y z : F4) : Statement (.qout x y z) := of_none rfl
theorem packageResetAsserted : Statement .packageResetAsserted := of_none rfl
theorem hbmRepairRowsExhausted (die stack : Nat) : Statement (.hbmRepairRowsExhausted die stack) := of_none rfl
theorem ablumLinkRetrained (link lanes : Nat) : Statement (.ablumLinkRetrained link lanes) := of_none rfl
theorem mzeroComplete (lc cmd : Nat) : Statement (.mzeroComplete lc cmd) := of_none rfl
theorem globalAccessPerformed (t : Nat) (i : Pick) : Statement (.globalAccessPerformed t i) := of_none rfl

end GuardBits

end Sys2Proof.Laws
end

