-- ==== Sys2Proof/Laws/Rs.lean ====
section
/-! SUPPORT. The Reed-Solomon decoder on bytes without errors (R45). -/

namespace Sys2Proof.Machine

@[simp] theorem gfMul_zero (a : Nat) : gfMul a 0 = 0 := by simp [gfMul, bitOf, gfTwo, List.range, List.range.loop]
@[simp] theorem zero_gfMul (a : Nat) : gfMul 0 a = 0 := by simp [gfMul, gfTwo, List.range, List.range.loop]

/-- Syndromes that are all zero leave the locator at degree 0. -/
theorem locator_clean (syn : List Nat) (h : ∀ i, syn.getD i 0 = 0) (n : Nat) :
    (List.range n).foldl (fun s n => s.next syn n) ({ c := [1], b := [1], len := 0, m := 1, d := 1 } : Locator) =
      { c := [1], b := [1], len := 0, m := 1 + n, d := 1 } := by
  induction n with
  | zero => rfl
  | succ n ih =>
    rw [List.range_succ, List.foldl_append, ih]
    have : (syn[n]?.getD 0) = 0 := by simpa [List.getD_eq_getElem?_getD] using h n
    simp [Locator.next, this, Nat.add_assoc]

/-- Bytes with their own parity decode to themselves (R45). -/
theorem rsDecode_clean (bs : List Byte) (n : Nat) : rsDecode bs (parity bs 0 n) = some bs := by
  have h0 : (List.zipWith (fun (a b : Byte) => (a ^^^ b).toNat) (parity bs 0 n) (parity bs 0 n)) = List.replicate n 0 := by
    rw [List.zipWith_self]
    simp only [parity, List.map_map, Function.comp_def, BitVec.xor_self, BitVec.toNat_zero]
    simp
  have h1 : (parity bs 0 n).length = n := by simp [parity]
  have h2 : ∀ i, (List.replicate n 0).getD i 0 = 0 := by
    intro i; simp [List.getD_eq_getElem?_getD, List.getElem?_replicate]; split <;> rfl
  simp only [rsDecode, h1, h0, locator, locator_clean _ h2]
  simp [gfEval, damage]

end Sys2Proof.Machine
end

