-- ==== Sys2Proof/Tests/Slice0.lean ====
section
/-! SUPPORT. Tests: ill-formed terms that the check refuses, words written out from the spec's tables, single steps whose results the
spec's rules and worked examples give, and for each statement states that meet its hypotheses. -/

open Sys2Proof Sys2Proof.Machine

namespace Sys2Proof.Tests

set_option Elab.async false

/-! ### Ill-formed terms -/

/-- A guard and a mask that are assigned. -/
abbrev g : Guard := ⟨0, false⟩
abbrev u : Mask := ⟨0, false⟩
/-- The guard P0 negated, which is reserved. -/
abbrev n : Guard := ⟨0, true⟩
/-- Masks Q1 without and with zeroing, and Q0 with zeroing. -/
abbrev q : Mask := ⟨1, false⟩
abbrev z : Mask := ⟨1, true⟩
abbrev z0 : Mask := ⟨0, true⟩

/-- Fields beyond what R300-R316 and R436 assign. -/
theorem test_ill_formed_1 :
    ∀ i ∈ ([
    .nop n, .add n 1 2 3 0, .addi n 1 2 3, .movi n 1 2, .mfs n 1 0, .mts n 0 1, .lds n 1 2 3 0, .ldg n 1 2 0 0 0, .mma n 1 2 3 0,
    .br n 4, .brv n 1 4, .bri n 1, .call n 4, .calli n 1, .ret n, .lexit n, .waitf n 1 2, .yield n, .halt n, .trap n 1, .eret n,
    .brk n 1, .tfence n, .cbfence n, .loop n 1 1 1, .loop g 0 1 1, .loop g 7 1 1, .loop g 1 0 1, .loop g 1 63 1, .loop g 6 58 1,
    .loop g 1 1 0, .loop g 1 1 257, .add g 63 2 3 0, .add g 1 2 3 3, .sub g 63 2 3 0, .sub g 1 2 3 3, .mul g 63 2 3 0, .mul g 1 2 3 4,
    .div g 63 2 3 0, .div g 1 2 3 4, .and g 63 2 3 0, .and g 1 2 3 1, .or g 63 2 3 0, .or g 1 2 3 1, .xor g 63 2 3 0, .xor g 1 2 3 1,
    .andn g 63 2 3 0, .andn g 1 2 3 1, .min g 63 2 3 0, .min g 1 2 3 2, .max g 63 2 3 0, .max g 1 2 3 2, .extr g 63 2 3 0,
    .extr g 1 2 3 2, .insr g 63 2 3 0, .insr g 1 2 3 1, .lea g 63 2 3 0, .lea g 1 2 3 5, .fadd g 63 2 3 0, .fadd g 1 2 3 2,
    .fsub g 63 2 3 0, .fsub g 1 2 3 2, .fmul g 63 2 3 0, .fmul g 1 2 3 2, .ffma g 63 2 3 0, .ffma g 1 2 3 2, .fmin g 63 2 3 0,
    .fmin g 1 2 3 1, .fmax g 63 2 3 0, .fmax g 1 2 3 1, .fdiv g 63 2 3 0, .fdiv g 1 2 3 2, .shl g 63 2 3 0, .shl g 1 2 3 4,
    .shr g 63 2 3 0, .shr g 1 2 3 4, .sar g 63 2 3 0, .sar g 1 2 3 4, .rotr g 63 2 3 0, .rotr g 1 2 3 4, .shl g 1 2 32 3,
    .shr g 1 2 32 3, .sar g 1 2 32 3, .rotr g 1 2 32 3, .clz g 63 2 0 0, .clz g 1 2 1 0, .clz g 1 2 0 2, .ctz g 63 2 0 0,
    .ctz g 1 2 1 0, .ctz g 1 2 0 2] : List Instr), i.wf = false := by
  decide +kernel

/-- Fields beyond what R300-R316 and R436 assign. -/
theorem test_ill_formed_2 :
    ∀ i ∈ ([
    .popc g 63 2 0 0, .popc g 1 2 1 0, .popc g 1 2 0 2, .fsqrt g 63 2 0 0, .fsqrt g 1 2 1 0, .fsqrt g 1 2 0 2, .fcvt g 63 2 0 0,
    .fcvt g 1 2 1 0, .fcvt g 1 2 0 11, .cmp g 8 1 2 0, .cmp g 1 1 2 10, .fcmp g 8 1 2 0, .fcmp g 1 1 2 8, .sel g 63 1 2 0,
    .addi g 63 1 0, .movi g 63 0, .plog g 8 1 1 0, .plog g 1 8 1 0, .plog g 1 1 8 0, .mfs g 63 0, .mfs g 1 0x00C, .mfs g 1 0x03A,
    .mts g 0x00F 1, .mts g 0x03A 1, .mfs n 1 0, .lds g 63 1 2 0, .lds g 1 1 2 8, .sts g 1 2 3 3, .sts g 1 2 3 4, .bteStart g 1 2 3 2,
    .ldg g 63 1 0 0 0, .ldg g 1 1 9 0 0, .ldg g 1 1 0 3 0, .stg g 1 1 9 0 0, .stg g 1 1 0 2 0, .stg g 1 1 0 4 0, .stg g 1 1 0 0 4,
    .vlds g 32 1 2 0, .vlds g 1 1 2 3, .vsts g 1 1 2 3, .vldg g 32 1 0 0 0, .vldg g 1 1 9 0 0, .vldg g 1 1 0 3 0, .vldg g 1 1 0 0 3,
    .vstg g 1 1 9 0 0, .vstg g 1 1 0 2 0, .vstg g 1 1 0 0 3, .vstm g 1 1 2 8, .vldm g 32 1 2 0, .tlds g 8 1 2 0, .tlds g 1 1 2 1,
    .tsts g 8 1 2 0, .tsts g 1 1 2 1, .atg g 1 1 0 1 0, .atg g 2 1 9 1 0, .atg g 2 1 0 0 0, .atg g 2 1 0 5 0, .atg g 2 1 0 1 2,
    .xadd g 1 1 9 1 0, .xadd g 1 1 0 0 0, .xadd g 1 1 0 2 0, .xadd g 1 1 0 1 1, .rst g 1 1 0 0 0, .rst g 62 1 0 0 0, .rst g 2 1 1 0 0,
    .rst g 2 1 0 1 0, .rst g 2 1 0 0 1, .rld g 1 1 1 0 0, .rld g 1 1 0 1 0, .rld g 1 1 0 0 1, .rat g 1 1 0 0 0, .rat g 2 1 1 0 0,
    .rat g 2 1 0 1 0, .rat g 2 1 0 0 1, .fence g 1 0 0 0 0, .fence g 0 1 0 0 0, .fence g 0 0 9 0 0, .fence g 0 0 0 1 0,
    .fence g 0 0 0 0 3, .lbr g 63 1 2 0, .lbr g 1 1 2 4, .tinv g 1 0 0 0 0, .tinv g 0 0 1 0 0, .tinv g 0 0 0 1 0, .tinv g 0 0 0 0 2,
    .vadd q 32 1 2 0, .vadd q 1 1 2 7, .vsub q 32 1 2 0, .vsub q 1 1 2 7, .vmul q 32 1 2 0] : List Instr), i.wf = false := by
  decide +kernel

/-- Fields beyond what R300-R316 and R436 assign. -/
theorem test_ill_formed_3 :
    ∀ i ∈ ([
    .vmul q 1 1 2 7, .vfma q 32 1 2 0, .vfma q 1 1 2 3, .vmin q 32 1 2 0, .vmin q 1 1 2 1, .vmin q 32 1 2 0, .vmin q 1 1 2 5,
    .vmax q 32 1 2 0, .vmax q 1 1 2 1, .vmax q 32 1 2 0, .vmax q 1 1 2 5, .vand q 32 1 2 0, .vand q 1 1 2 1, .vor q 32 1 2 0,
    .vor q 1 1 2 1, .vxor q 32 1 2 0, .vxor q 1 1 2 1, .vshl q 32 1 2 0, .vshl q 1 1 2 1, .vshr q 32 1 2 0, .vshr q 1 1 2 1,
    .vsar q 32 1 2 0, .vsar q 1 1 2 1, .vperm q 32 1 2 0, .vperm q 1 1 2 1, .vrot q 32 1 2 0, .vrot q 1 1 2 1, .vbcast q 32 1 2 0,
    .vbcast q 1 1 2 1, .vabs q 32 1 0 0, .vabs q 1 1 1 0, .vabs q 1 1 0 1, .vabs q 32 1 0 0, .vabs q 1 1 1 0, .vabs q 1 1 0 4,
    .vneg q 32 1 0 0, .vneg q 1 1 1 0, .vneg q 1 1 0 6, .vrcp q 32 1 0 0, .vrcp q 1 1 1 0, .vrcp q 1 1 0 1, .vrsq q 32 1 0 0,
    .vrsq q 1 1 1 0, .vrsq q 1 1 0 1, .vexp2 q 32 1 0 0, .vexp2 q 1 1 1 0, .vexp2 q 1 1 0 1, .vlog2 q 32 1 0 0, .vlog2 q 1 1 1 0,
    .vlog2 q 1 1 0 1, .vmov q 32 1 0 0, .vmov q 1 1 1 0, .vmov q 1 1 0 1, .vcvt q 32 1 0 0, .vcvt q 1 1 1 0, .vcvt q 1 1 0 8,
    .vdqmx q 32 1 0 0, .vdqmx q 1 1 1 0, .vdqmx q 1 1 0 6, .vlut q 32 1 0 0, .vlut q 1 1 1 0, .vcmp q 8 1 2 0, .vsel z 1 1 2 0,
    .vsel q 32 1 2 0, .vsel q 1 1 2 1, .vqmx z 1 1 0 0, .vqmx q 32 1 0 0, .vqmx q 1 1 1 0, .vqmx q 1 1 0 6, .vred z 1 1 0 0,
    .vred q 63 1 0 0, .vred q 1 1 1 0, .vred q 1 1 0 3, .vred q 1 1 0 7, .vred q 1 1 0 12, .vext q 1 1 2 0, .vext z0 1 1 2 0,
    .viota q 1 0 0 0, .viota z0 1 0 0 0, .qlog q 1 1 1 0, .qlog z0 1 1 1 0, .qpopc q 1 1 0 0, .qpopc z0 1 1 0 0, .tmovr q 1 1 2 0,
    .tmovr z0 1 1 2 0, .tmovc q 1 1 2 0, .tmovc z0 1 1 2 0, .trowv q 1 1 2 0, .trowv z0 1 1 2 0, .tzero q 1 0 0 0] : List Instr), i.wf = false := by
  decide +kernel

/-- Fields beyond what R300-R316 and R436 assign. -/
theorem test_ill_formed_4 :
    ∀ i ∈ ([
    .tzero z0 1 0 0 0, .vext u 63 1 2 0, .vext u 1 1 2 1, .viota u 32 0 0 0, .viota u 1 1 0 0, .viota u 1 0 1 0, .viota u 1 0 0 1,
    .qlog u 8 1 1 0, .qlog u 1 8 1 0, .qlog u 1 1 8 0, .qpopc u 63 1 0 0, .qpopc u 1 8 0 0, .qpopc u 1 1 1 0, .qpopc u 1 1 0 1,
    .tmovr u 8 1 2 0, .tmovr u 1 1 2 1, .tmovc u 32 1 2 0, .tmovc u 1 8 2 0, .tmovc u 1 1 2 1, .trowv u 32 1 2 0, .trowv u 1 8 2 0,
    .trowv u 1 1 2 1, .tzero u 8 0 0 0, .tzero u 1 1 0 0, .tzero u 1 0 1 0, .tzero u 1 0 0 1, .mma g 1 2 3 4, .mloadw g 1 2 3 4,
    .mdrain g 1 2 3 2, .maccld g 1 2 3 8, .arinit g 1 2 3 1, .skupd g 1 2 3 2, .skqry g 1 2 3 2, .epload g 1 2 3 0, .epload g 1 2 0 8,
    .arwaitm g 1 2 3 0, .arwaitm g 1 2 0 2, .skadd g 1 2 3 0, .skadd g 1 2 0 1, .csig g 1 2 3 0, .csig g 1 2 0 1, .qpush g 1 2 3 0,
    .qpush g 1 2 0 1, .qpop g 1 2 3 0, .qpop g 1 2 0 1, .launch g 1 2 3 0, .launch g 1 2 0 1, .artestm g 1 2 3 0, .mzero g 1 2 0 0,
    .mzero g 1 0 3 0, .mzero g 1 0 0 4, .arrive g 1 2 0 0, .arrive g 1 0 3 0, .arrive g 1 0 0 1, .arwait g 1 2 0 0, .arwait g 1 0 3 0,
    .arwait g 1 0 0 2, .skclr g 1 2 0 0, .skclr g 1 0 3 0, .skclr g 1 0 0 1, .coll g 1 2 0 0, .coll g 1 0 3 0, .coll g 1 0 0 1,
    .gbar g 1 2 0 0, .gbar g 1 0 3 0, .gbar g 1 0 0 1, .dgst g 1 2 0 0, .dgst g 1 0 3 0, .dgst g 1 0 0 1, .artest g 1 2 0 0,
    .artest g 1 0 3 0, .qtry g 1 2 0 0, .qtry g 1 0 3 0, .efence g 1 0 0 0, .efence g 0 1 0 0, .efence g 0 0 1 0, .efence g 0 0 0 1,
    .specb g 1 0 0 0, .specb g 0 1 0 0, .specb g 0 0 1 0, .specb g 0 0 0 1, .specc g 1 0 0 0, .specc g 0 1 0 0, .specc g 0 0 1 0,
    .specc g 0 0 0 1, .speca g 1 0 0 0, .speca g 0 1 0 0, .speca g 0 0 1 0, .speca g 0 0 0 1, .addv 9 1 1] : List Instr), i.wf = false := by
  decide +kernel

/-- Fields beyond what R300-R316 and R436 assign. -/
theorem test_ill_formed_5 :
    ∀ i ∈ ([
    .addv 1 9 1, .addv 1 1 9, .mulv 9 1 1, .mulv 1 9 1, .mulv 1 1 9, .fmav 9 1 1, .fmav 1 9 1, .fmav 1 1 9, .clamp 9 1 1, .clamp 1 9 1,
    .clamp 1 1 9, .maxe 9 1 1, .maxe 1 9 1, .maxe 1 1 9, .mine 9 1 1, .mine 1 9 1, .mine 1 1 9, .adds 9 1 1, .adds 1 9 1, .muls 9 1 1,
    .muls 1 9 1, .lutp 9 1 1, .lutp 1 9 1, .cvt 9 1 0, .cvt 1 9 0, .cvt 1 1 4, .cvtb 9 1 0, .cvtb 1 9 0, .cvtb 1 1 4, .relum 9 1 0,
    .relum 1 9 0, .relum 1 1 1, .move 9 1 0, .move 1 9 0, .move 1 1 1, .maskw 6 1 1, .maskw 0 9 1, .maskw 0 1 9, .qout 9 0 0,
    .qout 1 1 0, .qout 1 0 1] : List Instr), i.wf = false := by
  decide +kernel

/-- Codes that no table assigns are no instruction in any slot (R308-R314). -/
theorem test_unassigned_codes :
    (∀ n < 48, decodeWord .b (BitVec.ofNat 6 (n + 0x10) ++ 0#26) = none) ∧ (∀ n < 5, decodeWord .s (BitVec.ofNat 6 (n + 0x1B) ++ 0#26) = none) ∧
    (∀ n < 22, decodeWord .s (BitVec.ofNat 6 (n + 0x2A) ++ 0#26) = none) ∧ (∀ n < 43, decodeWord .m (BitVec.ofNat 6 (n + 0x15) ++ 0#26) = none) ∧
    (∀ n < 27, decodeWord .v (BitVec.ofNat 6 (n + 0x25) ++ 0#26) = none) ∧ (∀ n < 36, decodeWord .e (BitVec.ofNat 6 (n + 0x1C) ++ 0#26) = none) := by
  decide +kernel

/-- Bits marked 0 that are set make no instruction (R308, R316): RET, BRI, LOOP, WAITF, TRAP, BRK; MFS and MTS fn. -/
theorem test_zero_fields :
    decodeWord .b 0x18000001 = none ∧ decodeWord .b 0x0C030001 = none ∧ decodeWord .b 0x1C082201 = none ∧ decodeWord .b 0x24010801 = none ∧
    decodeWord .b 0x30010000 = none ∧ decodeWord .b 0x38010000 = none ∧ decodeWord .s 0x64010001 = none ∧ decodeWord .s 0x68010001 = none := by
  decide +kernel

/-! ### Words of the spec's tables -/

/-- The words of the B slot, from R300 and the table of R308. -/
theorem test_words_B : ∀ e ∈ ([
    (0x01800000, .nop { p := 3, neg := false }), (0x1A000000, .ret { p := 4, neg := false }),
    (0x20800000, .lexit { p := 1, neg := false }), (0x29800000, .yield { p := 3, neg := false }),
    (0x2E800000, .halt { p := 5, neg := false }), (0x34800000, .eret { p := 1, neg := false }),
    (0x3E400000, .tfence { p := 4, neg := true }), (0x048B9C7B, .br { p := 1, neg := false } 760955),
    (0x12C790EE, .call { p := 5, neg := true } 495854), (0x0BAB9263, .brv { p := 7, neg := false } 5 234083),
    (0x0F250000, .bri { p := 6, neg := false } 37), (0x16C40000, .calli { p := 5, neg := true } 4),
    (0x1D372100, .loop { p := 2, neg := false } 6 57 256), (0x26A13000, .waitf { p := 5, neg := false } 33 12),
    (0x31C049DB, .trap { p := 3, neg := true } 18907), (0x3A809DF1, .brk { p := 5, neg := false } 40433)] : List (W32 × Instr)), decodeWord .b e.1 = some e.2 := by
  decide +kernel

/-- The words of the S slots, from R300 and the table of R309. -/
theorem test_words_S : ∀ e ∈ ([
    (0x0124D6C2, .add { p := 2, neg := false } 36 53 44 2), (0x05669691, .sub { p := 2, neg := true } 38 37 41 1),
    (0x088792E3, .mul { p := 1, neg := false } 7 36 46 3), (0x0F683A02, .div { p := 6, neg := true } 40 14 32 2),
    (0x12F255E0, .and { p := 5, neg := true } 50 21 30 0), (0x17985100, .or { p := 7, neg := false } 24 20 16 0),
    (0x18EDC900, .xor { p := 1, neg := true } 45 50 16 0), (0x1DE28390, .andn { p := 3, neg := true } 34 32 57 0),
    (0x20D39C51, .shl { p := 1, neg := true } 19 39 5 1), (0x254BC562, .shr { p := 2, neg := true } 11 49 22 2),
    (0x2B1B0FE0, .sar { p := 6, neg := false } 27 3 62 0), (0x33F19251, .min { p := 7, neg := true } 49 36 37 1),
    (0x36D6B570, .max { p := 5, neg := true } 22 45 23 0), (0x3CA6D1EB, .sel { p := 1, neg := false } 38 52 30 11),
    (0x4F3D49F1, .extr { p := 6, neg := false } 61 18 31 1), (0x51C4BED0, .insr { p := 3, neg := true } 4 47 45 0),
    (0x5753B994, .lea { p := 6, neg := true } 19 46 25 4), (0x8182F5E1, .fadd { p := 3, neg := false } 2 61 30 1),
    (0x84A82200, .fsub { p := 1, neg := false } 40 8 32 0), (0x8B324C91, .fmul { p := 6, neg := false } 50 19 9 1),
    (0x8FDA6BB1, .ffma { p := 7, neg := true } 26 26 59 1), (0x92462DD0, .fmin { p := 4, neg := true } 6 11 29 0),
    (0x96792750, .fmax { p := 4, neg := true } 57 9 53 0), (0xA36E6D71, .fdiv { p := 6, neg := true } 46 27 23 1),
    (0x2D3E3DF3, .rotr { p := 2, neg := false } 62 15 31 3), (0x410C2801, .clz { p := 2, neg := false } 12 10 0 1),
    (0x47818000, .ctz { p := 7, neg := false } 1 32 0 0), (0x48914C01, .popc { p := 1, neg := false } 17 19 0 1),
    (0x9DDB8C0A, .fcvt { p := 3, neg := true } 27 35 0 10), (0xA73D2401, .fsqrt { p := 6, neg := false } 61 9 0 1),
    (0x3BC77BF9, .cmp { p := 7, neg := true } 7 30 63 9), (0x9A46FDA7, .fcmp { p := 4, neg := true } 6 63 26 7),
    (0x60C1087D, .plog { p := 1, neg := true } 1 2 7 13), (0x5B492BFE, .addi { p := 6, neg := true } 9 10 0x3FE),
    (0x5CBE8001, .movi { p := 1, neg := false } 62 0x8001), (0x64910390, .mfs { p := 1, neg := false } 17 0x39),
    (0x6A1202F0, .mts { p := 4, neg := false } 0x2F 18)] : List (W32 × Instr)), decodeWord .s e.1 = some e.2 := by
  decide +kernel

/-- The words of the M slot, from R300 and the table of R310. -/
theorem test_words_M : ∀ e ∈ ([
    (0x00885A77, .lds { p := 1, neg := false } 8 22 39 7), (0x068194A2, .sts { p := 5, neg := false } 1 37 10 2),
    (0x04BD6283, .bteStart { p := 1, neg := false } 61 24 40 3), (0x12DFE0E2, .vlds { p := 5, neg := true } 31 56 14 2),
    (0x15E82A91, .vsts { p := 3, neg := true } 40 10 41 1), (0x223F9D87, .vstm { p := 4, neg := false } 63 39 24 7),
    (0x265E237D, .vldm { p := 4, neg := true } 30 8 55 13), (0x29877DF0, .tlds { p := 3, neg := false } 7 31 31 0),
    (0x2F452870, .tsts { p := 6, neg := true } 5 10 7 0), (0x4FB045F3, .lbr { p := 7, neg := false } 48 17 31 3),
    (0x09620A17, .ldg { p := 2, neg := true } 34 2 8 2 7), (0x0E8AB55A, .stg { p := 5, neg := false } 10 45 5 3 2),
    (0x1ADDC5CA, .vldg { p := 5, neg := true } 29 49 7 1 2), (0x1FBFA999, .vstg { p := 7, neg := false } 63 42 6 3 1),
    (0x33FEB621, .atg { p := 7, neg := true } 62 45 8 4 1), (0x356260C8, .xadd { p := 2, neg := true } 34 24 3 1 0),
    (0x397CC800, .rst { p := 2, neg := true } 60 50 0 0 0), (0x3EA93C00, .rld { p := 5, neg := false } 41 15 0 0 0),
    (0x4162D000, .rat { p := 2, neg := true } 34 52 0 0 0), (0x47000102, .fence { p := 6, neg := false } 0 0 4 0 2),
    (0x52C03401, .tinv { p := 5, neg := true } 0 13 0 0 1), (0x49800000, .cbfence { p := 3, neg := false })] : List (W32 × Instr)), decodeWord .m e.1 = some e.2 := by
  decide +kernel

/-- The words of the V slots, from R300 and the table of R313. -/
theorem test_words_V : ∀ e ∈ ([
    (0x01818FC6, .vadd { q := 3, z := false } 1 35 60 6), (0x0596E6C5, .vsub { q := 3, z := false } 22 57 44 5),
    (0x0A0E35D4, .vmul { q := 4, z := false } 14 13 29 4), (0x0E956BD2, .vfma { q := 5, z := false } 21 26 61 2),
    (0x139EB0A4, .vmin { q := 7, z := false } 30 44 10 4), (0x155867D3, .vmax { q := 2, z := true } 24 25 61 3),
    (0x42552F20, .vand { q := 4, z := true } 21 11 50 0), (0x45055150, .vor { q := 2, z := false } 5 20 21 0),
    (0x4AC9ED20, .vxor { q := 5, z := true } 9 59 18 0), (0x4C964D00, .vshl { q := 1, z := false } 22 19 16 0),
    (0x53864770, .vshr { q := 7, z := false } 6 17 55 0), (0x554D0E00, .vsar { q := 2, z := true } 13 3 32 0),
    (0x6ACFA610, .vperm { q := 5, z := true } 15 41 33 0), (0x6E481ED0, .vrot { q := 4, z := true } 8 7 45 0),
    (0x73C84C20, .vbcast { q := 7, z := true } 8 19 2 0), (0x1B8B0005, .vabs { q := 7, z := false } 11 0 0 5),
    (0x1E0B4802, .vneg { q := 4, z := false } 11 18 0 2), (0x2343A400, .vrcp { q := 6, z := true } 3 41 0 0),
    (0x25061C00, .vrsq { q := 2, z := false } 6 7 0 0), (0x2B911400, .vexp2 { q := 7, z := false } 17 5 0 0),
    (0x2F9C0C00, .vlog2 { q := 7, z := false } 28 3 0 0), (0x329CA40F, .vlut { q := 5, z := false } 28 41 0 15),
    (0x3ED1E400, .vmov { q := 5, z := true } 17 57 0 0), (0x5A8F8407, .vcvt { q := 5, z := false } 15 33 0 7),
    (0x621C4405, .vdqmx { q := 4, z := false } 28 17 0 5), (0x364756AE, .vcmp { q := 4, z := true } 7 21 42 14),
    (0x3B1F56B0, .vsel { q := 6, z := false } 31 21 43 0), (0x5E9E5804, .vqmx { q := 5, z := false } 30 22 0 4),
    (0x663D5C0E, .vred { q := 4, z := false } 61 23 0 14), (0x743C63B0, .vext { q := 0, z := false } 60 24 59 0),
    (0x78130000, .viota { q := 0, z := false } 19 0 0 0), (0x7C051879, .qlog { q := 0, z := false } 5 6 7 9),
    (0x803A0C00, .qpopc { q := 0, z := false } 58 3 0 0), (0x84066790, .tmovr { q := 0, z := false } 6 25 57 0),
    (0x88121380, .tmovc { q := 0, z := false } 18 4 56 0), (0x8C110B70, .trowv { q := 0, z := false } 17 2 55 0),
    (0x90030000, .tzero { q := 0, z := false } 3 0 0 0)] : List (W32 × Instr)), decodeWord .v e.1 = some e.2 := by
  decide +kernel

/-- The words of the E slot, from R300 and the table of R314. -/
theorem test_words_E : ∀ e ∈ ([
    (0x015516B3, .mma { p := 2, neg := true } 21 5 43 3), (0x05853AB2, .mloadw { p := 3, neg := false } 5 14 43 2),
    (0x0B7AC8A1, .mdrain { p := 6, neg := true } 58 50 10 1), (0x114A4797, .maccld { p := 2, neg := true } 10 17 57 7),
    (0x18CFC3D0, .arinit { p := 1, neg := true } 15 48 61 0), (0x373980B1, .skupd { p := 6, neg := false } 57 32 11 1),
    (0x3ACBB9C1, .skqry { p := 5, neg := true } 11 46 28 1), (0x15566C07, .epload { p := 2, neg := true } 22 27 0 7),
    (0x2B551801, .arwaitm { p := 6, neg := true } 21 6 0 1), (0x2EC2580F, .artestm { p := 5, neg := true } 2 22 0 15),
    (0x3CDDB800, .skadd { p := 1, neg := true } 29 46 0 0), (0x4AD68800, .csig { p := 5, neg := true } 22 34 0 0),
    (0x4CA1F800, .qpush { p := 1, neg := false } 33 62 0 0), (0x513BCC00, .qpop { p := 2, neg := false } 59 51 0 0),
    (0x59864400, .launch { p := 3, neg := false } 6 17 0 0), (0x0FBA0003, .mzero { p := 7, neg := false } 58 0 0 3),
    (0x1F920000, .arrive { p := 7, neg := false } 18 0 0 0), (0x22750001, .arwait { p := 4, neg := true } 53 0 0 1),
    (0x255A000E, .artest { p := 2, neg := true } 26 0 0 14), (0x41AD0000, .skclr { p := 3, neg := false } 45 0 0 0),
    (0x44920000, .coll { p := 1, neg := false } 18 0 0 0), (0x54DC000D, .qtry { p := 1, neg := true } 28 0 0 13),
    (0x5CBD0000, .gbar { p := 1, neg := false } 61 0 0 0), (0x6DB40000, .dgst { p := 3, neg := false } 52 0 0 0),
    (0x32800000, .efence { p := 5, neg := false } 0 0 0 0), (0x60C00000, .specb { p := 1, neg := true } 0 0 0 0),
    (0x67800000, .specc { p := 7, neg := false } 0 0 0 0), (0x6A000000, .speca { p := 4, neg := false } 0 0 0 0)] : List (W32 × Instr)), decodeWord .e e.1 = some e.2 := by
  decide +kernel

/-- The operations of an epilogue program, from the table of R436. -/
theorem test_words_epilogue : ∀ e ∈ ([
    (0x09AB, .endp 9 10 11), (0x1183, .cvt 1 8 3), (0x2234, .addv 2 3 4), (0x3876, .mulv 8 7 6), (0x4543, .fmav 5 4 3),
    (0x562F, .adds 6 2 15), (0x671E, .muls 7 1 14), (0x7850, .relum 8 5 0), (0x8081, .clamp 0 8 1), (0x936D, .lutp 3 6 13),
    (0xA478, .maxe 4 7 8), (0xB502, .mine 5 0 2), (0xC680, .move 6 8 0), (0xD712, .cvtb 7 1 2), (0xE538, .maskw 5 3 8),
    (0xF800, .qout 8 0 0)] : List (W16 × Instr)), decodeEpi e.1 = some e.2 := by
  decide +kernel


/-- The bundle of the example of R322's section: BR, ADD and LDS with a K literal. -/
theorem test_bundle_example :
    decodeBundle 64 [0x8B, 0xC0, 0xFF, 0x3F, 0x04, 0x70, 0x18, 0x05, 0x00, 0xF2, 0x27, 0x08, 0x01, 0x40, 0x00, 0x00, 0x00] =
      .ok (some { len := 17, words := [(0, 0x043FFFC0), (1, 0x00051870), (3, 0x010827F2)], k := some 0x40 }) := by
  decide +kernel

/-- A line pad, a bundle that crosses its line, and a header of K alone (R296, R297). -/
theorem test_bundle_limits :
    decodeBundle 7 [0] = .ok none ∧ decodeBundle 4 [1, 0, 0, 0] = .error (.illb 0) ∧ decodeBundle 64 [0x80, 0, 0, 0, 0] = .error (.illb 1) := by
  decide +kernel

/-! ### Single steps -/

/-- A package with one context of one logical core, whose strand 0 holds a firing changed by `f`. -/
def box (f : Strand → Strand) : State :=
  let s := State.reset.withContext
  { s.setStrand 0 (f { Strand.idle with occ := true, pc := 0x20000 }) with cur := 0 }

/-- G1, G2 and G3 hold `a`, `b` and `d`. -/
def regs (a b d : W64) : State := box (fun st => { st with g := tlist 0 1 [a, b, d] })

/-- G3 and the flags that will be set after an instruction. -/
def g3 (i : Instr) (s : State) : Option (W64 × W64) :=
  match exec i s with
  | .next t => some (t.me.gGet 3, t.me.fpend.foldl (fun x e => x ||| e.flags) 0)
  | _ => none

/-- P3 and the flags that will be set after an instruction. -/
def p3 (i : Instr) (s : State) : Option (Bool × W64) :=
  match exec i s with
  | .next t => some (t.me.pGet 3, t.me.fpend.foldl (fun x e => x ||| e.flags) 0)
  | _ => none

/-- The cause and EINFO of the trap that an instruction raises. -/
def raised (i : Instr) (s : State) : Option (Nat × W64) :=
  match exec i s with
  | .next t => match t.latch.out with
    | .trapped tr => some (tr.cause, tr.info)
    | _ => none
  | _ => none

/-- Integer results worked out from R358-R368: wraps, sign extension, saturation, the corners of DIV, shift counts, fields. -/
theorem test_scalar_integers : ∀ e ∈ ([
    (.add g 3 1 2 2, 0x7FFFFFFFFFFFFFFF, 1, 0, 0x7FFFFFFFFFFFFFFF, 32), (.add g 3 1 2 1, 0x7FFFFFFF, 1, 0, 0xFFFFFFFF80000000, 0),
    (.sub g 3 1 2 0, 0, 1, 0, 0xFFFFFFFFFFFFFFFF, 0), (.sub g 3 1 2 2, 0x8000000000000000, 1, 0, 0x8000000000000000, 32),
    (.mul g 3 1 2 1, 0xFFFFFFFFFFFFFFFF, 0xFFFFFFFFFFFFFFFF, 0, 0, 0), (.mul g 3 1 2 2, 0xFFFFFFFFFFFFFFFF, 0xFFFFFFFFFFFFFFFF, 0, 0xFFFFFFFFFFFFFFFE, 0),
    (.div g 3 1 2 0, 7, 0, 0, 0xFFFFFFFFFFFFFFFF, 2), (.div g 3 1 2 2, 0xFFFFFFFFFFFFFFF9, 2, 0, 0xFFFFFFFFFFFFFFFF, 0),
    (.and g 3 1 2 0, 0xFF, 0x3C, 0, 0x3C, 0), (.or g 3 1 2 0, 0xF0, 0x3C, 0, 0xFC, 0), (.xor g 3 1 2 0, 0xF0, 0x3C, 0, 0xCC, 0),
    (.andn g 3 1 2 0, 0xFF, 0x3C, 0, 0xC3, 0), (.shl g 3 1 2 1, 1, 31, 0, 0xFFFFFFFF80000000, 0), (.shr g 3 1 2 0, 0x8000000000000000, 127, 0, 1, 0),
    (.sar g 3 1 2 0, 0x8000000000000000, 63, 0, 0xFFFFFFFFFFFFFFFF, 0), (.rotr g 3 1 1 3, 1, 9, 0, 0xFFFFFFFF80000000, 0),
    (.min g 3 1 2 0, 0xFFFFFFFFFFFFFFFF, 1, 0, 0xFFFFFFFFFFFFFFFF, 0), (.max g 3 1 2 0, 0xFFFFFFFFFFFFFFFF, 1, 0, 1, 0),
    (.min g 3 1 2 1, 0xFFFFFFFFFFFFFFFF, 1, 0, 1, 0), (.max g 3 1 2 1, 0xFFFFFFFFFFFFFFFF, 1, 0, 0xFFFFFFFFFFFFFFFF, 0),
    (.sel g 3 1 2 8, 5, 6, 0, 6, 0), (.sel g 3 1 2 0, 5, 6, 0, 5, 0), (.clz g 3 1 0 1, 1, 0, 0, 31, 0), (.ctz g 3 1 0 0, 0, 0, 0, 64, 0),
    (.popc g 3 1 0 1, 0xFFFFFFFF00000003, 0, 0, 2, 0), (.extr g 3 1 2 1, 0xF0, 0x404, 0, 0xFFFFFFFFFFFFFFFF, 0),
    (.extr g 3 1 2 0, 0xF0, 0x404, 0, 0xF, 0), (.insr g 3 1 2 0, 5, 0x404, 0xFFFF, 0xFF5F, 0), (.lea g 3 1 2 4, 1, 2, 0, 33, 0),
    (.addi g 3 1 0x3FF, 0, 0, 0, 0xFFFFFFFFFFFFFFFF, 0), (.movi g 3 0x8000, 0, 0, 0, 0xFFFFFFFFFFFF8000, 0)] :
      List (Instr × W64 × W64 × W64 × W64 × W64)),
    g3 e.1 (regs e.2.1 e.2.2.1 e.2.2.2.1) = some e.2.2.2.2 := by
  decide +kernel

/-- A write to G0 is discarded, and a false guard leaves the destination alone (R159, R302). -/
theorem test_discarded_and_guarded :
    g3 (.add g 0 1 2 0) (regs 1 2 9) = some (9, 0) ∧ g3 (.add ⟨1, false⟩ 3 1 2 0) (regs 1 2 9) = some (9, 0) ∧
    g3 (.add ⟨1, true⟩ 3 1 2 0) (regs 1 2 9) = some (3, 0) := by
  decide +kernel

/-- FP32 results: rounding of ties, division by zero, NaNs and signed zeros (R271, R272, R374), and the conversions of R375's table. -/
theorem test_scalar_floats : ∀ e ∈ ([
    (.fadd g 3 1 2 0, 0x3F800000, 0x33800000, 0, 0x3F800000, 16), (.fadd g 3 1 2 1, 0x7F7FFFFF, 0x7F7FFFFF, 0, 0x7F7FFFFF, 20),
    (.fsub g 3 1 2 0, 0x3F800000, 0x3F800000, 0, 0, 0), (.fmul g 3 1 2 0, 0x7F7FFFFF, 0x40000000, 0, 0x7F800000, 20),
    (.ffma g 3 1 2 0, 0x40000000, 0x40400000, 0x3F800000, 0x40E00000, 0), (.fdiv g 3 1 2 0, 0x3F800000, 0x80000000, 0, 0xFF800000, 2),
    (.fsqrt g 3 1 0 0, 0xBF800000, 0, 0, 0x7FC00000, 1), (.fsqrt g 3 1 0 0, 0x40800000, 0, 0, 0x40000000, 0),
    (.fmin g 3 1 2 0, 0, 0x80000000, 0, 0x80000000, 0), (.fmax g 3 1 2 0, 0x7FC00000, 0x3F800000, 0, 0x3F800000, 0),
    (.fmax g 3 1 2 0, 0x7F800001, 0x3F800000, 0, 0x3F800000, 1),
    (.fcvt g 3 1 0 0, 0x5F000000, 0, 0, 0x7FFFFFFFFFFFFFFF, 1), (.fcvt g 3 1 0 3, 0xBF000000, 0, 0, 0, 16),
    (.fcvt g 3 1 0 4, 0x0100000000000001, 0, 0, 0x5B800000, 16), (.fcvt g 3 1 0 8, 0x3F808000, 0, 0, 0x3F80, 16),
    (.fcvt g 3 1 0 10, 0x7F81, 0, 0, 0x7FC00000, 1)] : List (Instr × W64 × W64 × W64 × W64 × W64)),
    g3 e.1 (regs e.2.1 e.2.2.1 e.2.2.2.1) = some e.2.2.2.2 := by
  decide +kernel

/-- Comparisons (R367, R374) and the truth table of R369. -/
theorem test_predicates : ∀ e ∈ ([
    (.cmp g 3 1 2 6, 1, 0xFFFFFFFFFFFFFFFF, true, 0), (.cmp g 3 1 2 2, 1, 0xFFFFFFFFFFFFFFFF, false, 0), (.cmp g 3 1 2 5, 1, 1, true, 0),
    (.fcmp g 3 1 2 1, 0x7FC00000, 0, true, 0), (.fcmp g 3 1 2 2, 0x7FC00000, 0, false, 1), (.fcmp g 3 1 2 0, 0x80000000, 0, true, 0),
    (.plog g 3 0 1 0b0100, 0, 0, true, 0), (.plog g 3 1 0 0b0100, 0, 0, false, 0)] : List (Instr × W64 × W64 × Bool × W64)),
    p3 e.1 (regs e.2.1 e.2.2.1 0) = some e.2.2.2 := by
  decide +kernel

/-- MTS and MFS: AFLAGS keeps six bits, LOOPD-bearing and read-only registers trap, LNKD and XV have limits (R350-R353, R370). -/
theorem test_special_registers :
    raised (.mts g 0x01E 1) (regs 0 0 0) = some (0x19, 0x01E) ∧ raised (.mts g 0x002 1) (regs 0 0 0) = some (0x19, 2) ∧
    raised (.mts g 0x008 1) (regs 16 0 0) = some (0x01, 0) ∧ raised (.eret g) (regs 0 0 0) = some (0x19, 0x1FFF) ∧
    g3 (.mfs g 3 0x033) (regs 0 0 0) = some (64, 0) ∧ g3 (.mfs g 3 0x032) (regs 0 0 0) = some (1, 0) := by
  decide +kernel


/-- Lanes of V4 after an instruction, from `i` on. -/
def v4 (i : Instr) (s : State) (l : Nat) : Option W32 :=
  match exec i s with
  | .next t => some (t.me.lane 4 l)
  | _ => none

/-- V1 holds 10 + l in lane l, V4 holds 7 in every lane, Q1 the even lanes; G1, G2 and G3 as in `regs`. -/
def vecs (a b : W64) : State := box (fun st =>
  { st with g := tlist 0 1 [a, b], v := tlist 0 64 ((List.range 64).map (fun l => BitVec.ofNat 32 (10 + l))) ++ tlist 0 256 (List.replicate 64 7),
            qr := [(1, 0x5555555555555555)] })

/-- The worked values of R409: VEXP2 of 3.25, VRCP of 3.0, VLUT table 0 at 0; integers and powers of two are exact (R406, R407). -/
theorem test_vector_tables :
    (exp2Lane 0x40500000).1 = 0x411837F0 ∧ (rcpLane 0x40400000).1 = 0x3EAAAAAB ∧ (lutLane 0 0).1 = 0x3F000000 ∧ (exp2Lane 0x40A00000).1 = 0x42000000 ∧
    (log2Lane 0x42000000).1 = 0x40A00000 ∧ (rsqLane 0x40800000).1 = 0x3F000000 ∧ rcpLane 0x80000000 = (0xFF800000, 2) := by
  decide +kernel

/-- Masks (R303), lane movement (R417), saturation (R312), conversions (R413) and logic, lane by lane. -/
theorem test_vector_lanes : ∀ e ∈ ([
    (.vadd ⟨1, false⟩ 4 1 1 3, 0, 0, 2, 24), (.vadd ⟨1, false⟩ 4 1 1 3, 0, 0, 3, 7), (.vadd ⟨1, true⟩ 4 1 1 3, 0, 0, 3, 0),
    (.vadd u 4 33 34 5, 0x7FFFFFFF, 1, 0, 0x7FFFFFFF), (.vsub u 4 33 34 6, 1, 2, 0, 0), (.vmul u 4 33 34 3, 0x10000, 0x10000, 0, 0),
    (.vmin u 4 33 34 3, 0xFFFFFFFF, 1, 0, 0xFFFFFFFF), (.vmin u 4 33 34 4, 0xFFFFFFFF, 1, 0, 1), (.vmax u 4 33 34 4, 0xFFFFFFFF, 1, 0, 0xFFFFFFFF),
    (.vabs u 4 33 0 3, 0x80000000, 0, 0, 0x80000000), (.vabs u 4 33 0 5, 0x80000000, 0, 0, 0x7FFFFFFF), (.vneg u 4 33 0 0, 0x3F800000, 0, 0, 0xBF800000),
    (.vfma u 4 33 34 2, 0x4000, 0x4040, 1, 0x40C0), (.vrot u 4 1 1 0, 3, 0, 62, 11), (.vbcast u 4 1 1 0, 65, 0, 7, 11),
    (.vperm u 4 1 33 0, 70, 0, 0, 16), (.viota u 4 0 0 0, 0, 0, 63, 63), (.vsel ⟨1, false⟩ 4 1 33 0, 5, 0, 3, 5), (.vsel ⟨1, false⟩ 4 1 33 0, 5, 0, 4, 14),
    (.vmov u 4 33 0 0, 9, 0, 0, 9), (.vand u 4 33 34 0, 0xF0, 0x3C, 0, 0x30), (.vor u 4 33 34 0, 0xF0, 0x3C, 0, 0xFC), (.vxor u 4 33 34 0, 0xF0, 0x3C, 0, 0xCC),
    (.vshl u 4 33 34 0, 1, 33, 0, 2), (.vshr u 4 33 34 0, 0x80000000, 31, 0, 1), (.vsar u 4 33 34 0, 0x80000000, 31, 0, 0xFFFFFFFF),
    (.vcvt u 4 33 0 1, 0xBFC00000, 0, 0, 0xFFFFFFFF), (.vcvt u 4 33 0 5, 0xFFFFFFFF, 0, 0, 0x4F800000), (.vcvt u 4 33 0 7, 0x3F80, 0, 0, 0x3F800000)] :
      List (Instr × W64 × W64 × Nat × W32)),
    v4 e.1 (vecs e.2.1 e.2.2.1) e.2.2.2.1 = some e.2.2.2.2 := by
  decide +kernel

/-- Reductions and extraction into a G register (R416-R418): the sum of 10 to 73, the least even lane, the count of a mask. -/
theorem test_vector_reductions :
    g3 (.vred u 3 1 0 8) (vecs 0 0) = some (2656, 0) ∧ g3 (.vred ⟨1, false⟩ 3 1 0 10) (vecs 0 0) = some (72, 0) ∧
    g3 (.vext u 3 1 1 0) (vecs 65 0) = some (11, 0) ∧ g3 (.qpopc u 3 1 0 0) (vecs 0 0) = some (32, 0) ∧
    g3 (.vred u 3 33 0 0) (vecs 0x3F800000 0) = some (0x42800000, 0) := by
  decide +kernel

/-- Q3 after a comparison of lanes or a truth table of masks (R410, R411). -/
theorem test_vector_masks :
    (∀ e ∈ ([(.vcmp u 3 1 33 6, 12, 0x3), (.vcmp ⟨1, true⟩ 3 1 33 7, 12, 0x5), (.vcmp u 3 1 33 4, 73, 0x8000000000000000),
      (.qlog u 3 1 0 2, 0, 0xAAAAAAAAAAAAAAAA)] : List (Instr × W64 × W64)),
      (match exec e.1 (vecs e.2.1 0) with | .next t => t.me.qGet 3 | _ => 0) = e.2.2) := by
  decide +kernel

/-- Quantisation to MXINT8 of a block of 2.0 and back is exact; SCALE 0xFF reads as NaN (R270, R415). -/
theorem test_vector_mx :
    (let r := quantMX 5 .rne (List.replicate 32 (val32 0x40000000))
     r.1.length = 32 ∧ dequant 5 r.2 (r.1.getD 31 0) = (0x40000000, 0)) ∧ dequant 5 0xFF 1 = (0x7FC00000, 0) := by
  decide +kernel

/-- Tiles (R161, R419, R420): TCFG of 16 rows of 16 FP32 words; a row goes in and comes back, a row beyond the shape is TCFGU. -/
def tiles : State := box (fun st =>
  { st with g := tlist 0 1 [2, 16], tcfg := [(2, 0x1010)], v := tlist 0 64 ((List.range 64).map (fun l => BitVec.ofNat 32 (10 + l))) })

theorem test_tiles :
    (match exec (.tmovr u 2 1 1 0) tiles with
      | .next t => ((t.me.tBytes 2 (2 * 64 + 4) 4), tget 0 t.me.tst 2)
      | _ => ([], 0)) = ([11, 0, 0, 0], 2) ∧
    raised (.tmovr u 2 1 2 0) tiles = some (0x0E, 5) ∧ raised (.tzero u 3 0 0 0) tiles = some (0x0E, 6) := by
  decide +kernel

/-- EndOfIteration on the 3 x 2 nest of R342's worked example: after the third and the sixth iteration. -/
theorem test_loop_nest :
    endIter 0x1017 0x1020 2 6 0 [(0, 0x0000000300000001), (1, 0x0000000200000002)] =
      ([(0, 0x0000000300000003), (1, 0x0000000200000001)], 2, 0x1017) ∧
    endIter 0x1017 0x1020 2 6 0 [(0, 0x0000000300000001), (1, 0x0000000200000001)] =
      ([(0, 0x0000000300000003), (1, 0x0000000200000000)], 0, 0x1020) := by
  decide +kernel

/-- LOOP 2, G10 of the same example sets the two counters from G10 and G11 (R339). -/
theorem test_loop_setup :
    (match exec (.loop g 2 10 9) (box (fun st => { st with g := [(10, 3), (11, 2)] })) with
      | .next t => (tget 0 t.me.lcnt 0, tget 0 t.me.lcnt 1, t.me.loopd)
      | _ => (0, 0, 0)) = (0x0000000300000003, 0x0000000200000002, 2) := by
  decide +kernel

/-- The targets of transfers: BR by a signed displacement, CALL with its link, BRV on a full, an empty and a mixed mask (R333-R337). -/
theorem test_transfers :
    let at' : State := { (box (fun st => { st with g := [(5, 0x4000)], qr := [(1, 0xFFFFFFFFFFFFFFFF), (2, 0x1)] })) with
      latch := { Latch.empty with addr := 0x10040, len := 5 } }
    let to' := fun (i : Instr) => match exec i at' with
      | .next t => t.latch.target
      | _ => none
    to' (.br g 0x3FFFC0) = some 0x10000 ∧ to' (.bri g 5) = some 0x4000 ∧ to' (.brv g 1 0x10) = some 0x10050 ∧ to' (.brv g 3 0x10) = none ∧
    raised (.brv g 2 0x10) at' = some (0x0B, 2) ∧
    (match exec (.call g 0x40) at' with
      | .next t => (t.latch.target, t.me.lnkd, tget 0 t.me.lnk 0)
      | _ => (none, 0, 0)) = (some 0x10080, 1, 0x10045) := by
  decide +kernel


/-! ### Memory, engines and the machine's own steps -/

/-- LDS and STS: sizes, sign extension, the traps of R164 and R377, the side bank's limit. -/
theorem test_scratchpad :
    let s : State := (regs 0x100 0 0x1122334455667788).modLc 0 (fun c => { c with loc := tlist 0 0x100 [0x80, 0x81, 0x82, 0x83] })
    g3 (.lds g 3 1 2 6) s = some (0xFFFFFFFF83828180, 0) ∧ g3 (.lds g 3 1 2 1) s = some (0x8180, 0) ∧
    (match exec (.sts g 3 1 2 1) s with
      | .next t => (t.lc 0).loc
      | _ => []) = [(0x100, 0x88), (0x101, 0x77), (0x102, 0x82), (0x103, 0x83)] ∧
    raised (.lds g 3 1 63 2) { s with latch := { s.latch with k := some 2 } } = some (4, 0) ∧
    raised (.sts g 3 1 63 0) { s with latch := { s.latch with k := some 0x10FF00 } } = some (7, 69) := by
  decide +kernel

/-- BANKC (R167, R170): lanes 0 and 1 at 0 and 0x800 are in one bank on different lines, at 0 and 0x40 in two banks. -/
theorem test_banks :
    (bankCheck [(0, 0), (1, 0x800)]).map (·.cause) = some 5 ∧ bankCheck [(0, 0), (1, 0x40)] = none ∧ bankCheck [(0, 0), (1, 4)] = none := by
  decide +kernel

/-- The translation of R190's worked example. -/
theorem test_translation :
    let ptr := fun (a : Nat) => leBytes 8 (a + 1)
    let s : State := { State.reset with
      mem := twrite 0 (twrite 0 (twrite 0 [] (0x10000 + 8) (ptr 0x20000)) (0x20000 + 16) (ptr 0x30000)) (0x30000 + 24) (leBytes 8 0x5604C000263) }
    s.walkFrom 0 0x40200C040567 3 0x10000 = .ok 0x5604C040567 0x5604C000263 0x30018 1 ∧ leafCheck 0x5604C000263 1 .write = none ∧
    leafCheck 0x5604C000263 1 .fetch = some (7, 6) := by
  decide +kernel

/-- R180's example at anchor -20: the addends and the cell they end at; a saturated cell stays. -/
theorem test_exact_add :
    xaddQ 0x3FC00000 (-20) = some 0x180000 ∧ xaddQ 0xBE800000 (-20) = some (-0x40000) ∧ xaddQ 0x34800000 (-20) = some 0 ∧
    xaddCell (xaddCell 0 (some 0x180000)) (some (-0x40000)) = 0x140000 ∧ xaddCell (2 ^ 63) (some 1) = 2 ^ 63 ∧
    xaddCell (2 ^ 63 - 1) (some 1) = 2 ^ 63 := by
  decide +kernel

/-- R219's fingerprints, R276's bucket and addend, R103's first key. -/
theorem test_worked_values :
    fletcher (0, 0) [1, 2, 3] = (6, 10) ∧ fletcher (0, 0) [0xFFFFFFFF] = (0, 0) ∧
    skHash (leBytes 8 0 ++ [1, 8] ++ List.replicate 54 0) false 0x7F4A7C14 0 = (158, false) ∧ graphKeyTop 1 = 0xBF58476D1CE4E5B9 ∧
    firingKey (graphKeyTop 1) 0 0 = 0xBF58476D1CE4E5B9 * 0xBF58476D1CE4E5B9 * 0xBF58476D1CE4E5B9 := by
  decide +kernel

/-- The matrix example of R267 and R285: entries of rows 0 and 1, at anchor -10, at -5 and with F = 6, from 1,000, without SKIP and TERM. -/
theorem test_matrix_example :
    let cell : WCell := { slots := [2, 0, 0, 1, 0, 1, 8, 2, 10] ++ List.replicate 8 0, side := 0x00F4007F }
    let f : MmaCfg := { bank := { fmt := 5, bud := 8, kbr := 1, loaded := true }, lim := 8, term := true, skip := true, dual := true, anchor := -10 }
    let a0 := toLanes 5 0 0x7F ([10, 7, 100, 0xFE] ++ List.replicate 28 0)
    let a1 := toLanes 5 0 0x7F ([1, 0, 0, 2] ++ List.replicate 28 0)
    let e := fun (f : MmaCfg) (a : Lanes) (v : BitVec 96) => ((mmaRow f [(0, cell)] [a] [{ v := v, cls := 0 }]).1.getD 0 AccEnt.zero).v
    a0.amag = 119 ∧ e f a0 0 = 93 ∧ e f a1 0 = 12 ∧ e { f with anchor := -5 } a0 0 = 2 ∧ e { f with lim := 6 } a0 0 = 98 ∧ e f a0 1000 = 1093 ∧
    e { f with skip := false, term := false } a0 0 = 93 ∧ e { f with dual := false } a1 0 = 12 := by
  decide +kernel

/-- The arrival record of the copy example (R221): chunks 2, 0, then 1, 3, then 4 to 7, then the completion. -/
theorem test_arrival_record :
    let r : ArRec := { pend := 0x1000, arrv := 1, ipend := 0x1000, iarrv := 1, chunk := 0, w3 := 0x1000000000040000 }
    let s1 := arUpdate (arUpdate r 0x200 0 4) 0x200 0 1
    let s2 := arUpdate (arUpdate s1 0x200 0 2) 0x200 0 8
    let s3 := arUpdate s2 0x800 0 0xF0
    let s4 := arUpdate s3 0 1 0
    (s1.pend, s1.arrv, s1.chunk) = (0xC00, 1, 5) ∧ (s2.pend, s2.chunk) = (0x800, 0xF) ∧ (s3.pend, s3.chunk, s3.w3) = (0, 0xFF, r.w3) ∧
    s4 = { r with w3 := 0x9000000000040000 } := by
  decide +kernel

/-- ARINIT writes both pairs of counts and word 3; a word with other bits is ILLOP, a chunk base not 512-byte aligned ALIGN (R437). -/
theorem test_arinit :
    (match exec (.arinit g 1 2 3 0) (regs 0x40 0x0001000000001000 0x1000000000040000) with
      | .next t => t.arAt 0 0x40
      | _ => arOf []) = { pend := 0x1000, arrv := 1, ipend := 0x1000, iarrv := 1, chunk := 0, w3 := 0x1000000000040000 } ∧
    (raised (.arinit g 1 2 3 0) (regs 0x40 0 0x0000000000100000)).map (·.1) = some 1 ∧
    (raised (.arinit g 1 2 3 0) (regs 0x40 0 0x100)).map (·.1) = some 4 := by
  decide +kernel

/-- Operations of an epilogue program on column 0 (R436): RELUM of a negative X, CLAMP, CVT of -0.3 toward the floor, QOUT. -/
def drain (x : W32) (e : List W32) : State :=
  box id |>.modLc 0 (fun c =>
    { c with ereg := tlist 0 0 e, epi := some { cmd := 0, slot := 0, op := 0, x := [(0, x)], m := [], out := none } })

theorem test_epilogue :
    let col : Instr → State → Option (Bool × W32 × Nat) := fun i s => match exec i s with
      | .next t => (t.lc 0).epi.map (fun (r : EpiRun) => (r.m.contains 0, laneOf (t.lc 0).ereg r 0 |>.get 0, r.op))
      | _ => none
    col (.relum 0 8 0) (drain 0xBF800000 [5]) = some (false, 0, 1) ∧ col (.relum 0 8 0) (drain 0x3F800000 [5]) = some (true, 0x3F800000, 1) ∧
    col (.clamp 0 1 2) (drain 0 [0x40A00000, 0, 0x40000000]) = some (false, 0x40000000, 1) ∧
    col (.cvt 0 8 2) (drain 0xBE99999A [5]) = some (false, 0xBF800000, 1) ∧ col (.cvt 0 8 0) (drain 0xBE99999A [5]) = some (false, 0x80000000, 1) ∧
    (match exec (.qout 8 0 0) (drain 7 []) with
      | .next t => (t.lc 0).epi.bind (fun r => r.out.map (fun o => tget 0 o 0))
      | _ => none) = some 7 := by
  decide +kernel

/-- A step fetches and runs the bundle of an instruction: ADDI of G5 := G0 + 64, NOP, and TRAP, which saves the next address, the code and
enters at TVB (R347, R457). -/
theorem test_step :
    (match step (State.reset.withFetchWord 32 0x58050040) with
      | .next t => ((t.strand 0).gGet 5, (t.strand 0).pc, t.cycle)
      | _ => (0, 0, 0)) = (64, 0x20005, 1) ∧
    (match step (State.reset.withFetchWord 32 0x00000000) with
      | .next t => (t.strand 0).pc
      | _ => 0) = 0x20005 ∧
    (match step (State.reset.withFetchWord 32 0x30000007) with
      | .next t => ((t.strand 0).tm, (t.strand 0).pc, (t.strand 0).epc, (t.strand 0).ecause, (t.strand 0).einfo)
      | _ => (false, 0, 0, 0, 0)) = (true, 0, 0x20005, 0x16, 7) := by
  decide +kernel

/-- The first step of a Kindling, and one whose firmware does not verify (R17). -/
theorem test_kindling :
    (match step State.reset with
      | .next t => (t.power, t.kstat.step)
      | _ => (.off, 0)) = (.kindling, 2) ∧
    (match step { State.reset with env := { Env.standard with fwA := (false, 0), fwB := (true, 1), fuse := 2 } } with
      | .next t => (t.power, t.kstat.err)
      | _ => (.off, 0)) = (.failed, 1) := by
  decide +kernel


/-! ### States that meet the hypotheses of the statements -/

abbrev minI : W64 := 0x8000000000000000
abbrev maxI : W64 := 0x7FFFFFFFFFFFFFFF
abbrev ones : W64 := 0xFFFFFFFFFFFFFFFF

/-- Whether an instruction answers a next state. -/
def goes (i : Instr) (s : State) : Bool := goesOn (exec i s)

/-- The outcome of a step as Bool: what `p` says of the next state. -/
def after (i : Instr) (s : State) (p : State → Bool) : Bool := match exec i s with
  | .next t => p t
  | _ => false

theorem wit_ScalarArithmetic :
    (regs maxI 0 0).runs g ∧ ((regs maxI 0 0).gv 1).toInt + ((regs maxI 0 0).gv 2).toInt < 2 ^ 63 ∧
    2 ^ 63 ≤ ((regs maxI 1 0).gv 1).toInt + ((regs maxI 1 0).gv 2).toInt ∧ ((regs minI ones 0).gv 1).toInt + ((regs minI ones 0).gv 2).toInt < -(2 ^ 63) ∧
    -(2 ^ 63) ≤ ((regs minI 0 0).gv 1).toInt - ((regs minI 0 0).gv 2).toInt ∧ ((regs minI 1 0).gv 1).toInt - ((regs minI 1 0).gv 2).toInt < -(2 ^ 63) ∧
    2 ^ 63 ≤ ((regs maxI ones 0).gv 1).toInt - ((regs maxI ones 0).gv 2).toInt ∧
    (regs 1 0 0).gv 2 = 0 ∧ (regs 1 1 0).gv 2 ≠ 0 ∧ (regs minI ones 0).gv 1 = BitVec.intMin 64 ∧ (regs minI ones 0).gv 2 = BitVec.allOnes 64 ∧
    ¬((regs minI 1 0).gv 1 = BitVec.intMin 64 ∧ (regs minI 1 0).gv 2 = BitVec.allOnes 64) := by
  decide +kernel

theorem wit_LogicAndBits :
    (regs 1 63 0).runs g ∧ (0 : F4).getLsbD 1 = false ∧ (3 : F4).getLsbD 1 = true ∧ (0 : F4).getLsbD 0 = false ∧ (1 : F4).getLsbD 0 = true ∧
    ((regs 0 0 0).gv 1).getLsbD 63 = false ∧ ((regs minI 0 0).gv 1).getLsbD 63 = true := by
  decide +kernel

theorem wit_MinMax : guardOk g = true ∧ gDst 62 = true ∧ (1 : F4).toNat ≤ 1 ∧ ¬(2 : F4).toNat ≤ 1 ∧ (regs minI maxI 0).runs g := by decide +kernel

theorem wit_ComparesAndSelects :
    (regs 1 1 0).runs g ∧ (7 : R6).toNat < 8 ∧ (0 : R6).toNat < 8 ∧ (regs 1 1 0).op.pGet ((0 : F4).toNat % 8) ≠ (0 : F4).getLsbD 3 ∧
    (regs 1 1 0).op.pGet ((8 : F4).toNat % 8) = (8 : F4).getLsbD 3 := by
  decide +kernel

/-- The issuing strand in trap mode. -/
def inTrap (a b d : W64) : State := (regs a b d).onMe (fun st => { st with tm := true })

/-- MFS and MTS: every register number of the clauses lies in its range, and values at the limits. -/
theorem wit_SpecialRegisterReads : (regs 0 0 0).runs g := by decide +kernel

theorem wit_SpecialRegisterWrites :
    (regs 31 0 0).runs g ∧ ((regs 31 0 0).gv 1).toNat < 32 ∧ ((regs 31 0 0).gv 1).toNat ≠ 16 ∧ ((regs 16 0 0).gv 1).toNat = 16 ∧
    32 ≤ ((regs 32 0 0).gv 1).toNat ∧ tcfgOk ((regs 0x102020 0 0).gv 1) = true ∧ tcRows ((regs 0x102020 0 0).gv 1) = 32 ∧
    32 < tcRows ((regs 0x102021 0 0).gv 1) ∧ 4 < tcType ((regs 0x140101 0 0).gv 1) ∧ tcCols ((regs 1 0 0).gv 1) = 0 ∧
    (inTrap 255 0 0).runs g ∧ (inTrap 255 0 0).op.tm = true ∧ ((inTrap 255 0 0).gv 1).toNat < 256 ∧ 256 ≤ ((inTrap 256 0 0).gv 1).toNat ∧
    ((inTrap 16 0 0).gv 1).toNat ≤ 16 ∧ 16 < ((inTrap 17 0 0).gv 1).toNat ∧
    (((inTrap 3 0 0).gv 1) ^^^ (inTrap 3 0 0).status (inTrap 3 0 0).cur (inTrap 3 0 0).op) &&& ~~~6#64 = 0 ∧
    ((inTrap 3 0 0).gv 1).getLsbD 2 = false ∧
    (let s := (inTrap 0 0 0).modCtx 0 (fun c => { c with debug := true })
     ((s.gv 1) ^^^ s.status s.cur s.op) &&& ~~~6#64 ≠ 0 ∧ s.myCtx.debug = true ∧ s.runs g ∧ s.op.tm = true) := by
  decide +kernel

theorem wit_Privilege :
    (regs 4 0 0).runs g ∧ (regs 4 0 0).op.tm = false ∧ (inTrap 4 0 0).op.tm = true ∧ ((inTrap 4 0 0).gv 1).getLsbD 2 = true ∧
    (inTrap 4 0 0).myCtx.debug = false ∧ (regs 4 0 0).myCtx.pager = false := by
  decide +kernel

theorem wit_TrapEntry : ({ cause := 0x19, addr := 0, info := 0 } : Trap).cause ≠ 0x14 ∧ ((regs 0 0 0).strand 0).tm = false := by decide +kernel

theorem wit_TrapKills :
    ((inTrap 0 0 0).ctx (slotOfStrand 0)).used = true ∧ ((inTrap 0 0 0).strand 0).tm = true ∧
    (((inTrap 0 0 0).enterTrap 0 { cause := 0x19, addr := 0, info := 0 } 0).ctx 0).used = false ∧
    (((regs 0 0 0).enterTrap 0 { cause := 0x14, addr := 0, info := 0 } 0).ctx 0).used = false := by
  decide +kernel

/-! Control -/

/-- A strand with `n` return addresses, in a nest of `d` dimensions. -/
def control (n d : Nat) : State := box (fun st => { st with lnkd := n, loopd := d, g := [(1, 3), (2, 2)], qr := [(1, ones), (2, 1)] })

theorem wit_BranchesAndCalls :
    (control 0 0).runs g ∧ (control 0 0).op.qGet (1 : F3).toNat = BitVec.allOnes 64 ∧ (control 0 0).op.qGet (0 : F3).toNat = BitVec.allOnes 64 ∧
    (control 0 0).op.qGet (3 : F3).toNat = 0 ∧ (control 0 0).op.qGet (2 : F3).toNat ≠ BitVec.allOnes 64 ∧ (control 0 0).op.qGet (2 : F3).toNat ≠ 0 ∧
    (control 0 0).op.lnkd = 0 ∧ (control 15 0).op.lnkd ≠ 16 ∧ (control 16 0).op.lnkd = 16 ∧ (control 1 0).op.lnkd ≠ 0 := by
  decide +kernel

theorem wit_Loops :
    (control 0 0).runs g ∧ (control 0 0).op.loopd = 0 ∧ (control 0 0).op.tm = false ∧ (control 0 6).op.loopd ≠ 0 ∧ (inTrap 0 0 0).op.tm = true ∧
    (∀ k, k < (2 : F3).toNat → ((control 0 0).op.gGet ((1 : R6).toNat + k)).toNat % 2 ^ 32 ≠ 0) ∧
    (∃ k, k < (3 : F3).toNat ∧ ((control 0 0).op.gGet ((1 : R6).toNat + k)).toNat % 2 ^ 32 = 0) := by
  decide +kernel

theorem wit_LoopRunsProduct :
    let st : Strand := { Strand.idle with loopd := 2, lcnt := loopLcnt [3, 2] }
    1 ≤ [3, 2].length ∧ [3, 2].length ≤ 6 ∧ (∀ n ∈ [3, 2], 1 ≤ n ∧ n < 2 ^ 32) ∧ st.loopd = [3, 2].length ∧ st.lcnt = loopLcnt [3, 2] ∧
    (1 ≤ 5 ∧ 5 < [3, 2].foldl (· * ·) 1) ∧ 0 + 1 < [3, 2].length := by
  decide +kernel

/-- A scratchpad of G1 for a flag: the first bytes of die 0 hold 5, and G1 names them. -/
def flag (a b : W64) : State := { (regs a b 0) with mem := twrite 0 (regs a b 0).mem 0x40000 (leBytes 8 5) }

/-- Whether a global address translates for an access and names memory. -/
def reaches (s : State) (va n : Nat) (a : Acc) : Bool :=
  match s.reach1 s.myLc va a with
  | (.ok l, u) => (u.hole s.myLc (a != .write) [(l, n)]).isNone
  | _ => false

/-- A pending load of 8 bytes at physical address 0, on an RC page. -/
def acc0 : Access :=
  { op := .load, num := 0, far := false, ahead := [], gid := 0, va := 0, pa := 0, size := 8, cls := 0, scope := 0, kind := 2, data := 0,
    data2 := 0, dst := .none, leaf := 0, sent := false, guess := 0, stale := false }

theorem wit_YieldTrapAndWait :
    (regs 0 0 0).runs g ∧ (inTrap 0 0 0).runs g ∧ (inTrap 0 0 0).op.tm = true ∧ ((flag 0x40001 0).gv 1).toNat % 8 ≠ 0 ∧ ((flag 0x40000 5).gv 1).toNat % 8 = 0 ∧
    reaches (flag 0x40000 5) 0x40000 8 .read = true ∧
    (match exec (.waitf g 1 2) (flag 0x40000 5) with | .next t => t.latch.out | _ => .blocked) = .ok ∧
    (match exec (.waitf g 1 2) (flag 0x40000 6) with | .next t => t.latch.out | _ => .ok) = .blocked ∧
    (let e : Access := { acc0 with op := .xadd 0, va := 0x40000, pa := 0x40000 }
     (match exec (.waitf g 1 2) ((flag 0x40000 5).onMe (fun st => { st with acc := [e] })) with | .next t => t.latch.out | _ => .ok) = .blocked) ∧
    (let far : State := { regs 0x1000000000 5 0 with
      mem := twrite 0 (regs 0 0 0).mem 0x12008 (leBytes 8 (0x2C7 + 9 * 2 ^ 37)), env := { Env.standard with present := [0, 1] } }
     reaches far 0x1000000000 8 .read = true ∧
     (match far.reach1 0 0x1000000000 .read with | (.ok l, u) => u.isFar 0 l | _ => false) = true ∧
     (match exec (.waitf g 1 2) far with | .next t => t.me.acc.length == 1 && t.latch.out == .blocked | _ => false) = true ∧
     (match exec (.waitf g 1 2) (far.onMe (fun st => { st with flagGot := some (0x1000000000, 5) })) with
       | .next t => t.me.flagGot == none && t.latch.out == .ok
       | _ => false) = true) := by
  decide +kernel

/-- An engine command of strand 0 that has faulted and has not been reported. -/
def faulted : Cmd :=
  { id := 0, strand := 0, after := 0, view := View.upTo 0, gid := 0, fkey := 0, kind := .mzero, st := 3, queued := false, snapped := false,
    fault := some { cause := 0x0F, addr := 0, info := 10 + 256 }, reported := false, xv := 0, cix := 0, word := 0, k := 0, a := 0, b := 0, c := 0,
    bank := BankDecl.none, rd1 := Range.empty, rd2 := Range.empty, wr := Range.empty, spart := 0, snap := [], snap2 := [], rows := 0, chunks := 0,
    pos := 0, emitted := 0, dstate := 0, fletA := 0, fletB := 0, match1 := 0, buckets := [], outs := [], vals := [], sat := false }

/-- A graph of one stage with one ORDERED channel in and out of it. -/
def graph1 (out : W64) : Graph :=
  { gid := 0, live := true, order := 0, launch := 1, path := [], parent := none, key := 1, param := 9, hdr := [], stab := [], ctab := [],
    stages := [{ entry := 0x20000, nfire := 4, mins := 1, maxs := 1, pgrp := 0, spri := 0, inmask := 0, outmask := out, sarg := 3 }],
    chans := [{ cap := 2, esz := 16, loc := false, ordered := true, hdie := 0, spaddr := 0, splc := 0 }],
    sst := [{ nextq := 1, ended := 0 }], cst := [{ head := 0, tail := 0, pops := 0, pushes := 0, slots := [] }], dgst := 0, lastProgress := 0,
    reported := false, serial := none, wide := false }

/-- Strand 0's firing belongs to that graph. -/
def firing (out : W64) : State := (regs 0 0 0).modCtx 0 (fun c => { c with graphs := [graph1 out] })

theorem wit_HaltFenceAndFaults :
    (firing 1).runs g ∧
    ((firing 1).myGraph.bind (fun gr => haltChannel gr (firing 1).op.stage ((firing 1).op.opush ||| (firing 1).bundleIo.1)
      ((firing 1).op.opop ||| (firing 1).bundleIo.2))) = some 0 ∧
    ((firing 0).myGraph.bind (fun gr => haltChannel gr (firing 0).op.stage ((firing 0).op.opush ||| (firing 0).bundleIo.1)
      ((firing 0).op.opop ||| (firing 0).bundleIo.2))) = none ∧ (firing 0).holdsRegion = false ∧
    ((firing 0).modLc 0 (fun c => { c with act := true })).holdsRegion = true ∧
    ((firing 0).lc (firing 0).myLc).unreported ((firing 0).cur % 4) (fun _ => true) = none ∧
    ((firing 0).onMe (fun st => { st with aflags := 4, amask := 4 })).me.aflags &&& 4 ≠ 0 ∧
    (((firing 0).modLc 0 (fun c => { c with edt := [faulted] })).lc (firing 0).myLc).unreported 0 (fun _ => true) = some faulted := by
  decide +kernel


theorem wit_ScalarFloat : (regs 0 0 0).runs g ∧ (7 : R6).toNat < 8 ∧ ((regs 0 0 0).gv 1).toNat < 2 ^ 32 := by decide +kernel

theorem wit_Vectors : (vecs 0 0).me.occ = true ∧ ((vecs 0 0).maskQ ⟨1, false⟩).getLsbD 62 = true ∧ ((vecs 0 0).maskQ ⟨1, false⟩).getLsbD 63 = false := by
  decide +kernel

/-- Tiles 2 (16 rows of 16 FP32 words) and 3 (not configured), rows and columns at the shape's edges. -/
theorem wit_TileMoves :
    let s := (regs 15 16 0).onMe (fun st => { st with tcfg := [(2, 0x1010)] })
    s.me.occ = true ∧ (s.gv 1).toNat < tcRows (tget 0 s.op.tcfg (2 : R6).toNat) ∧ tcRows (tget 0 s.op.tcfg (2 : R6).toNat) ≤ (s.gv 2).toNat ∧
    (s.gv 1).toNat < tcCols (tget 0 s.op.tcfg (2 : R6).toNat) ∧ tcCols (tget 0 s.op.tcfg (2 : R6).toNat) ≤ (s.gv 2).toNat ∧
    tcRows (tget 0 s.op.tcfg (2 : R6).toNat) ≠ 0 ∧ tcRows (tget 0 s.op.tcfg (3 : R6).toNat) = 0 := by
  decide +kernel

/-- A logical core with speculation of `n` pages of 4 KiB, a region open where `act` is set. -/
def spec (a : W64) (n : Nat) (act : Bool) : State :=
  ((regs a 0 7).modCtx 0 (fun c => { c with spec := true, specsz := n })).modLc 0 (fun c => { c with act := act })

/-- Scratchpad addresses at the end of the side bank, at the shadow's edge and at the end of the scratchpad, and core control's words. -/
theorem wit_ScratchpadScalar :
    (∀ k ∈ [0, 1, 2, 3], (regs (BitVec.ofNat 64 (0x110000 - 2 ^ k)) 0 0).runs g ∧ ((regs (BitVec.ofNat 64 (0x110000 - 2 ^ k)) 0 0).gv 1 +
      (regs (BitVec.ofNat 64 (0x110000 - 2 ^ k)) 0 0).gv 2).toNat + 2 ^ k ≤ 0x110000 ∧ (0x110000 - 2 ^ k) % 2 ^ k = 0) ∧
    (regs 0 0 0).specS (regs 0 0 0).myLc = 0 ∧ (spec 0xFEFF8 1 true).specS 0 = 0x1000 ∧ 0xFEFF8 + 8 ≤ 0x100000 - 0x1000 ∧ (spec 0xFEFF8 1 true).runs g ∧
    ((spec 0xFEFF8 1 false).lc 0).act = false ∧
    ([0x300000, 0x300008, 0x300010, 0x200000, 0x2001C0] : List W64).all (fun a => goes (.lds g 3 1 2 3) (regs a 0 0)) = true ∧ (7 < 8 ∧ 0x200000 + 64 * 7 = 0x2001C0) ∧
    ((regs 0x2001C0 0 0).lc 0).edt.length < 32 ∧ 32 ≤ (((regs 0x2001C0 0 0).modLc 0 (fun c => { c with edt := List.replicate 32 faulted })).lc 0).edt.length := by
  decide +kernel

theorem wit_LocalMemoryAndCopies :
    ((regs 0 0 0).ctx (slotOf 0)).spec = false ∧ ((spec 0 32 true).lc 0).act = true ∧ (spec 0 32 true).specS 0 = 0x20000 ∧ 0x1FFFF + [1].length ≤ 0x20000 := by
  decide +kernel

/-- Vector accesses that no lane traps: contiguous at the end of the scratchpad, strided by 4, indexed by V1, and in the side bank. -/
theorem wit_ScratchpadVectors :
    let s := vecs 0xFFF00 0
    let c := fun (s : State) (form : Nat) => s.laneCheck true (form == 0) (s.spLanes form 1 2)
    s.runs g ∧ c s 0 = none ∧ c (vecs 0 4) 1 = none ∧ c (vecs 0x10FF00 0) 0 = none ∧ (s.lc s.myLc).act = false ∧ s.myCtx.spec = false ∧
    (let i := (vecs 0 0).onMe (fun st => { st with v := tlist 0 64 ((List.range 64).map (fun l => BitVec.ofNat 32 (4 * l))) })
     i.laneCheck false false (i.spLanes 2 1 1) = none) ∧
    s.laneCheck true true ((s.spLanes 0 1 2).filter (fun e => (s.op.qGet 1).getLsbD e.1)) = none ∧ c (vecs 0 0x800) 1 ≠ none := by
  decide +kernel

theorem wit_TileLoadsAndStores :
    let s := (regs 0 0 0).onMe (fun st => { st with tcfg := [(2, 0x1010), (3, 0x2001)] })
    s.runs g ∧ s.tileCheck false 2 0 = none ∧ s.tileCheck true 2 0 = none ∧ s.tileCheck true 3 0 = none ∧ (s.lc s.myLc).act = false ∧
    tcCols (tget 0 s.op.tcfg 2) * etSize (tcType (tget 0 s.op.tcfg 2)) = 64 ∧ tcCols (tget 0 s.op.tcfg 3) * etSize (tcType (tget 0 s.op.tcfg 3)) = 128 := by
  decide +kernel

theorem wit_ScratchpadTraps :
    (regs 0x110000 0 0).runs g ∧ (regs 0x110000 0 0).myCtx.spec = false ∧ 0x110000 ≤ ((regs 0x110000 0 0).gv 1 + (regs 0x110000 0 0).gv 2).toNat ∧
    ((regs 0x10FFFD 0 0).gv 1 + (regs 0x10FFFD 0 0).gv 2).toNat + 2 ≤ 0x110000 ∧ 0x10FFFD % 2 ≠ 0 ∧
    (vecs 0 4).laneCheck true false ((vecs 0 4).spLanes 1 1 2) = none ∧ bankCheck [(0, 0), (1, 0x800)] ≠ none := by
  decide +kernel

/-! Global memory -/

/-- Memory with page tables: at level 3 entry 0 a table, entry 1 nothing, entry 2 a leaf; under it at level 2 entry 1 a 64 GiB leaf, entry 2
nothing; at level 1 entry 1 a 64 MiB leaf, entry 2 nothing; at level 0 entry 1 a leaf, entry 2 nothing, entry 3 no leaf. -/
def tables : State :=
  let s := regs 0 0 0
  let at' := fun (s : State) (a v : Nat) => { s with mem := twrite 0 s.mem a (leBytes 8 v) }
  let s := { s with mem := [] }
  let s := at' (at' s 0x10000 0x12001) 0x10010 0x207
  let s := at' (at' s 0x12000 0x14001) 0x12008 0x2C7
  let s := at' (at' s 0x14000 0x16001) 0x14008 0x2C7
  at' (at' s 0x16008 0x302C7) 0x16018 0x18001

/-- What the walk of R182 gives for an address in those tables. -/
def walks (va : Nat) (a : Acc) (r : Except Fail Loc) : Bool :=
  decide ((tables.ctx 0).tlb = []) && match (tables.reach1 0 va a).1, r with
    | .ok (.phys p e), .ok (.phys p' e') => p == p' && e == e'
    | .error (.fault c r l v), .error (.fault c' r' l' v') => c == c' && r == r' && l == l' && v == v'
    | _, _ => false

/-- One address for each clause of the walk: no entry at levels 3 to 0, leaves where they may not or must stand, leaves of levels 2, 1, 0. -/
theorem wit_Translation :
    walks (2 ^ 46) .read (.error (.fault 6 0 3 (2 ^ 46))) = true ∧ walks (2 ^ 47) .read (.error (.fault 6 2 3 (2 ^ 47))) = true ∧
    walks (2 ^ 37) .read (.error (.fault 6 0 2 (2 ^ 37))) = true ∧ walks (2 ^ 36 + 5) .write (.ok (.phys 5 0x2C7)) = true ∧
    walks (2 ^ 27) .read (.error (.fault 6 0 1 (2 ^ 27))) = true ∧ walks (2 ^ 26 + 5) .read (.ok (.phys 5 0x2C7)) = true ∧
    walks (2 ^ 17) .read (.error (.fault 6 0 0 (2 ^ 17))) = true ∧ walks (3 * 2 ^ 16) .read (.error (.fault 6 2 0 (3 * 2 ^ 16))) = true ∧
    walks (2 ^ 16 + 0xFFFF) .write (.ok (.phys 0x3FFFF 0x302C7)) = true ∧ tables.paOk 0x10000 8 = true ∧ tables.paOk 0x16018 8 = true := by
  decide +kernel

/-- A context with DET. -/
def det (a b d : W64) : State := (regs a b d).modCtx 0 (fun c => { c with det := true })

/-- Aligned addresses that translate for each access, of every size; buffer record 65,535; each goes on. -/
theorem wit_GlobalScalars :
    let s := regs 0x40000 0x18 7
    let k := fun (n : W32) (s : State) => { s with latch := { s.latch with k := some n } }
    s.runs g ∧ (∀ n ∈ [1, 2, 4, 8], reaches s 0x40000 n .read = true ∧ reaches s 0x40000 n .write = true) ∧ reaches s 0x40000 8 .atomic = true ∧
    ([0, 1, 2, 3, 7] : List F3).all (fun fn => goes (.ldg g 3 1 0 0 fn) s) = true ∧ goes (.stg g 3 1 0 0 3) (det 0x40000 0 7) = true ∧
    goes (.atg g 2 1 0 1 0) (k 5 s) = true ∧ goes (.atg g 62 1 0 1 1) (k 9 (det 0x40000 0 7)) = true := by
  decide +kernel

/-- LBR's records lie at 0xFE000000100000: tables that map them; and an exact-add leaf on a Hearth frame for XADD. -/
def control64 : State :=
  let s := regs 0x40000 0 7
  let at' := fun (s : State) (a v : Nat) => { s with mem := twrite 0 s.mem a (leBytes 8 v) }
  -- level 3 index 0x3F8 for 0xFE000000000000: a table; its entry 0 a table; its entry 0 a table; entry 16 a leaf
  at' (at' (at' (at' s (0x10000 + 8 * 0x3F8) 0x20001) 0x20000 0x22001) 0x22000 0x24001) (0x24000 + 8 * 16) 0x502C7

theorem wit_BufferRecords : reaches control64 0xFE000000100000 8 .read = true ∧ goes (.lbr g 3 2 2 3) control64 = true := by decide +kernel

/-- A 64 MiB exact-add leaf of the first Hearth frame at the virtual address 0x1000000000. -/
def exactAdd : State :=
  let s := regs 0x1000000000 0 0x3F800000
  { s with mem := twrite 0 (twrite 0 s.mem 0x12008 (leBytes 8 0x14001)) 0x14000 (leBytes 8 (0x2E3 + Config.hearthBase)) }

theorem wit_ExactAdd : exactAdd.runs g ∧ reaches exactAdd 0x1000000000 8 .xadd = true ∧ goes (.xadd g 3 1 0 1 0) exactAdd = true := by decide +kernel

/-- Vector accesses of the three forms at addresses that translate; and the traps of a misaligned address, of an address that no table
maps, of a page not writable, and of a frame that names no memory. -/
theorem wit_GlobalVectorsAndTraps :
    let v := fun (a : W64) (k : W32) => (let s := vecs a 0; { s with latch := { s.latch with k := some k } } : State)
    let ok := fun (s : State) (a : Acc) (st : Nat) => match State.reachLanes a s ((List.range 64).map (fun l => (l, 0x40000 + st * l))) with
      | (.ok rs, u) => (u.hole s.myLc (a == .read) (rs.map (fun e => (e.2.2, 4)))).isNone
      | _ => false
    (v 0x40000 8).runs g ∧ ok (v 0x40000 8) .read 4 = true ∧ ok (v 0x40000 8) .write 8 = true ∧ goes (.vldg g 4 1 0 0 0) (v 0x40000 8) = true ∧
    goes (.vstg g 1 1 0 0 1) (v 0x40000 8) = true ∧ 
    (regs 0x40001 0 0).runs g ∧ 0x40001 % 2 ≠ 0 ∧
    (match (regs (2 ^ 46) 0 0).reach1 0 (2 ^ 46) .read with | (.error (.fault 6 0 3 v), _) => v == 2 ^ 46 | _ => false) = true ∧
    (let s := { (regs 0 0 0) with mem := twrite 0 (regs 0 0 0).mem 0x12008 (leBytes 8 (0x203 + 8 * 2 ^ 37)) }
     match s.reach1 0 (2 ^ 36) .fetch with | (.error (.fault 7 6 2 _), _) => true | _ => false) = true ∧
    (let s := { (regs 0x1D00000000 0 0) with mem := twrite 0 (regs 0 0 0).mem 0x12008 (leBytes 8 (0x203 + 2 ^ 36)) }
     match s.reach1 0 0x1D00000000 .read with | (.ok l, u) => (u.hole 0 true [(l, 1)]).isSome | _ => false) = true := by
  decide +kernel

/-- Remote operations of every kind with a tag free and with none, at the limits of their lengths. -/
theorem wit_RemoteOperations :
    let s := fun (k : W32) => (let s := regs 0x1FFFF80 0x100 7; { s with latch := { s.latch with k := some k } } : State)
    let full := fun (k : W32) => { s k with
      txns := (List.range 4096).map (fun t => ⟨0, t, 3, 0, 8, 0, false, true, 0, .rld 0 0, false⟩) }
    (s 127).runs g ∧ 0x1FFFF80 < 2 ^ 51 ∧ 0x1FFFF80 % 128 + 128 ≤ 128 ∧ (s 127).kLit.toNat < 128 ∧ (s 0xFF).kLit.toNat < 256 ∧
    ((s 127).lc 0).die = 0 ∧ (s 127).freeTag 0 = some 0 ∧ goes (.rst g 2 1 0 0 0) (s 255) = true ∧ goes (.rld g 2 1 0 0 0) (s 127) = true ∧
    goes (.rat g 2 1 0 0 0) (s 9) = true ∧ goes (.rat g 62 1 0 0 0) (s 0) = true ∧ (full 0).freeTag 0 = none ∧
    (match exec (.rst g 2 1 0 0 0) (full 255) with | .next t => t.latch.out | _ => .ok) = .stalled ∧
    (match exec (.rld g 2 1 0 0 0) (full 127) with | .next t => t.me.acc.length == 1 && t.me.blk == .after | _ => false) = true ∧
    (match exec (.rat g 2 1 0 0 0) (full 9) with | .next t => t.me.acc.length == 1 && t.me.blk == .after | _ => false) = true := by
  decide +kernel

/-- Accesses that a fence waits for, and none; TINV in trap mode with the PAGER capability, of one page and of all. -/
theorem wit_FencesAndInvalidation :
    let e := acc0
    let s := regs 0x40000 0 0
    let p := (inTrap 0x40000 0 0).modCtx 0 (fun c => { c with pager := true })
    let o := p.modStrand 1 (fun st => { st with acc := [e] })
    let inval := fun (fn : F3) (s : State) (q : State → Bool) => after (.tinv g 0 1 0 0 fn) s (fun t => t.me.blk == .after &&
      after (.globalAccessPerformed 0 ⟨0, 0⟩) t q)
    let again := fun (q : State → Bool) (t : State) => after (.globalAccessPerformed 0 ⟨0, 0⟩) t q
    let other := { p with tags := [⟨0, 1024, 1, 0⟩, ⟨0, 1024, 2, 0⟩] }
    s.runs g ∧ s.fabricIdle s.cur = true ∧ s.me.acc = [] ∧ (∀ x ∈ (s.onMe (fun st => { st with acc := [e] })).me.acc, x.kind = 2) ∧
    (s.onMe (fun st => { st with acc := [{ e with kind := 0 }] })).me.acc ≠ [] ∧ p.runs g ∧ p.op.tm = true ∧ p.myCtx.pager = true ∧
    goes (.cbfence g) s = true ∧ o.runs g ∧ o.me.acc = [] ∧ o.fabricIdle o.cur = true ∧
    p.usesPage 0 none = false ∧ p.usesPage 0 (some 0x40000) = false ∧ o.usesPage 0 none = true ∧ o.usesPage 0 (some 0x40000) = true ∧
    (∀ fn ∈ [0, 1], inval fn p (fun t => t.me.acc.isEmpty) = true ∧
      inval fn o (fun t => t.me.acc.all (·.sent) && (t.strand 1).acc.all (·.stale) && t.staleUse 0 && again (fun u => u == t) t &&
        again (fun u => u.me.acc.isEmpty) (t.modStrand 1 (fun st => { st with acc := [] }))) = true ∧
      inval fn other (fun t => !(t.ctx 0).used) = true ∧
      after (.tinv g 0 1 0 0 fn) (p.onMe (fun st => { st with acc := [e] })) (fun t => after (.globalAccessPerformed 0 ⟨1, 0⟩) t (· == t)) = true) := by
  decide +kernel

theorem wit_GuardFalse : (Instr.add ⟨1, false⟩ 3 1 2 0).guard = some ⟨1, false⟩ ∧ (regs 0 0 0).me.occ = true ∧ (regs 0 0 0).holds ⟨1, false⟩ = false := by
  decide +kernel


/-! Commands of the matrix array, sketches and collectives -/

/-- The K literal of the bundle that runs. -/
def withK (k : W32) (s : State) : State := { s with latch := { s.latch with k := some k } }

/-- Operands and K of a matrix command: bank 0 loaded in format 5 with 8 slots of one K block, epilogue slot 2 loaded. -/
def mx (a b c : W64) (k : W32) : State :=
  withK k ((regs a b c).modLc 0 (fun x => { x with bdecl := [(0, ⟨5, 8, 1, true⟩)], epslot := [2] }))

/-- Every slot of the dependency table is taken. -/
def full (s : State) : State := s.modLc 0 (fun c => { c with edt := List.replicate 32 faulted })

/-- Whether the instruction blocks the bundle that runs. -/
def blocks (i : Instr) (s : State) : Bool := match exec i s with
  | .next t => t.latch.out == .blocked
  | _ => false

/-- MMA at the ends of the scratchpad and of the side bank; MDRAIN of 32 rows; the ends of MZERO's range; MACCLD, MLOADW and EPLOAD at the
ends of theirs; the table full; and an MMA against a bank not loaded, of another format, of too many slots, an MDRAIN past row 32, of raw
entries and with a slot not loaded. -/
theorem wit_MatrixCommands :
    let s := mx 0xFFFFFFFE0 1 0xFFFE0 0x855
    s.runs g ∧ (s.gv 1).toNat < 2 ^ 36 ∧ (s.gv 3).toNat % 32 = 0 ∧ (s.gv 3).toNat < 0x100000 ∧
    s.kLit.toNat % 16 = (tget BankDecl.none (s.lc s.myLc).bdecl (s.kLit.toNat / 2 ^ 20 % 8)).fmt ∧ s.kLit.toNat / 256 % 32 = 8 ∧
    (s.gv 1).toNat % 2 ^ 20 + 32 = 0x100000 ∧ (s.gv 1).toNat / 2 ^ 20 % 2 ^ 16 + 1 = 0x10000 ∧
    (s.lc s.myLc).edt.length < 32 ∧ (full s).runs g ∧ 32 ≤ ((full s).lc (full s).myLc).edt.length ∧
    goes (.mma g 1 2 3 1) s = true ∧ blocks (.mma g 1 2 3 1) (full s) = true ∧ raised (.mma g 1 2 3 1) s = none ∧
    (let d := mx 0xF8000 0 0 0x187C0
     d.kLit.toNat / 64 % 32 + 1 = 32 ∧ (d.gv 1).toNat % 2 ^ 20 + 32 * 512 ≤ 0x100000 ∧ blocks (.mdrain g 1 0 0 0) (full (mx 0xF8000 0 0 0x7C0)) = true ∧
     goes (.mdrain g 1 0 0 0) (mx 0xF8000 0 0 0x7C0) = true ∧ raised (.mdrain g 1 0 0 0) (mx 0xF8000 0 0 0x7C0) = none ∧
     raised (.mdrain g 1 0 0 0) (mx 0 0 0 0x1840) = none ∧ raised (.mdrain g 1 2 0 0) (mx 0 0x10FFF0 0 0) = none) ∧
    ((mx (-512) 0 0 0).gv 1).toInt = -512 ∧ ((mx 511 0 0 0).gv 1).toInt = 511 ∧ 511 < ((mx 512 0 0 0).gv 1).toInt ∧
    ((mx (-513) 0 0 0).gv 1).toInt < -512 ∧ raised (.mzero g 1 0 0 0) (mx 512 0 0 0) = some (0x0D, 512) ∧
    raised (.maccld g 1 2 0 0) (mx 0xFF800 1 0 0) = none ∧ raised (.maccld g 1 2 3 4) (mx 0xF0000 32 0x20 0) = none ∧
    raised (.mloadw g 1 2 0 0) (mx 0xFFFF0 0xF1067 0 0) = none ∧ raised (.mloadw g 1 2 0 0) (mx 0x10 0x100 0 0) = none ∧
    raised (.epload g 1 0 0 7) (mx 0x20 0 0 0) = none ∧ blocks (.epload g 1 2 0 0) (full (mx 0x20 0x40 0 0)) = true ∧
    raised (.mma g 1 2 3 0) (mx 0 1 0 0x100055) = some (0x0C, 2) ∧ raised (.mma g 1 2 3 0) (mx 0 1 0 0x66) = some (0x0C, 3) ∧
    raised (.mma g 1 2 3 0) (mx 0 1 0 0x955) = some (0x0C, 4) ∧ raised (.mdrain g 1 0 0 0) (mx 0 0 0 0x407C0) = some (0x0C, 1) ∧
    raised (.mdrain g 1 0 0 0) (mx 0 0 0 0x1820) = some (0x0C, 2) ∧ raised (.mdrain g 1 0 0 0) (mx 0 0 0 0x800) = some (0x0C, 3) := by
  decide +kernel

/-- Sketch commands that end where the scratchpad ends, of one key and of 16,384; a COLL on the descriptor 0x40000, and none. -/
theorem wit_SketchesAndCollectives :
    let s := regs 0x40000 0xFFFFC000FFFF8 1
    s.runs g ∧ (s.gv 2).toNat / 2 ^ 20 % 2 ^ 12 = 0 ∧ (s.gv 2).toNat < 2 ^ 52 ∧ (s.gv 2).toNat % 2 ^ 20 + 8 ≤ 0x100000 ∧
    (s.gv 2).toNat / 2 ^ 32 % 2 ^ 20 + 4 ≤ 0x100000 ∧ raised (.skupd g 1 2 3 1) s = none ∧ blocks (.skupd g 1 2 3 1) (full s) = true ∧
    raised (.skupd g 1 2 3 0) (regs 0x40000 0xF0000000F0000 16384) = none ∧
    raised (.skqry g 1 2 3 1) (regs 0x40000 0x3FFF000E0000 0xF0000) = none ∧ (0xE0000 : Nat) + 8 * 0x4000 = 0x100000 ∧
    raised (.skadd g 1 2 0 0) (regs 0x40000 0x80 0) = none ∧ raised (.skclr g 1 0 0 0) s = none ∧ raised (.coll g 1 0 0 0) s = none ∧
    (regs 0x40000 31 0).runs g ∧ ((regs 0x40000 31 0).gv 2).toNat < 32 ∧ raised (.csig g 1 2 0 0) (regs 0x40000 31 0) = some (0x13, 1) ∧
    (let t := (regs 0x40000 31 0).modLc 0 (fun c => { c with edt := [{ faulted with kind := .coll, a := 0x40000 }] })
     ((t.lc t.myLc).edt.find? (fun k => k.kind == .coll && k.a == t.gv 1)).isSome = true ∧ raised (.csig g 1 2 0 0) t = none) := by
  decide +kernel

/-- The last record of the scratchpad, one below the shadow of a region, PHASE set; updates that complete a count, that do not and that
underflow. -/
theorem wit_ArrivalRecords :
    let s := regs 0xFFFE0 0xFFFFFFFFFFFFFFFF 0x1FF0000000080000
    let r : ArRec := ⟨5, 1, 0xFFFFFFFFFFFF, 0xFFFF, 0, 0⟩
    s.runs g ∧ s.specS s.myLc = 0 ∧ (s.gv 3).toNat / 2 ^ 61 % 4 = 0 ∧ (s.gv 3).toNat / 2 ^ 20 % 2 ^ 40 ≠ 0 ∧
    ((regs 0xFFFE0 ones 0x1000000000080000).gv 3).toNat / 2 ^ 20 % 2 ^ 40 = 0 ∧ ((regs 0xFFFE0 ones 0x1000000000080000).gv 3).toNat % 512 = 0 ∧
    (spec 0xFEFE0 1 true).runs g ∧ 0xFEFE0 + 32 ≤ 0x100000 - (spec 0xFEFE0 1 true).specS 0 ∧
    (s.lc s.myLc).unreported (s.cur % 4) (fun _ => true) = none ∧ blocks (.arwait g 1 0 0 0) s = true ∧ blocks (.arwait g 1 0 0 1) s = false ∧
    goes (.arrive g 1 0 0 0) s = true ∧ goes (.efence g 0 0 0 0) s = true ∧
    blocks (.efence g 0 0 0 0) (s.modLc 0 (fun c => { c with edt := [{ faulted with fault := none }] })) = true ∧
    ((s.modLc 0 (fun c => { c with edt := [{ faulted with fault := none }] })).lc s.myLc).unreported 0 (fun _ => true) = none ∧
    (¬(5 = 0 ∧ 1 = 0) ∧ r.pend ≤ 5 ∧ r.arrv ≤ 1) ∧ 4 < r.pend ∧ r.pend < 2 ^ 48 ∧ r.ipend < 2 ^ 48 ∧ r.iarrv < 2 ^ 16 ∧ r.arrv < 2 ^ 16 ∧
    (arUpdate r 6 1 0).w3 = 0xC000000000000000 := by
  decide +kernel

/-- A firing of `q` of a graph whose one channel, ORDERED or not, is an input and an output; `n` of its two slots are published. -/
def chan (ord : Bool) (n : Nat) (a b : W64) : State :=
  let g1 := graph1 1
  let g2 : Graph := { g1 with
    stages := g1.stages.map (fun d => { d with inmask := 1 }),
    chans := g1.chans.map (fun d => { d with ordered := ord }),
    cst := [{ head := 0, tail := n, pops := 0, pushes := n, slots := (List.range n).map (fun k => (k, .published k [])) }] }
  (regs a b 0).modCtx 0 (fun c => { c with graphs := [g2] })

/-- Indices 63 and 64, a channel in neither mask; entries at the end of the scratchpad; a channel with a slot free, full and empty; an
input channel that can get no entry any more. -/
theorem wit_Channels :
    raised (.qpush g 1 2 0 0) (chan true 0 64 0) = some (0x01, 22) ∧ raised (.qpush g 1 2 0 0) (chan true 0 63 0) = some (0x13, 63 * 256) ∧
    raised (.qpop g 1 2 0 0) (chan true 0 63 0) = some (0x13, 63 * 256) ∧ raised (.qtry g 1 0 0 1) (chan true 0 63 0) = some (0x13, 7 + 63 * 256) ∧
    ((chan true 0 0 0).myCtx.graph? (chan true 0 0 0).me.gid).isSome = true ∧ (0xFFFF0 : Nat) + (graph1 1).esz 0 = 0x100000 ∧
    ((chan true 0 0 0).myCtx.graph? 0).map (fun gr => (gr.pushOk 0 0, gr.popOk 0 0, gr.popHopeless 0)) = some (true, false, false) ∧
    ((chan true 1 0 0).myCtx.graph? 0).map (fun gr => (gr.pushOk 0 0, gr.popOk 0 0, gr.popHopeless 0)) = some (false, true, false) ∧
    ((chan false 2 0 0).myCtx.graph? 0).map (fun gr => (gr.pushOk 0 0, gr.popOk 0 0, gr.popHopeless 0)) = some (false, true, false) ∧
    blocks (.qpush g 1 2 0 0) (chan true 0 0 0xFFFF0) = false ∧ raised (.qpush g 1 2 0 0) (chan true 0 0 0xFFFF0) = none ∧
    blocks (.qpush g 1 2 0 0) (chan false 2 0 0xFFFF0) = true ∧ blocks (.qpop g 1 2 0 0) (chan true 0 0 0xFFFF0) = true ∧
    raised (.qpop g 1 2 0 0) (chan true 1 0 0xFFFF0) = none ∧ raised (.qtry g 1 0 0 15) (chan true 1 0 0) = none ∧
    (let gr := graph1 1
     0 < gr.cst.length ∧ gr.pushOk 0 0 = true ∧ 1 ≤ gr.cap 0 ∧ gr.isOrdered 0 = true ∧ (gr.chrec 0).head % gr.cap 0 = 0 % gr.cap 0) := by
  decide +kernel


/-! Launches, barriers, speculation, epilogue -/

/-- Bytes of a physical range set. -/
def put (a : Nat) (bs : List Byte) (s : State) : State := { s with mem := twrite 0 s.mem a bs }

/-- A graph descriptor at 0x40000 of one stage with NFIRE 1 and no channels, entered at 0x20000. -/
def descriptor (s : State) : State :=
  put 0x40000 (leBytes 4 0x4C475244 ++ [1, 0, 0, 0] ++ leBytes 8 0x40040 ++ List.replicate 48 0 ++ leBytes 8 0x20000 ++ leBytes 4 1 ++ [1, 0, 1, 0]) s

/-- LAUNCH of that descriptor; at depths 6 and 7, with 65,535 and 65,536 children, with a pending child and none. -/
theorem wit_ChildLaunch :
    let s := descriptor ((firing 0).modStrand 0 (fun st => { st with g := tlist 0 1 [0x40000, 5], depth := 6, nchild := 65535 }))
    s.runs g ∧ s.op.depth ≠ 7 ∧ s.op.nchild < 65536 ∧ (s.modStrand 0 (fun st => { st with depth := 7 })).op.depth = 7 ∧
    (s.myCtx.graphs.filter (fun h => !h.live)).length < 256 ∧ s.op.acc = [] ∧ s.latch.calm = true ∧
    ¬({ s with latch := { s.latch with calm := false } } : State).latch.calm = true ∧ (s.gv 1).toNat % 64 = 0 ∧
    (s.myCtx.graph? s.me.gid).isSome = true ∧
    (match (s.beforeBundle.readGraph s.mySlot 0x40000).1 with
      | .ok d => (((s.readGraph s.mySlot 0x40000).2.graphCheck s.mySlot d).isNone && (s.readGraph s.mySlot 0x40000).2.hearthRoom d.chans)
      | _ => false) = true ∧
    (match exec (.launch g 1 2 0 0) s with
      | .next t => ((t.ctx 0).graphs.map (·.live), t.me.nchild)
      | _ => ([], 0)) = ([true, false], 65536) := by
  decide +kernel

/-- A context of two logical cores, whose group 255 holds both; the bits of that group's barrier and the strand's part in it. -/
def barrier (n : Nat) (bits : List Nat) (b : List BarMark) : State :=
  ((regs (BitVec.ofNat 64 n) 0 0).modCtx 0 (fun c => { c with nlc := 2, groups := [(255, [0, 1]), (254, [1])], gbar := tset [] [] n bits })).onMe
    (fun st => { st with gbar := b })

theorem wit_BarriersAndCheckpoints :
    (barrier 255 [] []).runs g ∧ ((barrier 255 [] []).gv 1).toNat < 256 ∧ 0 ∈ tget [] (barrier 255 [] []).myCtx.groups 255 ∧
    0 ∉ tget [] (barrier 254 [] []).myCtx.groups 254 ∧ raised (.gbar g 1 0 0 0) (barrier 254 [] []) = some (0x13, 3) ∧
    (barrier 255 [] []).op.drained = true ∧ (barrier 255 [] []).latch.calm = true ∧
    blocks (.gbar g 1 0 0 0) (barrier 255 [] []) = true ∧ blocks (.gbar g 1 0 0 0) (barrier 255 [1] []) = false ∧
    raised (.gbar g 1 0 0 0) (barrier 0 [1] []) = none ∧ 0 ∈ List.range (barrier 0 [1] []).myCtx.nlc ∧
    blocks (.gbar g 1 0 0 0) (barrier 255 [0] [⟨255, false, false⟩]) = true ∧ blocks (.gbar g 1 0 0 0) (barrier 255 [] [⟨255, true, false⟩]) = false ∧
    (det 65535 0 0).runs g ∧ ((det 65535 0 0).gv 1).toNat < 65536 ∧ (det 65535 0 0).myCtx.det = true ∧ (regs 65535 0 0).myCtx.det = false ∧
    (∀ h ∈ (det 65535 0 0).myCtx.graphs, h.serial = none) ∧ blocks (.dgst g 1 0 0 0) (det 65535 0 0) = true ∧
    blocks (.dgst g 1 0 0 0) ((det 65535 0 0).onMe (fun st => { st with dgstGo := true })) = false := by
  decide +kernel

/-- Regions closed and open, the opener the strand's firing and another; an engine command in the range. -/
theorem wit_SpeculationRegions :
    let busy := fun (s : State) => s.modLc 0 (fun c => { c with edt := [{ faulted with rd1 := { start := 0xFFF, len := 1, sstart := 0, slen := 0 } }] })
    let own := (spec 0 1 true).modLc 0 (fun c => { c with opener := (spec 0 1 true).me.fkey })
    let other := (spec 0 1 true).modLc 0 (fun c => { c with opener := (spec 0 1 true).me.fkey + 1 })
    (regs 0 0 0).runs g ∧ (regs 0 0 0).myCtx.spec = false ∧ (spec 0 1 false).myCtx.spec = true ∧ (spec 0 1 false).runs g ∧
    ((spec 0 1 false).lc 0).act = false ∧ (own.lc 0).act = true ∧ (own.lc 0).opener = own.me.fkey ∧ ¬(other.lc 0).opener = other.me.fkey ∧
    raised (.specb g 0 0 0 0) own = some (0x15, 0) ∧ raised (.specc g 0 0 0 0) other = some (0x15, 0) ∧ raised (.specc g 0 0 0 0) own = none ∧
    blocks (.specb g 0 0 0 0) (busy (spec 0 1 false)) = true ∧ blocks (.specb g 0 0 0 0) (spec 0 1 false) = false ∧
    blocks (.speca g 0 0 0 0) (busy own) = true ∧ raised (.speca g 0 0 0 0) own = none ∧ own.specS own.myLc ≤ 0x20000 := by
  decide +kernel

theorem wit_EpilogueOperations :
    let s := drain 0 []
    let r : EpiRun := { cmd := 0, slot := 0, op := 0, x := [(0, 0)], m := [], out := none }
    (s.lc s.myLc).epi = some { r with x := [(0, 0)] } ∧ r.out = none ∧ (s.lc s.myLc).core ≠ none ∧ (s.lc s.myLc).mstop = false ∧
    ((s.modLc 0 (fun c => { c with epi := some { r with op := 15 } })).lc 0).epi = some { r with op := 15 } := by
  decide +kernel

/-! The package -/

/-- The package after a Kindling, with the 17 monitored lines of the host's command area. -/
def ready : State :=
  { (regs 0 0 0) with
    power := .ready
    lines := (List.range 17).map (fun i => { addr := 0x1000 + 64 * i, seq := 0, owner := none, inval := true }) }

theorem wit_PowerAndReset :
    ({ ready with power := .off }).power = .off ∧ ({ ready with power := .inReset }).power = .inReset ∧ ready.power ≠ .off ∧
    State.reset.power = .kindling ∧ State.reset.agenda = [] ∧ State.reset.env.kindleMs ≤ 45000 ∧
    ({ State.reset with env := { Env.standard with kindleMs := 45000 } }).env.kindleMs ≤ 45000 ∧
    (let s := { State.reset with cycle := 45 * 1250000000 }
     s.since + 45 * 1250000000 ≤ s.cycle ∧ (match step { s with cycle := s.cycle + 1 } with | .next t => t.kstat.err | _ => 0) = 7) ∧
    after .packageResetRelease { ready with power := .inReset, env := { Env.standard with holdLost := true } } (fun t => t.kstat.cold) = true ∧ State.reset.kstat.step = 1 ∧
    (∀ k ∈ [2, 3, 5, 6, 7], ({ State.reset with kstat := { State.reset.kstat with step := k } }).kstat.step = k) ∧
    State.reset.env.phyOk = true ∧ ({ State.reset.env with phyOk := false }).phyOk = false := by
  decide +kernel

theorem wit_HardwareFaults :
    ready.power = .ready ∧ 7 < 8 ∧ 151 < 152 ∧ (7 * 152 + 151) ∉ ready.retired ∧ tget 0 ready.busy (0 * 152 + 0) = 0 + 1 ∧
    ready.hbmBit = false ∧ ({ ready with hbmBit := true }).hbmBit = true ∧ 3 < ready.ablum.length ∧ ready.ablum.getD 3 0 ≠ 0 ∧
    ready.ablum.getD 3 0 ≠ 8 ∧ (ready.ctx 0).used = true ∧ (ready.strand 3).occ = false ∧ (ready.strand 0).occ = true ∧ 0 = 0 / 4 / 4096 ∧
    1760 ≤ (1760 : W16).toInt ∧ 1600 < (1601 : W16).toInt ∧ (1551 : W16).toInt < 1552 ∧ (7, 510) ∉ ready.throttled ∧
    (7, 510) ∈ ({ ready with throttled := [(7, 510)] }).throttled ∧ ready.power ≠ .off ∧ ready.power ≠ .inReset ∧
    (match exec (.coreRetirement 0 0) ready with
      | .next t => ((t.ctx 0).used, t.retired)
      | _ => (true, [])) = (false, [0]) ∧
    ready.errorAt (.engine 0 0) 5 = none ∧
    (let q : State := { ready with inbox := [(0, { zeroFlit with typ := 1, src := 8, len := 7, addr := 0 })] }
     q.errorAt (.engine 0 0) 5 = some 0 ∧ after (.uncorrectableError (.engine 0 0) 5) q (fun t => (t.ctx 0).used && t.inbox.isEmpty) = true) ∧
    (match exec (.uncorrectableError (.engine 0 0) 5) ready with
      | .next t => (t.ctx 0).used
      | _ => true) = false := by
  decide +kernel

/-- A line whose SEQ differs and one whose SEQ does not; a log control line that is valid and one that is not; a held event with the log's
last entry free and with none free. -/
theorem wit_HostMemoryAndLines :
    let line := fun (i : Nat) (bs : List Byte) => put (2 ^ 51 + 0x1000 + 64 * i) bs ready
    let e : Event := { seq := 64, typ := 1, ctxid := 0, status := 0, ovw := false, src := 0, tag := 0, result := 0, info0 := 0, info1 := 0, time := 0 }
    let log := fun (c : Nat) => ({ ready with arb := { Arbiter.reset with held := [e], logBase := 0x2000, logEnt := 6, logOn := true, consumed := c } } : State)
    ready.power ≠ .off ∧ ready.power ≠ .inReset ∧ ready.env.pkgNo < 1536 ∧ ready.lines[15]?.isSome = true ∧ ready.lines[16]?.isSome = true ∧
    (ready.lines[15]?.map (·.inval)) = some true ∧ ready.taking = true ∧ fld ((line 15 [1]).pread (2 ^ 51 + 0x13C0) 64) 0 8 = 1 ∧
    fld (ready.pread (2 ^ 51 + 0x13C0) 64) 0 8 = 0 ∧ (ready.hostMap 0).isSome = true ∧ ready.hostMap (Config.hbmSize) = none ∧
    (2 ^ 48 - 1) + 1 ≤ 2 ^ 48 ∧
    (match exec (.monitoredLineInvalidate 16) (line 16 (leBytes 8 0x2000 ++ [20])) with
      | .next t => t.arb.logOn
      | _ => false) = true ∧
    (match exec (.monitoredLineInvalidate 16) (line 16 (leBytes 8 0x2000 ++ [21])) with
      | .next t => t.arb.logOn
      | _ => true) = false ∧
    (log 0).arb.logOn = true ∧ 64 ≤ (log 0).arb.consumed + 2 ^ 6 ∧ (log 0).arb.waiting = [] ∧ (log 0).arb.consumed + 2 ^ 6 < 65 ∧
    ({ e with seq := 65 }).typ ≠ 10 ∧
    (match exec .eventLogWrite (log 0) with
      | .next t => t.arb.written
      | _ => 0) = 64 := by
  decide +kernel

/-- A command record with an opcode, a CTXID and three arguments, its TAG 9. -/
def record (opc id a0 a1 a2 : Nat) : CmdRec :=
  { owner := none, amid := false, bytes := leBytes 8 1 ++ [BitVec.ofNat 8 opc, 0] ++ leBytes 2 id ++ leBytes 4 0 ++ leBytes 8 a0 ++ leBytes 8 a1 ++ leBytes 8 a2 ++
    leBytes 8 9 ++ List.replicate 16 0 }

/-- The queue holds one record. -/
def queued (r : CmdRec) (s : State) : State := { s with cmdQ := [r] }

/-- The status and the result with which a command completes. -/
def completes (i : Instr) (s : State) : Option (Nat × Nat) := match exec i s with
  | .next t => (t.arb.held ++ t.arb.waiting).find? (fun e => e.typ == 1) |>.map (fun e => (e.status, e.result))
  | _ => none

/-- A context descriptor at 0x48000: the tables of context 0, one logical core, priority 64, an empty group table at 0x50000. -/
def ctxDescriptor (s : State) : State :=
  put 0x48000 (leBytes 8 0x10000 ++ leBytes 2 1 ++ [64, 0] ++ List.replicate 4 0 ++ leBytes 8 0x50000) s

/-- Records that are malformed, misplaced, and in order, of each command; contexts that are and are not there; statuses as R64 gives them. -/
theorem wit_HostCommands :
    recReserved (record 0 0 0 0 0).bytes = true ∧ recReserved (record 9 0 0 0 0).bytes = true ∧ recReserved (record 8 0 3 0 0).bytes = false ∧
    ready.recMisplaced { record 3 0 0 0 0 with owner := some 0 } = true ∧ ready.recMisplaced (record 3 0 0 0 0) = false ∧
    ready.slotOfId 64 = some 0 ∧ ready.slotOfId 0 = none ∧ ready.slotOfId 127 = none ∧ (queued (record 3 64 0 0 0) ready).turnOf 0 (record 3 64 0 0 0) = true ∧
    (let f := ready.modCtx 0 (fun c => { c with freezeRec := some (record 4 64 0 0 0) })
     let r := fun (opc a0 : Nat) => { record opc 64 a0 0 0 with amid := true }
     let q : State := { f with cmdQ := [r 2 0x40000, r 3 0, r 6 0] }
     q.mustWait (r 2 0x40000) = true ∧ q.turnOf 0 (r 2 0x40000) = false ∧ q.turnOf 1 (r 3 0) = true ∧
     q.turnOf 2 (r 6 0) = false ∧ after (.kill 2) q (· == q) = true) ∧
    completes (.setprio 0) (queued (record 9 0 0 0 0) ready) = some (1, 0) ∧ completes (.kill 0) (queued (record 6 0 0 0 0) ready) = some (2, 0) ∧
    completes (.create 0) (queued (record 1 0 0x48000 0 0) (ctxDescriptor ready)) = some (0, 65) ∧
    completes (.create 0) (queued (record 1 0 (2 ^ 52 - 1) 0 0) ready) = some (4, 0) ∧
    completes (.resume 0) (queued (record 5 0 0 0 0) ready) = some (4, 0) ∧
    completes (.launchRecord 0) (queued (record 2 64 0x40000 7 0xFFFFFFFF) (descriptor ready)) = some (0, 0xFFFFFFFF) ∧
    completes (.launchRecord 0) (queued (record 2 64 0x40000 7 1) (descriptor (firing 0))) = some (5, 0) ∧
    completes (.setprio 0) (queued (record 3 64 127 0 0) ready) = some (0, 0) ∧
    completes (.freeze 0) (queued (record 4 64 (3 * 2 ^ 50) 0xEE6B280000 (2 ^ 33)) ready) = none ∧
    (∃ o, ready.place (3 * 2 ^ 50) = .tier o) ∧ (3 * 2 ^ 50) % 2 ^ 50 + 0xEE6B280000 ≤ 0xEE6B280000 ∧ (ready.ctx 0).coll = none ∧
    completes (.freeze 0) (queued { record 4 64 0 0 0 with amid := true } (ready.modCtx 0 (fun c => { c with freezeRec := some (record 4 64 0 0 0) }))) = some (5, 0) ∧
    completes (.kill 0) (queued (record 6 64 5 0 0) ready) = some (0, 0) ∧
    completes (.dirtysnap 0) (queued (record 7 64 (2 ^ 51) 15 0) ready) = some (7, 0) ∧ (ready.ctx 0).dirtyBytes.length = 16 ∧
    completes (.dirtysnap 0) (queued (record 7 64 (2 ^ 51 + 2 ^ 48 - 16) 16 0) ready) = some (0, 16) := by
  and_intros <;> first | decide +kernel | exact ⟨0, by decide +kernel⟩

/-- The bytes of the image of an idle context that are not zero, its header and its directory, with their offsets. -/
def imagePairs : List (Nat × Byte) :=
  [(0, 76), (1, 77), (2, 75), (3, 67), (4, 84), (5, 88), (6, 73), (7, 77), (10, 1), (13, 1), (17, 179), (18, 4), (24, 161), (25, 193), (26, 178),
   (27, 144), (28, 97), (29, 27), (30, 138), (31, 176), (32, 1), (42, 1), (81, 1), (89, 169), (90, 4), (97, 177), (98, 4), (105, 178), (106, 4),
   (113, 178), (114, 4), (257, 2), (265, 167), (266, 4)]

/-- The image's first 272 bytes. -/
def imageHead : List Byte := tread 0 imagePairs 0 272

/-- An idle context, and its image in the second tier. -/
def frozen : State :=
  let s := ready.modStrand 0 (fun _ => Strand.idle)
  { s with mem := s.mem ++ imagePairs.map (fun e => (3 * 2 ^ 50 + e.1, e.2)) }

theorem frozen_image : frozen.readImage (3 * 2 ^ 50) = some (imageHead ++ List.replicate (4 * 76924) 0#8) :=
  State.readImage_zeros _ _ 68 _ 2427634081 520813454 _ (by decide +kernel) (by decide +kernel) (by decide +kernel) (by decide +kernel) (by decide +kernel)
    (by decide +kernel) (by decide +kernel) (by decide +kernel) (by decide +kernel) (by decide +kernel) (by decide +kernel)

/-- What that image holds. -/
def frozenBody : ImageBody := ImageBody.mk [] [] [] [(idleLCore, List.replicate 4 Strand.idle)] [] []

theorem frozen_body : readBody (imageHead ++ List.replicate (4 * 76924) 0#8) frozen.cycle = some frozenBody := by
  have hl : imageHead.length = 272 := by decide +kernel
  have f : ∀ n k v, n + k ≤ 272 → fld imageHead n k = v → fld (imageHead ++ List.replicate (4 * 76924) 0#8) n k = v :=
    fun n k v h e => by rw [fld_append_left _ _ _ _ (by omega), e]
  exact readBody_idle _ (slice imageHead 256 16) _ _ rfl (by rw [List.length_append, List.length_replicate, hl])
    (imgPart_head _ _ _ _ (by omega)) (fun a n h hz => imgPart_tail _ _ _ _ (by omega) (by omega))
    (f _ _ _ (by decide) (by decide +kernel)) (f _ _ _ (by decide) (by decide +kernel)) (f _ _ _ (by decide) (by decide +kernel))
    (f _ _ _ (by decide) (by decide +kernel)) (f _ _ _ (by decide) (by decide +kernel)) (f _ _ _ (by decide) (by decide +kernel))
    (by decide +kernel) (by decide +kernel)

/-- The context of that image. -/
def frozenCtx : Ctx := ctxOfImage imageHead [] (tget 1 frozen.gens 1) frozen.cycle frozenBody

/-- The state in which it is installed. -/
def thawed : State :=
  let s := frozen.setCtx 1 frozenCtx
  ({ s with tags := (s.retagAll 1 frozenCtx.ptroot).getD [] } : State).modCtx 1 (fun d => { d with known := s.knownOf frozenCtx.ptroot })

/-- A RESUME that completes. -/
theorem wit_Resume : ∃ u, frozen.resumeCtx (3 * 2 ^ 50) 0 = .ok (u, 1) := by
  refine ⟨(thawed.claim 1 []).install 1 frozenBody none, ?_⟩
  rw [State.resumeCtx_plain frozen (frozen.setCtx 1 frozenCtx) thawed (3 * 2 ^ 50) 1 _ frozenBody frozenCtx
    (((frozen.setCtx 1 frozenCtx).retagAll 1 frozenCtx.ptroot).getD []) (by decide +kernel) (by decide +kernel) frozen_image frozen_body
    (by decide +kernel) (by decide +kernel) rfl (by decide +kernel) (ctxOfImage_append _ _ _ _ _ _ (by decide +kernel)) rfl (by decide +kernel)
    (by decide +kernel) rfl]
  rw [State.orNoSwap, if_neg (by decide +kernel)]

/-- The four queries, to host memory, to a place without memory, and of a context that is not there. -/
theorem wit_HostQueries :
    completes (.queryDevinfo 0) (queued (record 8 0 0 0 (2 ^ 51 + 0x4000)) ready) = some (0, 256) ∧
    completes (.queryDevinfo 0) (queued (record 8 0 0 0 (2 ^ 51 + 2 ^ 48 - 255)) ready) = some (4, 0) ∧
    completes (.queryCtxstate 0) (queued (record 8 0 1 0 (2 ^ 51)) ready) = some (2, 0) ∧
    completes (.queryCtxstate 0) (queued (record 8 0 1 64 (2 ^ 51)) ready) = some (0, 64) ∧
    completes (.queryAttest 0) (queued (record 8 0 2 (2 ^ 51 + 0x40) (2 ^ 51 + 0x4000)) ready) = some (0, 448) ∧
    completes (.queryAttest 0) (queued (record 8 0 2 (2 ^ 51 + 2 ^ 48 - 31) (2 ^ 51 + 0x4000)) ready) = some (4, 0) ∧
    completes (.queryLogstat 0) (queued (record 8 0 3 0 (2 ^ 51 + 0x4000)) ready) = some (0, 32) := by
  decide +kernel


/-! The fabric -/

/-- A flit of die 0 to an address, with a payload of 8 bytes. -/
def toward (typ op addr : Nat) : Flit := { zeroFlit with typ := typ, len := 7, op := op, addr := addr, payload := leBytes 8 5 }

/-- A flit waiting at die 0 for the package ring, clockwise. -/
def waiting1 (f : Flit) (refused : Bool) : Waiting :=
  { node := .die 0, ring := .package, cw := true, flit := f, inj := .die 0, since := 0, recovered := false, refused := refused, due := 0 }

/-- A flit at an exit node. -/
def leaving (d : Nat) (f : Flit) : AtExit := { node := .die d, inj := .die 0, ring := .package, cw := true, flit := f }

/-- A damaged flit under recovery on link 0, of NAK kind `k`. -/
def damaged (k : Nat) : Recovery :=
  let f := toward 1 0 (2 ^ 37)
  { link := 0, seq := 0, inj := .die 0, ring := .package, cw := true, sent := f, bytes := damage ((flitBytes f 0 (ready.ackField 0)).take 152) [(150, 9)],
    par := [], kind := k, naked := true, parSent := false, repeatAt := some 0, fails := 0, field := ready.ackField 0,
    sentField := ready.ackField 0 }

/-- A field with ACKSEQ `a`, NAKSEQ 5 and NAK `k`, its CHK right where `ok`. -/
def fieldOf (a k : Nat) (ok : Bool) : Nat :=
  let body := a * 2 ^ 40 + 5 * 2 ^ 16 + k * 2 ^ 13
  body + (crc8 ((leBytes 8 body).drop 1).reverse + if ok then 0 else 1) % 256

/-- Flits that wait, are refused, stand at their exit node, are on link 0, come from outside, and are under recovery. -/
theorem wit_FabricAndLinks :
    let f := toward 1 0 (2 ^ 37 + 0x100)
    let w := waiting1 f false
    let s : State := { ready with waitq := [w, waiting1 f true], exits := [leaving 1 f, leaving 1 { f with pass := true, rcnt := 15 }],
                                  wires := [{ link := 0, seq := 0, ack := ready.ackField 0, inj := .die 0, ring := .package, cw := true, flit := f }],
                                  recov := [damaged 1, damaged 3] }
    let e := linkFrom (.die 0) .package true
    s.canGo w = true ∧ s.linkRoom e = true ∧ linkTo e ≠ none ∧ linkTo (linkFrom (.station 0) (.rack 0) true) = none ∧
    after (.flitInject 0) { s with waitq := [w] } (fun t => t.waitq.isEmpty && t.wires.length == 2) = true ∧
    (waiting1 f true).due ≤ s.cycle ∧ after (.refusedFlitRetry 1) s (fun t => t.waitq.all (fun v => !v.refused)) = true ∧
    after (.flitAtExitNode 0 true false) s (fun t => t.inbox.length == 1) = true ∧ s.way (.die 1) (flitTarget f) = .arrived ∧
    (match s.way (.die 0) (flitTarget f) with | .ring _ _ => true | _ => false) = true ∧
    ¬(f.typ = 2 ∨ f.typ = 4 ∨ f.typ = 6 ∨ f.typ = 8) ∧ f.rcnt < 4 ∧
    after (.flitAtExitNode 1 false false) s (fun t => t.wires.any (fun v => v.flit.ref && v.flit.rcnt == 15)) = true ∧
    s.isExit (linkEnd 0) .package f = true ∧ after (.linkFlitReceive (.wire 0) []) s (fun t => t.exits.length == 3) = true ∧
    crcOk ((damage (flitBytes f 0 (s.ackField 0)) [(0, 1)]).take 152) ((damage (flitBytes f 0 (s.ackField 0)) [(0, 1)]).drop 152) = false ∧
    after (.linkFlitReceive (.wire 0) [(0, 1)]) { s with recov := [] } (fun t => t.recov.length == 1 && t.exits.length == 2) = true ∧
    s.linkUp 55 = false ∧ s.linkUp 52 = true ∧ s.isExit (.station (44 % 4)) (inboundRing 44).1 (toward 1 0 (7 * 2 ^ 37)) = true ∧
    (let o : State := { s with links := [(24, { Link.fresh with replay := [(5, f, leBytes 8 0)] })] }
     let from' := fun (ack : Nat) (p : State → Bool) => after (.linkFlitReceive (.outside 44 (toward 1 0 (7 * 2 ^ 37)) ack) []) o (fun t => t.exits.length == 3 && p t)
     o.linkUp 44 = true ∧ oppLink 44 = 24 ∧ crc8 ((leBytes 8 (fieldOf 5 0 true)).drop 1).reverse = fieldOf 5 0 true % 256 ∧
     (5 + 2 ^ 24 - 5) % 2 ^ 24 < 2 ^ 23 ∧ 2 ^ 23 ≤ (4 + 2 ^ 24 - 5) % 2 ^ 24 ∧ bitsOf (fieldOf 4 3 true) 63 40 = 4 ∧
     bitsOf (fieldOf 4 3 true) 39 16 = 5 ∧ bitsOf (fieldOf 4 3 true) 15 13 = 3 ∧
     crc8 ((leBytes 8 (fieldOf 5 0 false)).drop 1).reverse ≠ fieldOf 5 0 false % 256 ∧
     from' (fieldOf 5 0 true) (fun t => (t.linkAt 24).replay.isEmpty && t.outside.isEmpty) = true ∧
     from' (fieldOf 4 3 true) (fun t => t.outside == [(24, f)]) = true ∧ from' (fieldOf 5 0 false) (fun t => t.linkAt 24 == o.linkAt 24) = true) ∧
    after (.nakReceived 0) s (fun t => (t.recov.head?.map (·.parSent)) == some true) = true ∧
    after (.nakReceived 1) s (fun t => t.wires.length == 2) = true ∧
    after (.nakRepeatTimeout 0) s (fun t => (t.recov.head?.map (·.repeatAt)) == some none) = true ∧
    (let c : State := { s with links := [(52, { Link.fresh with retrain := true })] }
     c.linkUp 52 = false ∧ s.gatewayRole (52 % 4) = true ∧ after (.linkRetrainDone 52 true) c (fun t => t.linkUp 52 && t.lanesBit) = true) ∧
    after (.segmentFailure 23) s (fun t => (t.linkAt 23).down) = true ∧ after (.segmentFailure 0) s (fun t => t.wires.all (fun v => v.link != 0 && v.link != oppLink 0)) = true ∧
    (let c : State := { s with cycle := 1250000, links := [(e, { Link.fresh with down := true }), (linkFrom (.die 0) .package false, { Link.fresh with down := true })] }
     c.linkUp e = false ∧ c.linkUp (linkFrom (.die 0) .package false) = false ∧ w.since + 1250000 ≤ c.cycle ∧
     after (.unreachTimeout 0) c (fun t => t.inbox.length == 1) = true ∧
     after (.unreachTimeout 0) { c with waitq := [waiting1 { f with typ := 7 } false] } (fun t => !(t.ctx 0).used) = true) := by
  decide +kernel

/-- A flit under recovery whose damage is in the acknowledgement field: with its first parity its bytes decode and pass their check. -/
theorem wit_Parity :
    let b := (flitBytes (damaged 1).sent 0 (ready.ackField 0)).take 152
    let r : Recovery := { damaged 1 with bytes := b, naked := false, parSent := true }
    let par := r.par ++ parity (flitBytes r.sent r.seq r.sentField) (if r.kind = 1 then 0 else 16) 16
    r.parSent = true ∧ rsDecode r.bytes par = some b ∧ crcOk b r.field = true := by
  refine ⟨rfl, ?_, by decide +kernel⟩
  rw [← rsDecode_clean _ 16]
  simp [parity, damaged, List.map_take, List.take_take]

/-- Requests at die 0 and responses at their requester, of each kind. -/
theorem wit_RemoteMessages :
    let got := fun (f : Flit) => ({ ready with inbox := [(0, f)] } : State)
    let a := 0x1BFFFFFFF8
    let bare := fun (f : Flit) (p : TxnFor) (e : Access) =>
      ({ got f with txns := [⟨0, f.tag, f.typ - 1, 0, 8, 0, false, true, 0, p, false⟩] } : State).modStrand 0 (fun st => { st with acc := [e] })
    let acc : Access := { acc0 with dst := .g 62 true, sent := true, far := true }
    let ends := fun (f : Flit) (p : TxnFor) => bare { f with payload := leBytes 8 9 } p acc
    (∀ f ∈ [toward 1 0 0, toward 3 0 0, toward 5 0 0], ready.senderAcc f = none) ∧
    ((bare (toward 3 0 0x100) (.access 0 0) acc).senderAcc (toward 3 0 0x100) = none ∨ (bare (toward 3 0 0x100) (.access 0 0) acc).owed 0 acc = false) ∧
    (∀ u, ready.txnOf (toward 1 0 0) = some u → ready.mayInject u = true) ∧ a / 2 ^ 37 = ready.env.pkgNo * 8 + 0 ∧ a % 2 ^ 37 < 0x1FFFFFF000 ∧
    (got (toward 1 0 0)).paOk 0x100 8 = true ∧ (got (toward 1 0 0)).paOk a 9 = false ∧
    after (.rstAtTarget 0) (got { toward 1 1 0x100 with fv := true, flag := 2 ^ 23 - 1 }) (fun t => t.mem != ready.mem) = true ∧
    after (.rstAtTarget 0) (got (toward 1 2 0x100)) (fun t => t.mem == ready.mem) = true ∧
    after (.rldAtTarget ⟨0, 0⟩) (got (toward 3 0 0x100)) (fun t => t.inbox.map (fun e => e.2.op) == [0]) = true ∧
    after (.rldAtTarget ⟨0, 0⟩) (got (toward 3 0 0x1FFFFFEFFF)) (fun t => t.inbox.map (fun e => e.2.op) == [2]) = true ∧
    (let b : State := { got (toward 3 0 0x100) with bad := [0] }
     b.spoilt 0x100 8 = true ∧ ready.spoilt 0x100 8 = false ∧ after (.rldAtTarget ⟨0, 0⟩) b (fun t => t.inbox.map (fun e => e.2.op) == [1]) = true ∧
     after (.ratAtTarget 0) { got (toward 5 0 0x100) with bad := [0] } (fun t => t.inbox.map (fun e => e.2.op) == [1] && t.mem == ready.mem) = true ∧
     after (.ratAtTarget 0) (got (toward 5 0 0x1FFFFFEFF8)) (fun t => t.inbox.map (fun e => e.2.op) == [2]) = true) ∧
    ([0, 1, 2, 3, 4, 5, 6, 7, 8, 9, 10, 15] : List Nat).all (fun n => after (.ratAtTarget 0) (got (toward 5 n 0x100)) (fun t => t.inbox.length == 1)) = true ∧
    after (.ratAtTarget 0) (got { toward 5 0 0x100 with len := 15, payload := leBytes 16 (2 ^ 63 - 1) }) (fun t => t.inbox.length == 1) = true ∧
    after (.rstack 0) (ends (toward 2 0 0) (.rst 0 0)) (fun t => t.txns.isEmpty) = true ∧
    after (.rstack 0) (ends (toward 2 0 0) (.access 0 0)) (fun t => t.me.acc.isEmpty) = true ∧
    after (.rlddata 0) (ends (toward 4 0 0) (.rld 0 0xFFFF8)) (fun t => tget 0 (t.lc 0).loc 0xFFFF8 == 9) = true ∧
    after (.rlddata 0) (ends (toward 4 0 0) (.access 0 0)) (fun t => t.me.gGet 62 == 9) = true ∧
    after (.ratdata 0) (ends (toward 6 0 0) (.rat 0 62)) (fun t => t.me.gGet 62 == 9) = true ∧
    after (.ratdata 0) (ends (toward 6 2 0) (.rat 0 62)) (fun t => !(t.ctx 0).used) = true ∧
    after (.ratdata 0) (bare { toward 6 0 0 with payload := leBytes 8 9 } (.access 0 0) { acc with op := .atomic 0, dst := .g 62 false })
      (fun t => t.me.gGet 62 == 9 && t.me.acc.isEmpty) = true ∧ (ends (toward 2 0 0) (.rst 0 0)).outq = [] ∧
    after (.rstack 0) (got (toward 2 0 0)) (fun t => t.inbox.isEmpty) = true ∧ after (.mgmt 0) (got (toward 9 0 0)) (fun t => t.inbox.isEmpty) = true := by
  intro got a bare acc ends
  refine ⟨by decide +kernel, by decide +kernel, fun u h => by rw [show ready.txnOf (toward 1 0 0) = none by decide +kernel] at h; exact absurd h (by simp), ?_⟩
  decide +kernel


/-! Scheduling -/

/-- Two logical cores: 0 resident with nothing to run, 1 not resident with a firing. -/
def crowded : State :=
  let s := (ready.modStrand 0 (fun _ => Strand.idle)).modCtx 0 (fun c => { c with nlc := 2 })
  (s.setLc 1 { LCore.none with used := true }).setStrand 4 { Strand.idle with occ := true }

/-- The strand of logical core 0 that issues is `i`. -/
def issuer' (i : Option Nat) (s : State) : State := s.modLc 0 (fun c => { c with issuing := i })

/-- A pending load of 8 bytes. -/
def load8 : Access :=
  { acc0 with va := 0x40000, pa := 0x40000, dst := .g 62 true }

theorem wit_Scheduling :
    let at' := fun (c : Nat) (s : State) => ({ s with cycle := c } : State)
    let st := fun (f : Strand → Strand) => ready.modStrand 0 f
    let gbar := put 0x20000 (0x40 :: leBytes 4 (encode (.gbar g 0 0 0 0)).toNat) (st (fun k => { k with blk := .before, gbar := [⟨0, false, false⟩] }))
    tget 0 ready.nextReb 7 ≤ ready.cycle ∧ after (.rebalance 7) ready (fun t => tget 0 t.nextReb 7 == 2500) = true ∧
    (ready.lc 0).core ≠ none ∧ (ready.lc 0).grantedAt + 250000 ≤ (at' 250000 ready).cycle ∧ (at' 249999 ready).cycle < 250000 ∧
    crowded.active 0 = true ∧ crowded.mustYield 0 = true ∧ crowded.stopPoint 0 = true ∧ crowded.runnable 0 = false ∧ (crowded.lc 0).core ≠ none ∧
    after (.residencySwap 0) crowded (fun t => (t.lc 1).core == some 0 && (t.lc 0).core == none) = true ∧
    1 ∈ crowded.lcKeys 0 ∧ crowded.waits 1 = true ∧ (crowded.ctx 0).used = true ∧ (crowded.ctx 0).agingFrom + 12500000 ≤ (at' 12500000 crowded).cycle ∧
    ((firing 0).ctx 0).graph? 0 = some (graph1 0) ∧ (graph1 0).live = true ∧ ((graph1 0).stageS 0).ended < (graph1 0).nfire 0 ∧
    (graph1 0).reported = false ∧ (graph1 0).lastProgress + 125000000 ≤ 125000000 ∧
    after (.deadlockTimeout 0 0) (at' 125000000 (firing 0)) (fun t => !(t.arb.held ++ t.arb.waiting).isEmpty) = true ∧
    ready.env.damperK.getD 0 10 ≠ 80 ∧ tget 0 ready.damper 0 ≤ 10000 ∧ 1250 ≤ tget 0 ready.damper 0 + 10 * 125 ∧
    ({ ready.env with damperK := [80] }).damperK.getD 0 10 = 80 ∧ (at' 1249 ready).cycle < tget 0 ready.damperAt 0 + 1250 ∧
    after (.damperWindow 0 700) { at' 1250 ready with rowSteps := [(0, 900)] } (fun t =>
      tget 0 t.damper 0 == 700 && tget 0 t.damperAt 0 == 1250 && tget 0 t.rowSteps 0 == 200) = true ∧
    after (.damperWindow 0 700) (at' 1250 ready) (fun t => tget 0 t.damper 0 == 0 && tget 0 t.damperAt 0 == 1250) = true ∧
    after (.strandSwitch 0) (st (fun k => { k with blk := .yielded })) (fun t =>
      (t.strand 0).blk == .ready && (t.lc 0).issuing == some 0 && t.cycle == 2) = true ∧
    (issuer' none ready).mayRun 0 = true ∧ ((issuer' none ready).strand 0).blk = .ready ∧ ((issuer' none ready).lc 0).issuing = none ∧
    after (.strandSwitch 0) (issuer' none ready) (fun t => (t.lc 0).issuing == some 0 && t.cycle == 2) = true ∧
    (st (fun k => { k with blk := .before })).wouldBlock 0 = false ∧ (st (fun k => { k with blk := .before })).mayRun 0 = true ∧
    (gbar.strand 0).blk = .before ∧ gbar.wouldBlock 0 = true ∧
    (st (fun k => { k with blk := .after })).resultsIn 0 = true ∧ (st (fun k => { k with blk := .after, acc := [load8] })).resultsIn 0 = false ∧
    ((st (fun k => { k with blk := .after })).lc 0).stopping = false ∧
    after (.strandReady 0) (st (fun k => { k with blk := .after, late := some { cause := 0x16, addr := 0, info := 7 } })) (fun t => (t.strand 0).tm) = true := by
  decide +kernel

/-- A graph with `n` of its four firings ended. -/
def ended (n : Nat) (p : Option Nat) : Graph := { graph1 0 with sst := [{ nextq := n, ended := n }], parent := p }

/-- A pending child of that graph, of one stage with one slot. -/
def child1 : Graph := { graph1 0 with gid := 1, live := false, parent := some 0, path := [(0, 0, 0)] }

/-- The graphs of context 0. -/
def graphs (gs : List Graph) : State := ready.modCtx 0 (fun c => { c with graphs := gs })

theorem wit_FiringsAndGraphs :
    let s := (graphs [ended 3 none]).modStrand 1 (fun _ => { Strand.idle with assign := some (0, 0), reserved := true })
    let e := (graphs [ended 3 none]).modStrand 0 (fun k => { k with blk := .halted })
    (s.strand 1).occ = false ∧ (s.strand 1).assign = some (0, 0) ∧ (s.ctx 0).serialGraph = none ∧ (s.lc 0).core ≠ none ∧ s.mayRun 1 = true ∧
    (s.ctx 0).graph? 0 = some (ended 3 none) ∧ (ended 3 none).sst[0]? = some { nextq := 3, ended := 3 } ∧ 3 < 4 ∧
    after (.firingStart 1) s (fun t => (t.strand 1).occ && (t.strand 1).gGet 3 == 3) = true ∧
    (let two := s.modStrand 2 (fun _ => { Strand.idle with assign := some (0, 0) })
     after (.firingStart 2) two (· == two) = true ∧ after (.firingStart 1) two (fun t => (t.strand 1).occ && (t.strand 2).assign == none) = true) ∧
    after (.firingEnd 0) (e.modLc 0 (fun c => { c with edt := [{ faulted with reported := true }] })) (fun t => !(t.ctx 0).used) = true ∧
    (e.strand 0).occ = true ∧ (e.strand 0).blk = .halted ∧ e.mayRun 0 = true ∧ e.resultsIn 0 = true ∧ (e.lc 0).edt = [] ∧
    after (.firingEnd 0) e (fun t => !(t.strand 0).occ) = true ∧
    (ended 4 none).allEnded = true ∧ (ended 4 none).serial = none ∧ (graphs [ended 4 none]).graphStores 0 0 = false ∧
    after (.graphEnd 0 0) (graphs [ended 4 none]) (fun t => (t.ctx 0).graphs.isEmpty && !(t.arb.held ++ t.arb.waiting).isEmpty) = true ∧
    after (.graphEnd 0 1) (graphs [ended 3 none, { ended 4 (some 0) with gid := 1 }]) (fun t => (t.ctx 0).graphs.length == 1) = true ∧
    (let c := graphs [ended 3 none, child1]
     c.active 0 = true ∧ (c.ctx 0).waiting.head? = some child1 ∧ (c.reserveSlots 0 child1.stages).isSome = true ∧
     after (.childInstantiate 0 1) c (fun t => (t.ctx 0).graphs.all (·.live)) = true) ∧
    (let r : Chan := { head := 0, tail := 1, pops := 0, pushes := 0, slots := [(0, .reserved 0 0 [1])] }
     let p := graphs [{ graph1 1 with cst := [r] }]
     let l := graphs [{ graph1 1 with cst := [r], chans := [{ cap := 2, esz := 16, loc := true, ordered := true, hdie := 0, spaddr := 0xFFFE0, splc := 0 }] }]
     r.slot 0 = .reserved 0 0 [1] ∧ p.settled 0 = true ∧ (p.modStrand 0 (fun k => { k with acc := [{ load8 with kind := 0 }] })).settled 0 = false ∧
     after (.channelPublish 0 0 0 0) p (fun t => t != p) = true ∧
     after (.channelPublish 0 0 0 0) l (fun t => tget 0 (t.lc 0).loc 0xFFFE0 == 1) = true) := by
  decide +kernel

/-- A pre-emption of context 0 for a FREEZE with time-out at cycle 100, the instances `w` still to acknowledge, its image to go to the
second tier with room for `n` bytes and the flags `f`. -/
def stopping (w : List StopInst) (n f : Nat) : State :=
  ready.modCtx 0 (fun c => { c with coll := some { cause := .freeze 100, waiting := w }, freezeRec := some (record 4 0 (3 * 2 ^ 50) n f) })

theorem wit_Preemption :
    let acks := fun (i : StopInst) => after (.engineStopAck 0 i 0) (stopping [i] 0 0) (fun t => ((t.ctx 0).coll.map (·.waiting)) == some [])
    (acks (.hearth 7) && acks (.bte 0) && acks (.strands 0) && acks (.matrix 0) && acks (.sketch 0) && acks (.bellows 0) && acks (.fabric 0)) = true ∧
    (∀ t ∈ [0, 1, 2, 3], (stopping [.strands 0] 0 0).strandAtPoint t = true ∧ ((stopping [.strands 0] 0 0).strand t).blk ≠ .after) ∧
    ((stopping [.strands 0] 0 0).modStrand 0 (fun k => { k with acc := [load8] })).strandAtPoint 0 = false ∧
    after (.engineStopAck 0 (.bte 0) 0) (stopping [.bte 0, .strands 0] 0 0) (fun t => ((t.ctx 0).coll.map (·.waiting.length)) == some 2) = true ∧
    (let u : State := { stopping [.bte 0] 0 0 with txns := [⟨0, 0, 1, 0, 8, 0, false, false, 0, .bte 0 0 8, false⟩] }
     after (.engineStopAck 0 (.bte 0) 0) u (· == u) = true) ∧
    ((stopping [] 0 0).lc 0).epi = none ∧ (stopping [] 0 0).bellowsAtPoint 0 0 = true ∧ (stopping [] 0 0).txns = [] ∧
    after (.freezeTimeout 0) { stopping [.hearth 0] 0 0 with cycle := 100 } (fun t => (t.ctx 0).coll.isNone) = true ∧
    after (.freezeTimeout 0) { stopping [.hearth 0] 0 0 with cycle := 99 } (fun t => (t.ctx 0).coll.isSome) = true ∧
    ((stopping [] 0 0).ctx 0).serialImg = [] ∧
    (let s := fun (n f : Nat) => (stopping [] n f).modCtx 0 (fun c => { c with nlc := 0 })
     0 < ((s 0 0).image 0).length ∧ ((s 0x10000 0).image 0).length ≤ 0x10000 ∧ (0 : Nat) % 2 = 0 ∧ (1 : Nat) % 2 = 1 ∧
     completes (.preemptionComplete 0) (s 0 0) = some (7, ((s 0 0).image 0).length) ∧
     after (.preemptionComplete 0) (s 0x10000 1) (fun t => !(t.ctx 0).used) = true ∧
     after (.preemptionComplete 0) (s 0x10000 0) (fun t => (t.ctx 0).used) = true) := by
  decide +kernel

/-- All of a graph's firings at checkpoint 0 but those that have ended: its last firing waits, is let go, and has issued its DGST beside an
entry to compare that agrees, one that differs, one to record. -/
theorem wit_DigestCheckpoints :
    let s := fun (b : Blk) (v f : Nat) => put 0x40000 (leBytes 8 v ++ leBytes 8 f) (((graphs [ended 3 none]).modCtx 0 (fun c =>
      { c with det := true, dgsttab := 0x40000 })).modStrand 0 (fun k => { k with blk := b, dgst := some 0, dgstAt := 0x20040 }))
    let w := s .before 0 0
    let q := s .after
    let fam := (w.ctx 0).family 0
    w.active 0 = true ∧ (w.ctx 0).serialGraph = none ∧ (w.ctx 0).det = true ∧ (w.ctx 0).graph? 0 = some (ended 3 none) ∧
    w.dgstReady 0 0 0 fam = true ∧ w.dgstForms 0 0 0 fam = false ∧ ((q 0 0).dgstIssued 0 0 fam) = [0] ∧ (q 0 0).dgstForms 0 0 0 fam = true ∧
    after (.dgstCheckpoint 0 0 0) w (fun t => (t.strand 0).dgstGo && (t.strand 0).blk == .ready) = true ∧
    (w.modStrand 1 (fun _ => { Strand.idle with occ := true, gid := 0 })).dgstReady 0 0 1 fam = false ∧
    (match (q 5 1).vread 0 0x40000 16 with | (.ok bs, _) => fld bs 0 8 == 5 && fld bs 8 1 == 1 | _ => false) = true ∧
    ((q 0 0).dgstSum 0 0 fam).toNat = 0 ∧
    after (.dgstCheckpoint 0 0 0) (q 0 0) (fun t => (t.strand 0).dgst.isNone && (t.ctx 0).dgstidx == 1) = true ∧
    after (.dgstCheckpoint 0 0 0) (q 5 1) (fun t => (t.strand 0).dgst.isNone && t.mem != (q 5 1).mem) = true ∧
    after (.dgstCheckpoint 0 0 0) (q 5 0) (fun t => (t.ctx 0).coll.isSome && (t.strand 0).ecause == 0x11 && (t.strand 0).pc == 0x20040) = true := by
  decide +kernel

/-- Pending accesses of every kind: performed, at the ends of what they reach, and held back. -/
theorem wit_GlobalAccesses :
    let s := fun (e : Access) => ready.modStrand 0 (fun k => { k with acc := [e] })
    let p := fun (e : Access) (f : State → Bool) => after (.globalAccessPerformed 0 ⟨0, 0⟩) (s e) (fun t => t.me.acc.isEmpty && f t)
    let sends := fun (e : Access) (n : Nat) => after (.globalAccessPerformed 0 ⟨0, 0⟩) (s { e with far := true, pa := 9 * 2 ^ 37 })
      (fun t => t.me.acc.map (·.sent) == [true] && t.txns.map (·.typ) == [n])
    let a : Access := { load8 with dst := .none, data := 7, data2 := 9, pa := 0x1BFFFFFFF8 }
    let c : Cmd := { faulted with kind := .coll, fault := none }
    (s load8).mayGo 0 0 load8 = true ∧ 0x40000 / 2 ^ 37 / 8 = ready.env.pkgNo ∧ 0x1BFFFFFFF8 % 2 ^ 37 < 0x1FFFFFF000 ∧ mayPerform [] load8 = true ∧
    mayPerform [{ a with op := .store, pa := 0x40000 }] { a with op := .store, pa := 0x40007 } = false ∧ (s load8).fabricIdle 0 = true ∧
    p load8 (fun t => t.me.gGet 62 == ready.me.gGet 62) = true ∧ p { load8 with dst := .lane 31 63, size := 4 } (fun _ => true) = true ∧
    p { a with op := .store } (fun t => t.mem != ready.mem) = true ∧
    ([0, 1, 2, 3, 4, 5, 6, 7, 8, 9] : List Nat).all (fun n => p { a with op := .atomic n, dst := .g 1 false } (fun _ => true)) = true ∧
    ([0, 9] : List Nat).all (fun n => p { a with op := .atomic n, size := 4 } (fun _ => true)) = true ∧
    p { a with op := .xadd (-20), data := 0x3FC00000 } (fun t => t.mem != ready.mem) = true ∧ sends load8 3 = true ∧
    sends { a with op := .store } 1 = true ∧ sends { a with op := .atomic 0 } 5 = true ∧ sends { a with op := .xadd 0 } 5 = true ∧
    after (.globalAccessPerformed 0 ⟨0, 0⟩) { s load8 with bad := [0x40000 / 512] } (fun t => !(t.ctx 0).used) = true ∧
    (let old : State := { s load8 with past := [{ unit := 0x40000 / 8, time := 1, old := leBytes 8 6, first := 0, len := 8, who := .strand 1, num := none, strong := false, scope := 7, rel := none,
                                                  rmw := false, cover := 0 }], vtime := 1 }
     (old.unseen 0 load8).length = 1 ∧ after (.globalAccessPerformed 0 ⟨0, 1⟩) old (fun t => t.me.gGet 62 == 6) = true ∧
     after (.globalAccessPerformed 0 ⟨0, 0⟩) old (fun t => t.me.gGet 62 == 0) = true) ∧
    p { a with op := .rld 0x100 } (fun t => t.txns.map (·.typ) == [3]) = true ∧ p { a with op := .rat 0, dst := .g 5 false } (fun t => t.txns.map (·.typ) == [5]) = true ∧
    ({ a with op := .arrive 0 0xFFFE0 } : Access).releases = true ∧ p { a with op := .arrive 0 0xFFFE0 } (fun _ => true) = true ∧
    (let g2 := { graph1 1 with cst := [{ head := 0, tail := 0, pops := 0, pushes := 1, slots := [(0, .claimed)] }] }
     let q := ((s { a with op := .pop 0 0 0 [5], dst := .loc 0xFFFF0 }).modCtx 0 (fun c => { c with graphs := [g2] }))
     after (.globalAccessPerformed 0 ⟨0, 0⟩) q (fun t => tget 0 (t.lc 0).loc 0xFFFF0 == 5) = true) ∧
    (let q := (s { a with op := .csig 0 0 31 }).modLc 0 (fun k => { k with edt := [c] })
     (q.lc 0).cmd? 0 = some c ∧ c.snapped = false ∧ after (.globalAccessPerformed 0 ⟨0, 0⟩) q (fun t => (t.lc 0).csig == [(0, 31)]) = true) := by
  decide +kernel


/-! Engines -/

/-- An engine command of strand 0 that has passed to its queue and has the stage `st`. -/
def command (kind : CmdKind) (st : Nat) : Cmd := { faulted with kind := kind, fault := none, st := st, queued := true }

/-- Logical core 0 holds one command, which is in the matrix queue too. -/
def holding (k : Cmd) : State := ready.modLc 0 (fun c => { c with edt := [k], mq := [0] })

/-- The only command of logical core 0. -/
def only (s : State) : Option Cmd := (s.lc 0).edt.head?

/-- A tile header of one block of format 5 with 8 slots at 0x1000, and the MLOADW operand b that agrees. -/
def header1 : List Byte := leBytes 8 0x1000 ++ [1, 0, 1, 0, 8, 5, 0, 0]

theorem wit_MatrixQueue :
    let pass := fun (k : Cmd) => (holding { k with queued := false }).modLc 0 (fun c => { c with mq := [] })
    let load := holding { command .mloadw 1 with b := 0x850 }
    let prog := leBytes 2 (encodeEpi (.endp 0 0 0)).toNat ++ List.replicate 30 0
    (pass (command .mzero 0)).mayPass 0 { command .mzero 0 with queued := false } = true ∧
    after (.engineCommandReady 0 0) (pass (command .mzero 0)) (fun t => (t.lc 0).mq == [0]) = true ∧
    after (.engineCommandReady 0 0) (pass (command .coll 0)) (fun t => (only t).any (·.queued)) = true ∧
    (holding (command .mzero 0)).mayPass 0 (command .mzero 0) = false ∧ ((holding (command .mzero 0)).lc 0).cmd? 0 = some (command .mzero 0) ∧
    (holding (command .mzero 0)).specS 0 = 0 ∧
    ([.mma, .mzero, .maccld, .mdrain] : List CmdKind).all (fun n =>
      after (.matrixCommandStart 0 0) (holding (command n 1)) (fun t => (only t).any (fun k => k.st == 2))) = true ∧
    after (.matrixCommandStart 0 0) (holding { command .epload 1 with snapped := true }) (fun t => (only t).any (fun k => k.st == 2)) = true ∧
    headerOk header1 0x850 = true ∧ (bothRange (spData 0x1000) 36 (spSide 0x1000) 4).fits = true ∧ headerOk (List.replicate 16 0) 0x850 = false ∧
    after (.matrixCommandStart 0 0) (load.lwrite 0 0 header1) (fun t => (only t).any (fun k => k.st == 2 && k.snap == header1)) = true ∧
    after (.matrixCommandStart 0 0) load (fun t => (only t).any (fun k => k.fault.isSome)) = true ∧
    (holding (command .mzero 2)).mayStart 0 (command .mzero 2) = false ∧ ((holding (command .mzero 2)).lc 0).finishing (command .mzero 2) = true ∧
    after (.mzeroComplete 0 0) (holding { command .mzero 2 with a := 511 }) (fun t => (only t).isNone && tget 0 (t.lc 0).anchor 0 == 511) = true ∧
    epiOk prog 16 = true ∧ epiOk (List.replicate 32 255) 16 = false ∧ { command .epload 2 with word := 0x400 }.withImage = true ∧
    (command .epload 2).withImage = false ∧
    after (.eploadComplete 0 0) (holding { command .epload 2 with snapped := true, snap := prog }) (fun t => (only t).isNone) = true ∧
    after (.eploadComplete 0 0) (holding { command .epload 2 with snapped := true, snap := prog, word := 0x400, b := 0x40000 }) (fun t => (only t).isNone) = true ∧
    after (.eploadComplete 0 0) (holding { command .epload 2 with snapped := true, snap := List.replicate 32 255 }) (fun t =>
      (only t).any (fun k => k.fault.isSome)) = true := by
  decide +kernel

theorem wit_MatrixArray :
    let s := fun (k : Cmd) => holding k
    let fin := fun (k : Cmd) => ((s k).lc 0).cmd? 0 = some k ∧ (s k).specS 0 = 0 ∧ ((s k).lc 0).finishing k = true
    let mma := { command .mma 2 with b := 1, k := 0x55, bank := ⟨5, 8, 1, true⟩ }
    let load := { command .mloadw 2 with b := 0x850, snap := header1 }
    let ld := { command .maccld 2 with a := 0xFF800, b := 1 }
    (s mma).heldCmd 0 mma = false ∧ fin mma ∧ fin load ∧ fin ld ∧ fin (command .mdrain 2) ∧ fin { command .mdrain 2 with k := 0x40 } ∧
    after (.mmaComplete 0 0) (s mma) (fun t => (only t).isNone) = true ∧
    headerOk load.snap load.b.toNat = true ∧ after (.mloadwComplete 0 0) (s load) (fun t => (only t).isNone) = true ∧
    ld.word.getLsbD 2 = false ∧ after (.maccldComplete 0 0) (s ld) (fun t => (only t).isNone) = true ∧
    dcwEps 0 = 0 ∧ ((s (command .mdrain 2)).lc 0).epi = none ∧ dcwRows 0 = 1 ∧ dcwRows 0x40 = 2 ∧
    after (.mdrainRowWritten 0 0) (s (command .mdrain 2)) (fun t => (only t).isNone) = true ∧
    after (.mdrainRowWritten 0 0) (s { command .mdrain 2 with k := 0x40 }) (fun t => (only t).any (fun k => k.pos == 1)) = true ∧
    (let ar := fun (t : State) (p : Nat) => fld (tread 0 (t.lc 0).loc p 32)
     let run : EpiRun := { cmd := 0, slot := 0, op := 16, x := [], m := [3], out := some [(0, 0x3F800000)] }
     let eps := { command .mdrain 2 with k := 0x800, b := 0xFF000, word := 1, c := 0xFE000 }
     let e := fun (k : Cmd) (o : Option (Tab W32)) => (s k).modLc 0 (fun c => { c with epi := some { run with out := o } })
     let behind := (s { command .mdrain 2 with id := 1 }).modLc 0 (fun c =>
       { c with edt := { command .epload 1 with fault := faulted.fault } :: c.edt, mq := [0, 1] })
     let past := { command .mdrain 2 with pos := 1, word := 1, c := 0xFE000 }
     dcwEps eps.k.toNat = 1 ∧
     after (.mdrainRowWritten 0 0) (e eps run.out) (fun t => (only t).isNone && fld (tread 0 (t.lc 0).loc (spData 0) 4) 0 4 == 0x3F800000 &&
       tget 0 (t.lc 0).loc 0xFF000 == 8 && ar t 0xFE000 24 8 != 0) = true ∧
     after (.mdrainRowWritten 0 0) (e eps none) (· == e eps none) = true ∧
     (behind.engLc 0).finishing { command .mdrain 2 with id := 1 } = false ∧
     after (.mdrainRowWritten 0 1) behind (fun t => ((t.lc 0).edt.map (·.pos)) == [0, 1]) = true ∧
     after (.mdrainRowWritten 0 0) (s past) (fun t => (only t).isNone && ar t 0xFE000 24 8 != 0) = true ∧
     after (.maccldComplete 0 0) (s { ld with word := 4, c := 0xFE000 }) (fun t => (only t).isNone && ar t 0xFE000 24 8 != 0) = true) := by
  decide +kernel

/-- A template that copies one unit of 8 bytes from 0x100 of the scratchpad to `d`, of address kind `kind`, with a transform and further bits
of CTL and ARB. -/
def template (kind d x aux : Nat) (ctl : Nat := 0) (arb : Nat := 0) : List Byte :=
  let (sf, df) := if x = 3 then (7, 5) else (9, 9)
  leBytes 8 0x100 ++ leBytes 8 d ++ leBytes 8 0 ++ (List.replicate 12 (1 : Nat)).flatMap (leBytes 2) ++ List.replicate 56 0 ++
    leBytes 4 (2 ^ 30 + kind * 2 ^ 28 + sf * 2 ^ 24 + df * 2 ^ 20 + x * 2 ^ 17 + 8 * 2 ^ 11 + ctl) ++ leBytes 4 arb ++ leBytes 8 0 ++ leBytes 8 aux

/-- Logical core 0 holds a command, and the first template page is mapped to 0x50000, where a template lies. -/
def templates (tm : List Byte) (k : Cmd) : State :=
  put 0x50000 tm (put 0x24000 (leBytes 8 0x502C7) ((control64).modLc 0 (fun c => { c with edt := [k] })))

/-- A start that has been accepted with its template. -/
def accepted (tm : List Byte) : Cmd := { command .bte 1 with snapped := true, snap := tm, snap2 := List.replicate 64 0 }

theorem wit_TransferEngine :
    let local8 := template 1 0xFFFF8 0 0
    let s := fun (tm : List Byte) (a : W64) => templates tm { command .bte 0 with a := a }
    local8.length = 128 ∧ tmplOk local8 = true ∧ tmplOk (List.replicate 128 0) = false ∧ tmFpr local8 = false ∧ tmXform local8 ≠ 3 ∧ tmArb local8 < 2 ^ 30 ∧
    (s local8 0).mayAccept 0 (command .bte 0) = true ∧ (s local8 0).specS 0 = 0 ∧
    after (.bteAccept 0 0) (s local8 0x4000) (fun t => (only t).any (fun k => k.fault.isSome && !k.snapped)) = true ∧
    after (.bteAccept 0 0) (s local8 0) (fun t => (only t).any (fun k => k.snapped && k.st == 1 && k.snap == local8)) = true ∧
    after (.bteAccept 0 0) (s (List.replicate 128 0) 0) (fun t => (only t).any (fun k => k.fault.isSome && !k.snapped)) = true ∧
    (templates local8 (accepted local8)).mayAccept 0 (accepted local8) = false ∧ (templates local8 (accepted local8)).mayMove 0 (accepted local8) = true ∧
    (accepted local8).snap2 ≠ [] ∧ (accepted local8).dstEnd.kind = 1 ∧ (accepted local8).record 0 = none ∧
    after (.bteChunkPerformed 0 0) (templates local8 (accepted local8)) (fun t => (only t).any (fun k => k.chunks == 1)) = true ∧
    (accepted (template 0 0x40000 0 0)).dstEnd.kind = 0 ∧
    after (.bteChunkPerformed 0 0) (templates local8 (accepted (template 0 0x40000 0 0))) (fun t => (only t).any (fun k => k.chunks == 1)) = true ∧
    (templates local8 (accepted local8)).stalled 0 (accepted local8) = false ∧
    (let k := { accepted local8 with chunks := 1 }
     k.chunkCount ≤ 1 ∧ (templates local8 k).acked 0 0 = true ∧ after (.bteCommandComplete 0 0) (templates local8 k) (fun t => (only t).isNone) = true) := by
  decide +kernel

/-! A DECODE that does not progress (R217) -/

/-- A DECODE whose table entries are zero, at the start of the logical-core window, at cycle count `f` of its free values. -/
def loops (f : Nat) : State :=
  let tm := template 1 0xFFF80 3 Config.windowBase
  { templates tm (accepted tm) with fresh := f }

/-- Its command. -/
def looper : Cmd := accepted (template 1 0xFFF80 3 Config.windowBase)

theorem loops_read (f : Nat) : (loops f).cmdRead 0 looper (tmAux looper.snap + 4 * 0) 4 = (.ok [0, 0, 0, 0], loops (f + 1)) := by rfl

theorem loops_run (want mark n : Nat) (hw : 0 < want) : ∀ (f fuel idle : Nat) (d keep : DecAt) (out : List Int), d.st = 0 → d.n = 0 →
    idle + n = decodeLimit → n < fuel → (State.decodeRun 0 looper want mark fuel (loops f) d keep idle out).1 = .stall := by
  induction n with
  | zero =>
    intro f fuel idle d keep out hs hn hi hf
    obtain ⟨m, rfl⟩ : ∃ m, fuel = m + 1 := ⟨fuel - 1, by omega⟩
    rw [State.decodeRun, hn, if_neg (by omega), if_pos (by omega)]
  | succ n ih =>
    intro f fuel idle d keep out hs hn hi hf
    obtain ⟨m, rfl⟩ : ∃ m, fuel = m + 1 := ⟨fuel - 1, by omega⟩
    rw [State.decodeRun, hn, if_neg (by omega), if_neg (by omega), hs, loops_read]
    exact ih (f + 1) m (idle + 1) _ _ _ rfl rfl (by omega) (by omega)

theorem stalled_of_run (s : State) (l : Nat) (k : Cmd) (hm : s.mayMove l k = true) (hx : tmXform k.snap = 3) (he : k.snap2.isEmpty = false)
    (h : (s.decodeTo l k ((k.chunkUnits k.chunks).1 + (k.chunkUnits k.chunks).2) (k.chunkUnits (k.chunks + 1)).1).1 = .stall) :
    s.stalled l k = true := by
  have e : (s.chunkData l k k.chunks).1 = .stall := by
    simp only [State.chunkData, hx, if_true]
    split <;> simp_all
  simp [State.stalled, hm, hx, he, e]

theorem wit_DecodeStall : (loops 0).stalled 0 looper = true :=
  stalled_of_run _ _ _ (by decide +kernel) (by decide +kernel) (by decide +kernel)
    (loops_run _ _ decodeLimit (by decide +kernel) 0 _ 0 _ _ [] (by decide +kernel) (by decide +kernel) (Nat.zero_add _)
      (Nat.lt_of_lt_of_le (Nat.lt_succ_self _) (Nat.le_mul_of_pos_left _ (Nat.succ_pos _))))

/-- Transfers with a record, a fingerprint, a comparison and a remote destination. -/
theorem wit_TransferForms :
    let word := fun (t : State) (a : Nat) => fld (tread 0 (t.lc 0).loc a 8) 0 8
    let arb := 2 ^ 31 + 0x7F00
    let moves := fun (tm : List Byte) (p : State → Bool) =>
      after (.bteChunkPerformed 0 0) ((templates tm { accepted tm with match1 := 0xFFFFFFFF }).lwrite 0 0x100 [1]) (fun t =>
        (only t).any (fun k => k.chunks == 1) && p t)
    let ends := fun (tm : List Byte) (p : State → Bool) =>
      after (.bteCommandComplete 0 0) (templates tm { accepted tm with chunks := 1, fletA := 5, match1 := 7 }) (fun t => (only t).isNone && p t)
    let away := template 2 (9 * 2 ^ 37 + 0x40000) 0 0
    let busy := { templates away (accepted away) with
      txns := List.replicate 4096 ⟨0, 0, 1, 0, 8, 0, false, false, 0, .rst 0 0, false⟩ }
    (accepted (template 1 0xFFFF8 0 0 0 arb)).record 0 = some (0, 0xFE000) ∧
    moves (template 1 0xFFFF8 0 0 0 arb) (fun t => word t 0xFFFF8 == 1 && word t 0xFE018 != 0) = true ∧
    moves (template 1 0xFFFF8 0 0xFFFF0 (2 ^ 16)) (fun t => (only t).any (fun k => k.fletA == 1 && k.fletB == 2)) = true ∧
    moves (template 1 0xFFFF8 5 0xFFFF0) (fun t => (only t).any (fun k => k.match1 == 0)) = true ∧
    moves (template 1 0x100 5 0xFFFF0) (fun t => (only t).any (fun k => k.match1 == 0xFFFFFFFF)) = true ∧
    (accepted away).dstEnd.kind = 2 ∧ moves away (fun t => t.txns.map (·.typ) == [1]) = true ∧
    busy.freeTags 0 = 0 ∧ after (.bteChunkPerformed 0 0) busy (fun t => (only t).any (fun k => k.chunks == 0)) = true ∧
    ends (template 1 0xFFFF8 0 0xFFFF0 (2 ^ 16)) (fun t => word t 0xFFFF0 == 5) = true ∧
    ends (template 1 0xFFFF8 5 0xFFFF0) (fun t => word t 0xFFFF0 == 7 * 2 ^ 32) = true ∧
    ends (template 1 0xFFFF8 0 0 16 arb) (fun t => word t 0xFE018 != 0) = true := by
  decide +kernel

/-- A sketch descriptor of one row of 256 counters at 0x48000; a collective descriptor of one bucket of one word. -/
def sketch1 : List Byte := leBytes 8 0x48000 ++ [1, 8] ++ List.replicate 54 0

def coll1 (op : Nat) (arb : Nat) : List Byte :=
  [BitVec.ofNat 8 op, 0, 0, 0, 0, 0, 1, 0] ++ leBytes 4 1 ++ leBytes 4 0 ++ leBytes 8 0x48000 ++ leBytes 8 0x4C000 ++ leBytes 8 0 ++ leBytes 4 arb ++ List.replicate 20 0

theorem wit_SketchesAndCollectiveSteps :
    let clr := { command .skclr 0 with a := 0x40000 }
    let qry := { command .skqry 1 with a := 0x40000, snapped := true, snap := sketch1, rows := 0 }
    let s := fun (d : List Byte) (k : Cmd) => put 0x40000 d (holding k)
    let co := { command .coll 0 with a := 0x40000 }
    let done := fun (arb : Nat) => { co with snapped := true, st := 1, snap := coll1 0 arb, buckets := [{ signal := true, run := 2, sent := 0, got := 0 }] }
    clr.isSketch = true ∧ skOk sketch1 = true ∧ skOk (List.replicate 64 0) = false ∧
    after (.sketchAccept 0 0) (s sketch1 clr) (fun t => (only t).any (fun k => k.snapped)) = true ∧
    after (.sketchAccept 0 0) (s (List.replicate 64 0) clr) (fun t => (only t).any (fun k => k.fault.isSome)) = true ∧
    (s sketch1 qry).sketchMay 0 qry = true ∧ qry.sketchUnits = 1 ∧ (s sketch1 clr).sketchMay 0 clr = false ∧
    after (.sketchCommandComplete 0 ⟨0, 0⟩) (s sketch1 { clr with snapped := true, snap := sketch1, rows := 256 }) (fun t => (only t).isNone) = true ∧
    (s sketch1 qry).heldCmd 0 qry = false ∧ skRows sketch1 = 1 ∧ qry.c.getLsbD 63 = false ∧
    (let two := { qry with snap := leBytes 8 0x48000 ++ [2, 8] ++ List.replicate 54 0 }
     skRows two.snap = 2 ∧ after (.sketchCommandComplete 0 ⟨0, 1⟩) (s two.snap two) (fun t => (only t).any (fun k => k.vals.length == 1)) = true) ∧
    after (.sketchCommandComplete 0 ⟨0, 1⟩) (s sketch1 qry) (fun t => (only t).isNone) = true ∧
    clOk (coll1 0 0) = true ∧ clOk (coll1 4 0) = false ∧ clArb (coll1 0 0) < 2 ^ 30 ∧ ((s [] co).ctx 0).members 0 = [0] ∧ ((s [] co).lc 0).csig = [] ∧
    after (.collAccept 0 0) (s (coll1 0 0) co) (fun t => (only t).any (fun k => k.snapped && k.buckets.length == 1) && tget 0 (t.lc 0).collCount 0 == 1) = true ∧
    after (.collAccept 0 0) (s (coll1 4 0) co) (fun t => (only t).any (fun k => k.fault.isSome)) = true ∧
    (let two := (holding co).modLc 0 (fun c => { c with edt := [co, { co with id := 1 }] })
     after (.collAccept 0 1) two (· == two) = true) ∧ (holding (done 0)).outIdle 0 = true ∧
    (holding (done 0)).collDone 0 (done 0) = true ∧ (holding (done 0)).segFlying 0 0 0 = false ∧
    after (.collComplete 0 0) (holding (done 0)) (fun t => (only t).isNone) = true ∧ 2 ^ 31 ≤ clArb (coll1 0 (2 ^ 31 + 0x7FFF)) ∧
    after (.collComplete 0 0) (holding (done (2 ^ 31 + 0x7FFF))) (fun t => (only t).isNone) = true ∧
    (let k := { co with snapped := true, st := 1, snap := coll1 2 0, buckets := [{ signal := true, run := 1, sent := 1, got := 0 }] }
     let u := (((holding k).modCtx 0 (fun c => { c with nlc := 2 })).setLc 1 { LCore.none with used := true, core := some 1, edt := [k] })
     let f : Flit := { toward 7 0 0 with src := 8, len := 3, payload := leBytes 4 5, note := 64 * 2 ^ 24 }
     let b : State := { u with inbox := [(0, f)] }
     b.collRing 0 k = [0, 1] ∧ b.segDue 0 k f = true ∧ clSteps k.snap 2 ≤ 0 + 1 ∧ clItem k.snap 2 0 1 = some (1, 0, 1) ∧ b.matched 0 0 0 = some k ∧
     after (.bseg 0) b (fun t => t.inbox.isEmpty && (only t).any (fun k => (k.bucket 0).got == 1)) = true ∧
     after (.bseg 0) { b with inbox := [(0, { f with note := 0 })] } (fun t => t.inbox.isEmpty) = true) := by
  decide +kernel

/-- Units of sketch commands of each kind, their saturation and their faults, and a COLL of two logical cores. -/
theorem wit_SketchUnits :
    let seeded := leBytes 8 0x48000 ++ [1, 8, 0, 3] ++ List.replicate 52 0
    let pair := fun (d e : List Byte) => put 0x40080 e (put 0x40000 d (holding { command .skadd 0 with a := 0x40000, b := 0x40080 }))
    let why := fun (s : State) (c addr : Nat) => after (.sketchAccept 0 0) s (fun t =>
      (only t).any (fun k => k.fault.any (fun f => f.cause == c && f.addr == BitVec.ofNat 64 addr)))
    let taken := fun (kind : CmdKind) => { command kind 1 with a := 0x40000, b := 0x200 * 2 ^ 32 + 0x100, snapped := true, snap := sketch1 ++ sketch1 }
    let unit := fun (k : Cmd) (val : Nat) (p : State → Bool) => after (.sketchCommandComplete 0 ⟨0, 1⟩)
      (put 0x48000 (leBytes 4 (2 ^ 31 - 1)) (((put 0x40000 sketch1 (holding k)).lwrite 0 0x200 (leBytes 4 val)))) p
    let sat := fun (t : State) => fld (t.pread 0x40010 1) 0 1
    let upd := { taken .skupd with c := 1 }
    let c0 := 4 * (skHash sketch1 false 0 0).1
    let neg := (skHash sketch1 false 0 0).2
    let counter := fun (t : State) (a : Nat) => sgn 32 (fld (t.pread (0x48000 + a) 4) 0 4)
    let one : Int := if neg then -1 else 1
    let two := ((put 0x40000 (coll1 0 0) (holding { command .coll 0 with a := 0x40000 })).modCtx 0 (fun c => { c with nlc := 2 })).setLc 1
      { LCore.none with used := true, core := some 1 }
    after (.sketchAccept 0 0) (pair sketch1 sketch1) (fun t => (only t).any (fun k => k.snapped && k.snap.length == 128)) = true ∧
    why (pair sketch1 seeded) 0x12 0x40000 = true ∧ why (pair sketch1 []) 0x0F 0x40080 = true ∧
    unit upd 0x3F800000 (fun t => counter t c0 == one && sat t == 0 && (only t).isNone) = true ∧
    unit upd 0x7F800000 (fun t => counter t c0 != 0 && sat t == 1) = true ∧ unit upd 0x7FC00000 (fun t => counter t c0 == 0 && sat t == 1) = true ∧
    unit upd 0x50000000 (fun t => counter t c0 != 0 && sat t == 1) = true ∧ unit { upd with c := 2 } 0x3F800000 (fun t => (only t).any (·.rows == 1)) = true ∧
    unit (taken .skadd) 0 (fun t => counter t 0 == 2 ^ 31 - 1 && sat t == 1 && (only t).any (·.rows == 1)) = true ∧
    unit (taken .skclr) 0 (fun t => counter t 0 == 0 && (only t).any (·.rows == 1)) = true ∧
    unit { taken .skqry with b := 0x100, c := 2 ^ 63 + 0x7F00 * 2 ^ 32 + 0x300 } 0 (fun t => fld ((t.lread 0 0xFE018 8)) 0 8 != 0) = true ∧
    (two.ctx 0).members 0 = [0, 1] ∧ two.matched 1 0 0 = none ∧
    after (.collAccept 0 0) two (fun t => (only t).any (fun k => k.snapped && k.buckets.length == 1 && k.pos == 0)) = true := by
  decide +kernel

/-! Encodings and steps -/

theorem wit_DecodeEncode :
    (Instr.add g 62 63 62 2).wf = true ∧ (Instr.add g 62 63 62 2).slotClass ≠ .event ∧ (Instr.add g 62 63 62 2).slotClass ≠ .epi ∧
    (Instr.cvt 8 8 0).wf = true ∧ (Instr.cvt 8 8 0).slotClass = .epi := by
  decide +kernel

theorem wit_EncodeDecode : decodeWord .s 0x00051870 = some (.add g 5 6 7 0) ∧ decodeEpi 0x7880 = some (.relum 8 8 0) := by decide +kernel

/-- The state in which ADDI stands at the PC of strand 0 of logical core 0, which issues next. -/
def placed : State := State.reset.withFetchWord 32 0x58050040

theorem wit_StepRunsDecoded :
    let s := placed
    let i : Instr := .addi g 5 0 64
    let u := { s with agenda := [] }
    let t := 0
    let pc := (s.strand t).pc
    let w := u.modStrand t Strand.fresh
    s.agenda = [.issue 0] ∧ u.issuer 0 = some t ∧
    (match w.lineAt (t / 4) pc with
      | (.ok bs, v) =>
        let p := v.prepare t pc { len := 5, words := [(1, encode i)], k := none } [(1, i)]
        decide (headerCount (bs.headD 0) = 1) && decodeBundle (64 - pc.toNat % 64) bs == .ok (some { len := 5, words := [(1, encode i)], k := none }) &&
          (illbOf ((v.strand t).inBody pc) none [i]).isNone && i.kOk 0 && (p.screen [(1, i)]).isNone && p.me.occ &&
          after i (p.atSlot 1) (fun w => w.latch.out == .ok)
      | _ => false) = true ∧
    i.wf = true ∧ i.slotClass = slotClassOf 1 := by
  decide +kernel

/-- A bundle whose instruction traps, and one that blocks, at the same place. -/
theorem wit_StepTrapsAndBlocks :
    (match step (State.reset.withFetchWord 32 (encode (.movi g 0 0)).toNat) with | .next t => (t.strand 0).pc | _ => 0) = 0x20005 ∧
    (match step { placed with mem := twrite 0 placed.mem 0x20000 (0x40 :: leBytes 4 (encode (.arwait g 0 0 0 0)).toNat) } with
      | .next t => ((t.strand 0).pc, (t.strand 0).blk)
      | _ => (0, .ready)) = (0x20000, .before) ∧
    (match step { placed with mem := twrite 0 placed.mem 0x20000 (0x40 :: leBytes 4 (encode (.specb g 0 0 0 0)).toNat) } with
      | .next t => ((t.strand 0).tm, (t.strand 0).epc)
      | _ => (false, 0)) = (true, 0x20000) := by
  decide +kernel

theorem wit_MemoryCanonical : placed.memOk ∧ (match step placed with | .next _ => true | _ => false) = true := by
  refine ⟨?_, by decide +kernel⟩
  exact State.memOk_withFetchWord _ _ _ reset_memOk

end Sys2Proof.Tests
end

section
/-! SUPPORT. Folds of updates; the event arbiter's report and the replacement bits: what an event that is reported changes, and that it is held
from then on (R23, R74, R77). -/

namespace Sys2Proof.Machine

/-! ### Folds -/

/-- What holds between a state and itself, is transitive, and holds of each step of a fold, holds of the fold. -/
theorem foldl_rel {σ α : Type} (R : σ → σ → Prop) (refl : ∀ s, R s s) (trans : ∀ s t u, R s t → R t u → R s u) {f : σ → α → σ}
    (h : ∀ s a, R s (f s a)) (l : List α) (s : σ) : R s (l.foldl f s) := by
  induction l generalizing s with
  | nil => exact refl s
  | cons a l ih => exact trans _ _ _ (h s a) (ih _)

/-! ### Reports -/

/-- An event with a property is held by the arbiter, or waits for room in its store. -/
def State.hasEvent (s : State) (p : Event → Prop) : Prop := ∃ e ∈ s.arb.held ++ s.arb.waiting, p e

theorem State.hasEvent_congr {s t : State} (h : t.arb = s.arb) {p : Event → Prop} : t.hasEvent p ↔ s.hasEvent p := by
  unfold State.hasEvent
  rw [h]

/-- A report changes the arbiter alone: whatever does not look at the arbiter is as before. -/
theorem State.report_keeps {β : Type} (p : State → β) (h : ∀ (s : State) (a : Arbiter), p { s with arb := a } = p s)
    (s : State) (typ ctxid status src tag result i0 i1 : Nat) : p (s.report typ ctxid status src tag result i0 i1) = p s := by
  unfold State.report
  dsimp only
  split
  · exact h _ _
  · exact h _ _

theorem State.report_eq (s : State) (typ ctxid status src tag result i0 i1 : Nat) :
    s.report typ ctxid status src tag result i0 i1 = { s with arb := (s.report typ ctxid status src tag result i0 i1).arb } := by
  unfold State.report
  dsimp only
  split <;> rfl

/-- The reported event is held, or waits for room. -/
theorem State.report_hasEvent (s : State) (typ ctxid status src tag result i0 i1 : Nat) :
    (s.report typ ctxid status src tag result i0 i1).hasEvent (fun e =>
      e.typ = typ ∧ e.ctxid = ctxid ∧ e.status = status ∧ e.src = src ∧ e.tag = tag ∧ e.result = result ∧ e.info0 = i0) := by
  unfold State.report State.hasEvent
  dsimp only
  split
  · exact ⟨_, List.mem_append_left _ (List.mem_append_right _ (List.mem_singleton_self _)), rfl, rfl, rfl, rfl, rfl, rfl, rfl⟩
  · exact ⟨_, List.mem_append_right _ (List.mem_append_right _ (List.mem_singleton_self _)), rfl, rfl, rfl, rfl, rfl, rfl, rfl⟩

theorem State.hasEvent.imp {s : State} {p q : Event → Prop} (h : s.hasEvent p) (pq : ∀ e, p e → q e) : s.hasEvent q := by
  obtain ⟨e, he, hp⟩ := h
  exact ⟨e, he, pq e hp⟩

/-- An event that is held or waits stays so when another is reported. -/
theorem State.hasEvent.report {s : State} {p : Event → Prop} (h : s.hasEvent p) (typ ctxid status src tag result i0 i1 : Nat) :
    (s.report typ ctxid status src tag result i0 i1).hasEvent p := by
  obtain ⟨e, he, hp⟩ := h
  refine ⟨e, ?_, hp⟩
  unfold State.report
  dsimp only
  split
  all_goals
    simp only [List.mem_append, List.mem_singleton] at he ⊢
    tauto

/-! ### Replacement bits (R23) -/

/-- A change of RPLC is reported: whatever does not look at the arbiter is as the change leaves it. -/
theorem State.replaced_keeps {β : Type} (p : State → β) (h : ∀ (s : State) (a : Arbiter), p { s with arb := a } = p s) (s : State)
    (f : State → State) : p (s.replaced f) = p (f s) := by
  unfold State.replaced
  dsimp only
  split
  · rfl
  · exact State.report_keeps p h _ _ _ _ _ _ _ _ _

theorem State.hasEvent.replaced {s : State} {p : Event → Prop} (h : s.hasEvent p) (f : State → State) (hf : (f s).arb = s.arb) :
    (s.replaced f).hasEvent p := by
  have h' : (f s).hasEvent p := (State.hasEvent_congr hf).2 h
  unfold State.replaced
  dsimp only
  split
  · exact h'
  · exact h'.report _ _ _ _ _ _ _ _

end Sys2Proof.Machine
end

section
/-! SUPPORT. Reset, the start of a Kindling and its steps (R13, R17-R20): what each leaves. Settles PowerAndReset and ResetState. -/

namespace Sys2Proof.Machine

/-! ### Reset -/

/-- `t` is a package that has lost every context, queue, flit and event of `s`, at step 1 of a Kindling to come; the retired cores are
those of `s` (R20, R74). -/
def State.Emptied (s t : State) : Prop :=
  t.ctxs = [] ∧ t.lcs = [] ∧ t.strands = [] ∧ t.lines = [] ∧ t.cmdQ = [] ∧ t.txns = [] ∧ t.waitq = [] ∧
    t.wires = [] ∧ t.exits = [] ∧ t.inbox = [] ∧ t.recov = [] ∧ t.stuck = [] ∧ t.links = [] ∧ t.tags = [] ∧ t.outq = [] ∧ t.arb = Arbiter.reset ∧
    t.retired = s.retired ∧ t.kstat.ready = false ∧ t.kstat.step = 1 ∧ t.kstat.err = 0

theorem State.emptied_enterReset (s : State) (p : Power) : s.Emptied (s.enterReset p) := by
  unfold State.Emptied
  and_intros <;> rfl

theorem State.emptied_startKindling (s : State) (cold : Bool) : s.Emptied (s.startKindling cold) := by
  unfold State.startKindling State.Emptied
  dsimp only
  split <;> and_intros <;> rfl

/-- Where the second tier's contents are lost its bytes read as zero, and no other byte changes (R13). -/
theorem State.loseTier_get (s : State) (a : Nat) : tget 0 s.loseTier.mem a = if 3 * 2 ^ 50 ≤ a then 0 else tget 0 s.mem a := by
  unfold State.loseTier
  rw [tget_filter 0 (fun k => decide (k < 3 * 2 ^ 50))]
  by_cases h : 3 * 2 ^ 50 ≤ a
  · rw [if_pos h, if_neg (by simpa using h)]
  · rw [if_neg h, if_pos (by simpa using h)]

/-- The start of a Kindling loses the second tier's contents where hold-up was lost, and touches no other byte (R13, R17). -/
theorem State.startKindling_get (s : State) (cold : Bool) (a : Nat) :
    tget 0 (s.startKindling cold).mem a = if s.env.holdLost = true ∧ 3 * 2 ^ 50 ≤ a then 0 else tget 0 s.mem a := by
  unfold State.startKindling
  cases h : s.env.holdLost
  · simp [State.enterReset, h]
  · simpa [State.enterReset, h] using (s.enterReset .kindling).loseTier_get a

/-- A cold Kindling starts with no replacement bit set (R17, R23). -/
theorem State.startKindling_rplc (s : State) : (s.startKindling true).rplc = 0 := by
  simp [State.startKindling, State.rplc]

theorem State.startKindling_rest (s : State) (cold : Bool) :
    (s.startKindling cold).power = .kindling ∧ (s.startKindling cold).kstat.cold = cold ∧
      (s.startKindling cold).since = (s.startKindling cold).cycle ∧ (s.startKindling cold).env.holdLost = false := by
  unfold State.startKindling
  dsimp only
  split <;> exact ⟨rfl, rfl, rfl, rfl⟩

/-! ### The steps of a Kindling -/

/-- A Kindling that takes 45 s at most ends no step after them (R18). -/
theorem kindle_in_time {since cycle ms k : Nat} (hms : ms ≤ 45000) (hc : cycle ≤ since + 45 * 1250000000) (hk : k ≤ 7) :
    ¬since + kindlingLimit < max cycle (since + ms * 1250000 * k / 7) := by
  have hp : ms * 1250000 * k ≤ 45000 * 1250000 * 7 := Nat.mul_le_mul (Nat.mul_le_mul_right _ hms) hk
  unfold kindlingLimit
  omega

/-- Memory after the fifth step: host memory is kept, and in a warm Kindling the second tier (R17). -/
theorem State.clearMemory_get (s : State) (a : Nat) : tget 0 s.clearMemory.mem a =
    if (2 * 2 ^ 50 ≤ a ∧ a < 3 * 2 ^ 50) ∨ (s.kstat.cold = false ∧ 3 * 2 ^ 50 ≤ a) then tget 0 s.mem a else 0 := by
  unfold State.clearMemory
  dsimp only
  rw [State.replaced_keeps State.mem (fun _ _ => rfl)]
  dsimp only
  rw [tget_filter 0 (fun k => (decide (2 * 2 ^ 50 ≤ k) && decide (k < 3 * 2 ^ 50)) || (!s.kstat.cold && decide (3 * 2 ^ 50 ≤ k)))]
  simp

theorem State.readLine_power (s : State) (i : Nat) : (s.readLine i).power = s.power := by
  unfold State.readLine
  split
  · rfl
  · dsimp only
    split
    · rfl
    · split <;> rfl

theorem State.readLine_kstat (s : State) (i : Nat) : (s.readLine i).kstat = s.kstat := by
  unfold State.readLine
  split
  · rfl
  · dsimp only
    split
    · rfl
    · split <;> rfl

theorem State.setReady_power (s : State) : s.setReady.power = .ready := by
  unfold State.setReady
  dsimp only
  rw [foldl_keeps State.power _ State.readLine_power]

theorem State.setReady_kstat_ready (s : State) : s.setReady.kstat.ready = true := by
  unfold State.setReady
  dsimp only
  rw [foldl_keeps State.kstat _ State.readLine_kstat]

theorem State.armLines_power (s : State) : s.armLines.power = s.power := by
  unfold State.armLines
  dsimp only
  rw [State.readLine_power]
  exact State.replaced_keeps State.power (fun _ _ => rfl) _ _

theorem State.clearMemory_power (s : State) : s.clearMemory.power = s.power :=
  State.replaced_keeps State.power (fun _ _ => rfl) _ _

/-- The step of a Kindling that runs in time: step `k` of those with a check goes on to `u` with the next number, or stops with `k`. -/
def kindleTo (k : Nat) (ok : Bool) (u s : State) : State :=
  if ok then { u with kstat := { u.kstat with step := k + 1 } } else s.failKindling k

theorem kindleTo_spec (k : Nat) (ok : Bool) (u s : State) (hu : u.power = .kindling) :
    (ok = false → (kindleTo k ok u s).power = .failed ∧ (kindleTo k ok u s).kstat.err = k) ∧
      (ok = true → (kindleTo k ok u s).power = .kindling ∧ (kindleTo k ok u s).kstat.step = k + 1) := by
  constructor
  · rintro rfl; exact ⟨rfl, rfl⟩
  · rintro rfl; exact ⟨hu, rfl⟩

/-- The cycle in which the step of a Kindling that runs now ends. -/
def State.kindleEnd (s : State) : Nat := max s.cycle (s.since + s.env.kindleMs * 1250000 * s.kstat.step / 7)

/-- A step with a check that ends in time, by its number (R17). -/
theorem State.kindle_checked (s : State) (hp : s.power = .kindling) (ht : s.kstat.step ≤ 7 → ¬s.since + kindlingLimit < s.kindleEnd) :
    let u := { s with cycle := s.kindleEnd }
    (s.kstat.step = 1 → s.kindle = kindleTo 1 s.env.firmwareOk u u) ∧ (s.kstat.step = 2 → s.kindle = kindleTo 2 s.env.phyOk u u) ∧
      (s.kstat.step = 3 → s.kindle = kindleTo 3 s.env.vmonOk u u) ∧ (s.kstat.step = 5 → s.kindle = kindleTo 5 s.env.memOk u.clearMemory u) ∧
      (s.kstat.step = 6 → s.kindle = kindleTo 6 (s.env.trainOk && s.env.cmdBase != 0 && s.env.cmdBase % 4096 == 0) u.armLines u) := by
  unfold State.kindleEnd at ht ⊢
  refine ⟨?_, ?_, ?_, ?_, ?_⟩
  all_goals
    intro hk
    rw [hk] at ht ⊢
    replace ht := ht (by omega)
    unfold State.kindle kindleTo
    simp only [hk, hp, ne_eq, not_true_eq_false, if_false, if_neg ht]

/-- The last step, in time (R20). -/
theorem State.kindle_last (s : State) (hp : s.power = .kindling) (ht : ¬s.since + kindlingLimit < s.kindleEnd) (hk : s.kstat.step = 7) :
    s.kindle = ({ s with cycle := s.kindleEnd } : State).setReady := by
  unfold State.kindleEnd at ht ⊢
  rw [hk] at ht ⊢
  unfold State.kindle
  simp only [hk, hp, ne_eq, not_true_eq_false, if_false, if_neg ht]

/-- A step that does not end in time: the Kindling stops with code 7 (R18). -/
theorem State.kindle_late (s : State) (hp : s.power = .kindling) (ht : s.since + kindlingLimit < s.kindleEnd) :
    s.kindle = { s with cycle := max s.cycle (s.since + kindlingLimit) }.failKindling 7 := by
  unfold State.kindleEnd at ht
  unfold State.kindle
  simp only [hp, ne_eq, not_true_eq_false, if_false, if_pos ht]

/-- With an empty agenda, a Kindling goes on by its next step. -/
theorem step_kindling (s : State) (hp : s.power = .kindling) (ha : s.agenda = []) : step s = .next s.kindle := by
  simp [step, State.auto, ha, hp]

/-! ### The statements -/

/-- Settles O60: State.reset is written out, and its tables are empty. -/
theorem resetState : Obligations.ResetState :=
  ⟨rfl, rfl, rfl, rfl, rfl, fun _ => rfl, fun _ => rfl, fun _ => rfl, rfl, rfl, rfl, reset_memOk, rfl, rfl⟩

/-- Settles O39: each clause is what the start of a Kindling, a reset, or one step of a Kindling leaves. -/
theorem powerAndReset : Obligations.PowerAndReset := by
  intro s
  refine ⟨fun hp => ?_, fun hp => ?_, fun hp => ?_, ?_, fun hp ht => ?_, fun hp ha ht => ?_, fun hp ha hms hc => ?_⟩
  · have e : exec .powerGood s = .next ({ s with cycle := 0, env := { s.env with powered := true } }.startKindling true) := by
      simp [exec, execPowerGood, hp]
    obtain ⟨h1, h2, h3, h4⟩ := State.startKindling_rest { s with cycle := 0, env := { s.env with powered := true } } true
    exact ⟨_, e, State.emptied_startKindling _ _, h1, h2, h3, fun _ => State.startKindling_rplc _, h4, State.startKindling_get _ _⟩
  · have e : exec .packageResetRelease s = .next (s.startKindling s.env.holdLost) := by simp [exec, execPackageResetRelease, hp]
    obtain ⟨h1, h2, h3, h4⟩ := s.startKindling_rest s.env.holdLost
    exact ⟨_, e, State.emptied_startKindling _ _, h1, h2, h3, fun h => by rw [h]; exact State.startKindling_rplc _, h4,
      State.startKindling_get _ _⟩
  · exact ⟨s.enterReset .inReset, by simp [exec, execPackageResetAsserted, hp], s.emptied_enterReset _, rfl, rfl⟩
  · exact ⟨_, rfl, s.emptied_enterReset .off, rfl, rfl, rfl, fun a => (s.enterReset .off).loseTier_get a⟩
  · have e : exec .kindlingTimeout s = .next (s.failKindling 7) := by
      simp [exec, execKindlingTimeout, hp, kindlingLimit, ht]
    exact ⟨_, e, rfl, rfl, rfl⟩
  · have ht' : s.since + kindlingLimit < s.kindleEnd := by unfold State.kindleEnd kindlingLimit; omega
    have e : step s = .next ({ s with cycle := max s.cycle (s.since + kindlingLimit) }.failKindling 7) := by
      rw [step_kindling s hp ha, s.kindle_late hp ht']
    exact ⟨_, e, rfl, rfl, rfl⟩
  · refine ⟨_, step_kindling s hp ha, ?_⟩
    have inTime : s.kstat.step ≤ 7 → ¬s.since + kindlingLimit < s.kindleEnd := kindle_in_time hms hc
    obtain ⟨step1, step2, step3, step5, step6⟩ := s.kindle_checked hp inTime
    refine ⟨fun hk => ?_, fun hk => ?_, fun hk => ?_, fun hk => ?_, fun hk => ?_, fun hk hm => ?_, fun hk => ?_⟩
    · rw [step1 hk]; exact kindleTo_spec _ _ _ _ hp
    · rw [step2 hk]; exact kindleTo_spec _ _ _ _ hp
    · rw [step3 hk]; exact kindleTo_spec _ _ _ _ hp
    · rw [step5 hk]; exact kindleTo_spec _ _ _ _ ((State.clearMemory_power _).trans hp)
    · rw [step6 hk]; exact kindleTo_spec _ _ _ _ ((State.armLines_power _).trans hp)
    · rw [step5 hk, hm]; exact State.clearMemory_get _
    · rw [s.kindle_last hp (inTime (by omega)) hk]; exact ⟨State.setReady_power _, State.setReady_kstat_ready _⟩

end Sys2Proof.Machine
end

section
/-! SUPPORT. Killing a context: what the release of its slot leaves alone, and which events a kill reports (R51, R71, R153). -/

namespace Sys2Proof.Machine

/-! ### Completions with one status -/

/-- The records `rs` complete one after another for the context `id`, with a status and result 0. -/
def State.cmdDones (s : State) (id status : Nat) (rs : List CmdRec) : State := rs.foldl (fun s r => s.cmdDone r id status 0) s

theorem State.cmdDones_eq (s : State) (id status : Nat) (rs : List CmdRec) : ∃ a, s.cmdDones id status rs = { s with arb := a } := by
  unfold State.cmdDones
  induction rs generalizing s with
  | nil => exact ⟨s.arb, rfl⟩
  | cons r rs ih =>
    obtain ⟨a, e⟩ := ih (s.cmdDone r id status 0)
    exact ⟨a, by rw [List.foldl_cons, e, State.cmdDone, State.report_eq]⟩

theorem State.hasEvent.cmdDones {s : State} {p : Event → Prop} (h : s.hasEvent p) (id status : Nat) (rs : List CmdRec) :
    (s.cmdDones id status rs).hasEvent p := by
  unfold State.cmdDones
  induction rs generalizing s with
  | nil => exact h
  | cons r rs ih => exact ih (h.report _ _ _ _ _ _ _ _)

/-- Each of them has its CMDDONE. -/
theorem State.cmdDones_hasEvent (s : State) (id status : Nat) {rs : List CmdRec} {q : CmdRec} (hq : q ∈ rs) :
    (s.cmdDones id status rs).hasEvent (fun e => e.typ = 1 ∧ e.ctxid = id ∧ e.status = status ∧ e.tag = recTag q.bytes) := by
  induction rs generalizing s with
  | nil => exact absurd hq List.not_mem_nil
  | cons r rs ih =>
    rcases List.mem_cons.1 hq with rfl | hq
    · have new : (s.cmdDone q id status 0).hasEvent (fun e => e.typ = 1 ∧ e.ctxid = id ∧ e.status = status ∧ e.tag = recTag q.bytes) :=
        (State.report_hasEvent _ _ _ _ _ _ _ _ _).imp (fun e ⟨ht, hc, hs, _, hg, _⟩ => ⟨ht, hc, hs, hg⟩)
      exact new.cmdDones id status rs
    · exact ih _ hq

/-! ### A kill -/

/-- A kill from the point where an abandoned FREEZE has completed. -/
def State.killFrom (s : State) (id x cause i0 i1 : Nat) : State :=
  ((({ s with cmdQ := s.cmdQ.filter (fun r => !s.recNames x r) } : State).cmdDones id stKILLED (s.cmdQ.filter (s.recNames x))).report
    evKILLED id 0 srcPackage 0 cause i0 i1).release x

/-- An abandoned FREEZE completes first (R71). -/
theorem State.kill_eq_killFrom (s : State) (x cause i0 i1 : Nat) (hx : (s.ctx x).used = true) :
    ∃ b : Arbiter, s.kill x cause i0 i1 = ({ s with arb := b } : State).killFrom (s.ctxid x) x cause i0 i1 ∧
      ∀ p, s.hasEvent p → ({ s with arb := b } : State).hasEvent p := by
  unfold State.kill
  rw [if_pos hx]
  cases (s.ctx x).freezeRec with
  | none => exact ⟨s.arb, rfl, fun p h => h⟩
  | some r =>
    have e : s.cmdDone r (s.ctxid x) stKILLED 0 = { s with arb := (s.cmdDone r (s.ctxid x) stKILLED 0).arb } := State.report_eq _ _ _ _ _ _ _ _ _
    refine ⟨_, congrArg (fun t : State => t.killFrom (s.ctxid x) x cause i0 i1) e, fun p h => ?_⟩
    rw [← e]
    exact h.report _ _ _ _ _ _ _ _

/-- What a kill of a context that exists does before the slot is released: the queue loses the records that name the context, each with
its CMDDONE, and KILLED is reported; no other event goes (R71). -/
theorem State.kill_eq (s : State) (x cause i0 i1 : Nat) (hx : (s.ctx x).used = true) :
    ∃ a : Arbiter, let u : State := { s with cmdQ := s.cmdQ.filter (fun r => !s.recNames x r), arb := a }
      s.kill x cause i0 i1 = u.release x ∧ (∀ p, s.hasEvent p → u.hasEvent p) ∧
        u.hasEvent (fun e => e.typ = 3 ∧ e.ctxid = s.ctxid x ∧ e.result = cause ∧ e.info0 = i0) ∧
        ∀ q ∈ s.cmdQ, s.recNames x q = true →
          u.hasEvent (fun e => e.typ = 1 ∧ e.ctxid = s.ctxid x ∧ e.status = 10 ∧ e.tag = recTag q.bytes) := by
  obtain ⟨b, e, hold⟩ := s.kill_eq_killFrom x cause i0 i1 hx
  -- the queued records of the context complete with KILLED, then KILLED is reported
  let done := ({ s with cmdQ := s.cmdQ.filter (fun r => !s.recNames x r), arb := b } : State).cmdDones (s.ctxid x) stKILLED (s.cmdQ.filter (s.recNames x))
  let told := done.report evKILLED (s.ctxid x) 0 srcPackage 0 cause i0 i1
  obtain ⟨c, e1⟩ : ∃ c, done = { s with cmdQ := s.cmdQ.filter (fun r => !s.recNames x r), arb := c } := State.cmdDones_eq _ _ _ _
  have e2 : told = { s with cmdQ := s.cmdQ.filter (fun r => !s.recNames x r), arb := told.arb } := by
    rw [show told = _ from State.report_eq done _ _ _ _ _ _ _ _, e1]
  refine ⟨told.arb, ?_, ?_⟩
  · rw [← e2]; exact e
  · rw [← e2]
    refine ⟨fun p h => ((hold p h).cmdDones (s := { s with cmdQ := s.cmdQ.filter (fun r => !s.recNames x r), arb := b }) _ _ _).report _ _ _ _ _ _ _ _, ?_, fun q hq hn => ?_⟩
    · exact (State.report_hasEvent done _ _ _ _ _ _ _ _).imp (fun e ⟨ht, hc, _, _, _, hr, hi⟩ => ⟨ht, hc, hr, hi⟩)
    · exact (State.cmdDones_hasEvent _ _ _ (List.mem_filter.2 ⟨hq, hn⟩)).report _ _ _ _ _ _ _ _

/-- Whatever looks neither at the arbiter nor at the queue, and which a release keeps, a kill keeps. -/
theorem State.kill_keeps {β : Type} (p : State → β) (x : Nat)
    (h : ∀ (s : State) (q : List CmdRec) (a : Arbiter), p (({ s with cmdQ := q, arb := a } : State).release x) = p s)
    (s : State) (cause i0 i1 : Nat) : p (s.kill x cause i0 i1) = p s := by
  by_cases hx : (s.ctx x).used = true
  · obtain ⟨a, e, -⟩ := s.kill_eq x cause i0 i1 hx
    rw [e]
    exact h _ _ _
  · unfold State.kill
    rw [if_neg hx]

@[simp] theorem State.kill_mem (s : State) (x cause i0 i1 : Nat) : (s.kill x cause i0 i1).mem = s.mem :=
  State.kill_keeps State.mem x (fun _ _ _ => rfl) s cause i0 i1

@[simp] theorem State.kill_bad (s : State) (x cause i0 i1 : Nat) : (s.kill x cause i0 i1).bad = s.bad :=
  State.kill_keeps State.bad x (fun _ _ _ => rfl) s cause i0 i1

@[simp] theorem State.kill_retired (s : State) (x cause i0 i1 : Nat) : (s.kill x cause i0 i1).retired = s.retired :=
  State.kill_keeps State.retired x (fun _ _ _ => rfl) s cause i0 i1

@[simp] theorem State.kill_temps (s : State) (x cause i0 i1 : Nat) : (s.kill x cause i0 i1).temps = s.temps :=
  State.kill_keeps State.temps x (fun _ _ _ => rfl) s cause i0 i1

/-- The contexts after a kill: its slot is free, and every other as before. -/
theorem State.kill_ctx (s : State) (x cause i0 i1 y : Nat) :
    ((s.kill x cause i0 i1).ctx y).used = if y = x then false else (s.ctx y).used := by
  by_cases hx : (s.ctx x).used = true
  · obtain ⟨a, e, -⟩ := s.kill_eq x cause i0 i1 hx
    rw [e]
    show (tget Ctx.free (tset Ctx.free s.ctxs x Ctx.free) y).used = _
    rw [tget_tset]
    split <;> rfl
  · unfold State.kill
    rw [if_neg hx]
    split
    · next h => rw [h]; simpa using hx
    · rfl

/-- A kill drops no event. -/
theorem State.hasEvent.kill {s : State} {p : Event → Prop} (h : s.hasEvent p) (x cause i0 i1 : Nat) : (s.kill x cause i0 i1).hasEvent p := by
  by_cases hx : (s.ctx x).used = true
  · obtain ⟨a, e, hold, -⟩ := s.kill_eq x cause i0 i1 hx
    rw [e]
    exact hold p h
  · unfold State.kill
    rw [if_neg hx]
    exact h

/-- A context that exists is killed with a KILLED event of its own (R71). -/
theorem State.kill_hasEvent (s : State) (x cause i0 i1 : Nat) (hx : (s.ctx x).used = true) :
    (s.kill x cause i0 i1).hasEvent (fun e => e.typ = 3 ∧ e.ctxid = s.ctxid x ∧ e.result = cause ∧ e.info0 = i0) := by
  obtain ⟨a, e, -, hk, -⟩ := s.kill_eq x cause i0 i1 hx
  rw [e]
  exact hk

end Sys2Proof.Machine
end

section
/-! SUPPORT. Physical writes: what else than memory they change (R60, R190-R193). -/

namespace Sys2Proof.Machine

/-- Only contexts differ. -/
def State.OnlyCtxs (s t : State) : Prop := ∃ c, t = { s with ctxs := c }

theorem State.OnlyCtxs.foldl {α : Type} {f : State → α → State} (h : ∀ (s : State) (a : α), s.OnlyCtxs (f s a)) (l : List α) (s : State) :
    s.OnlyCtxs (l.foldl f s) :=
  foldl_rel State.OnlyCtxs (fun s => ⟨s.ctxs, rfl⟩) (fun _ _ _ ⟨_, e⟩ ⟨b, e'⟩ => ⟨b, by rw [e', e]⟩) h l s

/-- Memory with its versions, its compression and its unreadable blocks, the contexts' dirty bitmaps and the monitored lines are all that a
physical write changes. -/
theorem State.pwrite_eq (s : State) (who : Option Nat) (zip : Bool) (pa : Nat) (bs : List Byte) : ∃ m p v b z c l,
    s.pwrite who zip pa bs = { s with mem := m, past := p, vtime := v, bad := b, zips := z, ctxs := c, lines := l } := by
  have tags : ∀ (c : Bool) (l : List Nat) (u : State),
      u.OnlyCtxs (if c = true then l.foldl (fun s i => s.tagDirty who (pa / 65536 + i)) u else u) := by
    intro c l u
    split
    · exact State.OnlyCtxs.foldl (fun s i => ⟨_, s.tagDirty_same who (pa / 65536 + i)⟩) l u
    · exact ⟨_, rfl⟩
  unfold State.pwrite
  by_cases h : (bs.isEmpty || (decide (pa < 2 ^ 51) && !s.ownFid (pa >>> 37)) || isMgmt pa) = true
  · rw [if_pos h]
    exact ⟨_, _, _, _, _, _, _, rfl⟩
  · rw [if_neg h]
    dsimp only
    obtain ⟨c, e⟩ := tags (isHbm pa || isHearth pa) (List.range ((pa + bs.length - 1) / 65536 + 1 - pa / 65536))
      { s.note pa bs.length with
        mem := twrite 0 s.mem pa bs
        bad := s.bad.filter (fun b => !(wholeBlocks pa bs.length).contains b)
        zips := (zipBlocks pa bs.length).foldl (fun z b => if zip then sins b z else z.filter (fun k => k != b)) s.zips }
    have e' := e
    simp only [Bool.or_eq_true] at e' ⊢
    split
    · exact ⟨_, _, _, _, _, _, _, by rw [e']; rfl⟩
    · exact ⟨_, _, _, _, _, _, _, by rw [e']; rfl⟩

end Sys2Proof.Machine
end

section
/-! SUPPORT. Faults of the hardware (R15, R16, R21-R23, R26, R43, R53, R131, R193): retirement, errors of memory, heat. Settles
HardwareFaults. -/

namespace Sys2Proof.Machine

/-! ### Sets as rising lists, and lists changed at a place -/

theorem mem_sins (n k : Nat) (l : List Nat) : k ∈ sins n l ↔ k = n ∨ k ∈ l := by
  induction l with
  | nil => simp [sins]
  | cons a l ih =>
    unfold sins
    split
    · simp
    · split
      · next h => simp [h]
      · simp only [List.mem_cons, ih]; tauto

theorem lmod_eq_modify {α : Type} (f : α → α) (l : List α) (i : Nat) : lmod f l i = l.modify i f := by
  induction l generalizing i with
  | nil => cases i <;> rfl
  | cons a l ih => cases i <;> simp [lmod, ih]

/-! ### A logical core leaves its core (R131) -/

/-- Only strands differ. -/
def State.OnlyStrands (s t : State) : Prop := ∃ st, t = { s with strands := st }

theorem State.OnlyStrands.foldl {α : Type} {f : State → α → State} (h : ∀ (s : State) (a : α), s.OnlyStrands (f s a)) (l : List α) (s : State) :
    s.OnlyStrands (l.foldl f s) :=
  foldl_rel State.OnlyStrands (fun s => ⟨s.strands, rfl⟩) (fun _ _ _ ⟨_, e⟩ ⟨b, e'⟩ => ⟨b, by rw [e', e]⟩) h l s

theorem State.fenceLc_eq (s : State) (l : Nat) : ∃ st lcs, s.fenceLc l = { s with strands := st, lcs := lcs } := by
  obtain ⟨st, e⟩ := State.OnlyStrands.foldl (f := fun s t => if (s.strand t).occ then s.syncAll t else s)
    (fun s t => by split <;> exact ⟨_, rfl⟩) (strandsOf l) s
  unfold State.fenceLc
  rw [e]
  exact ⟨_, _, rfl⟩

theorem State.settleLc_eq (s : State) (l : Nat) : ∃ st lcs, s.settleLc l = { s with strands := st, lcs := lcs } := by
  obtain ⟨st, e⟩ := State.OnlyStrands.foldl (f := fun s t => if (s.strand t).occ then s.modStrand t Strand.settle else s)
    (fun s t => by split <;> exact ⟨_, rfl⟩) (strandsOf l) s
  unfold State.settleLc
  rw [e]
  exact State.fenceLc_eq _ _

/-- A detached logical core has no core; of the contexts the credit of its own alone changes (R109). -/
theorem State.detach_spec (s : State) (l : Nat) :
    ((s.detach l).lc l).core = none ∧ (∀ y, ((s.detach l).ctx y).used = (s.ctx y).used) ∧
      ∃ st lcs cs b, s.detach l = { s with strands := st, lcs := lcs, ctxs := cs, busy := b } := by
  unfold State.detach
  split
  · next h => exact ⟨h, fun _ => rfl, s.strands, s.lcs, s.ctxs, s.busy, rfl⟩
  · obtain ⟨st, lcs, e⟩ := s.settleLc_eq l
    dsimp only
    rw [e]
    refine ⟨by simp [State.modLc], fun y => ?_, _, _, _, _, rfl⟩
    simp only [State.modLc, State.ctx_setLc, State.modCtx]
    show (tget Ctx.free (tset Ctx.free s.ctxs (slotOf l) _) y).used = (tget Ctx.free s.ctxs y).used
    rw [tget_tset]
    split
    · next h => rw [h]; rfl
    · rfl

/-! ### Failing accesses (R43) -/

/-- One MEMERR event, and a kill with cause 2 (R43). -/
theorem State.memErr_eq (s : State) (a : Agent) (pa status : Nat) :
    ∃ src i0 seq, s.memErr a pa status = (s.report evMEMERR (s.ctxid (agentSlot a)) 0 src 0 pa i0 0).kill (agentSlot a) 2 pa seq :=
  ⟨_, _, _, rfl⟩

theorem State.memErr_used (s : State) (a : Agent) (pa status y : Nat) :
    ((s.memErr a pa status).ctx y).used = if y = agentSlot a then false else (s.ctx y).used := by
  obtain ⟨src, i0, seq, e⟩ := s.memErr_eq a pa status
  rw [e, State.kill_ctx, State.report_keeps (fun s => (s.ctx y).used) (fun _ _ => rfl)]

/-- Memory, its unreadable blocks and the retired cores are none of a failing access's business. -/
theorem State.memErr_rest (s : State) (a : Agent) (pa status : Nat) :
    (s.memErr a pa status).mem = s.mem ∧ (s.memErr a pa status).bad = s.bad ∧ (s.memErr a pa status).retired = s.retired := by
  obtain ⟨src, i0, seq, e⟩ := s.memErr_eq a pa status
  rw [e, State.kill_mem, State.kill_bad, State.kill_retired]
  exact ⟨State.report_keeps State.mem (fun _ _ => rfl) _ _ _ _ _ _ _ _ _, State.report_keeps State.bad (fun _ _ => rfl) _ _ _ _ _ _ _ _ _,
    State.report_keeps State.retired (fun _ _ => rfl) _ _ _ _ _ _ _ _ _⟩

theorem State.memErr_memerr (s : State) (a : Agent) (pa status : Nat) :
    (s.memErr a pa status).hasEvent (fun e => e.typ = 11 ∧ e.ctxid = s.ctxid (agentSlot a) ∧ e.result = pa) := by
  obtain ⟨src, i0, seq, e⟩ := s.memErr_eq a pa status
  rw [e]
  exact ((State.report_hasEvent _ _ _ _ _ _ _ _ _).imp (fun e ⟨ht, hc, _, _, _, hr, _⟩ => ⟨ht, hc, hr⟩)).kill _ _ _ _

theorem State.memErr_killed (s : State) (a : Agent) (pa status : Nat) (hx : (s.ctx (agentSlot a)).used = true) :
    (s.memErr a pa status).hasEvent (fun e => e.typ = 3 ∧ e.ctxid = s.ctxid (agentSlot a) ∧ e.result = 2 ∧ e.info0 = pa) := by
  obtain ⟨src, i0, seq, e⟩ := s.memErr_eq a pa status
  rw [e]
  have hk := State.kill_hasEvent (s.report evMEMERR (s.ctxid (agentSlot a)) 0 src 0 pa i0 0) (agentSlot a) 2 pa seq
    (by rw [State.report_keeps (fun s => (s.ctx (agentSlot a)).used) (fun _ _ => rfl)]; exact hx)
  rwa [State.report_keeps (fun s => s.ctxid (agentSlot a)) (fun _ _ => rfl)] at hk

/-! ### Errors in memory (R43, R193) -/

theorem State.spoil_eq (s : State) (pa : Nat) : s.spoil pa = { s with bad := (s.spoil pa).bad } := by
  unfold State.spoil
  split <;> rfl

theorem State.mem_spoil_bad (s : State) (pa b : Nat) :
    b ∈ (s.spoil pa).bad ↔ b ∈ s.bad ∨ (b = pa / 512 ∧ isHbm pa = true ∧ s.ownFid (pa >>> 37) = true) := by
  unfold State.spoil
  split
  · next h =>
    obtain ⟨h1, h2⟩ := Bool.and_eq_true_iff.1 h
    rw [mem_sins]
    simp only [h1, h2, and_true]
    exact or_comm
  · next h => simp_all

theorem State.forward_eq (n : Nat) (s : State) (node : Node) (f : Flit) (r : Bool) : ∃ w b, s.forward n node f r = { s with waitq := w, inbox := b } := by
  induction n generalizing node with
  | zero => exact ⟨_, _, rfl⟩
  | succ n ih =>
    unfold State.forward
    split
    · exact ⟨_, _, rfl⟩
    · exact ih _
    · exact ⟨_, _, rfl⟩
    · exact ⟨_, _, rfl⟩

theorem State.injected_eq (s : State) (f : Flit) : ∃ k, s.injected f = { s with txns := k } := by
  unfold State.injected
  split
  · exact ⟨_, rfl⟩
  · exact ⟨_, rfl⟩

/-- A request that meets an error at its target is answered: the fabric alone changes. -/
theorem State.answerError_eq (s : State) (i : Nat) : ∃ w b k, s.answerError i = { s with waitq := w, inbox := b, txns := k } := by
  unfold State.answerError
  split
  · exact ⟨_, _, _, rfl⟩
  · next d f _ =>
    obtain ⟨k, e⟩ := State.injected_eq { s with inbox := ldel s.inbox i } f
    rw [e]
    obtain ⟨w, b, e'⟩ := State.forward_eq 3 { s with inbox := ldel s.inbox i, txns := k } (.die d) (respond f (respType f.typ) opMEMERR []) false
    exact ⟨w, b, k, e'⟩

/-- An error that an agent's access meets, at a request's target or where it is made. -/
theorem State.agentError_spec (s : State) (a : Agent) (pa : Nat) (hx : (s.ctx (agentSlot a)).used = true) :
    (s.agentError a pa).mem = s.mem ∧
      (∀ b, b ∈ (s.agentError a pa).bad ↔ b ∈ s.bad ∨ (b = pa / 512 ∧ isHbm pa = true ∧ s.ownFid (pa >>> 37) = true)) ∧
      (∀ y, y ≠ agentSlot a → (s.ctx y).used = true → ((s.agentError a pa).ctx y).used = true) ∧
      (s.errorAt a pa = none → ((s.agentError a pa).ctx (agentSlot a)).used = false ∧
        (s.agentError a pa).hasEvent (fun e => e.typ = 11 ∧ e.ctxid = s.ctxid (agentSlot a) ∧ e.result = pa) ∧
        (s.agentError a pa).hasEvent (fun e => e.typ = 3 ∧ e.ctxid = s.ctxid (agentSlot a) ∧ e.result = 2 ∧ e.info0 = pa)) ∧
      (∀ i, s.errorAt a pa = some i →
        (s.agentError a pa).ctxs = s.ctxs ∧ (s.agentError a pa).strands = s.strands ∧ (s.agentError a pa).arb = s.arb) := by
  have bad := s.mem_spoil_bad pa
  have spoilt := s.spoil_eq pa
  generalize (s.spoil pa).bad = bs at bad spoilt
  unfold State.agentError
  rw [spoilt]
  cases h : s.errorAt a pa with
  | some i =>
    obtain ⟨w, b, k, e⟩ := State.answerError_eq { s with bad := bs } i
    dsimp only
    rw [e]
    exact ⟨rfl, bad, fun _ _ hy => hy, by simp, fun _ _ => ⟨rfl, rfl, rfl⟩⟩
  | none =>
    obtain ⟨hm, hb, -⟩ := State.memErr_rest { s with bad := bs } a pa opMEMERR
    have used := State.memErr_used { s with bad := bs } a pa opMEMERR
    refine ⟨hm, by rw [hb]; exact bad, fun y hy hu => ?_, fun _ => ⟨?_, State.memErr_memerr _ _ _ _, State.memErr_killed _ _ _ _ hx⟩, by simp⟩
    · rw [used, if_neg hy]; exact hu
    · rw [used, if_pos rfl]

/-! ### Retirement (R21-R23) -/

/-- The logical core resident on a core that retires: it leaves its core where it has stopped for a pre-emption, else its context is
killed (R131). -/
def State.vacate (s : State) (b : Nat) : State :=
  if b = 0 then s else if s.stoppedLc (b - 1) then s.detach (b - 1) else s.memErr (.engine (b - 1) 0) 0 opMEMERR

theorem State.vacate_rest (s : State) (b : Nat) : (s.vacate b).mem = s.mem ∧ (s.vacate b).retired = s.retired := by
  unfold State.vacate
  split
  · exact ⟨rfl, rfl⟩
  · split
    · obtain ⟨-, -, st, lcs, cs, bs, e⟩ := s.detach_spec (b - 1)
      rw [e]
      exact ⟨rfl, rfl⟩
    · obtain ⟨hm, -, hr⟩ := s.memErr_rest (.engine (b - 1) 0) 0 opMEMERR
      exact ⟨hm, hr⟩

theorem State.vacate_resident (s : State) (l : Nat) :
    (s.stoppedLc l = false → ((s.vacate (l + 1)).ctx (slotOf l)).used = false) ∧
      (s.stoppedLc l = true → ((s.vacate (l + 1)).ctx (slotOf l)).used = (s.ctx (slotOf l)).used ∧ ((s.vacate (l + 1)).lc l).core = none) := by
  unfold State.vacate
  rw [if_neg (Nat.succ_ne_zero l), Nat.add_sub_cancel]
  constructor
  · intro h
    rw [h, if_neg (by simp), State.memErr_used]
    exact if_pos rfl
  · intro h
    rw [if_pos h]
    obtain ⟨hc, hu, -⟩ := s.detach_spec l
    exact ⟨hu _, hc⟩

theorem execCoreRetirement_eq (s : State) (die core : Nat) (hd : die < 8) (hc : core < 152) (hr : (die * 152 + core) ∉ s.retired)
    (hp : s.power = .ready) : execCoreRetirement die core s =
      .next (({ s.vacate (tget 0 s.busy (die * 152 + core)) with
        retired := sins (die * 152 + core) (s.vacate (tget 0 s.busy (die * 152 + core))).retired }.report evRETIRE 0xFFFF 0 die 0 die core 0).replaced
          (fun s => { s with sparesBit := s.sparesBit || s.noSpare die })) := by
  unfold execCoreRetirement
  dsimp only
  rw [if_neg]
  · rfl
  · simp only [Config.coresPhys, List.contains_iff_mem, hp, not_or, ne_eq, not_true_eq_false, not_false_eq_true, and_true]
    exact ⟨by omega, by omega, hr⟩

/-! ### Heat (R15, R16) -/

/-- The arbiter, memory and what goes with memory are all that a write to the log changes. -/
theorem State.writeEvent_eq (s : State) : ∃ sw m p v b z c l a, s.writeEvent =
    { s with hostSaw := sw, mem := m, past := p, vtime := v, bad := b, zips := z, ctxs := c, lines := l, arb := a } := by
  unfold State.writeEvent
  split
  · exact ⟨_, _, _, _, _, _, _, _, _, rfl⟩
  · next e t _ =>
    dsimp only
    obtain ⟨m, p, v, b, z, c, l, h⟩ := State.pwrite_eq (s.told e) none false
      (hostPa ((s.arb.logBase + 64 * (e.seq % 2 ^ s.arb.logEnt)) % 2 ^ 48)) { e with ovw := !s.arb.room e }.entry
    rw [h]
    exact ⟨_, m, p, v, b, z, c, l, _, rfl⟩

/-- What neither memory nor the arbiter nor a kill touches stands in the flushing of the log as it was. -/
theorem State.flushLog_keeps {β : Type} (p : State → β) (h : ∀ s : State, p s.writeEvent = p s) (n : Nat) (s : State) :
    p (State.flushLog n s) = p s := by
  induction n generalizing s with
  | zero => rfl
  | succ n ih =>
    unfold State.flushLog
    split
    · rfl
    · rw [ih, h]

theorem State.writeEvent_temps_retired (s : State) : (s.writeEvent.temps, s.writeEvent.retired) = (s.temps, s.retired) := by
  obtain ⟨sw, m, p, v, b, z, c, l, a, h⟩ := s.writeEvent_eq
  rw [h]

theorem State.sense_eq (s : State) {die sensor : Nat} (reading : W16) (hd : die < 8) (hs : sensor < 1024) :
    s.sense die sensor reading = { s with temps := tset none s.temps (die * 1024 + sensor) (some reading) } := if_pos ⟨hd, hs⟩

/-- A trip resets the package: no context or strand is left, the retired cores stay, and the sensor's reading is noted (R16). -/
theorem State.trip_spec (s : State) (die sensor : Nat) (reading : W16) :
    (s.trip die sensor reading).power = .inReset ∧ (s.trip die sensor reading).ctxs = [] ∧ (s.trip die sensor reading).strands = [] ∧
      (s.trip die sensor reading).retired = (s.sense die sensor reading).retired ∧
      (s.trip die sensor reading).temps = (s.sense die sensor reading).temps := by
  have keeps : ((s.trip die sensor reading).temps, (s.trip die sensor reading).retired) =
      ((s.sense die sensor reading).temps, (s.sense die sensor reading).retired) := by
    have kills : ∀ (l : List Nat) (u : State),
        ((l.foldl (fun s x => s.kill x 4 0 0) u).temps, (l.foldl (fun s x => s.kill x 4 0 0) u).retired) = (u.temps, u.retired) :=
      foldl_keeps (fun s : State => (s.temps, s.retired)) _ (fun u x => by rw [State.kill_temps, State.kill_retired])
    have flush : ∀ u : State, (((if u.arb.logOn then u.flushLog (u.arb.held.length + u.arb.waiting.length) else u) : State).temps,
        ((if u.arb.logOn then u.flushLog (u.arb.held.length + u.arb.waiting.length) else u) : State).retired) = (u.temps, u.retired) := by
      intro u
      split
      · exact State.flushLog_keeps (fun s : State => (s.temps, s.retired)) State.writeEvent_temps_retired _ u
      · rfl
    unfold State.trip
    exact (flush _).trans ((kills _ _).trans (State.report_keeps (fun s : State => (s.temps, s.retired)) (fun _ _ => rfl) _ _ _ _ _ _ _ _ _))
  exact ⟨rfl, rfl, rfl, congrArg Prod.snd keeps, congrArg Prod.fst keeps⟩

/-! ### The statement -/

theorem State.linkLanes_spec (s : State) (link lanes : Nat) (hl : link < 4) (hne : s.ablum.getD link 0 ≠ lanes) :
    s.linkLanes link lanes = { s with ablum := (s.linkLanes link lanes).ablum, arb := (s.linkLanes link lanes).arb } ∧
      (s.linkLanes link lanes).ablum = s.ablum.set link lanes ∧
      (s.linkLanes link lanes).hasEvent (fun e => e.typ = 9 ∧ e.result = link ∧ e.info0 = lanes) := by
  have set : ∀ l : List Nat, lmod (fun _ => lanes) l link = l.set link lanes := fun l => by
    rw [lmod_eq_modify, List.set_eq_modify]
  unfold State.linkLanes
  rw [if_pos ⟨hl, hne⟩]
  refine ⟨?_, ?_, (State.report_hasEvent _ _ _ _ _ _ _ _ _).imp (fun e ⟨ht, _, _, _, _, hr, hi⟩ => ⟨ht, hr, hi⟩)⟩
  · rw [State.report_eq]
  · rw [State.report_keeps State.ablum (fun _ _ => rfl)]
    exact set _

theorem State.hbmExhausted_spec (s : State) :
    let t := s.replaced (fun s => { s with hbmBit := true })
    t = { s with hbmBit := true, arb := t.arb } ∧ (s.hbmBit = false → t.hasEvent (fun e => e.typ = 7 ∧ e.result = t.rplc)) ∧
      (s.hbmBit = true → t = s) := by
  refine ⟨?_, fun h => ?_, fun h => ?_⟩
  · unfold State.replaced
    dsimp only
    split
    · rfl
    · rw [State.report_eq]
  · have ne : ({ s with hbmBit := true } : State).rplc ≠ s.rplc := by
      unfold State.rplc
      rw [h]
      cases s.sparesBit <;> cases s.lanesBit <;> simp
    rw [State.replaced_keeps State.rplc (fun _ _ => rfl)]
    unfold State.replaced
    dsimp only
    rw [if_neg ne]
    exact (State.report_hasEvent _ _ _ _ _ _ _ _ _).imp (fun e ⟨ht, _, _, _, _, hr, _⟩ => ⟨ht, hr⟩)
  · have e : ({ s with hbmBit := true } : State) = s := by rw [← h]
    unfold State.replaced
    dsimp only
    rw [e, if_pos rfl]

/-- A sensor's reading is noted, and no other (R26). -/
theorem State.sense_temps (s : State) {die sensor : Nat} (reading : W16) (hd : die < 8) (hs : sensor < 1024) (k : Nat) :
    tget none (s.sense die sensor reading).temps k = if k = die * 1024 + sensor then some reading else tget none s.temps k := by
  rw [s.sense_eq reading hd hs]
  exact tget_tset _ _ _ _ _

/-- A block's sensor at 110 degrees or more, or a die's own, trips (R16). -/
theorem exec_trips (s : State) {die block : Nat} {reading : W16} {i : Instr} (hd : die < 8) (hr : 1760 ≤ reading.toInt) (hp : s.power ≠ .off)
    (hq : s.power ≠ .inReset) (hi : (i = .thermalTrip die reading ∧ block = 511) ∨ (i = .blockOverheat die ⟨block, reading⟩ ∧ block < 511)) :
    exec i s = .next (s.trip die block reading) := by
  have trips : ∀ b ≤ 511, s.trips die b reading = true := by
    intro b hb
    simp [State.trips, tripSensor, hd, hr, hp, hq, hb]
  rcases hi with ⟨rfl, rfl⟩ | ⟨rfl, hb⟩
  · simp [exec, execThermalTrip, tripSensor, trips 511 (Nat.le_refl _)]
  · simp [exec, execBlockOverheat, trips block (by omega)]

/-- A block between 100 and 110 degrees throttles its clock (R15). -/
theorem exec_overheats (s : State) {die block : Nat} {reading : W16} (hd : die < 8) (hb : block < 511) (hl : 1600 < reading.toInt)
    (hh : reading.toInt < 1760) (hn : (die, block) ∉ s.throttled) :
    exec (.blockOverheat die ⟨block, reading⟩) s = .next { s.sense die block reading with throttled := s.throttled ++ [(die, block)] } := by
  have cool : s.trips die block reading = false := by
    have : ¬1760 ≤ reading.toInt := by omega
    simp [State.trips, this]
  simp [exec, execBlockOverheat, cool, tripSensor, hd, hb, hl, hn]

/-- A throttled block below 97 degrees restores its clock (R15). -/
theorem exec_cools (s : State) {die block : Nat} {reading : W16} (hl : reading.toInt < 1552) (hn : (die, block) ∈ s.throttled) :
    exec (.blockCooled die ⟨block, reading⟩) s =
      .next { s.sense die block reading with throttled := s.throttled.filter (fun e => e != (die, block)) } := by
  simp [exec, execBlockCooled, hl, hn]

/-- An error of an agent of a context that exists is met by the agent's access (R43). -/
theorem exec_uncorrectableError (s : State) (a : Agent) (x pa : Nat) (hx : (s.ctx x).used = true)
    (ha : (∃ t, a = .strand t ∧ (s.strand t).occ = true ∧ x = t / 4 / 4096) ∨
      (∃ l, x = l / 4096 ∧ ((∃ k, a = .engine l k) ∨ a = .bellows l ∨ a = .sketch l ∨ a = .walker l))) :
    exec (.uncorrectableError a pa) s = .next (s.agentError a pa) ∧ x = agentSlot a := by
  rcases ha with ⟨t, rfl, ho, rfl⟩ | ⟨l, rfl, ⟨k, rfl⟩ | rfl | rfl | rfl⟩
  · exact ⟨by simp [exec, execUncorrectableError, ho], rfl⟩
  all_goals exact ⟨by simp only [exec, execUncorrectableError, slotOf, hx, if_true], rfl⟩

/-- Settles O40: each fault by the lemma about its step; a killed context is one of `State.kill_eq`. -/
theorem hardwareFaults : Obligations.HardwareFaults := by
  intro s
  refine ⟨fun die core hd hc hr hp => ?_, fun die stack => ?_, fun link lanes hl hlen hlanes => ⟨fun hne => ?_, fun hne => ?_⟩,
    fun a x pa hx ha => ?_, fun die block reading i hd hr hp hq hi => ?_, fun die block reading hd hb hl hh hn => ?_,
    fun die block reading hd hb hl hn => ?_⟩
  · obtain ⟨hm, hret⟩ := s.vacate_rest (tget 0 s.busy (die * 152 + core))
    refine ⟨_, execCoreRetirement_eq s die core hd hc hr hp, fun n => ?_, ?_, ?_, fun l hbusy => ?_⟩
    · rw [State.replaced_keeps State.retired (fun _ _ => rfl)]
      dsimp only
      rw [State.report_keeps State.retired (fun _ _ => rfl)]
      dsimp only
      rw [mem_sins, hret]
    · rw [State.replaced_keeps State.mem (fun _ _ => rfl)]
      dsimp only
      rw [State.report_keeps State.mem (fun _ _ => rfl)]
      exact hm
    · exact ((State.report_hasEvent _ _ _ _ _ _ _ _ _).imp (fun e ⟨ht, hc, _, hs, _, hr, hi⟩ => ⟨ht, hc, hs, hr, hi⟩)).replaced _ rfl
    · rw [State.replaced_keeps (fun u : State => (u.ctx (l / 4096)).used) (fun _ _ => rfl),
        State.replaced_keeps (fun u : State => (u.lc l).core) (fun _ _ => rfl)]
      show (_ → (State.ctx (State.report _ _ _ _ _ _ _ _ _) (l / 4096)).used = false) ∧
        (_ → (State.ctx (State.report _ _ _ _ _ _ _ _ _) (l / 4096)).used = _ ∧ (State.lc (State.report _ _ _ _ _ _ _ _ _) l).core = none)
      rw [State.report_keeps (fun u : State => (u.ctx (l / 4096)).used) (fun _ _ => rfl),
        State.report_keeps (fun u : State => (u.lc l).core) (fun _ _ => rfl), hbusy]
      exact s.vacate_resident l
  · exact ⟨_, rfl, s.hbmExhausted_spec⟩
  · have e : exec (.ablumLinkRetrained link lanes) s = .next (s.linkLanes link lanes) := by
      simp [exec, execAblumLinkRetrained, Nat.min_eq_left hlanes]
    exact ⟨_, e, s.linkLanes_spec link lanes hl hne⟩
  · exact ⟨_, rfl, s.linkLanes_spec link 0 hl hne⟩
  · obtain ⟨e, rfl⟩ := exec_uncorrectableError s a x pa hx ha
    exact ⟨_, e, s.agentError_spec a pa hx⟩
  · obtain ⟨h1, h2, h3, h4, h5⟩ := s.trip_spec die block reading
    have hs : block < 1024 := by omega
    refine ⟨_, exec_trips s hd hr hp hq hi, h1, h2, h3, ?_, fun k => ?_⟩
    · rw [h4, s.sense_eq reading hd hs]
    · rw [h5, s.sense_temps reading hd hs]
  · have hs : block < 1024 := by omega
    refine ⟨_, exec_overheats s hd hb hl hh hn, ?_, fun e => ?_, s.sense_temps reading hd hs⟩
    · rw [s.sense_eq reading hd hs]
    · rw [List.mem_append, List.mem_singleton, or_comm]
  · have hs : block < 1024 := by omega
    refine ⟨_, exec_cools s hl hn, ?_, fun e => ?_, s.sense_temps reading hd hs⟩
    · rw [s.sense_eq reading hd hs]
    · rw [List.mem_filter, bne_iff_ne, and_comm]

end Sys2Proof.Machine
end

section
/-! SUPPORT. Records as bytes: little-endian fields of byte strings put together from parts, and of memory where such a string has been
written (R4, R73, R76). -/

namespace Sys2Proof.Machine

@[simp] theorem leBytes_length (n x : Nat) : (leBytes n x).length = n := by
  induction n generalizing x with
  | zero => rfl
  | succ n ih => simp [leBytes, ih]

theorem leNat_leBytes (n x : Nat) : leNat (leBytes n x) = x % 2 ^ (8 * n) := by
  induction n generalizing x with
  | zero => simp [leBytes, leNat, Nat.mod_one]
  | succ n ih =>
    have h : 2 ^ (8 * (n + 1)) = 256 * 2 ^ (8 * n) := by rw [show 8 * (n + 1) = 8 + 8 * n by ring, Nat.pow_add]
    rw [leBytes, leNat, ih, h, Nat.mod_mul, BitVec.toNat_ofNat]

/-- The first field of a string. -/
theorem fld_head (n x : Nat) (r : List Byte) : fld (leBytes n x ++ r) 0 n = x % 2 ^ (8 * n) := by
  rw [fld_append_left _ _ _ _ (by simp), fld, slice, List.drop_zero, List.take_of_length_le (by simp), leNat_leBytes]

theorem fld_single (n x : Nat) : fld (leBytes n x) 0 n = x % 2 ^ (8 * n) := by simpa using fld_head n x []

/-- A field behind the first part of a string. -/
theorem fld_append_right (l r : List Byte) (n k : Nat) (h : l.length ≤ n) : fld (l ++ r) n k = fld r (n - l.length) k := by
  rw [fld, slice_append_right _ _ _ _ h]
  rfl

theorem fld_skip (m x : Nat) (r : List Byte) (n k : Nat) (h : m ≤ n) : fld (leBytes m x ++ r) n k = fld r (n - m) k := by
  rw [fld_append_right _ _ _ _ (by simpa using h), leBytes_length]

/-- A field of one of several parts of equal length. -/
theorem fld_flatMap (f : Nat → List Byte) (c : Nat) (hf : ∀ i, (f i).length = c) {n i : Nat} (hi : i < n) {j k : Nat} (hj : j + k ≤ c) :
    fld ((List.range n).flatMap f) (c * i + j) k = fld (f i) j k := by
  have parts : ∀ m, ((List.range m).flatMap f).length = c * m := by
    intro m
    simp [List.length_flatMap, hf, Nat.mul_comm]
  obtain ⟨m, rfl⟩ : ∃ m, n = i + 1 + m := ⟨n - (i + 1), by omega⟩
  have cut : (List.range (i + 1 + m)).flatMap f =
      (List.range i).flatMap f ++ (f i ++ ((List.range m).map (fun a => i + 1 + a)).flatMap f) := by
    rw [List.range_add, List.flatMap_append, List.range_succ, List.flatMap_append]
    simp
  rw [cut, fld_append_right _ _ _ _ (by rw [parts]; omega), parts, Nat.add_sub_cancel_left, fld_append_left _ _ _ _ (by rw [hf]; exact hj)]

theorem slice_eq_map (bs : List Byte) {o n : Nat} (h : o + n ≤ bs.length) : slice bs o n = (List.range n).map (fun i => bs.getD (o + i) 0) := by
  apply List.ext_getElem
  · simp [slice]; omega
  · intro i h1 h2
    have hi : i < n := by simpa using h2
    simp [slice, List.getD, List.getElem?_eq_getElem (show o + i < bs.length by omega)]

/-- What a range of memory reads as, inside one that has been written. -/
theorem tread_twrite (m : Mem) (a : Nat) (bs : List Byte) {o n : Nat} (h : o + n ≤ bs.length) :
    tread 0 (twrite 0 m a bs) (a + o) n = slice bs o n := by
  rw [slice_eq_map bs h, tread_eq]
  apply List.map_congr_left
  intro i hi
  have := List.mem_range.1 hi
  rw [tget_twrite, if_pos (by omega)]
  congr 1; omega

theorem leNat_tread_twrite (m : Mem) (a : Nat) (bs : List Byte) {o n : Nat} (h : o + n ≤ bs.length) :
    leNat (tread 0 (twrite 0 m a bs) (a + o) n) = fld bs o n := by
  rw [tread_twrite m a bs h]
  rfl

theorem tread_twrite_whole (m : Mem) (a : Nat) (bs : List Byte) : tread 0 (twrite 0 m a bs) a bs.length = bs := by
  have h := tread_twrite m a bs (o := 0) (n := bs.length) (by omega)
  rw [Nat.add_zero] at h
  rw [h, slice, List.drop_zero, List.take_length]

theorem padTo_length (n : Nat) (bs : List Byte) (h : bs.length ≤ n) : (padTo n bs).length = n := by
  simp [padTo]; omega

end Sys2Proof.Machine
end

section
/-! SUPPORT. The host's range of a package (R56): where each offset lies, and what the host's accesses there read and write (R57, R242, R254). -/

namespace Sys2Proof.Machine

/-! ### Where an offset lies -/

/-- Where an offset of the host's range lies: usable HBM of a die, the second tier, or the management window of die 0 (R56). -/
theorem State.hostMap_some {s : State} {off pa : Nat} (h : s.hostMap off = some pa) :
    (∃ d o, d < 8 ∧ o < Config.hbmUsable ∧ off = d * Config.dieHbm + o ∧ pa = s.diePa d o) ∨
      (∃ o, o < Config.tierSize ∧ off = 0x10000000000 + o ∧ pa = tierPa o) ∨
      ∃ o, o < 4096 ∧ off = 0x1FFFFFFF000 + o ∧ pa = s.diePa 0 (Config.mgmtBase + o) := by
  unfold State.hostMap at h
  split at h
  · next h0 =>
    split at h
    · next h1 =>
      refine .inl ⟨off / Config.dieHbm, off % Config.dieHbm, ?_, h1, ?_, (Option.some.inj h).symm⟩
      · unfold Config.hbmSize Config.dieHbm at *; omega
      · rw [Nat.mul_comm]; exact (Nat.div_add_mod _ _).symm
    · simp at h
  · split at h
    · next h1 => exact .inr (.inl ⟨off - 0x10000000000, by omega, by omega, (Option.some.inj h).symm⟩)
    · split at h
      · next h1 => exact .inr (.inr ⟨off - 0x1FFFFFFF000, by omega, by omega, (Option.some.inj h).symm⟩)
      · simp at h

/-- The bytes of an aligned 8-byte unit of the range lie side by side. -/
theorem State.hostMap_unit (s : State) {a o : Nat} (h : a ≤ o) (hu : o / 8 = a / 8) : s.hostMap o = (s.hostMap a).map (· + (o - a)) := by
  unfold State.hostMap State.diePa tierPa Config.hbmSize Config.dieHbm Config.hbmUsable Config.tierSize Config.mgmtBase
  by_cases h0 : a < 0xB2D05E0000
  · have h0' : o < 0xB2D05E0000 := by omega
    rw [if_pos h0, if_pos h0']
    by_cases h1 : a % (96 * 10 ^ 9) < 0x16540BC000
    · have h1' : o % (96 * 10 ^ 9) < 0x16540BC000 := by omega
      have hd : o / (96 * 10 ^ 9) = a / (96 * 10 ^ 9) := by omega
      rw [if_pos h1, if_pos h1', hd]
      simp only [Option.map_some, Option.some.injEq]
      omega
    · have h1' : ¬o % (96 * 10 ^ 9) < 0x16540BC000 := by omega
      rw [if_neg h1, if_neg h1']
      rfl
  · have h0' : ¬o < 0xB2D05E0000 := by omega
    rw [if_neg h0, if_neg h0']
    by_cases h1 : 0x10000000000 ≤ a ∧ a < 0x10000000000 + 0xEE6B280000 ∧ s.hasTier = true
    · rw [if_pos h1, if_pos ⟨by omega, by omega, h1.2.2⟩]
      simp only [Option.map_some, Option.some.injEq]
      omega
    · have h1' : ¬(0x10000000000 ≤ o ∧ o < 0x10000000000 + 0xEE6B280000 ∧ s.hasTier = true) := fun h' =>
        h1 ⟨by omega, by omega, h'.2.2⟩
      rw [if_neg h1, if_neg h1']
      by_cases h2 : 0x1FFFFFFF000 ≤ a ∧ a < 0x20000000000
      · rw [if_pos h2, if_pos (by omega)]
        simp only [Option.map_some, Option.some.injEq]
        omega
      · rw [if_neg h2, if_neg (by omega)]
        rfl

theorem State.hostMap_injective (s : State) (hp : s.env.pkgNo < 1536) {a b pa : Nat} (ha : s.hostMap a = some pa) (hb : s.hostMap b = some pa) :
    a = b := by
  have h1 := State.hostMap_some ha
  have h2 := State.hostMap_some hb
  unfold State.diePa State.fid tierPa Config.dieHbm Config.hbmUsable Config.tierSize Config.mgmtBase at h1 h2
  rcases h1 with ⟨d, o, hd, ho, e, p⟩ | ⟨o, ho, e, p⟩ | ⟨o, ho, e, p⟩ <;>
    rcases h2 with ⟨d', o', hd', ho', e', p'⟩ | ⟨o', ho', e', p'⟩ | ⟨o', ho', e', p'⟩ <;> omega

/-- The range leads to this package's own memory. -/
theorem State.hostMap_own {s : State} {off pa : Nat} (h : s.hostMap off = some pa) : ¬(pa < 2 ^ 51 ∧ (!s.ownFid (pa >>> 37)) = true) := by
  rintro ⟨hlt, hne⟩
  have own : ∀ d o, d < 8 → o < 2 ^ 37 → s.ownFid ((s.diePa d o) >>> 37) = true := by
    intro d o hd ho
    rw [Nat.shiftRight_eq_div_pow]
    unfold State.ownFid State.diePa State.fid
    rw [beq_iff_eq]
    omega
  rcases State.hostMap_some h with ⟨d, o, hd, ho, -, rfl⟩ | ⟨o, -, -, rfl⟩ | ⟨o, ho, -, rfl⟩
  · rw [own d o hd (by unfold Config.hbmUsable at ho; omega)] at hne
    simp at hne
  · unfold tierPa at hlt
    omega
  · rw [own 0 _ (by omega) (by unfold Config.mgmtBase; omega)] at hne
    simp at hne

/-- An aligned unit lies in the management window as a whole or not at all. -/
theorem State.isMgmt_unit {s : State} {a pa i : Nat} (ha : s.hostMap a = some pa) (hi : a % 8 + i < 8) :
    isMgmt (pa + i) = isMgmt pa := by
  have h := State.hostMap_some ha
  unfold isMgmt
  unfold State.diePa State.fid tierPa Config.dieHbm Config.hbmUsable Config.tierSize at h
  unfold Config.mgmtBase at h ⊢
  rcases h with ⟨d, o, hd, ho, e, p⟩ | ⟨o, ho, e, p⟩ | ⟨o, ho, e, p⟩ <;>
    · congr 1 <;> rw [decide_eq_decide] <;> omega

/-! ### Bytes of the range -/

theorem State.hostByte_none {s : State} {o : Nat} (h : s.hostMap o = none) : s.hostByte o = 0 := by
  unfold State.hostByte
  rw [h]

/-- A byte of the range that has memory behind it is that byte of memory. -/
theorem State.hostByte_mem {s : State} {o pa : Nat} (h : s.hostMap o = some pa) (hm : isMgmt pa = false) : s.hostByte o = tget 0 s.mem pa := by
  unfold State.hostByte
  rw [h]
  dsimp only
  unfold State.pread
  rw [if_neg (State.hostMap_own h), if_neg (by simp [hm]), tread_eq]
  rfl

/-- What stores to memory change leaves the management window. -/
theorem State.hostByte_mgmt {s : State} {o pa : Nat} (h : s.hostMap o = some pa) (hm : isMgmt pa = true) (m : Mem) (p : List Past) (v : Nat)
    (z : List Nat) : ({ s with mem := m, past := p, vtime := v, zips := z } : State).hostByte o = s.hostByte o := by
  unfold State.hostByte
  rw [show ({ s with mem := m, past := p, vtime := v, zips := z } : State).hostMap o = some pa from h, h]
  dsimp only
  unfold State.pread
  rw [if_neg (State.hostMap_own h), if_pos hm,
    if_neg (State.hostMap_own (s := { s with mem := m, past := p, vtime := v, zips := z }) (off := o) h), if_pos hm]
  rfl

/-- What a load notes changes no byte of the range. -/
theorem State.hostByte_load (s : State) (f : Nat) (v : View) (o : Nat) : ({ s with fresh := f, hostView := v } : State).hostByte o = s.hostByte o := by
  unfold State.hostByte
  rw [show ({ s with fresh := f, hostView := v } : State).hostMap o = s.hostMap o from rfl]
  cases h : s.hostMap o with
  | none => rfl
  | some pa =>
    dsimp only
    unfold State.pread
    rw [if_neg (State.hostMap_own h), if_neg (State.hostMap_own (s := { s with fresh := f, hostView := v }) (off := o) h)]
    rfl

/-! ### Host reads (R242, R254) -/

/-- How many stores a load passes over is at most the number of those that it need not have seen; what else changes is the counter of free
values. -/
theorem State.passUnit_spec (s : State) (must : Past → Nat) (unit : Nat) : ∃ f, (s.passUnit must unit).2 = { s with fresh := f } ∧
    (s.passUnit must unit).1 ≤ ((s.past.filter (fun w => w.unit == unit)).takeWhile (fun w => decide (must w < w.time))).length := by
  unfold State.passUnit
  split
  · exact ⟨s.fresh, rfl, Nat.zero_le _⟩
  · exact ⟨s.fresh + 1, rfl, Nat.lt_succ_iff.1 (Nat.mod_lt _ (Nat.succ_pos _))⟩

theorem getElem?_takeWhile {α : Type} (p : α → Bool) (l : List α) {n : Nat} (h : n < (l.takeWhile p).length) :
    ∃ w ∈ l, l[n]? = some w ∧ p w = true := by
  have e : l[n]? = some (l.takeWhile p)[n] := List.prefix_iff_getElem?.1 (List.takeWhile_prefix p) n h
  exact ⟨_, List.mem_of_getElem? e, e, List.mem_takeWhile_imp (List.getElem_mem h)⟩

/-- What a load of the host may return at an offset: what stands there, or what stood there before a store that the host need not have seen
(R242, R254). -/
def State.MayRead (s : State) (o : Nat) (b : Option Byte) : Prop :=
  b = some (s.hostByte o) ∨ ∃ pa, s.hostMap o = some pa ∧ ∃ w ∈ s.past, w.unit = pa / 8 ∧ s.hostFloor w < w.time ∧ b = some (w.old.getD (pa % 8) 0)

/-- What loads of the host make of a state: it must see as much as before, or more. -/
def State.Loaded (s t : State) : Prop :=
  t = { s with fresh := t.fresh, hostView := t.hostView } ∧ ∀ w, s.hostFloor w ≤ t.hostFloor w

theorem State.Loaded.refl (s : State) : s.Loaded s := ⟨rfl, fun _ => Nat.le_refl _⟩

theorem State.Loaded.trans {s t u : State} (h : s.Loaded t) (h' : t.Loaded u) : s.Loaded u := by
  obtain ⟨e, l⟩ := h
  obtain ⟨e', l'⟩ := h'
  refine ⟨?_, fun w => Nat.le_trans (l w) (l' w)⟩
  rw [e']
  generalize u.fresh = f, u.hostView = v
  rw [e]

theorem State.Loaded.mayRead {s t : State} (h : s.Loaded t) {o : Nat} {b : Option Byte} (hb : t.MayRead o b) : s.MayRead o b := by
  obtain ⟨e, l⟩ := h
  generalize t.fresh = f, t.hostView = v at e
  rcases hb with hb | ⟨pa, hm, w, hw, hu, hf, hb⟩
  · refine .inl (hb.trans ?_)
    rw [e, State.hostByte_load]
  · have hf' := Nat.lt_of_le_of_lt (l w) hf
    rw [e] at hm hw
    exact .inr ⟨pa, hm, w, hw, hu, hf', hb⟩

/-- What a load makes the host see only raises what it must see. -/
theorem State.hostSawUnit_loaded (s : State) (unit k : Nat) : s.Loaded (s.hostSawUnit unit k) := by
  have le_max : ∀ (ws : List Past) (m : Nat), m ≤ ws.foldl (fun m w => max m w.cover) m := by
    intro ws
    induction ws with
    | nil => exact fun m => Nat.le_refl m
    | cons w ws ih => exact fun m => Nat.le_trans (Nat.le_max_left _ _) (ih _)
  unfold State.hostSawUnit
  dsimp only
  split
  · exact State.Loaded.refl s
  · next w ws h =>
    refine ⟨rfl, fun v => ?_⟩
    unfold State.hostFloor
    dsimp only
    refine max_le_max (Nat.le_refl _) (max_le_max (le_max _ _) ?_)
    rw [tget_tset]
    split
    · next hv => rw [hv]; exact Nat.le_max_right _ _
    · exact Nat.le_refl _

/-- A load of the host inside one aligned unit. -/
theorem State.hostLoad_spec (s : State) (a n : Nat) (hu : a % 8 + n ≤ 8) :
    (s.hostLoad a n).1.length = n ∧ (∀ i, i < n → s.MayRead (a + i) (s.hostLoad a n).1[i]?) ∧ s.Loaded (s.hostLoad a n).2 := by
  unfold State.hostLoad
  dsimp only
  cases hm : s.hostMap a with
  | none =>
    exact ⟨by simp, fun i hi => .inl (by simp [hi]), State.Loaded.refl s⟩
  | some pa =>
    dsimp only
    obtain ⟨f, hf, hk⟩ := s.passUnit_spec s.hostFloor (pa / 8)
    have loaded : s.Loaded { s with fresh := f } := ⟨rfl, fun _ => Nat.le_refl _⟩
    rw [hf]
    refine ⟨?_, fun i hi => ?_, loaded.trans (State.hostSawUnit_loaded _ _ _)⟩
    · unfold State.before
      split
      · simp
      · split <;> simp
    · unfold State.before
      split
      · exact .inl (by simp [hi])
      · next k hk' =>
        rw [hk'] at hk
        obtain ⟨w, hw, e, hp⟩ := getElem?_takeWhile _ _ (Nat.lt_of_succ_le hk)
        obtain ⟨hw, hwu⟩ := List.mem_filter.1 hw
        split
        · exact .inl (by simp [hi])
        · next w' hw' =>
          obtain rfl : w' = w := Option.some.inj (hw'.symm.trans e)
          have at' : s.hostMap (a + i) = some (pa + i) := by
            rw [s.hostMap_unit (Nat.le_add_right a i) (by omega), hm, Nat.add_sub_cancel_left, Option.map_some]
          by_cases hi8 : (pa + i) / 8 = pa / 8
          · refine .inr ⟨pa + i, at', w', hw, by rw [hi8]; exact beq_iff_eq.1 hwu, by simpa using hp, ?_⟩
            simp [hi, hi8]
          · exact .inl (by simp [hi, hi8])

/-- The units from unit `q` on. -/
def unitsFrom (q m : Nat) : List Nat := (List.range m).map (fun i => (q + i) * 8)

theorem unitsFrom_succ (q m : Nat) : unitsFrom q (m + 1) = q * 8 :: unitsFrom (q + 1) m := by
  unfold unitsFrom
  rw [List.range_succ_eq_map, List.map_cons, List.map_map]
  congr 1
  apply List.map_congr_left
  intro i _
  show (q + (i + 1)) * 8 = (q + 1 + i) * 8
  omega

/-- The loads of `m` units from unit `q` on give the bytes of the range from the later of `off` and the first unit on. -/
theorem State.hostLoads_spec (off n m : Nat) : ∀ (q : Nat) (s : State), off + n ≤ (q + m) * 8 →
    (m ≠ 0 → off < (q + 1) * 8 ∧ (q + m - 1) * 8 < off + n) →
    (State.hostLoads (unitsFrom q m) off n s).1.length = off + n - max (q * 8) off ∧
      (∀ i, i < off + n - max (q * 8) off → s.MayRead (max (q * 8) off + i) (State.hostLoads (unitsFrom q m) off n s).1[i]?) ∧
      s.Loaded (State.hostLoads (unitsFrom q m) off n s).2 := by
  induction m with
  | zero =>
    intro q s h _
    have hz : off + n - max (q * 8) off = 0 := by omega
    rw [hz]
    exact ⟨rfl, fun i hi => absurd hi (Nat.not_lt_zero i), State.Loaded.refl s⟩
  | succ m ih =>
    intro q s h hm
    obtain ⟨h1, h2⟩ := hm (Nat.succ_ne_zero m)
    rw [unitsFrom_succ]
    unfold State.hostLoads
    dsimp only
    generalize ha : max (q * 8) off = a
    generalize hk : min (q * 8 + 8) (off + n) - a = k
    obtain ⟨len1, read1, load1⟩ := s.hostLoad_spec a k (by omega)
    obtain ⟨len2, read2, load2⟩ := ih (q + 1) (s.hostLoad a k).2 (by omega) (fun _ => by omega)
    have hmax : max ((q + 1) * 8) off = (q + 1) * 8 := by omega
    rw [hmax] at len2 read2
    refine ⟨by rw [List.length_append, len1, len2]; omega, fun i hi => ?_, load1.trans load2⟩
    by_cases hik : i < k
    · rw [List.getElem?_append_left (by omega)]
      exact read1 i hik
    · rw [List.getElem?_append_right (by omega), len1]
      have := load1.mayRead (read2 (i - k) (by omega))
      rwa [show (q + 1) * 8 + (i - k) = a + i by omega] at this

/-- A host read, whatever its length. -/
theorem State.hostRead_spec (s : State) (off n : Nat) :
    let r := State.hostLoads (if n = 0 then [] else unitsOf off n) off n s
    r.1.length = n ∧ (∀ i, i < n → s.MayRead (off + i) r.1[i]?) ∧ s.Loaded r.2 := by
  dsimp only
  by_cases hn : n = 0
  · subst hn
    exact ⟨rfl, fun i hi => absurd hi (Nat.not_lt_zero i), State.Loaded.refl s⟩
  · rw [if_neg hn]
    have h := State.hostLoads_spec off n ((off + n - 1) / 8 + 1 - off / 8) (off / 8) s (by omega) (fun _ => by omega)
    rwa [show max (off / 8 * 8) off = off by omega, Nat.add_sub_cancel_left] at h

/-! ### Host writes (R57, R192) -/

/-- `t` differs from `s` in memory, and in what is kept of its stores and its compression, alone. -/
def State.OnlyStores (s t : State) : Prop := ∃ m p v z, t = { s with mem := m, past := p, vtime := v, zips := z }

theorem State.OnlyStores.trans {s t u : State} (h : s.OnlyStores t) (h' : t.OnlyStores u) : s.OnlyStores u := by
  obtain ⟨m, p, v, z, e⟩ := h
  obtain ⟨m', p', v', z', e'⟩ := h'
  exact ⟨m', p', v', z', by rw [e', e]⟩

theorem State.hostPut_eq (s : State) (a : Nat) (bs : List Byte) : s.OnlyStores (s.hostPut a bs) := by
  unfold State.hostPut
  split
  · split
    · exact ⟨_, _, _, _, rfl⟩
    · exact ⟨_, _, _, _, rfl⟩
  · exact ⟨_, _, _, _, rfl⟩

/-- What the range reads as once bytes have been written at an offset: those bytes where memory lies behind, outside the management window. -/
def State.hostWritten (s : State) (a : Nat) (bs : List Byte) (o : Nat) : Byte :=
  match s.hostMap o with
  | some pa => if a ≤ o ∧ o < a + bs.length ∧ isMgmt pa = false then bs.getD (o - a) 0 else s.hostByte o
  | none => 0

/-- A host write inside one aligned unit. -/
theorem State.hostPut_byte (s : State) (hp : s.env.pkgNo < 1536) (a : Nat) (bs : List Byte) (hu : a % 8 + bs.length ≤ 8) (o : Nat) :
    (s.hostPut a bs).hostByte o = s.hostWritten a bs o := by
  unfold State.hostWritten
  cases ho : s.hostMap o with
  | none =>
    obtain ⟨m, p, v, z, e⟩ := s.hostPut_eq a bs
    rw [e]
    exact State.hostByte_none ho
  | some po =>
    dsimp only
    by_cases hmo : isMgmt po = true
    · obtain ⟨m, p, v, z, e⟩ := s.hostPut_eq a bs
      rw [e, State.hostByte_mgmt ho hmo, if_neg (by simp [hmo])]
    rw [Bool.not_eq_true] at hmo
    simp only [hmo, and_true]
    -- an offset among those written lies in the unit of the first
    have same : a ≤ o ∧ o < a + bs.length → ∃ pa, s.hostMap a = some pa ∧ po = pa + (o - a) := by
      rintro ⟨h1, h2⟩
      rw [s.hostMap_unit h1 (by omega), Option.map_eq_some_iff] at ho
      obtain ⟨pa, hpa, e⟩ := ho
      exact ⟨pa, hpa, e.symm⟩
    unfold State.hostPut
    cases ha : s.hostMap a with
    | none =>
      dsimp only
      rw [if_neg]
      intro h
      obtain ⟨pa, hpa, -⟩ := same h
      rw [ha] at hpa
      simp at hpa
    | some pa =>
      dsimp only
      by_cases hc : (isMgmt pa || bs.isEmpty) = true
      · rw [if_pos hc, if_neg]
        intro h
        obtain ⟨pa', hpa, e⟩ := same h
        obtain rfl : pa = pa' := Option.some.inj (ha.symm.trans hpa)
        have hne : bs ≠ [] := by rintro rfl; simp at h; omega
        rw [e, State.isMgmt_unit ha (by omega)] at hmo
        simp [hmo, hne] at hc
      · rw [if_neg hc]
        rw [State.hostByte_mem (s := { (s.note pa bs.length).mark s.vtime (fun w => { w with who := .host, scope := 8 }) with
          mem := twrite 0 s.mem pa bs, zips := _ }) ho hmo, State.hostByte_mem ho hmo, tget_twrite]
        by_cases h : a ≤ o ∧ o < a + bs.length
        · obtain ⟨pa', hpa, e⟩ := same h
          obtain rfl : pa = pa' := Option.some.inj (ha.symm.trans hpa)
          rw [if_pos h, if_pos (by omega), show po - pa = o - a by omega]
        · rw [if_neg h, if_neg]
          rintro ⟨h1, h2⟩
          apply h
          have at' : s.hostMap (a + (po - pa)) = some po := by
            rw [s.hostMap_unit (Nat.le_add_right _ _) (by omega), ha, Option.map_some, Option.some.injEq]
            omega
          have := s.hostMap_injective hp at' ho
          omega

theorem State.hostWritten_nil (s : State) (a o : Nat) : s.hostWritten a [] o = s.hostByte o := by
  unfold State.hostWritten
  cases h : s.hostMap o with
  | none => exact (State.hostByte_none h).symm
  | some pa => exact if_neg (by simp; omega)

/-- Bytes written in two parts are bytes written at once. -/
theorem State.hostWritten_split {s t : State} {a k : Nat} {bs : List Byte} (hk : k ≤ bs.length) (ht : s.OnlyStores t)
    (hb : ∀ o, t.hostByte o = s.hostWritten a (bs.take k) o) (o : Nat) : t.hostWritten (a + k) (bs.drop k) o = s.hostWritten a bs o := by
  have hmap : t.hostMap o = s.hostMap o := by
    obtain ⟨m, p, v, z, rfl⟩ := ht
    rfl
  unfold State.hostWritten at hb ⊢
  rw [hmap, hb]
  cases s.hostMap o with
  | none => rfl
  | some pa =>
    dsimp only
    rw [List.length_drop, List.length_take, Nat.min_eq_left hk]
    by_cases h2 : a + k ≤ o ∧ o < a + k + (bs.length - k) ∧ isMgmt pa = false
    · obtain ⟨l2, u2, m2⟩ := h2
      rw [if_pos ⟨l2, u2, m2⟩, if_pos ⟨by omega, by omega, m2⟩]
      simp only [List.getD, List.getElem?_drop]
      congr 2; omega
    · rw [if_neg h2]
      by_cases h1 : a ≤ o ∧ o < a + k ∧ isMgmt pa = false
      · obtain ⟨l1, u1, m1⟩ := h1
        rw [if_pos ⟨l1, u1, m1⟩, if_pos ⟨l1, by omega, m1⟩]
        simp only [List.getD]
        rw [List.getElem?_take_of_lt (by omega)]
      · rw [if_neg h1, if_neg]
        rintro ⟨l, u, m⟩
        by_cases ho : o < a + k
        · exact h1 ⟨l, ho, m⟩
        · exact h2 ⟨by omega, by omega, m⟩

/-- A host write, cut at aligned units (R254). -/
theorem State.hostPuts_spec (fuel : Nat) : ∀ (s : State) (a : Nat) (bs : List Byte), s.env.pkgNo < 1536 → (a % 8 + bs.length + 7) / 8 ≤ fuel →
    s.OnlyStores ((cutAt 8 fuel a bs).foldl (fun s e => s.hostPut e.1 e.2) s) ∧
      ∀ o, ((cutAt 8 fuel a bs).foldl (fun s e => s.hostPut e.1 e.2) s).hostByte o = s.hostWritten a bs o := by
  induction fuel with
  | zero =>
    intro s a bs _ hf
    obtain rfl : bs = [] := List.length_eq_zero_iff.1 (by omega)
    exact ⟨⟨_, _, _, _, rfl⟩, fun o => (s.hostWritten_nil a o).symm⟩
  | succ fuel ih =>
    intro s a bs hp hf
    unfold cutAt
    by_cases hb : bs.isEmpty = true
    · obtain rfl := List.isEmpty_iff.1 hb
      exact ⟨⟨_, _, _, _, rfl⟩, fun o => (s.hostWritten_nil a o).symm⟩
    · rw [if_neg hb]
      simp only [List.foldl_cons]
      have hne : 0 < bs.length := List.length_pos_iff.2 (by simpa using hb)
      have stores := s.hostPut_eq a (bs.take (8 - a % 8))
      have byte := s.hostPut_byte hp a (bs.take (8 - a % 8)) (by rw [List.length_take]; omega)
      have hp' : (s.hostPut a (bs.take (8 - a % 8))).env.pkgNo < 1536 := by
        obtain ⟨m, q, v, z, e⟩ := stores
        rw [e]
        exact hp
      obtain ⟨stores', byte'⟩ := ih (s.hostPut a (bs.take (8 - a % 8))) (a + (8 - a % 8)) (bs.drop (8 - a % 8)) hp'
        (by rw [List.length_drop]; omega)
      refine ⟨stores.trans stores', fun o => (byte' o).trans ?_⟩
      by_cases hk : 8 - a % 8 ≤ bs.length
      · exact State.hostWritten_split hk stores byte o
      · rw [List.drop_of_length_le (by omega), State.hostWritten_nil, byte, List.take_of_length_le (by omega)]

/-! ### Host memory (R58, R60) -/

theorem zipBlocks_far {pa n : Nat} (h : 2 ^ 51 ≤ pa) : zipBlocks pa n = [] := by
  unfold zipBlocks isHbm
  rw [if_neg]
  simp; omega

/-- The monitored lines after a store to `n` bytes at a physical address: those that it touches are invalidated (R60). -/
def touchLines (pa n : Nat) (ls : List MLine) : List MLine :=
  ls.map (fun l => if hostPa l.addr < pa + n && pa < hostPa l.addr + 64 then { l with inval := true } else l)

/-- A write to an address beyond the dies' memories: host memory or the second tier. -/
theorem State.pwrite_far (s : State) (who : Option Nat) (zip : Bool) {pa : Nat} (bs : List Byte) (h : 2 ^ 51 ≤ pa) (hb : bs ≠ []) :
    ∃ p v, s.pwrite who zip pa bs = { s with
      mem := twrite 0 s.mem pa bs, past := p, vtime := v, lines := if pa < 3 * 2 ^ 50 then touchLines pa bs.length s.lines else s.lines } := by
  have hw : wholeBlocks pa bs.length = [] := by unfold wholeBlocks; rw [zipBlocks_far h]; rfl
  have nomem : (bs.isEmpty || (decide (pa < 2 ^ 51) && !s.ownFid (pa >>> 37)) || isMgmt pa) = false := by
    unfold isMgmt
    simp [hb]
    omega
  have notag : (isHbm pa || isHearth pa) = false := by
    unfold isHbm isHearth
    simp
    omega
  have hbad : s.bad.filter (fun b => !(wholeBlocks pa bs.length).contains b) = s.bad := by rw [hw]; simp
  refine ⟨(s.note pa bs.length).past, (s.note pa bs.length).vtime, ?_⟩
  unfold State.pwrite
  rw [nomem, if_neg (by simp)]
  dsimp only
  simp only [notag, Bool.false_eq_true, if_false, zipBlocks_far h, List.foldl_nil]
  by_cases h3 : pa < 3 * 2 ^ 50
  · rw [if_pos ⟨by omega, h3⟩, if_pos h3]
    simp only [State.note, hbad]
    rfl
  · rw [if_neg (by omega), if_neg h3]
    simp only [State.note, hbad]

end Sys2Proof.Machine
end

section
/-! SUPPORT. Monitored lines and the event log (R60, R75-R77). Settles HostMemoryAndLines. -/

namespace Sys2Proof.Machine

/-! ### Host accesses -/

theorem exec_hostRead (s : State) (hp : s.power ≠ .off) (hq : s.power ≠ .inReset) (off len : Nat) :
    let r := State.hostLoads (if len = 0 then [] else unitsOf off len) off len s
    exec (.hostRead off len) s = .next { r.2 with lastRead := r.1 } := by
  simp [exec, execHostRead, hp, hq]

theorem exec_hostWrite_window (s : State) (hp : s.power ≠ .off) (hq : s.power ≠ .inReset) (off : Nat) (bs : List Byte) :
    exec (.hostWrite (.window off) bs) s =
      .next { (cutAt 8 (bs.length / 8 + 2) off bs).foldl (fun s e => s.hostPut e.1 e.2) s with bad := s.badAfter off bs.length } := by
  simp [exec, execHostWrite, hp, hq]

/-- A write to host memory (R58, R60). -/
theorem exec_hostWrite_host (s : State) {h : Nat} {bs : List Byte} (hb : bs ≠ []) (hl : h + bs.length ≤ 2 ^ 48) :
    ∃ p v, exec (.hostWrite (.host h) bs) s =
      .next { s with mem := twrite 0 s.mem (hostPa h) bs, past := p, vtime := v, lines := touchLines (hostPa h) bs.length s.lines } := by
  have hn := List.length_pos_iff.2 hb
  obtain ⟨p, v, e⟩ := s.pwrite_far none false (pa := hostPa h) bs (by unfold hostPa; omega) hb
  rw [if_pos (by unfold hostPa; omega)] at e
  simp only [exec, execHostWrite, hl, if_true]
  rw [e]
  exact ⟨_, _, rfl⟩

theorem touchLines_host (h n : Nat) (ls : List MLine) :
    touchLines (hostPa h) n ls = ls.map (fun l => if l.addr < h + n ∧ h < l.addr + 64 then { l with inval := true } else l) := by
  unfold touchLines
  apply List.map_congr_left
  intro l _
  by_cases hc : l.addr < h + n ∧ h < l.addr + 64
  · rw [if_pos hc, if_pos]
    rw [Bool.and_eq_true, decide_eq_true_eq, decide_eq_true_eq]
    unfold hostPa
    omega
  · rw [if_neg hc, if_neg]
    rw [Bool.and_eq_true, decide_eq_true_eq, decide_eq_true_eq]
    unfold hostPa
    omega

/-! ### Monitored lines (R60) -/

theorem lmod_eq_set {α : Type} (f : α → α) {l : List α} {i : Nat} {x : α} (h : l[i]? = some x) : lmod f l i = l.set i (f x) := by
  induction l generalizing i with
  | nil => simp at h
  | cons a l ih =>
    cases i with
    | zero => simp only [List.getElem?_cons_zero, Option.some.injEq] at h; rw [h]; rfl
    | succ i => rw [List.getElem?_cons_succ] at h; simp only [lmod, List.set_cons_succ, ih h]

/-- An invalidated line is read again, where it is the log control line or records are taken. -/
theorem exec_monitoredLineInvalidate (s : State) {i : Nat} {l : MLine} (hp : s.power = .ready) (hl : s.lines[i]? = some l)
    (hi : l.inval = true) (hg : i = logLine ∨ s.taking = true) : exec (.monitoredLineInvalidate i) s = .next (s.readLine i) := by
  show execMonitoredLineInvalidate i s = _
  unfold execMonitoredLineInvalidate
  rw [hl]
  exact congrArg _ (if_pos ⟨hp, hi, hg⟩)

/-- The control line: CONSUMED, and the log's place from a valid one (R75). -/
theorem State.readLine_control (s : State) {l : MLine} (hl : s.lines[16]? = some l) :
    s.readLine 16 = { s with lines := s.lines.set 16 { l with inval := false }, arb := s.arb.control (s.lineBytes l) } := by
  unfold State.readLine
  rw [hl]
  simp only [lmod_eq_set _ hl]
  rfl

/-- A record line whose SEQ is the one last taken. -/
theorem State.readLine_same (s : State) {i : Nat} {l : MLine} (hl : s.lines[i]? = some l) (hi : i ≠ 16) (hs : fld (s.lineBytes l) 0 8 = l.seq) :
    s.readLine i = { s with lines := s.lines.set i { l with inval := false } } := by
  unfold State.readLine
  rw [hl]
  simp only [lmod_eq_set _ hl]
  rw [if_neg (show i ≠ logLine from hi), if_pos hs]

/-- A record line whose SEQ differs: the record joins the queue. -/
theorem State.readLine_new (s : State) {i : Nat} {l : MLine} (hl : s.lines[i]? = some l) (hi : i ≠ 16) (hs : fld (s.lineBytes l) 0 8 ≠ l.seq) :
    s.readLine i = { s with
      lines := s.lines.set i { l with inval := false, seq := fld (s.lineBytes l) 0 8 }
      cmdQ := s.cmdQ ++ [⟨l.owner, s.lineBytes l, (s.slotOfId (recCtx (s.lineBytes l))).any (fun x => (s.ctx x).freezeRec.isSome)⟩] } := by
  have hset : (s.lines.set i { l with inval := false })[i]? = some { l with inval := false } := by
    obtain ⟨hlt, -⟩ := List.getElem?_eq_some_iff.1 hl
    exact List.getElem?_set_self hlt
  unfold State.readLine
  rw [hl]
  simp only [lmod_eq_set _ hl, lmod_eq_set _ hset, List.set_set]
  rw [if_neg (show i ≠ logLine from hi), if_neg hs]
  rfl

theorem Arbiter.control_valid (a : Arbiter) (bs : List Byte) (h : fld bs 0 8 ≠ 0 ∧ fld bs 0 8 % 4096 = 0 ∧ 6 ≤ fld bs 8 1 ∧ fld bs 8 1 ≤ 20) :
    a.control bs = { a with consumed := fld bs 16 8, logBase := fld bs 0 8, logEnt := fld bs 8 1, logOn := true } := by
  simp [Arbiter.control, h]

theorem Arbiter.control_invalid (a : Arbiter) (bs : List Byte)
    (h : ¬(fld bs 0 8 ≠ 0 ∧ fld bs 0 8 % 4096 = 0 ∧ 6 ≤ fld bs 8 1 ∧ fld bs 8 1 ≤ 20)) :
    a.control bs = { a with consumed := fld bs 16 8 } := by
  unfold Arbiter.control
  dsimp only
  rw [if_neg]
  simpa [and_assoc] using h

/-! ### The log (R75, R76) -/

theorem Event.entry_length (e : Event) : e.entry.length = 64 := by simp [Event.entry]

/-- The fields of an event's entry (R76). -/
theorem Event.entry_fields (e : Event) (h : e.ovw = false) :
    fld e.entry 0 8 = e.seq % 2 ^ 64 ∧ fld e.entry 8 2 = e.typ % 2 ^ 16 ∧ fld e.entry 10 2 = e.ctxid % 2 ^ 16 ∧
      fld e.entry 12 1 = e.status % 2 ^ 8 ∧ fld e.entry 13 1 = 0 ∧ fld e.entry 14 2 = e.src % 2 ^ 16 ∧ fld e.entry 16 8 = e.tag % 2 ^ 64 ∧
      fld e.entry 24 8 = e.result % 2 ^ 64 ∧ fld e.entry 32 8 = e.info0 % 2 ^ 64 ∧ fld e.entry 40 8 = e.info1 % 2 ^ 64 ∧
      fld e.entry 48 8 = e.time % 2 ^ 64 ∧ fld e.entry 56 8 = 0 := by
  unfold Event.entry
  simp [h, List.append_assoc, fld_skip, fld_head, fld_single]

theorem Arbiter.accept_written (a : Arbiter) : a.accept.written = a.written ∧ a.accept.ovw = a.ovw ∧ (a.waiting = [] → a.accept.held = a.held) := by
  unfold Arbiter.accept
  split
  · exact ⟨rfl, rfl, fun _ => rfl⟩
  · next h => split <;> exact ⟨rfl, rfl, by simp [h]⟩

/-- The place of an event's entry. -/
def Arbiter.entryAt (a : Arbiter) (e : Event) : Nat := (a.logBase + 64 * (e.seq % 2 ^ a.logEnt)) % 2 ^ 48

/-- The first held event is written where the log has room for it. -/
theorem State.writeEvent_room (s : State) {e : Event} {rest : List Event} (hh : s.arb.held = e :: rest) (hr : s.arb.room e = true) :
    ∃ p v, s.writeEvent = { s with
      mem := twrite 0 s.mem (hostPa (s.arb.entryAt e)) { e with ovw := false }.entry, past := p, vtime := v,
      lines := touchLines (hostPa (s.arb.entryAt e)) 64 s.lines, hostSaw := (s.told e).hostSaw,
      arb := { s.arb with held := rest, written := e.seq }.accept } := by
  have hne : { e with ovw := false }.entry ≠ [] := by
    intro h
    simpa [h] using Event.entry_length { e with ovw := false }
  have hlt : (s.arb.logBase + 64 * (e.seq % 2 ^ s.arb.logEnt)) % 2 ^ 48 < 2 ^ 48 := Nat.mod_lt _ (by decide)
  obtain ⟨p, v, w⟩ := (s.told e).pwrite_far none false (pa := hostPa (s.arb.entryAt e)) { e with ovw := false }.entry
    (by unfold hostPa; omega) hne
  rw [if_pos (by unfold hostPa Arbiter.entryAt; omega), Event.entry_length] at w
  refine ⟨p, v, ?_⟩
  unfold State.writeEvent
  rw [hh]
  dsimp only
  rw [hr]
  exact (congrArg (fun t : State => { t with arb := { t.arb with held := rest, written := e.seq }.accept }) w).trans rfl

/-! ### The statement -/

/-- Settles O41: the host's accesses by what they make of each byte of its range, the lines and the log by one equation for each step. -/
theorem hostMemoryAndLines : Obligations.HostMemoryAndLines := by
  refine ⟨fun s hp hq hpkg => ⟨fun off len => ?_, fun off bs => ?_, fun h bs hb hl => ?_, fun off bs => rfl⟩,
    fun s i l hp hl hi => ⟨fun h16 ht => ⟨fun hs => ?_, fun hs => ?_⟩, fun h16 => ⟨fun hok => ?_, fun hok => ?_⟩⟩,
    fun s e rest hh hon => ⟨fun hroom => ?_, fun hfull hex => ?_⟩⟩
  · obtain ⟨hlen, hread, hload, -⟩ := s.hostRead_spec off len
    exact ⟨_, exec_hostRead s hp hq off len, by rw [hload], hlen, hread⟩
  · obtain ⟨⟨m, p, v, z, e⟩, hbyte⟩ := State.hostPuts_spec (bs.length / 8 + 2) s off bs hpkg (by omega)
    refine ⟨_, exec_hostWrite_window s hp hq off bs, ?_, fun b hb => List.mem_of_mem_filter hb, hbyte⟩
    rw [e]
  · obtain ⟨p, v, e⟩ := exec_hostWrite_host s hb hl
    exact ⟨_, e, rfl, fun a => tget_twrite _ _ _ _ _, touchLines_host _ _ _⟩
  · rw [exec_monitoredLineInvalidate s hp hl hi (.inr ht), s.readLine_same hl h16 hs]
  · rw [exec_monitoredLineInvalidate s hp hl hi (.inr ht), s.readLine_new hl h16 hs]
    rfl
  · subst h16
    rw [exec_monitoredLineInvalidate s hp hl hi (.inl rfl), s.readLine_control hl, Arbiter.control_valid s.arb (s.lineBytes l) hok]
    rfl
  · subst h16
    rw [exec_monitoredLineInvalidate s hp hl hi (.inl rfl), s.readLine_control hl, Arbiter.control_invalid s.arb (s.lineBytes l) hok]
    rfl
  · have hr : s.arb.room e = true := decide_eq_true hroom
    obtain ⟨p, v, w⟩ := s.writeEvent_room hh hr
    have ex : exec .eventLogWrite s = .next s.writeEvent := by
      show execEventLogWrite s = _
      unfold execEventLogWrite
      rw [hh]
      simp [hon, hr]
    rw [w] at ex
    obtain ⟨hw, ho, hheld⟩ := Arbiter.accept_written { s.arb with held := rest, written := e.seq }
    have field : ∀ o n, o + n ≤ 64 → leNat (tread 0 (twrite 0 s.mem (hostPa (s.arb.entryAt e)) { e with ovw := false }.entry)
        (hostPa (s.arb.entryAt e) + o) n) = fld { e with ovw := false }.entry o n :=
      fun o n h => leNat_tread_twrite _ _ _ (by rw [Event.entry_length]; exact h)
    refine ⟨_, ex, ?_, fun a ha => ?_, hw, ho, hheld, rfl⟩
    · have f := Event.entry_fields { e with ovw := false } rfl
      rw [← field 0 8 (by decide), ← field 8 2 (by decide), ← field 10 2 (by decide), ← field 12 1 (by decide), ← field 13 1 (by decide),
        ← field 14 2 (by decide), ← field 16 8 (by decide), ← field 24 8 (by decide), ← field 32 8 (by decide), ← field 40 8 (by decide),
        ← field 48 8 (by decide), ← field 56 8 (by decide)] at f
      exact f
    · dsimp only
      rw [tget_twrite, Event.entry_length]; exact if_neg ha
  · have hr : s.arb.room e = false := decide_eq_false (by omega)
    have hany : s.arb.held.any Event.exempt = false := by
      rw [hh, List.any_eq_false]
      intro x hx
      obtain ⟨h1, h2⟩ := hex x hx
      simpa [Event.exempt, evTHERMAL, evKILLED, h1] using h2
    show execEventLogWrite s = _
    unfold execEventLogWrite
    rw [hany, hh]
    simp [hr]

end Sys2Proof.Machine
end

section
/-! SUPPORT. What leaves the host's queue and the terms of every context as they are: translation and the loads of the launch unit (R65), and
the placement of logical cores (R66). -/

namespace Sys2Proof.Machine

/-! ### States with the same queue and, as far as `p` sees, the same contexts -/

/-- The host's queue is as before, and of every context what `p` sees. -/
def State.Keeps {β : Type} (p : Ctx → β) (s t : State) : Prop := t.cmdQ = s.cmdQ ∧ ∀ x, p (t.ctx x) = p (s.ctx x)

section
variable {α β γ : Type} {p : Ctx → β} {s t u : State}

theorem State.Keeps.refl (p : Ctx → β) (s : State) : s.Keeps p s := ⟨rfl, fun _ => rfl⟩

theorem State.Keeps.trans (h : s.Keeps p t) (h' : t.Keeps p u) : s.Keeps p u :=
  ⟨h'.1.trans h.1, fun x => (h'.2 x).trans (h.2 x)⟩

theorem State.Keeps.map (q : β → γ) (h : s.Keeps p t) : s.Keeps (fun c => q (p c)) t := ⟨h.1, fun x => congrArg q (h.2 x)⟩

theorem State.Keeps.foldl {f : State → α → State} (h : ∀ (s : State) (a : α), s.Keeps p (f s a)) (l : List α) (s : State) :
    s.Keeps p (l.foldl f s) :=
  foldl_rel (State.Keeps p) (State.Keeps.refl p) (fun _ _ _ => State.Keeps.trans) h l s

theorem State.Keeps.ite {c : Prop} [Decidable c] (h : s.Keeps p t) : s.Keeps p (if c then t else s) := by
  split
  · exact h
  · exact State.Keeps.refl p s

/-- A change that `p` does not see. -/
theorem State.Keeps.modCtx {f : Ctx → Ctx} (h : ∀ c, p (f c) = p c) (s : State) (x : Nat) : s.Keeps p (s.modCtx x f) := by
  refine ⟨rfl, fun y => ?_⟩
  show p (tget Ctx.free (tset Ctx.free s.ctxs x (f (s.ctx x))) y) = _
  rw [tget_tset]
  split
  · next e => rw [e, h]
  · rfl

end

theorem State.keeps_setLc {β : Type} (p : Ctx → β) (s : State) (l : Nat) (c : LCore) : s.Keeps p (s.setLc l c) := ⟨rfl, fun _ => rfl⟩

theorem State.keeps_modLc {β : Type} (p : Ctx → β) (s : State) (l : Nat) (f : LCore → LCore) : s.Keeps p (s.modLc l f) := ⟨rfl, fun _ => rfl⟩

theorem State.keeps_modStrand {β : Type} (p : Ctx → β) (s : State) (t : Nat) (f : Strand → Strand) : s.Keeps p (s.modStrand t f) :=
  ⟨rfl, fun _ => rfl⟩

theorem State.keeps_setStrand {β : Type} (p : Ctx → β) (s : State) (t : Nat) (st : Strand) : s.Keeps p (s.setStrand t st) := ⟨rfl, fun _ => rfl⟩

/-- A context but for its groups, what is cached or known of its translations and the bitmap of the pages written. -/
def Ctx.terms (c : Ctx) : Ctx := { c with dirty := [], tlb := [], nodes := [], known := [], groups := [] }

@[simp] theorem Ctx.terms_cache (c : Ctx) (va : Nat) (r : Xl) (ns : List CachedNode) : (c.cache va r ns).terms = c.terms := by
  cases r <;> rfl

/-! ### Physical writes -/

theorem State.tagDirty_keeps (s : State) (who : Option Nat) (frame : Nat) : s.Keeps Ctx.terms (s.tagDirty who frame) := by
  refine State.Keeps.foldl (fun s t => ?_) _ s
  exact State.Keeps.modCtx (by intro; rfl) s _

theorem State.pwrite_keeps (s : State) (who : Option Nat) (zip : Bool) (pa : Nat) (bs : List Byte) : s.Keeps Ctx.terms (s.pwrite who zip pa bs) := by
  have tags : ∀ (b : Bool) (l : List Nat) (u : State), u.Keeps Ctx.terms
      (if b = true then l.foldl (fun s i => s.tagDirty who (pa / 65536 + i)) u else u) := by
    intro b l u
    split
    · exact State.Keeps.foldl (fun s i => s.tagDirty_keeps who _) l u
    · exact State.Keeps.refl _ u
  unfold State.pwrite
  split
  · exact State.Keeps.refl _ s
  · have start : s.Keeps Ctx.terms { s.note pa bs.length with
        mem := twrite 0 s.mem pa bs
        bad := s.bad.filter (fun b => !(wholeBlocks pa bs.length).contains b)
        zips := (zipBlocks pa bs.length).foldl (fun z b => if zip then sins b z else z.filter (fun k => k != b)) s.zips } := ⟨rfl, fun _ => rfl⟩
    have h := start.trans (tags (isHbm pa || isHearth pa) (List.range ((pa + bs.length - 1) / 65536 + 1 - pa / 65536)) _)
    dsimp only
    split
    · exact h.trans ⟨rfl, fun _ => rfl⟩
    · exact h

/-! ### Translation (R182-R187) -/

theorem State.lookup_keeps (s : State) (l va : Nat) : s.Keeps Ctx.terms (s.lookup l va).2 := by
  unfold State.lookup
  dsimp only
  split
  · exact State.Keeps.modCtx (fun c => c.terms_cache _ _ _) s _
  · exact State.Keeps.trans ⟨rfl, fun _ => rfl⟩ (State.Keeps.modCtx (fun c => c.terms_cache _ _ _) s.tick.2 _)

theorem State.orLeaf_keeps (s : State) (l epa bits cur : Nat) : s.Keeps Ctx.terms (s.orLeaf l epa bits cur) := by
  unfold State.orLeaf
  split
  · exact ⟨rfl, fun _ => rfl⟩
  · exact s.pwrite_keeps _ _ _ _

theorem State.setAD_keeps (s : State) (l va : Nat) (a : Acc) (pa e epa level : Nat) : s.Keeps Ctx.terms (s.setAD l va a pa e epa level).2 := by
  unfold State.setAD
  dsimp only
  split
  · exact State.Keeps.refl _ s
  · split
    · exact State.Keeps.refl _ s
    · generalize (if epa < 2 ^ 51 ∧ (!s.ownFid (epa >>> 37)) = true then e else leNat (s.pread epa 8)) = cur
      split
      · exact State.Keeps.refl _ s
      · split
        · exact State.Keeps.refl _ s
        · exact (s.orLeaf_keeps l epa _ cur).trans (State.Keeps.modCtx (fun c => c.terms_cache _ _ _) _ _)

theorem State.xlate_keeps (s : State) (l va : Nat) (a : Acc) : s.Keeps Ctx.terms (s.xlate l va a).2 := by
  have h := s.lookup_keeps l va
  unfold State.xlate
  dsimp only
  generalize s.lookup l va = r at h ⊢
  split
  · exact State.Keeps.refl _ s
  · split
    · repeat' split
      all_goals exact State.Keeps.refl _ s
    · obtain ⟨x, u⟩ := r
      cases x with
      | ok pa e epa level =>
        dsimp only
        split
        · exact h
        · exact h.trans (u.setAD_keeps _ _ _ _ _ _ _)
      | window => exact h
      | fault => exact h
      | err => exact h

theorem State.reach1_keeps (s : State) (c va : Nat) (a : Acc) : s.Keeps Ctx.terms (s.reach1 c va a).2 := by
  have h := s.xlate_keeps c va a
  unfold State.reach1
  generalize s.xlate c va a = r at h ⊢
  obtain ⟨x, u⟩ := r
  cases x <;> exact h

theorem State.reachFrom_keeps (c : Nat) (a : Acc) (fuel : Nat) (s : State) (va n : Nat) :
    s.Keeps Ctx.terms (State.reachFrom c a fuel s va n).2 := by
  induction fuel generalizing s va n with
  | zero => exact State.Keeps.refl _ s
  | succ fuel ih =>
    unfold State.reachFrom
    split
    · exact State.Keeps.refl _ s
    · have h := s.reach1_keeps c va a
      dsimp only
      generalize s.reach1 c va a = r at h ⊢
      obtain ⟨e | l, u⟩ := r
      · exact h
      · have h' := ih u (va + min n (pageLeft va)) (n - min n (pageLeft va))
        dsimp only
        generalize State.reachFrom c a fuel u (va + min n (pageLeft va)) (n - min n (pageLeft va)) = r' at h' ⊢
        obtain ⟨e | l, v⟩ := r'
        · exact h.trans h'
        · exact h.trans h'

/-! ### Loads through translation (R65, R254) -/

theorem State.passUnit_keeps {β : Type} (p : Ctx → β) (s : State) (must : Past → Nat) (unit : Nat) : s.Keeps p (s.passUnit must unit).2 := by
  unfold State.passUnit
  split <;> exact ⟨rfl, fun _ => rfl⟩

theorem State.passUnits_keeps {β : Type} (p : Ctx → β) (s : State) (must : Past → Nat) (pa : Nat) (bs : List Byte) :
    s.Keeps p (s.passUnits must pa bs).2 :=
  foldl_rel (fun r r' : List Byte × State => r.2.Keeps p r'.2) (fun r => State.Keeps.refl p r.2) (fun _ _ _ => State.Keeps.trans)
    (fun r u => r.2.passUnit_keeps p must (u / 8)) _ (bs, s)

theorem State.readLocs_keeps {β : Type} (p : Ctx → β) (must : Nat → Past → Nat) (ps : List (Loc × Nat)) (s : State) :
    s.Keeps p (State.readLocs must ps s).2 := by
  induction ps generalizing s with
  | nil => exact State.Keeps.refl p s
  | cons e ps ih =>
    obtain ⟨pa | w, n⟩ := e
    · exact (s.passUnits_keeps p _ _ _).trans (ih _)
    · exact ih s

theorem State.vreadBy_keeps (s : State) (must : Nat → Past → Nat) (c va n : Nat) : s.Keeps Ctx.terms (s.vreadBy must c va n).2 := by
  have h : s.Keeps Ctx.terms (s.reach c va n .read).2 := State.reachFrom_keeps _ _ _ _ _ _
  unfold State.vreadBy
  generalize s.reach c va n .read = r at h ⊢
  obtain ⟨e | ps, u⟩ := r
  · exact h
  · dsimp only
    split
    · exact h
    · exact (h.trans (State.readLocs_keeps _ must ps u)).trans ⟨rfl, fun _ => rfl⟩

theorem State.vread_keeps (s : State) (c va n : Nat) : s.Keeps Ctx.terms (s.vread c va n).2 := s.vreadBy_keeps _ c va n

/-! ### The launch unit's reads (R65, R87, R88) -/

theorem State.readGroup_keeps (s : State) (x : Nat) (e : List Byte) : s.Keeps Ctx.terms (s.readGroup x e).2 := by
  have h := s.vread_keeps (launchLc x) (fld e 0 8) (8 * cdiv (s.ctx x).nlc 64)
  unfold State.readGroup
  dsimp only
  generalize s.vread (launchLc x) (fld e 0 8) (8 * cdiv (s.ctx x).nlc 64) = r at h ⊢
  split
  · exact State.Keeps.refl _ s
  · split
    · exact State.Keeps.refl _ s
    · obtain ⟨e | bs, u⟩ := r <;> exact h

theorem State.readGroups_keeps (s : State) (x : Nat) : s.Keeps Ctx.terms (s.readGroups x).2 := by
  have h := s.vread_keeps (launchLc x) (s.ctx x).grptab 4096
  unfold State.readGroups
  dsimp only
  generalize s.vread (launchLc x) (s.ctx x).grptab 4096 = r at h ⊢
  split
  · exact State.Keeps.refl _ s
  · obtain ⟨e | t, u⟩ := r
    · exact h
    · refine h.trans (foldl_rel (fun r r' : List Byte × Option (List (List Nat)) × State => r.2.2.Keeps Ctx.terms r'.2.2)
        (fun r => State.Keeps.refl _ r.2.2) (fun _ _ _ => State.Keeps.trans) (fun r _ => ?_) (List.range 255) (t.drop 16, some [], u))
      obtain ⟨bs, gs, v⟩ := r
      cases gs with
      | none => exact State.Keeps.refl _ v
      | some gs =>
        have h := v.readGroup_keeps x (bs.take 16)
        dsimp only
        generalize v.readGroup x (bs.take 16) = r at h ⊢
        obtain ⟨_ | ms, w⟩ := r <;> exact h

theorem State.readGraph_keeps (s : State) (x va : Nat) : s.Keeps Ctx.terms (s.readGraph x va).2 := by
  have h := s.vread_keeps (launchLc x) va 64
  unfold State.readGraph
  generalize s.vread (launchLc x) va 64 = r at h ⊢
  obtain ⟨e | hd, u⟩ := r
  · exact h
  · dsimp only
    split
    · exact h
    · have h1 := u.vread_keeps (launchLc x) (fld hd 8 8) (64 * fld hd 4 1)
      generalize u.vread (launchLc x) (fld hd 8 8) (64 * fld hd 4 1) = r1 at h1 ⊢
      obtain ⟨e | st, v⟩ := r1
      · exact h.trans h1
      · have h2 := v.vread_keeps (launchLc x) (fld hd 16 8) (32 * fld hd 5 1)
        dsimp only
        generalize v.vread (launchLc x) (fld hd 16 8) (32 * fld hd 5 1) = r2 at h2 ⊢
        obtain ⟨e | ct, w⟩ := r2
        · exact (h.trans h1).trans h2
        · exact (h.trans h1).trans h2

/-! ### Placement -/

theorem State.placeOne_keeps {β : Type} (p : Ctx → β) (s : State) (l : Nat) : s.Keeps p (s.placeOne l) := by
  unfold State.placeOne
  dsimp only
  split
  · split <;> exact ⟨rfl, fun _ => rfl⟩
  · exact ⟨rfl, fun _ => rfl⟩

theorem State.placeAll_keeps {β : Type} (p : Ctx → β) (s : State) (x : Nat) : s.Keeps p (s.placeAll x) :=
  State.Keeps.foldl (fun s l => s.placeOne_keeps p l) _ s

end Sys2Proof.Machine
end

section
/-! SUPPORT. CREATE and RESUME (R66, R70, R148, R497): the slot that a context comes to stand in, its terms, and the other contexts. -/

namespace Sys2Proof.Machine

/-- Whether a slot has a context, and its generation. -/
def Ctx.identity (c : Ctx) : Bool × Nat := (c.used, c.gen)

theorem State.Keeps.identity {s t : State} (h : s.Keeps Ctx.terms t) : s.Keeps Ctx.identity t := h.map Ctx.identity

/-! ### A free slot -/

theorem State.freeCtxSlot_some (s : State) {x : Nat} (h : s.freeCtxSlot = some x) : (s.ctx x).used = false ∧ x < 64 := by
  have hmem := List.mem_of_find?_eq_some h
  have hfree := List.find?_some h
  obtain ⟨i, -, rfl⟩ := List.mem_map.1 hmem
  exact ⟨by simpa using hfree, Nat.mod_lt _ (by decide)⟩

/-- Where a context is put in a free slot, and no identity changes from there: its own, and that every other context is still there. -/
theorem State.Keeps.newCtx {s u : State} {x : Nat} {c : Ctx} (h : (s.setCtx x c).Keeps Ctx.identity u) (hx : (s.ctx x).used = false) :
    u.cmdQ = s.cmdQ ∧ (u.ctx x).used = c.used ∧ (u.ctx x).gen = c.gen ∧ ∀ y, (s.ctx y).used = true → (u.ctx y).used = true := by
  have hid : (u.ctx x).identity = c.identity := by simpa using h.2 x
  refine ⟨h.1, congrArg Prod.fst hid, congrArg Prod.snd hid, fun y hy => ?_⟩
  have hne : y ≠ x := by rintro rfl; simp [hx] at hy
  have hidy : (u.ctx y).used = ((s.setCtx x c).ctx y).used := congrArg Prod.fst (h.2 y)
  rw [hidy, State.ctx_setCtx, if_neg hne]
  exact hy

theorem State.orNoSwap_ok {s u : State} {x y : Nat} (h : s.orNoSwap x = .ok (u, y)) : u = s ∧ y = x := by
  unfold State.orNoSwap at h
  split at h
  · exact absurd h (by simp)
  · simpa [eq_comm] using h

theorem State.claim_keeps {β : Type} (p : Ctx → β) (s : State) (x : Nat) (l : List Nat) : s.Keeps p (s.claim x l) := ⟨rfl, fun _ => rfl⟩

/-! ### CREATE -/

/-- A context that CREATE makes has the terms of its descriptor. -/
theorem State.createCtx_ok {s u : State} {a x : Nat} (h : s.createCtx a = .ok (u, x)) :
    (s.ctx x).used = false ∧ x < 64 ∧ (s.setCtx x (ctxOf (s.pread a 64) (tget 1 s.gens x) s.cycle)).Keeps Ctx.terms u := by
  unfold State.createCtx at h
  dsimp only at h
  split at h
  · exact absurd h (by simp)
  split at h
  · exact absurd h (by simp)
  split at h
  · exact absurd h (by simp)
  next y hy =>
  split at h
  · exact absurd h (by simp)
  split at h
  · exact absurd h (by simp)
  have hg := State.readGroups_keeps (s.setCtx y (ctxOf (s.pread a 64) (tget 1 s.gens y) s.cycle)) y
  generalize State.readGroups (s.setCtx y (ctxOf (s.pread a 64) (tget 1 s.gens y) s.cycle)) y = r at h hg
  obtain ⟨_ | gs, v⟩ := r
  · exact absurd h (by simp)
  dsimp only at h hg
  split at h
  · exact absurd h (by simp)
  split at h
  · exact absurd h (by simp)
  next tags _ =>
  obtain ⟨rfl, rfl⟩ := State.orNoSwap_ok h
  obtain ⟨hfree, hlt⟩ := s.freeCtxSlot_some hy
  refine ⟨hfree, hlt, hg.trans (State.Keeps.trans ?_ (State.placeAll_keeps _ _ _))⟩
  refine State.Keeps.trans ?_ (State.claim_keeps _ _ _ _)
  exact State.Keeps.trans (t := { v with tags := tags }) ⟨rfl, fun _ => rfl⟩ (State.Keeps.modCtx (by intro _; rfl) _ _)

/-! ### RESUME: the Hearth storage of an image's regions -/

theorem State.restoreRegion_keeps (root : Nat) (ex : Bool) (anchor : Int) (fuel : Nat) {s t : State} {va : Nat} {bs : List Byte}
    {used used' : List Nat} (h : State.restoreRegion root ex anchor fuel va bs used s = some (used', t)) : s.Keeps Ctx.terms t := by
  induction fuel generalizing s va bs used with
  | zero =>
    obtain ⟨-, rfl⟩ := Prod.mk.inj (Option.some.inj h)
    exact State.Keeps.refl _ _
  | succ fuel ih =>
    unfold State.restoreRegion at h
    dsimp only at h
    split at h
    · obtain ⟨-, rfl⟩ := Prod.mk.inj (Option.some.inj h)
      exact State.Keeps.refl _ _
    split at h
    · exact absurd h (by simp)
    split at h
    · exact absurd h (by simp)
    exact ((s.pwrite_keeps _ _ _ _).trans (State.pwrite_keeps _ _ _ _ _)).trans (ih h)

theorem State.restoreRegions_keeps (root : Nat) (rs : List (Nat × Bool × Int × List Byte)) {used : List Nat} {s t : State}
    (h : State.restoreRegions root rs used s = some t) : s.Keeps Ctx.terms t := by
  induction rs generalizing used s with
  | nil =>
    obtain rfl := Option.some.inj h
    exact State.Keeps.refl _ _
  | cons r rs ih =>
    obtain ⟨va, e, an, bs⟩ := r
    unfold State.restoreRegions at h
    split at h
    · exact absurd h (by simp)
    · next hr => exact (State.restoreRegion_keeps _ _ _ _ hr).trans (ih h)

/-! ### RESUME: what is taken up again -/

theorem State.resumeDrains_keeps {β : Type} (p : Ctx → β) (s : State) (l : Nat) : s.Keeps p (s.resumeDrains l) := by
  refine State.Keeps.foldl (fun s k => ?_) _ s
  split
  · unfold State.prepareRow
    dsimp only
    split
    · exact State.Keeps.refl p s
    · split <;> exact ⟨rfl, fun _ => rfl⟩
  · exact State.Keeps.refl p s

theorem State.fenceLc_keeps {β : Type} (p : Ctx → β) (s : State) (l : Nat) : s.Keeps p (s.fenceLc l) := by
  obtain ⟨st, lcs, e⟩ := s.fenceLc_eq l
  rw [e]
  exact ⟨rfl, fun _ => rfl⟩

theorem State.recall_keeps (s : State) (x : Nat) (u : Unsaid) : s.Keeps Ctx.identity (s.recall x u) := by
  refine State.Keeps.trans (State.Keeps.modCtx (by intro _; rfl) s x) (State.Keeps.foldl (fun s l => ?_) _ _)
  split <;> exact ⟨rfl, fun _ => rfl⟩

theorem State.resumeOpener_keeps {β : Type} (p : Ctx → β) (s : State) (l : Nat) : s.Keeps p (s.resumeOpener l) := by
  unfold State.resumeOpener
  split <;> exact ⟨rfl, fun _ => rfl⟩

theorem State.resumeDigests_keeps (s : State) (x : Nat) : s.Keeps Ctx.identity (s.resumeDigests x) := by
  unfold State.resumeDigests
  split
  · exact State.Keeps.refl _ s
  · refine State.Keeps.foldl (fun s h => ?_) _ s
    exact State.Keeps.trans (t := s.tick.2) ⟨rfl, fun _ => rfl⟩ (State.Keeps.modCtx (by intro _; rfl) _ x)

theorem State.renumber_keeps {β : Type} (p : Ctx → β) (s : State) (x g : Nat) : s.Keeps p (s.renumber x g) := by
  refine State.Keeps.trans (State.Keeps.foldl (fun s' r => ?_) _ s) (State.Keeps.foldl (fun s' r => ?_) _ _)
  · exact (State.Keeps.foldl (fun s'' e => s''.keeps_modLc p _ _) _ s').trans (State.keeps_modLc p _ _ _)
  · exact State.Keeps.foldl (fun s'' k => s''.keeps_modLc p _ _) _ s'

/-! ### RESUME: collectives under way -/

theorem State.collRead_keeps (s : State) (l va n : Nat) : s.Keeps Ctx.terms (s.collRead l va n).2 := by
  have h := s.vread_keeps l va (4 * n)
  unfold State.collRead
  generalize s.vread l va (4 * n) = r at h ⊢
  obtain ⟨_ | _, u⟩ := r <;> exact h

theorem State.collInput_keeps (s : State) (l : Nat) (k : Cmd) (va n : Nat) : s.Keeps Ctx.terms (s.collInput l k va n).2 := by
  have h := s.vreadBy_keeps (s.cmdFloor l k) l va (4 * n)
  unfold State.collInput State.cmdRead
  generalize s.vreadBy (s.cmdFloor l k) l va (4 * n) = r at h ⊢
  obtain ⟨_ | _, u⟩ := r <;> exact h

theorem State.clValues_keeps (s : State) (l : Nat) (k : Cmd) (b r q e n : Nat) (out : Bool) :
    s.Keeps Ctx.terms (s.clValues l k b r q e n out).2 := by
  unfold State.clValues
  dsimp only
  split
  · exact State.Keeps.refl _ s
  · next c _ =>
    cases out with
    | true =>
      rw [if_pos rfl]
      have h := s.collRead_keeps ((s.collRing l k).getD (r % (s.collRing l k).length) l) (clDstAddr c.snap (s.collRing l k).length b q e) n
      generalize s.collRead _ _ _ = r at h ⊢
      obtain ⟨_ | _, u⟩ := r <;> exact h
    | false =>
      rw [if_neg Bool.false_ne_true]
      have h := s.collInput_keeps ((s.collRing l k).getD (r % (s.collRing l k).length) l) c (clSrcAddr c.snap b e) n
      generalize s.collInput _ _ _ _ = r at h ⊢
      obtain ⟨_ | _, u⟩ := r <;> exact h

theorem State.freeBytes_keeps {β : Type} (p : Ctx → β) (s : State) (n : Nat) : s.Keeps p (s.freeBytes n).2 := ⟨rfl, fun _ => rfl⟩

theorem State.clRemake_keeps (s : State) (l : Nat) (k : Cmd) (b t i r : Nat) : s.Keeps Ctx.terms (s.clRemake l k b t i r).2 := by
  unfold State.clRemake
  dsimp only
  split
  · exact State.Keeps.refl _ s
  · next q lo hi _ =>
    split
    · have h := s.clValues_keeps l k b r q (lo + i * clPer k.snap) (min (clPer k.snap) (hi - (lo + i * clPer k.snap))) true
      generalize s.clValues l k b r q (lo + i * clPer k.snap) (min (clPer k.snap) (hi - (lo + i * clPer k.snap))) true = v at h ⊢
      obtain ⟨_ | _, u⟩ := v
      · exact h.trans (u.freeBytes_keeps _ _)
      · exact h
    · split
      · exact s.freeBytes_keeps _ _
      · refine foldl_rel (fun a a' : List Byte × State => a.2.Keeps Ctx.terms a'.2) (fun a => State.Keeps.refl _ a.2)
          (fun _ _ _ => State.Keeps.trans) (fun a v => ?_) _ ([], s)
        have h := a.2.clValues_keeps l k b (r + (s.collRing l k).length - t % (s.collRing l k).length + v) q (lo + i * clPer k.snap)
          (min (clPer k.snap) (hi - (lo + i * clPer k.snap))) false
        generalize a.2.clValues l k b (r + (s.collRing l k).length - t % (s.collRing l k).length + v) q (lo + i * clPer k.snap)
          (min (clPer k.snap) (hi - (lo + i * clPer k.snap))) false = w at h ⊢
        obtain ⟨_ | y, u⟩ := w
        · exact h.trans (u.freeBytes_keeps _ _)
        · dsimp only
          split <;> exact h

theorem State.clFinished_keeps {β : Type} (p : Ctx → β) (s : State) (l : Nat) (k : Cmd) (q b r : Nat) : s.Keeps p (s.clFinished l k q b r) := by
  unfold State.clFinished
  split
  · exact State.Keeps.refl p s
  · split <;> exact ⟨rfl, fun _ => rfl⟩

theorem State.clRevive_keeps (s0 : State) (l : Nat) (k : Cmd) (b : Nat) : s0.Keeps Ctx.terms (s0.clRevive l k b) := by
  unfold State.clRevive
  dsimp only
  split
  · exact State.Keeps.refl _ s0
  · refine State.Keeps.foldl (fun s r => ?_) _ s0
    split
    · exact State.Keeps.refl _ s
    · refine State.Keeps.trans ?_ (State.clFinished_keeps _ _ _ _ _ _ _)
      refine State.Keeps.trans (s.keeps_modLc _ _ _) (State.Keeps.foldl (fun s t => State.Keeps.foldl (fun s i => ?_) _ s) _ _)
      refine State.Keeps.ite ?_
      have h := s.clRemake_keeps l k b t i ((r + (s0.collRing l k).length - 1) % (s0.collRing l k).length)
      generalize s.clRemake _ _ _ _ _ _ = w at h ⊢
      obtain ⟨bs, u⟩ := w
      dsimp only
      split
      · exact h
      · exact h.trans ⟨rfl, fun _ => rfl⟩

theorem State.reviveGroup_keeps (s : State) (x g : Nat) : s.Keeps Ctx.terms (s.reviveGroup x g) := by
  refine State.Keeps.foldl (fun s l => State.Keeps.foldl (fun s k => ?_) _ s) _ s
  split
  · refine State.Keeps.trans (t := s.finishAlone l k) ?_ (State.Keeps.foldl (fun s b => ?_) _ _)
    · unfold State.finishAlone
      split <;> exact ⟨rfl, fun _ => rfl⟩
    · split
      · exact State.Keeps.refl _ s
      · exact s.clRevive_keeps l k b
  · exact State.Keeps.refl _ s

/-! ### RESUME: the whole -/

theorem State.resumeSerial_keeps (s : State) (x : Nat) : s.Keeps Ctx.identity (s.resumeSerial x) := by
  unfold State.resumeSerial
  dsimp only
  split
  · exact State.Keeps.modCtx (by intro _; rfl) s x
  · exact State.Keeps.refl _ s

/-- An image's logical cores, strands and held firings in slot `x`, placed, with the runs of their drains. -/
def State.seated (s : State) (x : Nat) (b : ImageBody) : State :=
  let s := b.lcs.zipIdx.foldl (fun s e =>
    e.1.2.zipIdx.foldl (fun s st => s.setStrand (lcKey x e.2 * 4 + st.2) st.1) (s.setLc (lcKey x e.2) e.1.1)) s
  let s := b.held.foldl (fun s h =>
    s.modStrand (lcKey x h.2.2.1 * 4 + h.2.2.2) (fun st => { st with assign := some (h.1, h.2.1), reserved := true })) s
  let s := s.placeAll x
  (s.lcKeys x).foldl (fun s l => (s.resumeDrains l).fenceLc l) s

theorem State.seated_keeps {β : Type} (p : Ctx → β) (s : State) (x : Nat) (b : ImageBody) : s.Keeps p (s.seated x b) := by
  unfold State.seated
  dsimp only
  refine State.Keeps.trans ?_ (State.Keeps.foldl (fun s l => (s.resumeDrains_keeps _ l).trans (State.fenceLc_keeps _ _ l)) _ _)
  refine State.Keeps.trans ?_ (State.placeAll_keeps _ _ x)
  refine State.Keeps.trans ?_ (State.Keeps.foldl (fun s h => s.keeps_modStrand _ _ _) _ _)
  refine State.Keeps.foldl (fun s e => ?_) _ s
  exact (s.keeps_setLc p _ _).trans (State.Keeps.foldl (fun s st => s.keeps_setStrand p _ _) _ _)

theorem State.install_keeps (s : State) (x : Nat) (b : ImageBody) (u : Option Unsaid) : s.Keeps Ctx.identity (s.install x b u) := by
  unfold State.install
  dsimp only
  refine State.Keeps.trans ?_ (State.resumeSerial_keeps _ x)
  refine State.Keeps.trans ?_ (State.Keeps.foldl (fun s g => (s.reviveGroup_keeps x g).identity) _ _)
  refine State.Keeps.trans (s.seated_keeps _ x b) ?_
  cases u with
  | some u => exact State.recall_keeps _ x u
  | none =>
    exact ((State.Keeps.foldl (fun s l => s.resumeOpener_keeps _ l) _ _).trans (State.resumeDigests_keeps _ x)).trans
      (State.Keeps.foldl (fun s g => s.renumber_keeps _ x g) _ _)

/-- A context that RESUME makes has its slot's generation. -/
theorem State.resumeCtx_ok {s u : State} {a da x : Nat} (h : s.resumeCtx a da = .ok (u, x)) :
    (s.ctx x).used = false ∧ x < 64 ∧ ∃ t c, s.Keeps Ctx.identity t ∧ c.used = true ∧ c.gen = tget 1 s.gens x ∧
      (t.setCtx x c).Keeps Ctx.identity u := by
  unfold State.resumeCtx at h
  dsimp only at h
  generalize (if da = 0 then ([] : List Byte) else s.pread da 64) = d at h
  generalize (if da = 0 then ([] : List Nat) else claimOf d) = lines at h
  split at h
  · exact absurd h (by simp)
  split at h
  · exact absurd h (by simp)
  split at h
  · exact absurd h (by simp)
  next img _ =>
  split at h
  · exact absurd h (by simp)
  next b _ =>
  split at h
  · exact absurd h (by simp)
  split at h
  · exact absurd h (by simp)
  next y hy =>
  split at h
  · exact absurd h (by simp)
  split at h
  · exact absurd h (by simp)
  split at h
  · exact absurd h (by simp)
  next t ht =>
  split at h
  · exact absurd h (by simp)
  split at h
  · exact absurd h (by simp)
  next tags _ =>
  obtain ⟨rfl, rfl⟩ := State.orNoSwap_ok h
  obtain ⟨hfree, hlt⟩ := s.freeCtxSlot_some hy
  have hc : (ctxOfImage img d (tget 1 s.gens x) s.cycle b).identity = (true, tget 1 s.gens x) := by
    unfold ctxOfImage
    dsimp only
    split <;> rfl
  refine ⟨hfree, hlt, t, _, (State.restoreRegions_keeps _ _ ht).identity, congrArg Prod.fst hc, congrArg Prod.snd hc,
    State.Keeps.trans ?_ (State.install_keeps _ _ _ _)⟩
  refine State.Keeps.trans ?_ (State.claim_keeps _ _ _ _)
  exact State.Keeps.trans (t := { t.setCtx x (ctxOfImage img d (tget 1 s.gens x) s.cycle b) with tags := tags }) ⟨rfl, fun _ => rfl⟩
    (State.Keeps.modCtx (by intro _; rfl) _ _)

end Sys2Proof.Machine
end

section
/-! SUPPORT. The host's commands one by one (R61-R72, R93, R497): whose turn it is, and what each that is well formed makes of the state. -/

namespace Sys2Proof.Machine

/-! ### The order of the records (R61, R69) -/

theorem State.turnOf_first {s : State} {r : CmdRec} (ht : s.taking = true) (hw : s.mustWait r = false) : s.turnOf 0 r = true := by
  simp [State.turnOf, State.heldRec, ht, hw]

/-- An earlier record that names the same context goes first. -/
theorem State.turnOf_sameCtx {s : State} {i k : Nat} {q r : CmdRec} (hk : k < i) (hq : s.cmdQ[k]? = some q) (hs : sameCtx q r = true)
    (ha : s.amidFreeze r = false) : s.turnOf i r = false := by
  have held : s.heldRec i r = true := by
    have hany : (s.cmdQ.take i).any (fun q => sameCtx q r) = true :=
      List.any_eq_true.2 ⟨q, List.mem_of_getElem? ((List.getElem?_take_of_lt hk).trans hq), hs⟩
    simp [State.heldRec, ha, hany]
  simp [State.turnOf, held]

/-- An earlier record that is not held goes first. -/
theorem State.turnOf_earlier {s : State} {i k : Nat} {q : CmdRec} (r : CmdRec) (hk : k < i) (hq : s.cmdQ[k]? = some q)
    (hw : s.mustWait q = false) (hs : ∀ p ∈ s.cmdQ.take k, sameCtx p q = false) : s.turnOf i r = false := by
  have free : s.heldRec k q = false := by
    have hany : (s.cmdQ.take k).any (fun p => sameCtx p q) = false := List.any_eq_false.2 (fun p hp => by simp [hs p hp])
    simp [State.heldRec, hw, hany]
  have hall : ((s.cmdQ.take i).zipIdx).all (fun e => s.heldRec e.2 e.1) = false :=
    List.all_eq_false.2 ⟨(q, k), List.mem_zipIdx_iff_getElem?.2 ((List.getElem?_take_of_lt hk).trans hq), by simp [free]⟩
  simp [State.turnOf, hall]

/-! ### A record is performed, or completes for what it is -/

/-- Record `i` has left the queue of `s`, and its CMDDONE is reported after what made `u`. -/
def State.answered (s : State) (i : Nat) (r : CmdRec) (u : State) (ctxid status result : Nat) : State :=
  ({ u with cmdQ := ldel s.cmdQ i } : State).report 1 ctxid status 0x8000 (fld r.bytes 40 8) result 0 0

theorem State.complete_eq {s u : State} {i id : Nat} {r : CmdRec} (h : u.cmdQ = s.cmdQ) (hid : recConcerns r.bytes = id) (status result : Nat) :
    u.complete i r status result = s.answered i r u id status result := by
  unfold State.complete State.answered
  rw [h, hid]
  rfl

theorem recConcerns_eq (b : List Byte) : recConcerns b =
    if fld b 8 1 = 2 ∨ fld b 8 1 = 3 ∨ fld b 8 1 = 4 ∨ fld b 8 1 = 6 ∨ fld b 8 1 = 7 then fld b 10 2
    else if fld b 8 1 = 8 ∧ fld b (16 + 8 * 0) 8 = 1 then fld b (16 + 8 * 1) 8 % 65536 else 0xFFFF := by
  simp [recConcerns, opcNames, recOpc, recCtx, recArg, or_assoc]

theorem recConcerns_named {b : List Byte} {opc : Nat} (ho : fld b 8 1 = opc) (hn : opcNames opc = true) : recConcerns b = fld b 10 2 := by
  subst ho
  exact if_pos hn

/-- The steps that perform records. -/
def recordSteps (i : Nat) : List Instr :=
  [.create i, .launchRecord i, .setprio i, .freeze i, .resume i, .kill i, .dirtysnap i, .queryDevinfo i, .queryCtxstate i, .queryAttest i,
    .queryLogstat i]

theorem exec_recordSteps {i : Nat} {e : Instr} (h : e ∈ recordSteps i) : ∃ opc, ∀ s : State, ∃ f, exec e s = s.perform i opc f := by
  simp only [recordSteps, List.mem_cons, List.not_mem_nil, or_false] at h
  rcases h with rfl | rfl | rfl | rfl | rfl | rfl | rfl | rfl | rfl | rfl | rfl
  all_goals exact ⟨_, fun s => ⟨_, rfl⟩⟩

theorem State.perform_held {s : State} {i : Nat} {r : CmdRec} (hq : s.cmdQ[i]? = some r) (ht : s.turnOf i r = false) (opc : Nat)
    (f : CmdRec → State) : s.perform i opc f = .next s := by
  simp [State.perform, hq, ht]

section
variable {s : State} {i : Nat} {r : CmdRec} (hq : s.cmdQ[i]? = some r) (hp : s.power = .ready) (ht : s.turnOf i r = true)
include hq hp ht

theorem State.perform_bad (hb : recReserved r.bytes = true ∨ s.recMisplaced r = true) (opc : Nat) (f : CmdRec → State) :
    s.perform i opc f = .next (s.answered i r s (recConcerns r.bytes) 1 0) := by
  simp only [State.perform, hq, ht, hp]
  rw [if_neg (by simp), if_pos (by simpa using hb), State.complete_eq rfl rfl]
  rfl

variable (hb : ¬(recReserved r.bytes = true ∨ s.recMisplaced r = true)) {opc : Nat} (ho : fld r.bytes 8 1 = opc)
include hb ho

theorem State.perform_good (f : CmdRec → State) : s.perform i opc f = .next (f r) := by
  simp only [State.perform, hq, ht, hp]
  rw [if_neg (by simp), if_neg (by simpa using hb), if_neg (by simpa [recOpc] using ho)]

theorem State.performFor_none (hn : opcNames opc = true) (hx : s.slotOfId (fld r.bytes 10 2) = none) (f : CmdRec → Nat → State) :
    s.performFor i opc f = .next (s.answered i r s (fld r.bytes 10 2) 2 0) := by
  unfold State.performFor
  rw [State.perform_good hq hp ht hb ho, show s.slotOfId (recCtx r.bytes) = none from hx]
  dsimp only
  rw [State.complete_eq rfl (recConcerns_named ho hn)]
  rfl

theorem State.performFor_some {x : Nat} (hx : s.slotOfId (fld r.bytes 10 2) = some x) (f : CmdRec → Nat → State) :
    s.performFor i opc f = .next (f r x) := by
  unfold State.performFor
  rw [State.perform_good hq hp ht hb ho, show s.slotOfId (recCtx r.bytes) = some x from hx]

end

/-! ### The context that a record names (R63) -/

theorem State.slotOfId_some {s : State} {id x : Nat} (h : s.slotOfId id = some x) :
    (s.ctx x).used = true ∧ s.ctxid x = id ∧ x < 64 := by
  unfold State.slotOfId at h
  dsimp only at h
  split at h
  · next hc =>
    obtain rfl := Option.some.inj h
    obtain ⟨hu, hg⟩ := Bool.and_eq_true_iff.1 hc
    refine ⟨hu, ?_, Nat.mod_lt _ (by decide)⟩
    unfold State.ctxid
    rw [eq_of_beq hg]
    omega
  · exact absurd h (by simp)

/-! ### CREATE and RESUME -/

/-- What a command that makes a context leaves: the queue, the new context in a free slot with the slot's generation, the others there. -/
theorem State.createCtx_made {s u : State} {a x : Nat} (h : s.createCtx a = .ok (u, x)) :
    u.cmdQ = s.cmdQ ∧ (s.ctx x).used = false ∧ x < 64 ∧ (u.ctx x).used = true ∧ (u.ctx x).gen = tget 1 s.gens x ∧
      ∀ y, (s.ctx y).used = true → (u.ctx y).used = true := by
  obtain ⟨hfree, hlt, hk⟩ := State.createCtx_ok h
  obtain ⟨hcmd, hu, hg, hy⟩ := hk.identity.newCtx hfree
  exact ⟨hcmd, hfree, hlt, hu, hg, hy⟩

theorem State.resumeCtx_made {s u : State} {a da x : Nat} (h : s.resumeCtx a da = .ok (u, x)) :
    u.cmdQ = s.cmdQ ∧ (s.ctx x).used = false ∧ x < 64 ∧ (u.ctx x).used = true ∧ (u.ctx x).gen = tget 1 s.gens x ∧
      ∀ y, (s.ctx y).used = true → (u.ctx y).used = true := by
  obtain ⟨hfree, hlt, t, c, ⟨hst, hused⟩, hcu, hcg, hk⟩ := State.resumeCtx_ok h
  have same : ∀ y, (t.ctx y).used = (s.ctx y).used := fun y => congrArg Prod.fst (hused y)
  obtain ⟨hcmd, hu, hg, hy⟩ := hk.newCtx ((same x).trans hfree)
  exact ⟨hcmd.trans hst, hfree, hlt, hu.trans hcu, hg.trans hcg, fun y h => hy y ((same y).trans h)⟩

theorem State.made_error (s : State) (i : Nat) {r : CmdRec} (hc : recConcerns r.bytes = 0xFFFF) (c : Nat) :
    s.made i r (.error c) = s.answered i r s 0xFFFF c 0 :=
  State.complete_eq rfl hc c 0

theorem State.made_ok {s u : State} (i : Nat) (r : CmdRec) (x : Nat) (h : u.cmdQ = s.cmdQ) :
    s.made i r (.ok (u, x)) = s.answered i r u (u.ctxid x) 0 (u.ctxid x) := by
  unfold State.made State.answered
  dsimp only
  rw [h]
  rfl

/-- The terms of the context that CREATE makes. -/
theorem State.createCtx_terms {s u : State} {a x : Nat} (h : s.createCtx a = .ok (u, x)) :
    (u.ctx x).terms = (ctxOf (s.pread a 64) (tget 1 s.gens x) s.cycle).terms := by
  obtain ⟨-, -, hk⟩ := State.createCtx_ok h
  simpa using hk.2 x

/-! ### LAUNCH (R67, R93) -/

theorem Ctx.launchNumber_taken {c : Ctx} {n : Nat} (hn : n ≠ 0) (h : ∃ g ∈ c.graphs, g.launch = n ∧ g.path = []) : c.launchNumber n = none := by
  simpa [Ctx.launchNumber, hn] using h

theorem State.bind_keeps {β : Type} (p : Ctx → β) (s : State) (gid : Nat) (m : List (Nat × Nat)) : s.Keeps p (s.bind gid m) := by
  refine State.Keeps.foldl (fun s e => ?_) m s
  exact s.keeps_modStrand p _ _

/-- The graph of a LAUNCH and its largest launch number stand in the context. -/
theorem State.launch_graphs (s : State) (x : Nat) (g : Graph) (m : List (Nat × Nat)) (n : Nat) :
    let t := ((s.addGraph x g).bind g.gid m).modCtx x (fun c => { c with lastln := max c.lastln n })
    t.cmdQ = s.cmdQ ∧ (t.ctx x).graphs = (s.ctx x).graphs ++ [g] ∧ (t.ctx x).lastln = max (s.ctx x).lastln n := by
  obtain ⟨hq, hc⟩ := (s.addGraph x g).bind_keeps (fun c => (c.graphs, c.lastln)) g.gid m
  obtain ⟨hg, hl⟩ := Prod.mk.inj (hc x)
  have hadd : (s.addGraph x g).ctx x = { s.ctx x with graphs := (s.ctx x).graphs ++ [g], nextGid := (s.ctx x).nextGid + 1 } := by
    simp [State.addGraph, State.modCtx]
  rw [hadd] at hg hl
  refine ⟨hq, ?_, ?_⟩
  · simpa [State.modCtx] using hg
  · simp [State.modCtx, hl]

/-! ### FREEZE (R69) -/

theorem State.isTier_of_place {s : State} {pa : Nat} (h : ∃ o, s.place pa = .tier o) : s.isTier pa = true := by
  obtain ⟨o, e⟩ := h
  simp [State.isTier, e]

/-- Who is asked to stop: the units of each die, and each logical core that is resident or that owes an issue. -/
theorem State.mem_stopInsts_die (s : State) (x : Nat) {d : Nat} (hd : d < 8) :
    .fabric d ∈ s.stopInsts x ∧ .bellows d ∈ s.stopInsts x ∧ .sketch d ∈ s.stopInsts x ∧ .hearth d ∈ s.stopInsts x := by
  have hmem : ∀ e ∈ [StopInst.sketch d, .bellows d, .hearth d, .fabric d], e ∈ s.stopInsts x := fun e he =>
    List.mem_append_right _ (List.mem_flatMap.2 ⟨d, List.mem_range.2 hd, he⟩)
  exact ⟨hmem _ (by simp), hmem _ (by simp), hmem _ (by simp), hmem _ (by simp)⟩

theorem State.mem_stopInsts_strands (s : State) (x : Nat) {l : Nat} (hl : l < (s.ctx x).nlc) :
    StopInst.strands (lcKey x l) ∈ s.stopInsts x ↔ (s.lc (lcKey x l)).core ≠ none ∨
      ∃ k, k < 4 ∧ ((s.strand (lcKey x l * 4 + k)).owesIssue = true ∨ (s.strand (lcKey x l * 4 + k)).dgstOut = true) := by
  have four : (∃ k, k < 4 ∧ ((s.strand (lcKey x l * 4 + k)).owesIssue = true ∨ (s.strand (lcKey x l * 4 + k)).dgstOut = true)) ↔
      (strandsOf (lcKey x l)).any (fun t => (s.strand t).owesIssue || (s.strand t).dgstOut) = true := by
    constructor
    · rintro ⟨k, hk, h⟩
      refine List.any_eq_true.2 ⟨lcKey x l * 4 + k, ?_, by simpa using h⟩
      simp only [strandsOf, List.mem_cons, List.not_mem_nil, or_false]
      omega
    · intro h
      obtain ⟨t, ht, h⟩ := List.any_eq_true.1 h
      simp only [strandsOf, List.mem_cons, List.not_mem_nil, or_false] at ht
      refine ⟨t - lcKey x l * 4, by omega, ?_⟩
      rw [show lcKey x l * 4 + (t - lcKey x l * 4) = t by omega]
      simpa using h
  have key : lcKey x l ∈ s.lcKeys x := List.mem_map.2 ⟨l, List.mem_range.2 hl, rfl⟩
  rw [four]
  simp [State.stopInsts, key, Option.isSome_iff_ne_none]

theorem State.setCtx_setCtx (s : State) (x : Nat) (a b : Ctx) : (s.setCtx x a).setCtx x b = s.setCtx x b := by
  simp [State.setCtx, tset_tset]

/-- The state in which a FREEZE has begun: the record is kept, and the stop request is out. -/
theorem State.startStop_freeze (s : State) (x : Nat) (r : CmdRec) (q : List CmdRec) (deadline : Nat) :
    (({ s with cmdQ := q } : State).modCtx x (fun c => { c with freezeRec := some r })).startStop x (.freeze deadline) =
      { s.setCtx x { s.ctx x with freezeRec := some r, coll := some { cause := .freeze deadline, waiting := s.stopInsts x } } with cmdQ := q } := by
  have hw : (({ s with cmdQ := q } : State).modCtx x (fun c => { c with freezeRec := some r })).stopInsts x = s.stopInsts x := by
    simp only [State.stopInsts, State.lcKeys, State.modCtx, State.ctx_setCtx]
    rfl
  unfold State.startStop
  rw [hw]
  unfold State.modCtx
  rw [State.setCtx_setCtx, State.ctx_setCtx, if_pos rfl]
  rfl

/-! ### KILL (R71) -/

/-- A KILL's kill frees the slot with its next generation, and leaves no record that names the context. -/
theorem State.kill_slot (s : State) (x cause i0 i1 : Nat) (hx : (s.ctx x).used = true) :
    tget 1 (s.kill x cause i0 i1).gens x = ((s.ctx x).gen + 1) % 1024 ∧
      ∀ q ∈ (s.kill x cause i0 i1).cmdQ, s.recNames x q = false := by
  obtain ⟨a, e, -⟩ := s.kill_eq x cause i0 i1 hx
  rw [e]
  refine ⟨by simp [State.release, State.ctx], fun q hq => ?_⟩
  obtain ⟨r, hr, rfl⟩ := List.mem_map.1 hq
  have hn : s.recNames x r = false := by simpa using (List.mem_filter.1 hr).2
  split
  · exact hn
  · exact hn

theorem State.kill_record (s : State) (x cause i0 i1 : Nat) (hx : (s.ctx x).used = true) {q : CmdRec} (hq : q ∈ s.cmdQ)
    (hn : s.recNames x q = true) : (s.kill x cause i0 i1).hasEvent (fun e =>
      e.typ = 1 ∧ e.ctxid = s.ctxid x ∧ e.status = 10 ∧ e.tag = fld q.bytes 40 8) := by
  obtain ⟨a, e, -, -, hk⟩ := s.kill_eq x cause i0 i1 hx
  rw [e]
  exact hk q hq hn

/-! ### DIRTYSNAP (R72) -/

theorem Ctx.dirtyBytes_ne_nil (c : Ctx) : c.dirtyBytes ≠ [] := by
  intro h
  have hlen := congrArg List.length h
  simp [Ctx.dirtyBytes, padTo] at hlen

end Sys2Proof.Machine
end

section
/-! SUPPORT. The four queries and what their records say (R25, R73). -/

namespace Sys2Proof.Machine

/-! ### The records of the queries -/

@[simp] theorem State.retmBytes_length (s : State) : s.retmBytes.length = 192 := by
  simp [State.retmBytes, List.length_flatMap]

/-- A word of RETM0 to RETM7 in the 192 bytes that hold them. -/
theorem State.fld_retmBytes (s : State) {d k : Nat} (hd : d < 8) (hk : k < 3) : fld s.retmBytes (24 * d + 8 * k) 8 = s.retm d k % 2 ^ 64 := by
  unfold State.retmBytes
  rw [fld_flatMap _ 24 (fun d => by simp [List.length_flatMap]) hd (by omega), ← Nat.add_zero (8 * k),
    fld_flatMap _ 8 (fun w => by simp) hk (by omega), fld_single]

@[simp] theorem State.pread_length (s : State) (pa n : Nat) : (s.pread pa n).length = n := by
  unfold State.pread State.mgmtBytes
  split
  · simp
  · split <;> simp

/-- The record of QUERY DEVINFO. -/
def State.devinfo (s : State) : List Byte :=
  padTo 256 ([s.mid, s.env.serial, s.kstatWord, s.rplc, s.corecnt].flatMap (leBytes 8) ++ s.retmBytes
    ++ leBytes 2 s.env.pkgNo ++ leBytes 1 (rackOf s.env.pkgNo) ++ leBytes 1 (rackPos s.env.pkgNo)
    ++ (List.range 4).flatMap (fun j => leBytes 1 (s.env.roles.getD j 0)))

theorem State.devinfo_length (s : State) : s.devinfo.length = 256 :=
  padTo_length _ _ (by simp [List.length_flatMap])

theorem State.devinfo_fields (s : State) :
    fld s.devinfo 0 8 = s.mid % 2 ^ 64 ∧ fld s.devinfo 8 8 = s.env.serial % 2 ^ 64 ∧ fld s.devinfo 16 8 = s.kstatWord % 2 ^ 64 ∧
      fld s.devinfo 24 8 = s.rplc % 2 ^ 64 ∧ fld s.devinfo 32 8 = s.corecnt % 2 ^ 64 ∧
      (∀ d, d < 8 → ∀ k, k < 3 → fld s.devinfo (40 + 24 * d + 8 * k) 8 = s.retm d k % 2 ^ 64) ∧
      fld s.devinfo 232 2 = s.env.pkgNo % 2 ^ 16 := by
  have shape : ∃ rest, s.devinfo = leBytes 8 s.mid ++ (leBytes 8 s.env.serial ++ (leBytes 8 s.kstatWord ++ (leBytes 8 s.rplc ++
      (leBytes 8 s.corecnt ++ (s.retmBytes ++ (leBytes 2 s.env.pkgNo ++ rest)))))) := by
    apply Exists.intro
    unfold State.devinfo padTo
    simp only [List.flatMap_cons, List.flatMap_nil, List.append_assoc, List.append_nil]
    rfl
  obtain ⟨rest, e⟩ := shape
  rw [e]
  refine ⟨by simp [fld_head], by simp [fld_skip, fld_head], by simp [fld_skip, fld_head], by simp [fld_skip, fld_head],
    by simp [fld_skip, fld_head], fun d hd k hk => ?_, ?_⟩
  · rw [fld_skip _ _ _ _ _ (by omega), fld_skip _ _ _ _ _ (by omega), fld_skip _ _ _ _ _ (by omega), fld_skip _ _ _ _ _ (by omega),
      fld_skip _ _ _ _ _ (by omega), show 40 + 24 * d + 8 * k - 8 - 8 - 8 - 8 - 8 = 24 * d + 8 * k by omega,
      fld_append_left _ _ _ _ (by rw [s.retmBytes_length]; omega), s.fld_retmBytes hd hk]
  · simp [fld_append_right, fld_head]

/-- The record of QUERY CTXSTATE for the context in slot `x`. -/
def State.ctxstate (s : State) (x : Nat) : List Byte :=
  let c := s.ctx x
  let lns := (c.graphs.filter (·.live)).map (·.launch)
  padTo 64 (leBytes 1 (if c.freezing then 2 else 1) ++ leBytes 1 c.prio ++ leBytes 1 (s.reportedPrio x) ++ leBytes 1 c.mode
    ++ leBytes 2 c.nlc ++ leBytes 2 (s.ctxid x) ++ leBytes 4 lns.length ++ leBytes 4 (lns.foldl min 0xFFFFFFFF) ++ leBytes 1 c.aging)

theorem State.ctxstate_length (s : State) (x : Nat) : (s.ctxstate x).length = 64 := padTo_length _ _ (by simp)

theorem State.ctxstate_fields (s : State) (x : Nat) :
    fld (s.ctxstate x) 0 1 = (if (s.ctx x).freezeRec = none then 1 else 2) ∧ fld (s.ctxstate x) 1 1 = (s.ctx x).prio % 256 ∧
      fld (s.ctxstate x) 4 2 = (s.ctx x).nlc % 2 ^ 16 ∧ fld (s.ctxstate x) 6 2 = s.ctxid x % 2 ^ 16 ∧
      fld (s.ctxstate x) 8 4 = ((s.ctx x).graphs.filter (fun g => g.live)).length % 2 ^ 32 := by
  unfold State.ctxstate padTo Ctx.freezing
  refine ⟨?_, ?_, ?_, ?_, ?_⟩
  · cases h : (s.ctx x).freezeRec <;> simp [h, List.append_assoc, fld_head]
  all_goals simp [List.append_assoc, fld_skip, fld_head]

/-- The record of QUERY ATTEST over the nonce at `a`. -/
def State.attest (s : State) (a : Nat) : List Byte :=
  let head := padTo 352 (s.pread a 32 ++ leBytes 48 (Config.measurement 0) ++ leBytes 48 (Config.measurement 1)
    ++ leBytes 8 s.env.fuse ++ leBytes 8 s.env.serial ++ s.retmBytes)
  head ++ (leBytes 48 (Config.signReport head).1).reverse ++ (leBytes 48 (Config.signReport head).2).reverse

theorem State.attest_length (s : State) (a : Nat) : (s.attest a).length = 448 := by
  simp [State.attest, padTo]

theorem State.attest_fields (s : State) (a : Nat) :
    (∀ k, k < 32 → fld (s.attest a) k 1 = fld (s.pread a 32) k 1) ∧ fld (s.attest a) 128 8 = s.env.fuse % 2 ^ 64 ∧
      fld (s.attest a) 136 8 = s.env.serial % 2 ^ 64 := by
  have shape : ∃ rest, s.attest a = s.pread a 32 ++ (leBytes 48 (Config.measurement 0) ++ (leBytes 48 (Config.measurement 1) ++
      (leBytes 8 s.env.fuse ++ (leBytes 8 s.env.serial ++ rest)))) := by
    apply Exists.intro
    unfold State.attest padTo
    simp only [List.append_assoc]
    rfl
  obtain ⟨rest, e⟩ := shape
  rw [e]
  refine ⟨fun k hk => fld_append_left _ _ _ _ (by rw [s.pread_length]; omega), ?_, ?_⟩
  all_goals simp [fld_append_right, fld_head]

/-- The record of QUERY LOGSTAT. -/
def State.logstat (s : State) : List Byte :=
  leBytes 8 s.arb.nextSeq ++ leBytes 8 s.arb.consumed ++ leBytes 4 s.arb.held.length ++ leBytes 4 0 ++ leBytes 8 s.arb.ovw

theorem State.logstat_length (s : State) : s.logstat.length = 32 := by simp [State.logstat]

theorem State.logstat_fields (s : State) :
    fld s.logstat 0 8 = s.arb.nextSeq % 2 ^ 64 ∧ fld s.logstat 8 8 = s.arb.consumed % 2 ^ 64 ∧
      fld s.logstat 16 4 = s.arb.held.length % 2 ^ 32 ∧ fld s.logstat 24 8 = s.arb.ovw % 2 ^ 64 := by
  unfold State.logstat
  simp [List.append_assoc, fld_skip, fld_head, fld_single]

/-! ### The answer of a query -/

theorem State.answerQuery_eq (s : State) (i : Nat) {r : CmdRec} {id : Nat} (hid : recConcerns r.bytes = id) (bs : List Byte) :
    (s.rangeOk (fld r.bytes 32 8) bs.length = false → s.answerQuery i r bs = s.answered i r s id 4 0) ∧
      (s.rangeOk (fld r.bytes 32 8) bs.length = true →
        s.answerQuery i r bs = s.answered i r (s.pwrite none false (fld r.bytes 32 8) bs) id 0 bs.length) := by
  have e : s.answerQuery i r bs = if s.rangeOk (fld r.bytes 32 8) bs.length = true then
      (s.pwrite none false (fld r.bytes 32 8) bs).complete i r 0 bs.length else s.complete i r 4 0 := rfl
  refine ⟨fun h => ?_, fun h => ?_⟩
  · rw [e, h, if_neg Bool.false_ne_true, State.complete_eq rfl hid]
  · rw [e, if_pos h, State.complete_eq (s.pwrite_keeps none false _ bs).1 hid]

end Sys2Proof.Machine
end

section
/-! SUPPORT. What each command of the host makes of the state once its turn has come (R61-R73, R93, R497). Settles HostCommands. -/

namespace Sys2Proof.Machine

section
variable {s : State} {i : Nat} {r : CmdRec} (hq : s.cmdQ[i]? = some r) (hp : s.power = .ready) (ht : s.turnOf i r = true)
  (hb : ¬(recReserved r.bytes = true ∨ s.recMisplaced r = true))
include hq hp ht hb

/-! ### Making a context -/

theorem exec_create (ho : fld r.bytes 8 1 = 1) : exec (.create i) s = .next (s.made i r (s.createCtx (fld r.bytes 16 8))) :=
  State.perform_good hq hp ht hb ho _

theorem exec_resume (ho : fld r.bytes 8 1 = 5) :
    exec (.resume i) s = .next (s.made i r (s.resumeCtx (fld r.bytes 16 8) (fld r.bytes 24 8))) :=
  State.perform_good hq hp ht hb ho _

/-! ### Commands for a context -/

variable {x : Nat} (hx : s.slotOfId (fld r.bytes 10 2) = some x)
include hx

theorem exec_launch_taken (ho : fld r.bytes 8 1 = 2) (hn : fld r.bytes 32 8 ≠ 0)
    (h : ∃ g ∈ (s.ctx x).graphs, g.launch = fld r.bytes 32 8 ∧ g.path = []) :
    exec (.launchRecord i) s = .next (s.answered i r s (fld r.bytes 10 2) 5 0) := by
  refine (State.performFor_some hq hp ht hb ho hx _).trans ?_
  dsimp only
  rw [show (s.ctx x).launchNumber (recArg r.bytes 2) = none from Ctx.launchNumber_taken hn h]
  exact congrArg Host.Outcome.next (State.complete_eq rfl (recConcerns_named ho rfl) _ _)

theorem exec_launch (ho : fld r.bytes 8 1 = 2) {n : Nat} {d : GraphDesc} {u : State} {m : List (Nat × Nat)}
    (hn : (s.ctx x).launchNumber (fld r.bytes 32 8) = some n) (ha : fld r.bytes 16 8 % 64 = 0)
    (hr : s.readGraph x (fld r.bytes 16 8) = (.ok d, u)) (hc : u.graphCheck x d = none) (hm : u.reserveSlots x d.stages = some m)
    (hroom : u.hearthRoom d.chans = true) :
    ∃ t h, exec (.launchRecord i) s = .next (s.answered i r t (fld r.bytes 10 2) 0 n) ∧
      (t.ctx x).graphs = (s.ctx x).graphs ++ [h] ∧ h.live = true ∧ h.launch = n ∧ h.path = [] ∧ h.parent = none ∧
      h.gid = (s.ctx x).nextGid ∧ h.param = BitVec.ofNat 64 (fld r.bytes 24 8) ∧
      h.key = (BitVec.ofNat 64 n) * 0xBF58476D1CE4E5B9#64 ∧ h.stages = d.stages ∧ h.chans = d.chans ∧
      (t.ctx x).lastln = max (s.ctx x).lastln n := by
  -- the loads of the launch unit keep the context's terms
  have hk : s.Keeps Ctx.terms u := by simpa [hr] using s.readGraph_keeps x (fld r.bytes 16 8)
  obtain ⟨hcmd, hctx⟩ := hk.map (fun c => (c.graphs, c.lastln))
  obtain ⟨hg, hl⟩ := Prod.mk.inj (hctx x)
  let g := graphOf d (s.ctx x).nextGid true n [] none (graphKeyTop n) (BitVec.ofNat 64 (fld r.bytes 24 8)) u.cycle
  obtain ⟨tq, tg, tl⟩ := u.launch_graphs x g m n
  refine ⟨_, g, ?_, tg.trans (congrArg (· ++ [g]) hg), rfl, rfl, rfl, rfl, rfl, rfl, ?_, rfl, rfl,
    tl.trans (congrArg (max · n) hl)⟩
  · refine (State.performFor_some hq hp ht hb ho hx _).trans (congrArg Host.Outcome.next ?_)
    dsimp only
    rw [show (s.ctx x).launchNumber (recArg r.bytes 2) = some n from hn]
    dsimp only
    rw [if_neg (show ¬recArg r.bytes 0 % 64 ≠ 0 from not_not.2 ha), show s.readGraph x (recArg r.bytes 0) = (.ok d, u) from hr]
    simp only [hc, hm, hroom]
    exact State.complete_eq (tq.trans hcmd) (recConcerns_named ho rfl) _ _
  · show (0 ^^^ BitVec.ofNat 64 n) * 0xBF58476D1CE4E5B9#64 = _
    rw [show (0 : W64) ^^^ BitVec.ofNat 64 n = BitVec.ofNat 64 n from BitVec.zero_xor]

theorem exec_setprio (ho : fld r.bytes 8 1 = 3) : exec (.setprio i) s = .next (s.answered i r
    (s.setCtx x { s.ctx x with newPrio := some (fld r.bytes 16 8 % 128) }) (fld r.bytes 10 2) 0 ((s.ctx x).newPrio.getD (s.ctx x).prio)) :=
  (State.performFor_some hq hp ht hb ho hx _).trans (congrArg Host.Outcome.next (State.complete_eq rfl (recConcerns_named ho rfl) _ _))

theorem exec_freeze_again (ho : fld r.bytes 8 1 = 4) (hf : (s.ctx x).freezeRec ≠ none) :
    exec (.freeze i) s = .next (s.answered i r s (fld r.bytes 10 2) 5 0) := by
  refine (State.performFor_some hq hp ht hb ho hx _).trans (congrArg Host.Outcome.next ?_)
  dsimp only
  rw [if_pos (show (s.ctx x).freezing = true from Option.isSome_iff_ne_none.2 hf)]
  exact State.complete_eq rfl (recConcerns_named ho rfl) _ _

theorem exec_freeze (ho : fld r.bytes 8 1 = 4) (hf : (s.ctx x).freezeRec = none) (hcoll : (s.ctx x).coll = none) (hform : s.env.form ≠ 0)
    (htier : ∃ o, s.place (fld r.bytes 16 8) = .tier o) (hsize : fld r.bytes 16 8 % 2 ^ 50 + fld r.bytes 24 8 ≤ 0xEE6B280000) :
    exec (.freeze i) s = .next { s.setCtx x { s.ctx x with freezeRec := some r, coll := some {
      cause := .freeze (s.cycle + freezeMs r.bytes * 1250000), waiting := s.stopInsts x } } with cmdQ := ldel s.cmdQ i } := by
  refine (State.performFor_some hq hp ht hb ho hx _).trans (congrArg Host.Outcome.next ?_)
  dsimp only
  have hfits : ¬(!s.isTier (recArg r.bytes 0) || decide (Config.tierSize < recArg r.bytes 0 % 2 ^ 50 + recArg r.bytes 1)) = true := by
    rw [show s.isTier (recArg r.bytes 0) = true from State.isTier_of_place htier]
    simpa [Config.tierSize, recArg] using hsize
  rw [if_neg (show ¬(s.ctx x).freezing = true by simp [Ctx.freezing, hf]), if_neg (by simpa [State.hasTier] using hform), if_neg hfits,
    if_neg (by simp [hcoll])]
  exact s.startStop_freeze x r _ _

theorem exec_kill (ho : fld r.bytes 8 1 = 6) : ∃ t, exec (.kill i) s = .next t ∧ (t.ctx x).used = false ∧
    tget 1 t.gens x = ((s.ctx x).gen + 1) % 1024 ∧ t.mem = s.mem ∧
    t.hasEvent (fun e => e.typ = 3 ∧ e.ctxid = fld r.bytes 10 2 ∧ e.result = 1 ∧ e.info0 = fld r.bytes 16 8) ∧
    t.hasEvent (fun e => e.typ = 1 ∧ e.ctxid = fld r.bytes 10 2 ∧ e.status = 0 ∧ e.tag = fld r.bytes 40 8) ∧
    ∀ q ∈ ldel s.cmdQ i, s.recNames x q = true → q ∉ t.cmdQ ∧
      t.hasEvent (fun e => e.typ = 1 ∧ e.ctxid = fld r.bytes 10 2 ∧ e.status = 10 ∧ e.tag = fld q.bytes 40 8) := by
  obtain ⟨hu, hid, -⟩ := State.slotOfId_some hx
  let u : State := { s with cmdQ := ldel s.cmdQ i }
  have hid' : u.ctxid x = fld r.bytes 10 2 := hid
  obtain ⟨hgen, hgone⟩ := u.kill_slot x 1 (fld r.bytes 16 8) 0 hu
  have hkilled := u.kill_hasEvent x 1 (fld r.bytes 16 8) 0 hu
  have hrecord := fun q (h : q ∈ u.cmdQ) => u.kill_record x 1 (fld r.bytes 16 8) 0 hu h
  rw [hid'] at hkilled
  simp only [hid'] at hrecord
  refine ⟨(u.kill x 1 (fld r.bytes 16 8) 0).cmdDone r (s.ctxid x) stOK 0, State.performFor_some hq hp ht hb ho hx _, ?_, ?_, ?_,
    hkilled.report _ _ _ _ _ _ _ _, ?_, fun q hmem hn => ⟨fun hin => ?_, (hrecord q hmem hn).report _ _ _ _ _ _ _ _⟩⟩
  · refine (State.report_keeps (fun s => (s.ctx x).used) (fun _ _ => rfl) _ _ _ _ _ _ _ _ _).trans ?_
    rw [State.kill_ctx, if_pos rfl]
  · exact (State.report_keeps (fun s => tget 1 s.gens x) (fun _ _ => rfl) _ _ _ _ _ _ _ _ _).trans hgen
  · exact (State.report_keeps State.mem (fun _ _ => rfl) _ _ _ _ _ _ _ _ _).trans (State.kill_mem _ _ _ _ _)
  · rw [hid]
    exact (State.report_hasEvent _ _ _ _ _ _ _ _ _).imp (fun e ⟨h1, h2, h3, _, h5, _⟩ => ⟨h1, h2, h3, h5⟩)
  · have hin' : q ∈ (u.kill x 1 (fld r.bytes 16 8) 0).cmdQ := by
      rwa [State.cmdDone, State.report_keeps State.cmdQ (fun _ _ => rfl)] at hin
    exact Bool.false_ne_true ((hgone q hin').symm.trans hn)

theorem exec_dirtysnap_short (ho : fld r.bytes 8 1 = 7) (hlen : fld r.bytes 24 8 < (s.ctx x).dirtyBytes.length) :
    exec (.dirtysnap i) s = .next (s.answered i r s (fld r.bytes 10 2) 7 0) := by
  refine (State.performFor_some hq hp ht hb ho hx _).trans (congrArg Host.Outcome.next ?_)
  dsimp only
  rw [if_pos (show recArg r.bytes 1 < _ from hlen)]
  exact State.complete_eq rfl (recConcerns_named ho rfl) _ _

theorem exec_dirtysnap (ho : fld r.bytes 8 1 = 7) (hlen : (s.ctx x).dirtyBytes.length ≤ fld r.bytes 24 8)
    (hok : s.rangeOk (fld r.bytes 16 8) (s.ctx x).dirtyBytes.length = true) :
    exec (.dirtysnap i) s = .next (s.answered i r ((s.setCtx x { s.ctx x with dirty := [] }).pwrite none false (fld r.bytes 16 8)
      (s.ctx x).dirtyBytes) (fld r.bytes 10 2) 0 (s.ctx x).dirtyBytes.length) := by
  refine (State.performFor_some hq hp ht hb ho hx _).trans (congrArg Host.Outcome.next ?_)
  dsimp only
  rw [if_neg (show ¬recArg r.bytes 1 < _ from not_lt.2 hlen), if_neg (by simpa [recArg] using hok)]
  exact State.complete_eq (State.pwrite_keeps _ _ _ _ _).1 (recConcerns_named ho rfl) _ _

end

/-- A bitmap copied to host memory or to the second tier is clear, and stands at its destination. -/
theorem State.dirtysnap_far (s : State) (x : Nat) {a : Nat} (ha : 2 ^ 51 ≤ a) :
    let t := (s.setCtx x { s.ctx x with dirty := [] }).pwrite none false a (s.ctx x).dirtyBytes
    (t.ctx x).dirty = [] ∧ tread 0 t.mem a (s.ctx x).dirtyBytes.length = (s.ctx x).dirtyBytes := by
  obtain ⟨p, v, e⟩ := (s.setCtx x { s.ctx x with dirty := [] }).pwrite_far none false (s.ctx x).dirtyBytes ha (Ctx.dirtyBytes_ne_nil _)
  rw [e]
  refine ⟨?_, tread_twrite_whole _ _ _⟩
  show ((s.setCtx x { s.ctx x with dirty := [] }).ctx x).dirty = []
  rw [State.ctx_setCtx, if_pos rfl]

/-! ### Queries -/

section
variable {s : State} {i : Nat} {r : CmdRec} (hq : s.cmdQ[i]? = some r) (hp : s.power = .ready) (ht : s.turnOf i r = true)
  (hb : ¬(recReserved r.bytes = true ∨ s.recMisplaced r = true)) (ho : fld r.bytes 8 1 = 8)
include hq hp ht hb ho

theorem State.query_eq {sel : Nat} (hs : fld r.bytes 16 8 = sel) (f : CmdRec → State) : s.query i sel f = .next (f r) :=
  (State.perform_good hq hp ht hb ho _).trans (congrArg Host.Outcome.next (if_pos hs))

theorem exec_queryDevinfo (hs : fld r.bytes 16 8 = 0) : exec (.queryDevinfo i) s = .next (s.answerQuery i r s.devinfo) :=
  State.query_eq hq hp ht hb ho hs _

theorem exec_queryCtxstate_none (hs : fld r.bytes 16 8 = 1) (hx : s.slotOfId (fld r.bytes 24 8) = none) :
    exec (.queryCtxstate i) s = .next (s.complete i r 2 0) := by
  refine (State.query_eq hq hp ht hb ho hs _).trans ?_
  rw [show s.slotOfId (recArg r.bytes 1) = none from hx]
  rfl

theorem exec_queryCtxstate (hs : fld r.bytes 16 8 = 1) {x : Nat} (hx : s.slotOfId (fld r.bytes 24 8) = some x) :
    exec (.queryCtxstate i) s = .next (s.answerQuery i r (s.ctxstate x)) := by
  refine (State.query_eq hq hp ht hb ho hs _).trans ?_
  rw [show s.slotOfId (recArg r.bytes 1) = some x from hx]
  rfl

theorem exec_queryAttest_unread (hs : fld r.bytes 16 8 = 2) (hn : s.readable (fld r.bytes 24 8) 32 = false) :
    exec (.queryAttest i) s = .next (s.complete i r 4 0) := by
  refine (State.query_eq hq hp ht hb ho hs _).trans ?_
  rw [show s.readable (recArg r.bytes 1) 32 = false from hn]
  rfl

theorem exec_queryAttest (hs : fld r.bytes 16 8 = 2) (hn : s.readable (fld r.bytes 24 8) 32 = true) :
    exec (.queryAttest i) s = .next (s.answerQuery i r (s.attest (fld r.bytes 24 8))) := by
  refine (State.query_eq hq hp ht hb ho hs _).trans (congrArg Host.Outcome.next ?_)
  rw [show recArg r.bytes 1 = fld r.bytes 24 8 from rfl, hn]
  exact if_neg Bool.false_ne_true

theorem exec_queryLogstat (hs : fld r.bytes 16 8 = 3) : exec (.queryLogstat i) s = .next (s.answerQuery i r s.logstat) :=
  State.query_eq hq hp ht hb ho hs _

end

/-- A query that answers with `bs`, of `n` bytes: BADDESC, or the record at its destination and its length. -/
theorem State.query_answers {s : State} {i : Nat} {r : CmdRec} {e : Instr} {bs : List Byte} {id n : Nat}
    (he : exec e s = .next (s.answerQuery i r bs)) (hid : recConcerns r.bytes = id) (hlen : bs.length = n) :
    (s.rangeOk (fld r.bytes 32 8) n = false → exec e s = .next (s.answered i r s id 4 0)) ∧
      (s.rangeOk (fld r.bytes 32 8) n = true →
        exec e s = .next (s.answered i r (s.pwrite none false (fld r.bytes 32 8) bs) id 0 n)) := by
  subst hlen
  obtain ⟨hno, hyes⟩ := s.answerQuery_eq i hid bs
  exact ⟨fun h => he.trans (congrArg Host.Outcome.next (hno h)), fun h => he.trans (congrArg Host.Outcome.next (hyes h))⟩

/-- A QUERY that is not of a context concerns none. -/
theorem recConcerns_query {b : List Byte} (ho : fld b 8 1 = 8) (hs : fld b 16 8 ≠ 1) : recConcerns b = 0xFFFF := by
  rw [recConcerns_eq, if_neg (by omega), if_neg (fun h => hs h.2)]

theorem recConcerns_ctxstate {b : List Byte} (ho : fld b 8 1 = 8) (hs : fld b 16 8 = 1) : recConcerns b = fld b 24 8 % 65536 := by
  rw [recConcerns_eq, if_neg (by omega), if_pos ⟨ho, hs⟩]

/-! ### The statement -/

theorem bitOf_zero (n : Nat) : bitOf n 0 = decide (n % 2 = 1) := by simp [bitOf]

theorem bitOf_one (n : Nat) : bitOf n 1 = decide (n / 2 % 2 = 1) := by simp [bitOf, Nat.testBit_succ]

/-- A CREATE or a RESUME concerns no context that is there. -/
theorem recConcerns_making {b : List Byte} (ho : fld b 8 1 = 1 ∨ fld b 8 1 = 5) : recConcerns b = 0xFFFF := by
  rw [recConcerns_eq, if_neg (by omega), if_neg (by omega)]

/-- The two commands that make a context, in one form. -/
theorem exec_making {s : State} {i : Nat} {r : CmdRec} (hq : s.cmdQ[i]? = some r) (hp : s.power = .ready) (ht : s.turnOf i r = true)
    (hb : ¬(recReserved r.bytes = true ∨ s.recMisplaced r = true)) {e : Instr} {m : Made}
    (h : (fld r.bytes 8 1 = 1 ∧ e = .create i ∧ m = s.createCtx (fld r.bytes 16 8)) ∨
      (fld r.bytes 8 1 = 5 ∧ e = .resume i ∧ m = s.resumeCtx (fld r.bytes 16 8) (fld r.bytes 24 8))) :
    exec e s = .next (s.made i r m) ∧ recConcerns r.bytes = 0xFFFF ∧ ∀ u x, m = .ok (u, x) →
      u.cmdQ = s.cmdQ ∧ (s.ctx x).used = false ∧ x < 64 ∧ (u.ctx x).used = true ∧ (u.ctx x).gen = tget 1 s.gens x ∧
        ∀ y, (s.ctx y).used = true → (u.ctx y).used = true := by
  rcases h with ⟨ho, rfl, rfl⟩ | ⟨ho, rfl, rfl⟩
  · exact ⟨exec_create hq hp ht hb ho, recConcerns_making (.inl ho), fun u x => State.createCtx_made⟩
  · exact ⟨exec_resume hq hp ht hb ho, recConcerns_making (.inr ho), fun u x => State.resumeCtx_made⟩

/-- Settles O42: each command by what is made of the state when its record's turn comes, each query by the record that it writes. -/
theorem hostCommands : Obligations.HostCommands := by
  refine ⟨fun s i r hq hp => ?_, fun s i r hq hp ho hres hmis ht => ?_⟩
  · intro b arg opc id done concerns bad all
    refine ⟨fun h0 hk hw => ?_, fun k q hk hkq hs ha => State.turnOf_sameCtx hk hkq hs ha,
      fun k q hk hkq hw hs => State.turnOf_earlier r hk hkq hw hs, fun ht e he => ?_, fun ht hb e he => ?_, fun ht hb =>
      ⟨fun hx e he => ?_, fun e m hm => ?_, fun ho u x hu => ?_, fun x hx => ?_⟩⟩
    · subst h0
      exact State.turnOf_first hk hw
    · obtain ⟨opc, h⟩ := exec_recordSteps he
      obtain ⟨f, e⟩ := h s
      rw [e, State.perform_held hq ht]
    · obtain ⟨opc, h⟩ := exec_recordSteps he
      obtain ⟨f, e⟩ := h s
      rw [e, State.perform_bad hq hp ht hb, recConcerns_eq]
      rfl
    · rcases he with ⟨ho, rfl⟩ | ⟨ho, rfl⟩ | ⟨ho, rfl⟩ | ⟨ho, rfl⟩ | ⟨ho, rfl⟩
      all_goals exact State.performFor_none hq hp ht hb ho rfl hx _
    · obtain ⟨hex, hid, hmade⟩ := exec_making hq hp ht hb hm
      refine ⟨fun c hc => ?_, fun u x hu => ?_⟩
      · rw [hex, hc, State.made_error s i hid]
        rfl
      · obtain ⟨hcmd, hrest⟩ := hmade u x hu
        refine ⟨?_, hrest⟩
        rw [hex, hu, State.made_ok i r x hcmd]
        rfl
    · have h := State.createCtx_terms hu
      exact ⟨congrArg Ctx.ptroot h, congrArg Ctx.nlc h, congrArg Ctx.prio h,
        (congrArg Ctx.det h).trans (bitOf_zero _), (congrArg Ctx.spec h).trans (bitOf_one _), congrArg Ctx.tvb h, congrArg Ctx.graphs h⟩
    · refine ⟨fun ho hg hn => exec_launch_taken hq hp ht hb hx ho hn hg,
        fun ho n d u m hn ha hr hc hm hroom => exec_launch hq hp ht hb hx ho hn ha hr hc hm hroom,
        fun ho => exec_setprio hq hp ht hb hx ho, fun ho hf hcoll hform htier hsize => ?_,
        fun ho hf => exec_freeze_again hq hp ht hb hx ho hf, fun ho => exec_kill hq hp ht hb hx ho,
        fun ho => ⟨fun hlen => exec_dirtysnap_short hq hp ht hb hx ho hlen, fun hlen hok =>
          ⟨_, exec_dirtysnap hq hp ht hb hx ho hlen hok, rfl, fun ha => s.dirtysnap_far x ha⟩⟩⟩
      exact ⟨_, exec_freeze hq hp ht hb hx ho hf hcoll hform htier hsize, rfl, fun d hd => s.mem_stopInsts_die x hd,
        fun l hl => (s.mem_stopInsts_strands x hl).symm⟩
  · intro arg a done answers
    have hb : ¬(recReserved r.bytes = true ∨ s.recMisplaced r = true) := by simp [hres, hmis]
    refine ⟨fun hs => ?_, fun hs => ⟨fun hx => ?_, fun x hx => ?_⟩, fun hs => ?_, fun hs => ?_⟩
    · have hid : recConcerns r.bytes = 0xFFFF := recConcerns_query ho (by rw [show fld r.bytes 16 8 = 0 from hs]; decide)
      obtain ⟨hno, hyes⟩ := State.query_answers (exec_queryDevinfo hq hp ht hb ho hs) hid s.devinfo_length
      exact ⟨hno, fun h => ⟨_, s.devinfo_length, hyes h, s.devinfo_fields⟩⟩
    · exact (exec_queryCtxstate_none hq hp ht hb ho hs hx).trans
        (congrArg Host.Outcome.next (State.complete_eq rfl (recConcerns_ctxstate ho hs) _ _))
    · obtain ⟨hno, hyes⟩ := State.query_answers (exec_queryCtxstate hq hp ht hb ho hs hx) (recConcerns_ctxstate ho hs) (s.ctxstate_length x)
      exact ⟨hno, fun h => ⟨_, s.ctxstate_length x, hyes h, s.ctxstate_fields x⟩⟩
    · have hid : recConcerns r.bytes = 0xFFFF := recConcerns_query ho (by rw [show fld r.bytes 16 8 = 2 from hs]; decide)
      have unread := fun hn => (exec_queryAttest_unread hq hp ht hb ho hs hn).trans
        (congrArg Host.Outcome.next (State.complete_eq rfl hid _ _))
      refine ⟨fun h => unread ?_, fun h => unread ?_, fun hok hsp => ?_⟩
      · rw [State.readable, show s.rangeOk (fld r.bytes 24 8) 32 = false from h, Bool.false_and]
      · rw [State.readable, show s.spoilt (fld r.bytes 24 8) 32 = true from h, Bool.not_true, Bool.and_false]
      · have hn : s.readable (fld r.bytes 24 8) 32 = true := Bool.and_eq_true_iff.2 ⟨hok, by rw [hsp]; rfl⟩
        obtain ⟨hno, hyes⟩ := State.query_answers (exec_queryAttest hq hp ht hb ho hs hn) hid (s.attest_length _)
        exact ⟨hno, fun h => ⟨_, s.attest_length _, hyes h, s.attest_fields _⟩⟩
    · have hid : recConcerns r.bytes = 0xFFFF := recConcerns_query ho (by rw [show fld r.bytes 16 8 = 3 from hs]; decide)
      obtain ⟨hno, hyes⟩ := State.query_answers (exec_queryLogstat hq hp ht hb ho hs) hid s.logstat_length
      exact ⟨hno, fun h => ⟨_, s.logstat_length, hyes h, s.logstat_fields⟩⟩

end Sys2Proof.Machine
end

section
/-! SUPPORT. Decoding what was encoded (R300, R308-R314): the fields of a word in each format, and the instruction that its slot class reads
from it. -/

namespace Sys2Proof

/-! ### Fields of a word (R300) -/

theorem fields_encB (op : R6) (g : Guard) (x : BitVec 22) : fG (encB op g x) = g ∧ fOp (encB op g x) = op := by
  obtain ⟨hp, hneg⟩ := Laws.hasGuard_encB op g x
  refine ⟨by rw [fG, hp, hneg], ?_⟩
  simp (disch := omega) only [fOp, encB, BitVec.extractLsb'_append_eq_of_le]
  exact BitVec.extractLsb'_eq_self

theorem extract_encB (op : R6) (g : Guard) (x : BitVec 22) (i n : Nat) (h : i + n ≤ 22) :
    (encB op g x).extractLsb' i n = x.extractLsb' i n :=
  BitVec.extractLsb'_append_eq_of_add_le h

theorem fields_encA (op : R6) (g : Guard) (d a b : R6) (fn : F4) :
    fG (encA op g d a b fn) = g ∧ fOp (encA op g d a b fn) = op ∧ fD (encA op g d a b fn) = d ∧ fA (encA op g d a b fn) = a ∧
      fB (encA op g d a b fn) = b ∧ fF (encA op g d a b fn) = fn := by
  obtain ⟨hp, hneg⟩ := Laws.hasGuard_encA op g d a b fn
  refine ⟨by rw [fG, hp, hneg], ?_⟩
  simp (disch := omega) only [fOp, fD, fA, fB, fF, encA, BitVec.extractLsb'_append_eq_of_le, BitVec.extractLsb'_append_eq_of_add_le,
    Nat.reduceSub, BitVec.extractLsb'_eq_self, and_self]

theorem fields_encI (op : R6) (g : Guard) (d a : R6) (x : BitVec 10) :
    fG (encI op g d a x) = g ∧ fOp (encI op g d a x) = op ∧ fD (encI op g d a x) = d ∧ fA (encI op g d a x) = a ∧
      (encI op g d a x).extractLsb' 0 10 = x := by
  obtain ⟨hp, hneg⟩ := Laws.hasGuard_encI op g d a x
  refine ⟨by rw [fG, hp, hneg], ?_⟩
  simp (disch := omega) only [fOp, fD, fA, encI, BitVec.extractLsb'_append_eq_of_le, BitVec.extractLsb'_append_eq_of_add_le,
    Nat.reduceSub, BitVec.extractLsb'_eq_self, and_self]

theorem fields_encJ (op : R6) (g : Guard) (d : R6) (x : W16) :
    fG (encJ op g d x) = g ∧ fOp (encJ op g d x) = op ∧ fD (encJ op g d x) = d ∧ (encJ op g d x).extractLsb' 0 16 = x := by
  obtain ⟨hp, hneg⟩ := Laws.hasGuard_encJ op g d x
  refine ⟨by rw [fG, hp, hneg], ?_⟩
  simp (disch := omega) only [fOp, fD, encJ, BitVec.extractLsb'_append_eq_of_le, BitVec.extractLsb'_append_eq_of_add_le,
    Nat.reduceSub, BitVec.extractLsb'_eq_self, and_self]

theorem fields_encS (op : R6) (g : Guard) (d : R6) (n : BitVec 12) :
    fG (encS op g d n) = g ∧ fOp (encS op g d n) = op ∧ fD (encS op g d n) = d ∧ (encS op g d n).extractLsb' 4 12 = n := by
  obtain ⟨hp, hneg⟩ := Laws.hasGuard_encS op g d n
  refine ⟨by rw [fG, hp, hneg], ?_⟩
  simp (disch := omega) only [fOp, fD, encS, BitVec.extractLsb'_append_eq_of_le, BitVec.extractLsb'_append_eq_of_add_le,
    Nat.reduceSub, BitVec.extractLsb'_eq_self, and_self]

theorem fields_encMG (op : R6) (g : Guard) (d a : R6) (scope : F4) (cls fn : F3) :
    fG (encMG op g d a scope cls fn) = g ∧ fOp (encMG op g d a scope cls fn) = op ∧ fD (encMG op g d a scope cls fn) = d ∧
      fA (encMG op g d a scope cls fn) = a ∧ (encMG op g d a scope cls fn).extractLsb' 6 4 = scope ∧
      (encMG op g d a scope cls fn).extractLsb' 3 3 = cls ∧ (encMG op g d a scope cls fn).extractLsb' 0 3 = fn := by
  obtain ⟨hp, hneg⟩ := Laws.hasGuard_encMG op g d a scope cls fn
  refine ⟨by rw [fG, hp, hneg], ?_⟩
  simp (disch := omega) only [fOp, fD, fA, encMG, BitVec.extractLsb'_append_eq_of_le, BitVec.extractLsb'_append_eq_of_add_le,
    Nat.reduceSub, BitVec.extractLsb'_eq_self, and_self]

theorem fields_encV (op : R6) (m : Mask) (d a b : R6) (fn : F4) :
    fM (encV op m d a b fn) = m ∧ fOp (encV op m d a b fn) = op ∧ fD (encV op m d a b fn) = d ∧ fA (encV op m d a b fn) = a ∧
      fB (encV op m d a b fn) = b ∧ fF (encV op m d a b fn) = fn := by
  obtain ⟨hg, hrest⟩ := fields_encA op { p := m.q, neg := m.z } d a b fn
  exact ⟨congrArg (fun g : Guard => ({ q := g.p, z := g.neg } : Mask)) hg, hrest⟩

/-! ### Decoding what was encoded (R308-R314) -/

theorem raw_encA {raw : W32 → Option Instr} {make : Guard → R6 → R6 → R6 → F4 → Instr} {op : R6}
    (h : ∀ w, fOp w = op → raw w = some (make (fG w) (fD w) (fA w) (fB w) (fF w))) (g : Guard) (d a b : R6) (fn : F4) :
    raw (encA op g d a b fn) = some (make g d a b fn) := by
  obtain ⟨hg, hop, hd, ha, hb, hf⟩ := fields_encA op g d a b fn
  rw [h _ hop, hg, hd, ha, hb, hf]

theorem raw_encV {raw : W32 → Option Instr} {make : Mask → R6 → R6 → R6 → F4 → Instr} {op : R6}
    (h : ∀ w, fOp w = op → raw w = some (make (fM w) (fD w) (fA w) (fB w) (fF w))) (m : Mask) (d a b : R6) (fn : F4) :
    raw (encV op m d a b fn) = some (make m d a b fn) := by
  obtain ⟨hm, hop, hd, ha, hb, hf⟩ := fields_encV op m d a b fn
  rw [h _ hop, hm, hd, ha, hb, hf]

theorem raw_encMG {raw : W32 → Option Instr} {make : Guard → R6 → R6 → F4 → F3 → F3 → Instr} {op : R6}
    (h : ∀ w, fOp w = op → raw w = some (make (fG w) (fD w) (fA w) (w.extractLsb' 6 4) (w.extractLsb' 3 3) (w.extractLsb' 0 3)))
    (g : Guard) (d a : R6) (scope : F4) (cls fn : F3) : raw (encMG op g d a scope cls fn) = some (make g d a scope cls fn) := by
  obtain ⟨hg, hop, hd, ha, hs, hc, hf⟩ := fields_encMG op g d a scope cls fn
  rw [h _ hop, hg, hd, ha, hs, hc, hf]

theorem raw_encB {raw : W32 → Option Instr} {i : Instr} {op : R6} {g : Guard} {x : BitVec 22}
    (h : ∀ w, fOp w = op → fG w = g → (∀ k n, k + n ≤ 22 → w.extractLsb' k n = x.extractLsb' k n) → raw w = some i) :
    raw (encB op g x) = some i := by
  obtain ⟨hg, hop⟩ := fields_encB op g x
  exact h _ hop hg (extract_encB op g x)

/-- Each slot class reads its own words back: the opcode picks the format, and the format its fields. Of the instructions only STS and a BTE
start share an opcode, and their fn tells them apart (R442). -/
theorem rawWord_encode (i : Instr) (hw : i.wf = true) (hc : i.slotClass ≠ .epi ∧ i.slotClass ≠ .event) :
    rawWord i.slotClass (encode i) = some i := by
  cases i
  case nop | br | brv | bri | call | calli | ret | loop | lexit | waitf | yield | halt | trap | eret | brk | tfence =>
    refine raw_encB (raw := rawB) (fun w hop hg hx => ?_)
    simp (disch := omega) only [rawB, hop, hg, hx, BitVec.extractLsb'_append_eq_of_le, BitVec.extractLsb'_append_eq_of_add_le,
      Nat.reduceSub, BitVec.extractLsb'_eq_self]
    rfl
  case add | sub | mul | div | and | or | xor | andn | shl | shr | sar | rotr | min | max | cmp | sel | clz | ctz | popc | extr |
      insr | lea | plog | fadd | fsub | fmul | ffma | fmin | fmax | fcmp | fcvt | fdiv | fsqrt =>
    exact raw_encA (raw := rawS) (fun w hop => by rw [rawS, hop]; rfl) ..
  case addi g d a imm =>
    obtain ⟨hg, hop, hd, ha, hx⟩ := fields_encI 0x16#6 g d a imm
    change rawS (encI 0x16#6 g d a imm) = _
    rw [rawS, hop, hg, hd, ha, hx]
    rfl
  case movi g d imm =>
    obtain ⟨hg, hop, hd, hx⟩ := fields_encJ 0x17#6 g d imm
    change rawS (encJ 0x17#6 g d imm) = _
    rw [rawS, hop, hg, hd, hx]
    rfl
  case mfs g d num =>
    obtain ⟨hg, hop, hd, hx⟩ := fields_encS 0x19#6 g d num
    change rawS (encS 0x19#6 g d num) = _
    rw [rawS, hop, hg, hd, hx]
    rfl
  case mts g num a =>
    obtain ⟨hg, hop, hd, hx⟩ := fields_encS 0x1A#6 g a num
    change rawS (encS 0x1A#6 g a num) = _
    rw [rawS, hop, hg, hd, hx]
    rfl
  case sts g d a b fn =>
    obtain ⟨hg, hop, hd, ha, hb, hf⟩ := fields_encA 0x01#6 g d a b fn
    have hfn : fn ≠ 3 := by
      rintro rfl
      exact absurd (Bool.and_eq_true_iff.1 hw).2 (by decide)
    change rawM (encA 0x01#6 g d a b fn) = _
    rw [rawM, hop, hg, hd, ha, hb, hf, if_neg hfn]
    rfl
  case bteStart g d a b fn =>
    obtain ⟨hg, hop, hd, ha, hb, hf⟩ := fields_encA 0x01#6 g d a b fn
    have hfn : fn = 3 := eq_of_beq (Bool.and_eq_true_iff.1 hw).2
    change rawM (encA 0x01#6 g d a b fn) = _
    rw [rawM, hop, hg, hd, ha, hb, hf, if_pos hfn]
    rfl
  case lds | vlds | vsts | vstm | vldm | tlds | tsts | lbr =>
    exact raw_encA (raw := rawM) (fun w hop => by rw [rawM, hop]; rfl) ..
  case ldg | stg | vldg | vstg | atg | xadd | rst | rld | rat | fence | tinv =>
    exact raw_encMG (raw := rawM) (fun w hop => by rw [rawM, hop]; rfl) ..
  case cbfence g =>
    obtain ⟨hg, hop⟩ := fields_encB 0x12#6 g 0#22
    change rawM (encB 0x12#6 g 0#22) = _
    rw [rawM, hop, hg]
    rfl
  case vadd | vsub | vmul | vfma | vmin | vmax | vabs | vneg | vrcp | vrsq | vexp2 | vlog2 | vlut | vcmp | vsel | vmov | vand | vor
      | vxor | vshl | vshr | vsar | vcvt | vqmx | vdqmx | vred | vperm | vrot | vbcast | vext | viota | qlog | qpopc | tmovr |
      tmovc | trowv | tzero =>
    exact raw_encV (raw := rawV) (fun w hop => by rw [rawV, hop]; rfl) ..
  case mma | mloadw | mdrain | mzero | maccld | epload | arinit | arrive | arwait | artest | arwaitm | artestm | efence | skupd |
      skqry | skadd | skclr | coll | csig | qpush | qpop | qtry | launch | gbar | specb | specc | speca | dgst =>
    exact raw_encA (raw := rawE) (fun w hop => by rw [rawE, hop]; rfl) ..
  case endp | cvt | addv | mulv | fmav | adds | muls | relum | clamp | lutp | maxe | mine | move | cvtb | maskw | qout =>
    exact absurd rfl hc.1
  all_goals exact absurd rfl hc.2

/-- A well-formed instruction is decoded from its own word. -/
theorem decodeWord_encode (i : Instr) (hw : i.wf = true) (hc : i.slotClass ≠ .epi ∧ i.slotClass ≠ .event) :
    decodeWord i.slotClass (encode i) = some i := by
  rw [decodeWord, rawWord_encode i hw hc]
  simp [hw]

end Sys2Proof
end

section
/-! SUPPORT. A bundle of one slot: what decoding, the checks before a slot acts, the slot and the step make of it (R295-R307, R380). Settles
StepRunsDecoded. -/

namespace Sys2Proof.Machine

/-! ### Before the slot acts -/

theorem Strand.fresh_pc (st : Strand) : st.fresh.pc = st.pc := by
  unfold Strand.fresh
  split <;> rfl

/-- Orders 2 and 3 of R307 pass a bundle of one word of a well-formed instruction. -/
theorem Strand.formTrap_one (st : Strand) (pc : W64) {i : Instr} {n len : Nat} {k : Option W32} (hw : i.wf = true)
    (hn : i.slotClass = slotClassOf n) (hc : i.slotClass ≠ .epi ∧ i.slotClass ≠ .event) (hb : illbOf (st.inBody pc) k [i] = none)
    (hk : i.kOk (k.getD 0) = true) : st.formTrap pc { len := len, words := [(n, encode i)], k := k } = .ok [(n, i)] := by
  have raws : bundleRaws { len := len, words := [(n, encode i)], k := k } = [i] := by
    simp [bundleRaws, ← hn, rawWord_encode i hw hc]
  have instrs : bundleInstrs { len := len, words := [(n, encode i)], k := k } = [(n, some i)] := by
    simp [bundleInstrs, ← hn, decodeWord_encode i hw hc]
  have slots : slotInstrs (k.getD 0) [(n, some i)] = .ok [(n, i)] := by
    simp only [slotInstrs, hk, Bool.not_true, Bool.false_eq_true, if_false]
  simp only [Strand.formTrap, raws, hb, instrs, slots]

/-- A line that holds a bundle at the strand's PC is all that fetch needs. -/
theorem State.fetch_line {s v : State} {t : Nat} {bs : List Byte} {b : Bundle} (hl : s.lineAt (t / 4) (s.strand t).pc = (.ok bs, v))
    (hb : decodeBundle (64 - (s.strand t).pc.toNat % 64) bs = .ok (some b)) : s.fetch t = (.bundle (s.strand t).pc b, v) := by
  have hl' : s.lineAt (lcOf t) (s.strand t).pc = (.ok bs, v) := hl
  simp only [State.fetch, padFuel, State.fetchFrom, hl', hb]

/-- A bundle that fetch brings and that no check stops acts in the state prepared for it. -/
theorem State.attempt_go {s v : State} {t : Nat} {pc : W64} {b : Bundle} {is : List (Nat × Instr)} (hf : s.fetch t = (.bundle pc b, v))
    (ht : (v.strand t).formTrap pc b = .ok is) (hs : (v.prepare t pc b is).screen is = none) :
    s.attempt t = (.go is, v.prepare t pc b is) := by
  simp only [State.attempt, hf, ht, hs]

/-! ### The slot -/

section
variable {p w : State} {n : Nat} {i : Instr} (hp : p.me.occ = true) (hw : exec i (p.atSlot n) = .next w)
include hp hw

theorem runSlots_one : runSlots [(n, i)] p = .next w := by
  simp [runSlots, hp, hw]

omit hp in
theorem State.alone_one : p.alone (n, i) = w := by
  simp only [State.alone, hw]

theorem State.issueSlots_ok (ho : w.latch.out = .ok) : p.issueSlots [(n, i)] = .next (w.commit p [(n, i)]).unlatch := by
  simp only [State.issueSlots, runSlots_one hp hw, ho]

theorem State.issueSlots_trapped {tr : Trap} (ho : w.latch.out = .trapped tr) : p.issueSlots [(n, i)] = .next w.unlatch := by
  simp [State.issueSlots, runSlots_one hp hw, ho, State.firstTrap, State.alone_one hw, Issue.isTrap]

theorem State.issueSlots_blocked (ho : w.latch.out = .blocked) :
    p.issueSlots [(n, i)] = .next (w.onMe (fun st => { st with pc := p.latch.addr })).unlatch := by
  simp [State.issueSlots, runSlots_one hp hw, ho, State.firstTrap, State.blockAll, State.alone_one hw, Issue.isTrap]

theorem State.issueSlots_stalled (ho : w.latch.out = .stalled) :
    p.issueSlots [(n, i)] = .next (p.onMe (fun st => { st with pc := p.latch.addr })).unlatch := by
  simp [State.issueSlots, runSlots_one hp hw, ho, State.firstTrap, State.blockAll, State.alone_one hw, Issue.isTrap]

end

/-! ### The step -/

/-- A step on the issue of a logical core is its strand's attempt and a cycle, unless an event of it finds no room (R77). -/
theorem step_issue {s : State} {l t : Nat} {rest : List Turn} {x : State} (ha : s.agenda = .issue l :: rest)
    (hi : ({ s with agenda := rest } : State).issuer l = some t) (hx : State.issueStrand { s with agenda := rest } t = .next x) :
    step s = if ({ s with agenda := rest } : State).overflows ((x.handOver t).advance 1) then .next (State.idle { s with agenda := rest } 1)
      else .next ((x.handOver t).advance 1) := by
  simp only [step, ha, State.issue, hi, hx, State.orWait]

/-- Settles O57: the line's bundle decodes to `i`, passes the checks, and its slot comes to each of the four outcomes. -/
theorem stepRunsDecoded : Obligations.StepRunsDecoded := by
  unfold Obligations.StepRunsDecoded
  intro s l t n rest i bs k v ha u pc b hi hl hw hn hepi hev hdec hill hk p hscreen hocc w hex after comesTo
  have hpc : ((u.modStrand t Strand.fresh).strand t).pc = pc := by
    rw [State.strand_modStrand_same, Strand.fresh_pc]
    rfl
  have hfetch : (u.modStrand t Strand.fresh).fetch t = (.bundle pc b, v) := by
    have h := State.fetch_line (s := u.modStrand t Strand.fresh) (t := t) (bs := bs) (b := b) (v := v)
    rw [hpc] at h
    exact h hl hdec
  have hgo : (u.modStrand t Strand.fresh).attempt t = (.go [(n, i)], p) :=
    State.attempt_go hfetch (Strand.formTrap_one _ pc hw hn ⟨hepi, hev⟩ hill hk) hscreen
  have hissue : u.issueStrand t = p.issueSlots [(n, i)] := by simp only [State.issueStrand, hgo]
  have comes : ∀ x, p.issueSlots [(n, i)] = .next x.unlatch → comesTo x := by
    intro x hx
    have hstep := step_issue ha hi (hissue.trans hx)
    exact ⟨fun h => by rw [hstep, if_neg (by rw [h]; decide)], fun h => by rw [hstep, if_pos h]⟩
  exact ⟨fun ho => comes _ (State.issueSlots_ok hocc hex ho), fun _ ho => comes _ (State.issueSlots_trapped hocc hex ho),
    fun ho => comes _ (State.issueSlots_blocked hocc hex ho), fun ho => comes _ (State.issueSlots_stalled hocc hex ho)⟩

end Sys2Proof.Machine
end

section
/-! SUPPORT. Pre-emption: the acknowledgement of each engine, and what ends a FREEZE (R69, R126-R132, R489). Settles Preemption. -/

namespace Sys2Proof.Machine

/-! ### Folds -/

theorem foldl_eq_self {σ α : Type} {f : σ → α → σ} {s : σ} {l : List α} (h : ∀ a ∈ l, f s a = s) : l.foldl f s = s := by
  induction l with
  | nil => rfl
  | cons a l ih => rw [List.foldl_cons, h a (List.mem_cons_self ..), ih (fun b hb => h b (List.mem_cons_of_mem _ hb))]

/-- A fold of one idempotent change over logical cores changes each of them once, and no other. -/
theorem State.foldl_modLc {f : LCore → LCore} (hf : ∀ c, f (f c) = f c) (ls : List Nat) (s : State) :
    ∃ c, ls.foldl (fun s l => s.modLc l f) s = { s with lcs := c } ∧ ∀ y, tget LCore.none c y = if y ∈ ls then f (s.lc y) else s.lc y := by
  induction ls generalizing s with
  | nil => exact ⟨s.lcs, rfl, fun y => by simp [State.lc]⟩
  | cons l ls ih =>
    obtain ⟨c, e, hc⟩ := ih (s.modLc l f)
    refine ⟨c, e, fun y => ?_⟩
    rw [hc, State.lc_modLc]
    by_cases hy : y = l
    · subst hy
      simp [hf]
    · simp [hy]

/-! ### Strand pipelines (R128, R306) -/

theorem mem_strandsOf {l t : Nat} : t ∈ strandsOf l ↔ t / 4 = l := by
  simp only [strandsOf, List.mem_cons, List.not_mem_nil, or_false]
  omega

/-- Every issued result of the firings among some strands is written. -/
def State.settleStrands (s : State) (ts : List Nat) : State :=
  ts.foldl (fun s t => if (s.strand t).occ then s.modStrand t Strand.settle else s) s

theorem State.settleStrands_only (s : State) (ts : List Nat) : s.OnlyStrands (s.settleStrands ts) :=
  State.OnlyStrands.foldl (fun s t => by split <;> exact ⟨_, rfl⟩) ts s

theorem State.strand_settleStrands (s : State) (ts : List Nat) (t : Nat) :
    (s.settleStrands ts).strand t = if t ∈ ts ∧ (s.strand t).occ = true then (s.strand t).settle else s.strand t := by
  induction ts generalizing s with
  | nil => simp [State.settleStrands]
  | cons a ts ih =>
    have first : ((if (s.strand a).occ then s.modStrand a Strand.settle else s).strand t) =
        if t = a ∧ (s.strand t).occ = true then (s.strand t).settle else s.strand t := by
      split
      · next ho =>
        rw [State.strand_modStrand]
        by_cases h : t = a
        · subst h; simp [ho]
        · simp [h]
      · next ho => rw [if_neg]; rintro ⟨rfl, h⟩; exact ho h
    have twice : (s.strand t).settle.settle = (s.strand t).settle := rfl
    refine (ih _).trans ?_
    rw [first]
    by_cases h : t = a ∧ (s.strand t).occ = true
    · obtain ⟨rfl, ho⟩ := h
      simp [ho, twice]
    · rw [if_neg h]
      congr 1
      simp only [List.mem_cons, eq_iff_iff]
      tauto

theorem State.stopStep_eq_self {s : State} {t : Nat} (h : (s.strand t).blk ≠ .after) : s.stopStep t = s := by
  unfold State.stopStep
  split
  · next hb _ => exact absurd hb h
  · rfl

/-- A strand pipeline none of whose strands waits for a result stops: issued results are written, and nothing issues. -/
theorem State.stopStrands_eq {s : State} {l : Nat} (h : ∀ t, t / 4 = l → (s.strand t).blk ≠ .after) :
    s.stopStrands l = (s.settleStrands (strandsOf l)).modLc l (fun c => { c with stopping := true, issuing := none }) := by
  have steps : (strandsOf l).foldl State.stopStep s = s :=
    foldl_eq_self (fun t ht => State.stopStep_eq_self (h t (mem_strandsOf.1 ht)))
  rw [State.stopStrands, steps]
  rfl

/-! ### Engines with nothing under way (R127, R129) -/

theorem State.stopRows_eq_self {s : State} {l : Nat} (n : Nat)
    (h : ∀ k ∈ (s.lc l).edt, ¬(k.st = 2 ∧ k.fault = none ∧ (k.kind = .mma ∨ k.kind = .maccld))) : s.stopRows l n = s := by
  have none : (s.lc l).edt.find? (fun k => k.st == 2 && k.fault.isNone && (k.kind == .mma || k.kind == .maccld)) = none :=
    List.find?_eq_none.2 (fun k hk => by simpa [and_assoc] using h k hk)
  rw [State.stopRows, none]

theorem State.stopSketch_eq_self {s : State} {x d : Nat} (n : Nat)
    (h : ∀ l ∈ s.lcsOn x d, ∀ k ∈ (s.lc l).edt, k.isSketch = false) : s.stopSketch x d n = s := by
  refine foldl_eq_self (fun l hl => ?_)
  split
  · rfl
  · exact foldl_eq_self (fun k hk => by simp [h l hl k hk])

/-! ### Acknowledgements (R127, R128, R131) -/

theorem Collector.acked_of_clear {c : Collector} {i : StopInst} (h : i ∉ c.waiting) : c.acked i = true := by
  simpa [Collector.acked] using h

theorem Collector.acked_of_waiting {c : Collector} {i : StopInst} (h : i ∈ c.waiting) : c.acked i = false := by
  simpa [Collector.acked] using h

theorem State.strandsAcked_of_clear {s : State} {x d : Nat} {c : Collector} (h : ∀ l ∈ s.lcsOn x d, .strands l ∉ c.waiting) :
    s.strandsAcked x d c = true :=
  List.all_eq_true.2 (fun l hl => Collector.acked_of_clear (h l hl))

theorem State.pushesSent_iff (s : State) (l : Nat) : s.pushesSent l = true ↔ (∀ h ∈ s.outq, h.purpose.engineOf ≠ some l) ∧
    ∀ t ∈ s.txns, t.injected = true ∨ t.purpose.engineOf ≠ some l := by
  simp [State.pushesSent]

/-- The step in which `i` acknowledges: its unit leaves the state `u`, and the collector `c` of context `x` waits for it no more (R130). -/
def State.Acks (s : State) (x : Nat) (c : Collector) (i : StopInst) (n : Nat) (u : State) : Prop :=
  exec (.engineStopAck x i n) s =
    .next (u.setCtx x { s.ctx x with coll := some { c with waiting := c.waiting.filter (fun w => w != i) } })

section
variable {s : State} {x : Nat} {c : Collector} (hc : (s.ctx x).coll = some c)
include hc

theorem State.acks_of_exec {u : State} {i : StopInst} {n : Nat} (h : exec (.engineStopAck x i n) s = .next (u.ackStop x i))
    (hu : u.ctx x = s.ctx x := by rfl) : s.Acks x c i n u := by
  rw [State.Acks, h, State.ackStop, State.modCtx, hu, hc]
  rfl

theorem exec_stopAck_clear {i : StopInst} (hi : i ∉ c.waiting) (n : Nat) : exec (.engineStopAck x i n) s = .next s := by
  simp only [exec, execEngineStopAck, hc, Collector.acked_of_clear hi, if_true]

theorem exec_stopAck_bte {l : Nat} (hi : .bte l ∈ c.waiting) (n : Nat) : exec (.engineStopAck x (.bte l) n) s =
    .next (if c.acked (.strands l) && s.pushesSent l then s.ackStop x (.bte l) else s) := by
  simp only [exec, execEngineStopAck, hc, Collector.acked_of_waiting hi, Bool.false_eq_true, if_false]

theorem exec_stopAck_strands {l : Nat} (hi : .strands l ∈ c.waiting) (n : Nat) : exec (.engineStopAck x (.strands l) n) s =
    .next (if (strandsOf l).all s.strandAtPoint then (s.stopStrands l).ackStop x (.strands l) else s) := by
  simp only [exec, execEngineStopAck, hc, Collector.acked_of_waiting hi, Bool.false_eq_true, if_false]

theorem State.acks_hearth {d : Nat} (hi : .hearth d ∈ c.waiting) (n : Nat) : s.Acks x c (.hearth d) n s := by
  apply State.acks_of_exec hc
  simp only [exec, execEngineStopAck, hc, Collector.acked_of_waiting hi, Bool.false_eq_true, if_false]

theorem State.acks_bte {l : Nat} (hi : .bte l ∈ c.waiting) (hs : .strands l ∉ c.waiting) (hp : s.pushesSent l = true) (n : Nat) :
    s.Acks x c (.bte l) n s := by
  apply State.acks_of_exec hc
  rw [exec_stopAck_bte hc hi, hp, Collector.acked_of_clear hs]
  rfl

theorem exec_stopAck_bte_unsent {l : Nat} (hi : .bte l ∈ c.waiting) (hp : ¬s.pushesSent l = true) (n : Nat) :
    exec (.engineStopAck x (.bte l) n) s = .next s := by
  rw [exec_stopAck_bte hc hi, if_neg (fun h => hp (Bool.and_eq_true_iff.1 h).2)]

theorem State.acks_strands {l : Nat} (hi : .strands l ∈ c.waiting) (n : Nat)
    (h : ∀ t, t / 4 = l → s.strandAtPoint t = true ∧ (s.strand t).blk ≠ .after) :
    s.Acks x c (.strands l) n ((s.settleStrands (strandsOf l)).setLc l { s.lc l with stopping := true, issuing := none }) := by
  have points : (strandsOf l).all s.strandAtPoint = true := List.all_eq_true.2 (fun t ht => (h t (mem_strandsOf.1 ht)).1)
  obtain ⟨st, e⟩ := s.settleStrands_only (strandsOf l)
  refine State.acks_of_exec hc ?_ (by rw [e]; rfl)
  rw [exec_stopAck_strands hc hi, if_pos points, State.stopStrands_eq (fun t ht => (h t ht).2), e]
  rfl

theorem exec_stopAck_strands_busy {l t : Nat} (hi : .strands l ∈ c.waiting) (ht : t / 4 = l) (hp : s.strandAtPoint t = false) (n : Nat) :
    exec (.engineStopAck x (.strands l) n) s = .next s := by
  have points : ¬(strandsOf l).all s.strandAtPoint = true := fun h => by
    rw [List.all_eq_true.1 h t (mem_strandsOf.2 ht)] at hp
    exact absurd hp (by decide)
  rw [exec_stopAck_strands hc hi, if_neg points]

theorem State.acks_matrix {l : Nat} (hi : .matrix l ∈ c.waiting) (hs : .strands l ∉ c.waiting) (he : (s.lc l).epi = none)
    (h : ∀ k ∈ (s.lc l).edt, ¬(k.st = 2 ∧ k.fault = none ∧ (k.kind = .mma ∨ k.kind = .maccld))) (n : Nat) :
    s.Acks x c (.matrix l) n (s.setLc l { s.lc l with mstop := true }) := by
  apply State.acks_of_exec hc
  simp [exec, execEngineStopAck, hc, Collector.acked_of_waiting hi, Collector.acked_of_clear hs, he, State.stopRows_eq_self n h, State.modLc]

section
variable {d : Nat} (hs : ∀ l ∈ s.lcsOn x d, .strands l ∉ c.waiting)
include hs

theorem State.acks_sketch (hi : .sketch d ∈ c.waiting) (h : ∀ l ∈ s.lcsOn x d, ∀ k ∈ (s.lc l).edt, k.isSketch = false) (n : Nat) :
    s.Acks x c (.sketch d) n s := by
  apply State.acks_of_exec hc
  simp [exec, execEngineStopAck, hc, Collector.acked_of_waiting hi, State.strandsAcked_of_clear hs, State.stopSketch_eq_self n h]

theorem State.acks_bellows (hi : .bellows d ∈ c.waiting) (hb : s.bellowsAtPoint x d = true) (n : Nat) : s.Acks x c (.bellows d) n s := by
  apply State.acks_of_exec hc
  simp [exec, execEngineStopAck, hc, Collector.acked_of_waiting hi, State.strandsAcked_of_clear hs, hb]

theorem State.acks_fabric (hi : .fabric d ∈ c.waiting) (hb : ∀ l ∈ s.lcsOn x d, .bte l ∉ c.waiting) (hk : .sketch d ∉ c.waiting)
    (hw : .bellows d ∉ c.waiting) (ht : ∀ t ∈ s.txns, ¬(t.slot = x ∧ t.die = d)) (ho : ∀ h ∈ s.outq, ¬(h.slot = x ∧ h.die = d))
    (n : Nat) : s.Acks x c (.fabric d) n s := by
  have btes : (s.lcsOn x d).all (fun l => c.acked (.bte l)) = true := List.all_eq_true.2 (fun l hl => Collector.acked_of_clear (hb l hl))
  have txns : s.txns.all (fun t => !(t.slot == x && t.die == d)) = true :=
    List.all_eq_true.2 (fun t h => by simpa [-not_and, not_and_or] using ht t h)
  have outq : s.outq.all (fun h => !(h.slot == x && h.die == d)) = true :=
    List.all_eq_true.2 (fun h hh => by simpa [-not_and, not_and_or] using ho h hh)
  apply State.acks_of_exec hc
  simp only [exec, execEngineStopAck, hc, Collector.acked_of_waiting hi, State.strandsAcked_of_clear hs, btes, Collector.acked_of_clear hk,
    Collector.acked_of_clear hw, txns, outq, Bool.and_self, if_true, Bool.false_eq_true, if_false]

end

end

/-! ### The end of a FREEZE (R69, R132) -/

/-- In `t` context `x` of `s` runs on: its pre-emption is released, its strands are untouched, and nothing of it is stopped. -/
def State.RunsOn (s t : State) (x : Nat) : Prop :=
  (t.ctx x).used = (s.ctx x).used ∧ (t.ctx x).coll = none ∧ (t.ctx x).freezeRec = none ∧ t.strands = s.strands ∧
    ∀ l, l < (s.ctx x).nlc → (t.lc (x * 4096 + l)).stopping = false ∧ (t.lc (x * 4096 + l)).mstop = false

theorem State.releaseStop_eq (s : State) (x : Nat) : ∃ ls,
    s.releaseStop x = { s.setCtx x { s.ctx x with coll := none, freezeRec := none } with lcs := ls } ∧
      ∀ y, tget LCore.none ls y = if y ∈ s.lcKeys x then { s.lc y with stopping := false, mstop := false } else s.lc y := by
  have keys : (s.modCtx x (fun c => { c with coll := none, freezeRec := none })).lcKeys x = s.lcKeys x := by
    simp [State.lcKeys]
  obtain ⟨ls, e, h⟩ := State.foldl_modLc (f := fun c => { c with stopping := false, mstop := false }) (fun _ => rfl) (s.lcKeys x)
    (s.modCtx x (fun c => { c with coll := none, freezeRec := none }))
  refine ⟨ls, ?_, h⟩
  rw [State.releaseStop, keys]
  exact e

theorem State.runsOn_releaseStop (s : State) (x : Nat) : s.RunsOn (s.releaseStop x) x := by
  obtain ⟨ls, e, h⟩ := s.releaseStop_eq x
  have ctx : (s.releaseStop x).ctx x = { s.ctx x with coll := none, freezeRec := none } := by
    rw [e]
    exact State.ctx_setCtx_same ..
  have lc : ∀ y, (s.releaseStop x).lc y = tget LCore.none ls y := fun y => by rw [e]; rfl
  refine ⟨by rw [ctx], by rw [ctx], by rw [ctx], by rw [e]; rfl, fun l hl => ?_⟩
  have key : x * 4096 + l ∈ s.lcKeys x := List.mem_map.2 ⟨l, List.mem_range.2 hl, rfl⟩
  rw [lc, h, if_pos key]
  exact ⟨rfl, rfl⟩

theorem State.releaseStop_mem (s : State) (x : Nat) : (s.releaseStop x).mem = s.mem := by
  obtain ⟨ls, e, -⟩ := s.releaseStop_eq x
  rw [e]
  rfl

theorem State.releaseStop_arb (s : State) (x : Nat) : (s.releaseStop x).arb = s.arb := by
  obtain ⟨ls, e, -⟩ := s.releaseStop_eq x
  rw [e]
  rfl

theorem State.cmdDone_eq (s : State) (r : CmdRec) (id status result : Nat) : ∃ a, s.cmdDone r id status result = { s with arb := a } :=
  ⟨_, s.report_eq ..⟩

theorem State.RunsOn.cmdDone {s t : State} {x : Nat} (h : s.RunsOn t x) (r : CmdRec) (id status result : Nat) :
    s.RunsOn (t.cmdDone r id status result) x := by
  obtain ⟨a, e⟩ := t.cmdDone_eq r id status result
  rw [e]
  exact h

theorem State.cmdDone_mem (s : State) (r : CmdRec) (id status result : Nat) : (s.cmdDone r id status result).mem = s.mem := by
  obtain ⟨a, e⟩ := s.cmdDone_eq r id status result
  rw [e]

/-- The CMDDONE of a FREEZE record is held, or waits for room. -/
def State.Done (s : State) (r : CmdRec) (id status result : Nat) : Prop :=
  s.hasEvent (fun e => e.typ = 1 ∧ e.ctxid = id ∧ e.status = status ∧ e.tag = fld r.bytes 40 8 ∧ e.result = result)

theorem State.cmdDone_done (s : State) (r : CmdRec) (id status result : Nat) : (s.cmdDone r id status result).Done r id status result :=
  (s.report_hasEvent ..).imp (fun _ ⟨htyp, hid, hstatus, _, htag, hresult, _⟩ => ⟨htyp, hid, hstatus, htag, hresult⟩)

theorem State.noteSaturation_eq_self {s : State} {x : Nat} (h : ∀ l ∈ s.lcKeys x, ∀ k ∈ (s.lc l).edt, k.sat = false) :
    s.noteSaturation x = s :=
  foldl_eq_self (fun l hl => foldl_eq_self (fun k hk => by simp [h l hl k hk]))

theorem State.image_ne_nil (s : State) (x : Nat) : s.image x ≠ [] := by
  have head : ∀ bs, padTo 256 bs ≠ [] := fun bs h => by
    obtain ⟨rfl, hz⟩ := List.append_eq_nil_iff.1 h
    simp at hz
  exact List.append_ne_nil_of_left_ne_nil (head _) _

/-- The image of a context at rest is in the second tier, and its FREEZE is done. -/
def State.imaged (s : State) (x : Nat) (r : CmdRec) : State :=
  ((s.noteUnsaid x (s.image x)).pwrite none false (recArg r.bytes 0) (s.image x)).cmdDone r (s.ctxid x) stOK (s.image x).length

theorem State.imaged_eq (s : State) (x : Nat) (r : CmdRec) (ha : 3 * 2 ^ 50 ≤ recArg r.bytes 0) : ∃ p v u a,
    s.imaged x r = { s with mem := twrite 0 s.mem (recArg r.bytes 0) (s.image x), past := p, vtime := v, unsaid := u, arb := a } := by
  obtain ⟨p, v, e⟩ := (s.noteUnsaid x (s.image x)).pwrite_far none false (s.image x) (show 2 ^ 51 ≤ recArg r.bytes 0 by omega) (s.image_ne_nil x)
  obtain ⟨a, e'⟩ := ((s.noteUnsaid x (s.image x)).pwrite none false (recArg r.bytes 0) (s.image x)).cmdDone_eq r (s.ctxid x) stOK (s.image x).length
  rw [if_neg (by omega)] at e
  exact ⟨p, v, _, a, by rw [State.imaged, e', e]; rfl⟩

theorem State.imaged_done (s : State) (x : Nat) (r : CmdRec) : (s.imaged x r).Done r (s.ctxid x) 0 (s.image x).length :=
  State.cmdDone_done ..

section
variable {s : State} {x : Nat} {r : CmdRec} (hi : (s.ctx x).serialImg = []) (hk : ∀ l ∈ s.lcKeys x, ∀ k ∈ (s.lc l).edt, k.sat = false)
include hi hk

theorem State.finishFreeze_space (h : recArg r.bytes 1 < (s.image x).length) :
    s.finishFreeze x r = (s.releaseStop x).cmdDone r (s.ctxid x) stSPACE (s.image x).length := by
  simp [State.finishFreeze, hi, State.noteSaturation_eq_self hk, h]

theorem State.finishFreeze_fits (h : (s.image x).length ≤ recArg r.bytes 1) :
    s.finishFreeze x r = if r.evict then (s.imaged x r).release x else (s.imaged x r).releaseStop x := by
  simp [State.finishFreeze, hi, State.noteSaturation_eq_self hk, Nat.not_lt.2 h, State.imaged]

end

/-! ### The steps of a FREEZE under way -/

section
variable {s : State} {x : Nat} {c : Collector} {r : CmdRec} {deadline : Nat} (hc : (s.ctx x).coll = some c) (hr : (s.ctx x).freezeRec = some r)
  (hcause : c.cause = .freeze deadline)
include hc hr hcause

theorem exec_freezeTimeout : exec (.freezeTimeout x) s =
    .next (if deadline ≤ s.cycle ∧ !c.waiting.isEmpty then (s.releaseStop x).cmdDone r (s.ctxid x) stTIMEOUT 0 else s) := by
  simp only [exec, execFreezeTimeout, hc, hr, hcause]

theorem exec_preemptionComplete (hw : c.waiting = []) : exec (.preemptionComplete x) s = .next (s.finishFreeze x r) := by
  simp [exec, execPreemptionComplete, hc, hr, hcause, hw]

end

/-- A context that is released with a CMDDONE runs on, and memory is as it was. -/
theorem State.released_done (s : State) (x : Nat) (r : CmdRec) (status result : Nat) :
    let t := (s.releaseStop x).cmdDone r (s.ctxid x) status result
    t.Done r (s.ctxid x) status result ∧ s.RunsOn t x ∧ t.mem = s.mem :=
  ⟨State.cmdDone_done .., (s.runsOn_releaseStop x).cmdDone .., by rw [State.cmdDone_mem, State.releaseStop_mem]⟩

theorem State.release_mem (s : State) (x : Nat) : (s.release x).mem = s.mem := rfl

theorem State.release_arb (s : State) (x : Nat) : (s.release x).arb = s.arb := rfl

/-- A context that is released leaves its slot free, with the next generation (R63). -/
theorem State.release_slot (s : State) (x : Nat) :
    ((s.release x).ctx x).used = false ∧ tget 1 (s.release x).gens x = ((s.ctx x).gen + 1) % 1024 := by
  simp [State.release, State.ctx, Ctx.free]

/-- A FREEZE whose image fits leaves it in the second tier; without EVICT the context runs on, with it the slot is free. -/
theorem State.finishFreeze_image {s : State} {x : Nat} {r : CmdRec} (hi : (s.ctx x).serialImg = [])
    (hk : ∀ l ∈ s.lcKeys x, ∀ k ∈ (s.lc l).edt, k.sat = false) (hl : (s.image x).length ≤ recArg r.bytes 1)
    (ha : 3 * 2 ^ 50 ≤ recArg r.bytes 0) :
    let t := s.finishFreeze x r
    t.Done r (s.ctxid x) 0 (s.image x).length ∧ t.mem = twrite 0 s.mem (recArg r.bytes 0) (s.image x) ∧
      (recArg r.bytes 2 % 2 = 0 → s.RunsOn t x) ∧
      (recArg r.bytes 2 % 2 = 1 → (t.ctx x).used = false ∧ tget 1 t.gens x = ((s.ctx x).gen + 1) % 1024) := by
  obtain ⟨p, v, u, a, e⟩ := s.imaged_eq x r ha
  have done := s.imaged_done x r
  rw [State.finishFreeze_fits hi hk hl, CmdRec.evict, bitOf_zero]
  rcases Nat.mod_two_eq_zero_or_one (recArg r.bytes 2) with h | h
  · rw [if_neg (by simp [h])]
    refine ⟨(State.hasEvent_congr ((s.imaged x r).releaseStop_arb x)).2 done, by rw [State.releaseStop_mem, e], fun _ => ?_, fun h' => by omega⟩
    have runs := (s.imaged x r).runsOn_releaseStop x
    rw [e] at runs ⊢
    exact runs
  · rw [if_pos (by simp [h])]
    obtain ⟨hused, hgen⟩ := (s.imaged x r).release_slot x
    have ctx : (s.imaged x r).ctx x = s.ctx x := by rw [e]; rfl
    exact ⟨(State.hasEvent_congr ((s.imaged x r).release_arb x)).2 done, by rw [State.release_mem, e], fun h' => by omega,
      fun _ => ⟨hused, by rw [hgen, ctx]⟩⟩

/-- Settles O47, one acknowledgement at a time, and then the time-out and the completion of the FREEZE. -/
theorem preemption : Obligations.Preemption := by
  unfold Obligations.Preemption
  intro s x c hc acks clear
  refine ⟨fun i n hi => exec_stopAck_clear hc hi n, fun d n hi => State.acks_hearth hc hi n,
    fun l n hi => ⟨fun hs ho ht => State.acks_bte hc hi hs ((s.pushesSent_iff l).2 ⟨ho, ht⟩) n, fun hs => ?_, fun ho => ?_, fun ht => ?_⟩,
    fun l n hi => ⟨fun h => ?_, fun ⟨t, ht, hp⟩ => exec_stopAck_strands_busy hc hi ht hp n⟩,
    fun l n hi hs he h => State.acks_matrix hc hi hs he h n,
    fun d n hs => ⟨fun hi h => State.acks_sketch hc hs hi h n, fun hi hb => State.acks_bellows hc hs hi hb n,
      fun hi hb hk hw ht ho => State.acks_fabric hc hs hi hb hk hw ht ho n⟩, fun r deadline hr hcause => ?_⟩
  · rw [exec_stopAck_bte hc hi, Collector.acked_of_waiting hs]
    rfl
  · obtain ⟨h, hh, hl⟩ := ho
    exact exec_stopAck_bte_unsent hc hi (fun sent => ((s.pushesSent_iff l).1 sent).1 h hh hl) n
  · obtain ⟨t, hh, hj, hl⟩ := ht
    refine exec_stopAck_bte_unsent hc hi (fun sent => ?_) n
    have hpush := ((s.pushesSent_iff l).1 sent).2 t hh
    simp [hj, hl] at hpush
  · obtain ⟨st, e⟩ := s.settleStrands_only (strandsOf l)
    refine ⟨s.settleStrands (strandsOf l), by rw [e], fun t => ?_, State.acks_strands hc hi n h⟩
    simp only [State.strand_settleStrands, mem_strandsOf]
  · intro arg done runsOn
    refine ⟨fun hd hw => ⟨_, ?_, s.released_done x r 8 0⟩, fun h => ?_,
      fun hw hi hk => ⟨fun hlen => ⟨_, ?_, s.released_done x r 7 _⟩, fun hlen ha => ?_⟩⟩
    · rw [exec_freezeTimeout hc hr hcause, if_pos ⟨hd, by simpa using hw⟩]
      rfl
    · rw [exec_freezeTimeout hc hr hcause, if_neg]
      rintro ⟨hd, hw⟩
      rcases h with h | h
      · omega
      · simp [h] at hw
    · rw [exec_preemptionComplete hc hr hcause hw, State.finishFreeze_space hi hk hlen]
      rfl
    · obtain ⟨hdone, hmem, hstay, hevict⟩ := State.finishFreeze_image hi hk hlen ha
      refine ⟨_, exec_preemptionComplete hc hr hcause hw, hdone, ?_, fun b hb => ?_, hstay, hevict⟩
      · rw [hmem]
        exact tread_twrite_whole ..
      · rw [hmem, tget_twrite, if_neg]
        rintro ⟨hlo, hhi⟩
        rcases hb with h | h
        · exact absurd hlo (Nat.not_le.2 h)
        · exact absurd hhi (Nat.not_lt.2 h)

end Sys2Proof.Machine
end

section
/-! SUPPORT. Channels (R98-R101, R448-R450): the checks of QPUSH, QPOP and QTRY and what each does once they pass; a channel's record as a
queue. Settles Channels. -/

namespace Sys2Proof.Machine

/-! ### Checks -/

theorem State.checked_some {s : State} {c : Option Trap} {t : Trap} (h : c = some t) (f : State → State) : s.checked c f = s.raise t := by
  rw [h]
  rfl

theorem State.checked_none {s : State} {c : Option Trap} (h : c = none) (f : State → State) : s.checked c f = f s := by
  rw [h]
  rfl

/-- A slot word that acts, by what its effect comes to. -/
theorem exec_acts {s t : State} {i : Instr} {g : Guard} {f : State → State} (m : Out) (e : exec i s = m) (em : m = act g s f)
    (hr : s.runs g) (h : f s = t) : exec i s = .next t := by
  rw [e, em, act_runs g s f hr, h]

/-- An entry that lies in the scratchpad below any shadow, on a 16-byte boundary, passes the checks of R377. -/
theorem locCheck_entry {z n x : Nat} (wr : Bool) (ha : x % 16 = 0) (hx : x + n ≤ 0x100000) (hn : 1 ≤ n) (hz : z = 0 ∨ x + n ≤ 0x100000 - z) :
    locCheck z wr n 16 [(0, x)] = none := by
  have first : locRange x = 0 := if_pos (by omega)
  have last : locRange (x + n - 1) = 0 := if_pos (by omega)
  have shadow : shadowHit z x n = false := by
    unfold shadowHit shadowBase
    simp only [Bool.and_eq_false_iff, decide_eq_false_iff_not]
    omega
  have space : ¬16777216 ≤ x := by omega
  simp [locCheck, first, last, shadow, space, ha]

theorem State.ltouch_eq (s : State) (l a n : Nat) : ∃ ls, s.ltouch l a n = { s with lcs := ls } := by
  unfold State.ltouch
  dsimp only
  split <;> exact ⟨_, rfl⟩

theorem State.chanCheck_index (s : State) {ch : Nat} (h : 64 ≤ ch) (out : Bool) (code : Nat) : s.chanCheck ch out code = some (illop 6 1) :=
  if_pos h

section
variable {s : State} {ch : Nat} {gr : Graph} {d : StageD} (hch : ch < 64) (hgr : s.myGraph = some gr) (hd : gr.stages[s.op.stage]? = some d)
include hch hgr hd

/-- A channel that the stage's mask names passes, another is QERR with the code given (R101). -/
theorem State.chanCheck_mask (out : Bool) (code : Nat) :
    s.chanCheck ch out code = if (if out then d.outmask else d.inmask).getLsbD ch then none else some (qerr code ch) := by
  simp [State.chanCheck, Nat.not_le.2 hch, hgr, hd]

theorem State.chanCheck_out {code : Nat} (h : d.outmask.getLsbD ch = true) : s.chanCheck ch true code = none := by
  simp [State.chanCheck_mask hch hgr hd, h]

theorem State.chanCheck_in {code : Nat} (h : d.inmask.getLsbD ch = true) : s.chanCheck ch false code = none := by
  simp [State.chanCheck_mask hch hgr hd, h]

theorem State.chanCheck_notOut {code : Nat} (h : d.outmask.getLsbD ch = false) : s.chanCheck ch true code = some (qerr code ch) := by
  simp [State.chanCheck_mask hch hgr hd, h]

theorem State.chanCheck_notIn {code : Nat} (h : d.inmask.getLsbD ch = false) : s.chanCheck ch false code = some (qerr code ch) := by
  simp [State.chanCheck_mask hch hgr hd, h]

end

/-! ### QPUSH, QPOP and QTRY (R448-R450) -/

/-- The strand notes a push, or a pop, of an ORDERED channel (R99). -/
def Strand.pushed (gr : Graph) (ch : Nat) (st : Strand) : Strand :=
  if gr.isOrdered ch then { st with opush := st.opush ||| chBit ch } else st

theorem Strand.pushed_eq (gr : Graph) (ch : Nat) (st : Strand) :
    st.pushed gr ch = { st with opush := if gr.isOrdered ch then st.opush ||| BitVec.ofNat 64 (2 ^ ch) else st.opush } := by
  unfold Strand.pushed
  split <;> rfl

@[inherit_doc Strand.pushed]
def Strand.popped (gr : Graph) (ch : Nat) (st : Strand) : Strand :=
  if gr.isOrdered ch then { st with opop := st.opop ||| chBit ch } else st

theorem Strand.popped_eq (gr : Graph) (ch : Nat) (st : Strand) :
    st.popped gr ch = { st with opop := if gr.isOrdered ch then st.opop ||| BitVec.ofNat 64 (2 ^ ch) else st.opop } := by
  unfold Strand.popped
  split <;> rfl

theorem State.pend_blockAfter (s : State) (e : Access) : (s.pend [e]).blockAfter =
    s.setStrand s.cur { s.me with acc := s.me.acc ++ [{ e with num := s.me.accNo }], accNo := s.me.accNo + 1, blk := .after, since := s.cycle } := by
  simp only [State.blockAfter, State.pend, State.onMe_onMe]
  rfl

/-- The access by which a pop copies its entry. -/
def State.popAccess (s : State) (gr : Graph) (ch x : Nat) : Access :=
  let i := gr.popSlot ch s.op.q
  { s.access (.pop gr.gid ch i (s.entryBytes s.mySlot gr ch i)) x (gr.esz ch) 2 3 0 0 (.loc x) 0 (.win s.myLc x) with num := s.me.accNo }

section
variable {s : State} {g : Guard} (hr : s.runs g) {a b c : R6} {fn : F4} {ch : Nat} (ha : (s.gv a).toNat = ch) {t : Trap} {gr : Graph}
include hr ha

theorem exec_qpush_trap (h : s.chanCheck ch true 0 = some t) : exec (.qpush g a b c fn) s = .next (s.raise t) := by
  subst ha
  refine exec_acts (execQpush g a b c fn s) rfl rfl hr ?_
  exact State.checked_some h _

theorem exec_qpop_trap (h : s.chanCheck ch false 0 = some t) : exec (.qpop g a b c fn) s = .next (s.raise t) := by
  subst ha
  refine exec_acts (execQpop g a b c fn s) rfl rfl hr ?_
  exact State.checked_some h _

theorem exec_qtry_trap (h : s.chanCheck ch (!fn.getLsbD 0) 7 = some t) : exec (.qtry g a b c fn) s = .next (s.raise t) := by
  subst ha
  refine exec_acts (execQtry g a b c fn s) rfl rfl hr ?_
  exact State.checked_some h _

theorem ends_qtry (h : s.chanCheck ch (!fn.getLsbD 0) 7 = none) (hgr : s.myGraph = some gr) :
    s.ends (.qtry g a b c fn) (s.putsP (fn.toNat / 2) (if fn.getLsbD 0 then gr.popOk ch s.op.q else gr.pushOk ch s.op.q) 3 0) := by
  have done : exec (.qtry g a b c fn) s = .next (s.wP (fn.toNat / 2) (if fn.getLsbD 0 then gr.popOk ch s.op.q else gr.pushOk ch s.op.q) 3) := by
    subst ha
    refine exec_acts (execQtry g a b c fn s) rfl rfl hr ?_
    refine (State.checked_none h _).trans ?_
    simp only [hgr]
  exact ⟨_, done, s.putsP_wP0 _ _ _ (by omega)⟩

variable {x : Nat} (hb : (s.gv b).toNat = x) (hgr : s.myGraph = some gr)
include hb hgr

section
variable (hc : s.chanCheck ch true 0 = none) (hord : ¬(gr.isOrdered ch = true ∧ s.op.opush.getLsbD ch = true))
  (hloc : locCheck s.myS false (gr.esz ch) 16 [(0, x)] = none)
include hc hord hloc

/-- A push that passes its checks. -/
theorem exec_qpush : exec (.qpush g a b c fn) s = .next (
    let u := s.ltouch s.myLc x (gr.esz ch)
    if !gr.pushOk ch s.op.q then s.block
    else (u.modGraph u.mySlot gr.gid (fun h => h.reserve ch u.op.q u.cur (u.lread s.myLc x (gr.esz ch)))).onMe (Strand.pushed gr ch)) := by
  subst ha hb
  refine exec_acts (execQpush g a b c fn s) rfl rfl hr ?_
  have pass : firstOf [if gr.isOrdered (s.gv a).toNat && s.op.opush.getLsbD (s.gv a).toNat then some (qerr 5 (s.gv a).toNat) else none,
      locCheck s.myS false (gr.esz (s.gv a).toNat) 16 [(0, (s.gv b).toNat)]] = none := by
    simp [hord, hloc, firstOf]
  refine (State.checked_none hc _).trans ?_
  simp only [hgr]
  rw [State.checked_none pass]
  obtain ⟨ls, e⟩ := s.ltouch_eq s.myLc (s.gv b).toNat (gr.esz (s.gv a).toNat)
  simp only [State.sread, e]
  rfl

theorem exec_qpush_full (h : gr.pushOk ch s.op.q = false) : exec (.qpush g a b c fn) s = .next s.block := by
  rw [exec_qpush hr ha hb hgr hc hord hloc, h]
  rfl

/-- With a free slot, the slot is reserved with the bytes at the source (R98, R448). -/
theorem exec_qpush_free (h : gr.pushOk ch s.op.q = true) :
    exec (.qpush g a b c fn) s = .next (((s.ltouch s.myLc x (gr.esz ch)).setCtx s.mySlot (s.myCtx.modGraph gr.gid (fun h =>
        h.reserve ch s.op.q s.cur ((s.ltouch s.myLc x (gr.esz ch)).lread s.myLc x (gr.esz ch))))).setStrand s.cur
      { s.me with opush := if gr.isOrdered ch then s.me.opush ||| BitVec.ofNat 64 (2 ^ ch) else s.me.opush }) := by
  obtain ⟨ls, e⟩ := s.ltouch_eq s.myLc x (gr.esz ch)
  rw [exec_qpush hr ha hb hgr hc hord hloc, h]
  simp only [State.onMe, State.modStrand, Strand.pushed_eq, e]
  rfl

end

section
variable (hc : s.chanCheck ch false 0 = none)
include hc

omit hb in
/-- A pop that no push can ever answer is QERR 4 (R101). -/
theorem exec_qpop_hopeless (h : gr.popHopeless ch = true) : exec (.qpop g a b c fn) s = .next (s.raise (qerr 4 ch)) := by
  subst ha
  refine exec_acts (execQpop g a b c fn s) rfl rfl hr ?_
  refine (State.checked_none hc _).trans ?_
  simp [hgr, h, firstOf, State.checked]

variable (hhope : gr.popHopeless ch = false) (hord : ¬(gr.isOrdered ch = true ∧ s.op.opop.getLsbD ch = true))
  (hloc : locCheck s.myS true (gr.esz ch) 16 [(0, x)] = none)
include hhope hord hloc

/-- A pop that passes its checks. -/
theorem exec_qpop : exec (.qpop g a b c fn) s = .next (
    let u := (s.modGraph s.mySlot gr.gid (fun h => h.claim ch s.op.q)).onMe (Strand.popped gr ch)
    let i := gr.popSlot ch s.op.q
    if !gr.popOk ch s.op.q then (s.onMe (fun st => { st with popWait := some ch })).block
    else (u.pend [u.access (.pop gr.gid ch i (s.entryBytes s.mySlot gr ch i)) x (gr.esz ch) 2 3 0 0 (.loc x) 0 (.win u.myLc x)]).blockAfter) := by
  subst ha hb
  refine exec_acts (execQpop g a b c fn s) rfl rfl hr ?_
  have pass : firstOf [if gr.popHopeless (s.gv a).toNat then some (qerr 4 (s.gv a).toNat) else none,
      if gr.isOrdered (s.gv a).toNat && s.op.opop.getLsbD (s.gv a).toNat then some (qerr 5 (s.gv a).toNat) else none,
      locCheck s.myS true (gr.esz (s.gv a).toNat) 16 [(0, (s.gv b).toNat)]] = none := by
    simp [hhope, hord, hloc, firstOf]
  refine (State.checked_none hc _).trans ?_
  simp only [hgr]
  rw [State.checked_none pass]
  rfl

theorem exec_qpop_empty (h : gr.popOk ch s.op.q = false) :
    exec (.qpop g a b c fn) s = .next (s.setStrand s.cur { s.me with popWait := some ch }).block := by
  rw [exec_qpop hr ha hb hgr hc hhope hord hloc, h]
  rfl

/-- With an entry published, the entry is claimed and its copy is pending (R98, R449). -/
theorem exec_qpop_claim (h : gr.popOk ch s.op.q = true) :
    exec (.qpop g a b c fn) s = .next ((s.setCtx s.mySlot (s.myCtx.modGraph gr.gid (fun h => h.claim ch s.op.q))).setStrand s.cur
      { s.me with opop := if gr.isOrdered ch then s.me.opop ||| BitVec.ofNat 64 (2 ^ ch) else s.me.opop,
                  acc := s.me.acc ++ [s.popAccess gr ch x], accNo := s.me.accNo + 1, blk := .after, since := s.cycle }) := by
  let w := s.modGraph s.mySlot gr.gid (fun h => h.claim ch s.op.q)
  have me : (w.onMe (Strand.popped gr ch)).me =
      { s.me with opop := if gr.isOrdered ch then s.me.opop ||| BitVec.ofNat 64 (2 ^ ch) else s.me.opop } :=
    (State.me_onMe _ _).trans (Strand.popped_eq _ _ _)
  rw [exec_qpop hr ha hb hgr hc hhope hord hloc, h]
  simp only [State.pend_blockAfter, State.access, State.popAccess]
  rw [me]
  exact congrArg _ (State.setStrand_setStrand _ _ _ _)

end

end

/-! ### A channel's record (R98-R100) -/

theorem Graph.chrec_modChan_same {g : Graph} {c : Nat} (hc : c < g.cst.length) (f : Chan → Chan) : (g.modChan c f).chrec c = f (g.chrec c) := by
  simp [Graph.modChan, Graph.chrec, lmod_eq_modify, hc]

theorem Graph.chrec_modChan_other (g : Graph) {c d : Nat} (h : d ≠ c) (f : Chan → Chan) : (g.modChan c f).chrec d = g.chrec d := by
  simp [Graph.modChan, Graph.chrec, lmod_eq_modify, h.symm]

@[simp] theorem Graph.cst_modChan_length (g : Graph) (c : Nat) (f : Chan → Chan) : (g.modChan c f).cst.length = g.cst.length := by
  simp [Graph.modChan, lmod_eq_modify]

/-- The slot that a push by firing `q` reserves. -/
def Graph.pushSlot (g : Graph) (c q : Nat) : Nat := if g.isOrdered c then q % g.cap c else (g.chrec c).tail % g.cap c

theorem Graph.chrec_reserve {g : Graph} {c : Nat} (hc : c < g.cst.length) (q t : Nat) (bs : List Byte) :
    (g.reserve c q t bs).chrec c = { g.chrec c with
      slots := tset .empty ((g.chrec c).makeRoom (g.cap c) (g.pushSlot c q)) (g.pushSlot c q) (.reserved q t bs)
      tail := ((g.chrec c).tail + 1) % g.cap c } :=
  Graph.chrec_modChan_same hc _

theorem Graph.chrec_claim {g : Graph} {c : Nat} (hc : c < g.cst.length) (q : Nat) :
    (g.claim c q).chrec c = { g.chrec c with
      slots := tset .empty (g.chrec c).slots (g.popSlot c q) .claimed, head := ((g.chrec c).head + 1) % g.cap c } :=
  Graph.chrec_modChan_same hc _

theorem Graph.chrec_freeSlot {g : Graph} {c : Nat} (hc : c < g.cst.length) (i : Nat) :
    (g.freeSlot c i).chrec c = { g.chrec c with
      slots := tset .empty (g.chrec c).slots ((g.chrec c).claimAt i) .empty, pops := ((g.chrec c).pops + 1) % 2 ^ 32 } :=
  Graph.chrec_modChan_same hc _

theorem ChSlot.isClaimed_iff (x : ChSlot) : x.isClaimed = true ↔ x = .claimed := by
  cases x <;> simp [ChSlot.isClaimed]

/-- Room is made at a slot that no claim holds by leaving the record as it is. -/
theorem Chan.makeRoom_unclaimed {r : Chan} {i : Nat} (h : r.slot i ≠ .claimed) (n : Nat) : r.makeRoom n i = r.slots := by
  rw [Chan.makeRoom, if_neg (mt (ChSlot.isClaimed_iff _).1 h)]

/-- Making room changes at most one slot, from empty to claimed. -/
theorem Chan.makeRoom_slot (r : Chan) (n i j : Nat) :
    tget .empty (r.makeRoom n i) j = r.slot j ∨ (r.slot j = .empty ∧ tget .empty (r.makeRoom n i) j = .claimed) := by
  unfold Chan.makeRoom
  split
  · split
    · next k hk =>
      have hempty : r.slot k = .empty := by simpa using List.find?_some hk
      rw [tget_tset]
      split
      · next h => exact .inr ⟨h ▸ hempty, rfl⟩
      · exact .inl rfl
    · exact .inl rfl
  · exact .inl rfl

/-- A claimed slot is the one that its pop's end releases. -/
theorem Chan.claimAt_claimed {r : Chan} {i : Nat} (h : r.slot i = .claimed) : r.claimAt i = i := by
  rw [Chan.claimAt, if_pos ((ChSlot.isClaimed_iff _).2 h)]

section
variable {g : Graph} {c : Nat} (hc : c < g.cst.length) (q t : Nat) (bs : List Byte)
include hc

/-- The slots of a channel after a push has reserved one. -/
theorem Graph.slot_reserve (j : Nat) : ((g.reserve c q t bs).chrec c).slot j =
    if j = g.pushSlot c q then .reserved q t bs else tget .empty ((g.chrec c).makeRoom (g.cap c) (g.pushSlot c q)) j := by
  rw [Graph.chrec_reserve hc]
  exact tget_tset _ _ _ _ _

omit hc in
/-- A published entry may be popped by its own number, or on an unordered channel where HEAD stands at it (R99, R100). -/
theorem Graph.popOk_published {i : Nat} (hs : (g.chrec c).slot i = .published q bs) (hi : g.popSlot c q = i) : g.popOk c q = true := by
  rw [Graph.popOk, hi, hs]
  cases g.isOrdered c <;> simp [ChSlot.full]

/-- A pop claims its slot and moves HEAD on. -/
theorem Graph.claim_spec : ((g.claim c q).chrec c).slot (g.popSlot c q) = .claimed ∧
    ((g.claim c q).chrec c).head = ((g.chrec c).head + 1) % g.cap c ∧ ((g.claim c q).chrec c).pops = (g.chrec c).pops ∧
    ((g.claim c q).chrec c).pushes = (g.chrec c).pushes ∧ c < (g.claim c q).cst.length := by
  rw [Graph.chrec_claim hc]
  exact ⟨tget_tset_same _ _ _ _, rfl, rfl, rfl, by rwa [Graph.claim, Graph.cst_modChan_length]⟩

/-- The end of the copy of a claimed slot empties it, and POPS counts it. -/
theorem Graph.freeSlot_spec {i : Nat} (h : (g.chrec c).slot i = .claimed) : ((g.freeSlot c i).chrec c).slot i = .empty ∧
    ((g.freeSlot c i).chrec c).pops = ((g.chrec c).pops + 1) % 2 ^ 32 ∧ ((g.freeSlot c i).chrec c).pushes = (g.chrec c).pushes := by
  rw [Graph.chrec_freeSlot hc, Chan.claimAt_claimed h]
  exact ⟨tget_tset_same _ _ _ _, rfl, rfl⟩

end

/-- Settles O34: the checks and the effect of each instruction, then the record of a channel from reservation to release. -/
theorem channels : Obligations.Channels := by
  unfold Obligations.Channels
  refine ⟨fun s g a b c fn hr => ?_, fun gr c q t bs hc hok hcap => ?_⟩
  · intro ch x z tr
    refine ⟨fun h => ?_, fun hch gr d hgr hd => ?_⟩
    · exact ⟨exec_qpush_trap hr rfl (s.chanCheck_index h _ _), exec_qpop_trap hr rfl (s.chanCheck_index h _ _),
        exec_qtry_trap hr rfl (s.chanCheck_index h _ _)⟩
    · intro n fits
      have code : ∀ {i : Instr}, exec i s = .next (s.raise (qerr 0 ch)) → tr i 0x13 (ch * 256) := by
        intro i h
        rw [qerr, Nat.zero_add] at h
        exact h
      have room : fits → ∀ wr, locCheck s.myS wr n 16 [(0, x)] = none := by
        rintro ⟨halign, hend, hsize, hshadow⟩ wr
        exact locCheck_entry wr halign hend hsize hshadow
      refine ⟨fun ho => ⟨code (exec_qpush_trap hr rfl (State.chanCheck_notOut hch hgr hd ho)), fun hf => ?_⟩,
        fun hi => ⟨code (exec_qpop_trap hr rfl (State.chanCheck_notIn hch hgr hd hi)), fun hf => ?_⟩,
        fun ho => ⟨fun hf => ?_, fun hfit hord => ⟨fun hno => ?_, fun hyes => ?_⟩⟩,
        fun hi => ⟨fun hf => ?_, fun hhope => ?_, fun hfit hhope hord => ⟨fun hno => ?_, fun hyes => ?_⟩⟩⟩
      · exact exec_qtry_trap hr rfl (by rw [hf]; exact State.chanCheck_notOut hch hgr hd ho)
      · exact exec_qtry_trap hr rfl (by rw [hf]; exact State.chanCheck_notIn hch hgr hd hi)
      · have done := ends_qtry (a := a) (b := b) (c := c) (fn := fn) hr rfl (by rw [hf]; exact State.chanCheck_out hch hgr hd ho) hgr
        rwa [hf] at done
      · exact exec_qpush_full hr rfl rfl hgr (State.chanCheck_out hch hgr hd ho) hord (room hfit false) hno
      · exact exec_qpush_free hr rfl rfl hgr (State.chanCheck_out hch hgr hd ho) hord (room hfit false) hyes
      · have done := ends_qtry (a := a) (b := b) (c := c) (fn := fn) hr rfl (by rw [hf]; exact State.chanCheck_in hch hgr hd hi) hgr
        rwa [hf] at done
      · have done := exec_qpop_hopeless (b := b) (c := c) (fn := fn) hr rfl hgr (State.chanCheck_in hch hgr hd hi) hhope
        exact done
      · exact exec_qpop_empty hr rfl rfl hgr (State.chanCheck_in hch hgr hd hi) hhope hord (room hfit true) hno
      · exact ⟨s.popAccess gr ch x, rfl, rfl, rfl, rfl,
          exec_qpop_claim hr rfl rfl hgr (State.chanCheck_in hch hgr hd hi) hhope hord (room hfit true) hyes⟩
  · intro r i g1 g2
    have slot := Graph.slot_reserve hc q t bs
    have hc1 : c < g1.cst.length := by
      simpa [g1, Graph.reserve] using hc
    have hrec : g1.chrec c = _ := Graph.chrec_reserve hc q t bs
    have hrec2 : g2.chrec c = _ := Graph.chrec_modChan_same hc1 _
    refine ⟨(slot i).trans (if_pos rfl), by rw [hrec], by rw [hrec], fun hfree j hj => ?_, fun _ j hj => ?_,
      fun d hd => Graph.chrec_modChan_other gr hd _, fun hhead => ?_⟩
    · refine (slot j).trans ((if_neg hj).trans ?_)
      exact congrArg (fun s => tget .empty s j) (Chan.makeRoom_unclaimed hfree _)
    · have same : (g1.chrec c).slot j = tget .empty (r.makeRoom (gr.cap c) i) j := (slot j).trans (if_neg hj)
      rw [same]
      exact Chan.makeRoom_slot r (gr.cap c) i j
    · have hc2 : c < g2.cst.length := by
        simpa [g2] using hc1
      have pop : g2.popSlot c q = i := by
        have head : (g2.chrec c).head = r.head := by rw [hrec2, hrec]
        show (if gr.isOrdered c then q % gr.cap c else (g2.chrec c).head % gr.cap c) = i
        rw [head]
        rcases hhead with hord | hhead
        · simp only [i, hord, if_true]
        · split
          · next hord => simp only [i, hord, if_true]
          · exact hhead
      have full : (g2.chrec c).slot i = .published q bs := by
        rw [hrec2]
        exact tget_tset_same _ _ _ _
      obtain ⟨hclaimed, hhead', hpops, hpushes, hc3⟩ := Graph.claim_spec hc2 q
      rw [pop] at hclaimed
      obtain ⟨hempty, hpops', hpushes'⟩ := Graph.freeSlot_spec hc3 hclaimed
      refine ⟨Graph.popOk_published q bs full pop, pop, hclaimed, ?_, hempty, ?_, ?_⟩
      · rw [hhead', hrec2, hrec]
        rfl
      · rw [hpops', hpops, hrec2, hrec]
      · rw [hpushes', hpushes, hrec2, hrec]

end Sys2Proof.Machine
end

section
/-! SUPPORT. What translation, reads and writes through it, and the launch unit's reads leave as they are (R65, R151, R182-R189). -/

namespace Sys2Proof.Machine

/-- `t` is `s` but for what accesses to memory may change: memory with its versions, errors and compression, contexts, bytes of local memory
with the filled lines of open regions, monitored lines, the engines' held stores and the free values used. -/
def State.Accessed (s t : State) : Prop :=
  (∃ m p v b z c lc ln o f, t = { s with
    mem := m, past := p, vtime := v, bad := b, zips := z, ctxs := c, lcs := lc, lines := ln, outq := o, fresh := f }) ∧
  ∀ l, t.lc l = { s.lc l with loc := (t.lc l).loc, fill := (t.lc l).fill }

section
variable {s t u : State}

theorem State.Accessed.refl (s : State) : s.Accessed s := ⟨⟨_, _, _, _, _, _, _, _, _, _, rfl⟩, fun _ => rfl⟩

theorem State.Accessed.trans (h : s.Accessed t) (h' : t.Accessed u) : s.Accessed u := by
  obtain ⟨⟨_, _, _, _, _, _, _, _, _, _, e⟩, hl⟩ := h
  obtain ⟨⟨_, _, _, _, _, _, _, _, _, _, e'⟩, hl'⟩ := h'
  exact ⟨⟨_, _, _, _, _, _, _, _, _, _, by rw [e', e]⟩, fun l => by rw [hl', hl]⟩

/-- An access that leaves local memory alone. -/
theorem State.Accessed.of_eq {m p v b z c ln o f}
    (h : t = { s with mem := m, past := p, vtime := v, bad := b, zips := z, ctxs := c, lines := ln, outq := o, fresh := f }) : s.Accessed t := by
  subst h
  exact ⟨⟨_, _, _, _, _, _, _, _, _, _, rfl⟩, fun _ => rfl⟩

theorem State.Accessed.strands (h : s.Accessed t) : t.strands = s.strands := by
  obtain ⟨⟨_, _, _, _, _, _, _, _, _, _, e⟩, -⟩ := h
  rw [e]

theorem State.Accessed.strand (h : s.Accessed t) (j : Nat) : t.strand j = s.strand j := by
  unfold State.strand
  rw [h.strands]

theorem State.Accessed.core (h : s.Accessed t) (l : Nat) : (t.lc l).core = (s.lc l).core := by
  rw [h.2 l]

end

/-! ### Translation (R182-R187) -/

theorem State.accessed_tick (s : State) : s.Accessed s.tick.2 := State.Accessed.of_eq rfl

theorem State.accessed_pwrite (s : State) (who : Option Nat) (zip : Bool) (pa : Nat) (bs : List Byte) : s.Accessed (s.pwrite who zip pa bs) := by
  obtain ⟨m, p, v, b, z, c, l, e⟩ := s.pwrite_eq who zip pa bs
  exact State.Accessed.of_eq e

theorem State.accessed_lookup (s : State) (l va : Nat) : s.Accessed (s.lookup l va).2 := by
  unfold State.lookup
  dsimp only
  split
  · exact State.Accessed.of_eq rfl
  · exact s.accessed_tick.trans (State.Accessed.of_eq rfl)

theorem State.accessed_orLeaf (s : State) (l epa bits cur : Nat) : s.Accessed (s.orLeaf l epa bits cur) := by
  unfold State.orLeaf
  split
  · exact State.Accessed.of_eq rfl
  · exact s.accessed_pwrite _ _ _ _

theorem State.accessed_setAD (s : State) (l va : Nat) (a : Acc) (pa e epa level : Nat) : s.Accessed (s.setAD l va a pa e epa level).2 := by
  unfold State.setAD
  dsimp only
  generalize (if epa < 2 ^ 51 ∧ (!s.ownFid (epa >>> 37)) = true then e else leNat (s.pread epa 8)) = cur
  split
  · exact State.Accessed.refl s
  · split
    · exact State.Accessed.refl s
    · split
      · exact State.Accessed.refl s
      · split
        · exact State.Accessed.refl s
        · exact (s.accessed_orLeaf l epa _ cur).trans (State.Accessed.of_eq rfl)

theorem State.accessed_xlate (s : State) (l va : Nat) (a : Acc) : s.Accessed (s.xlate l va a).2 := by
  have h := s.accessed_lookup l va
  unfold State.xlate
  dsimp only
  generalize s.lookup l va = r at h ⊢
  split
  · exact State.Accessed.refl s
  · split
    · repeat' split
      all_goals exact State.Accessed.refl s
    · obtain ⟨x, u⟩ := r
      cases x with
      | ok pa e epa level =>
        dsimp only
        split
        · exact h
        · exact h.trans (u.accessed_setAD _ _ _ _ _ _ _)
      | window => exact h
      | fault => exact h
      | err => exact h

theorem State.accessed_reach1 (s : State) (c va : Nat) (a : Acc) : s.Accessed (s.reach1 c va a).2 := by
  have h := s.accessed_xlate c va a
  unfold State.reach1
  generalize s.xlate c va a = r at h ⊢
  obtain ⟨x, u⟩ := r
  cases x <;> exact h

theorem State.accessed_reachFrom (c : Nat) (a : Acc) (fuel : Nat) (s : State) (va n : Nat) : s.Accessed (State.reachFrom c a fuel s va n).2 := by
  induction fuel generalizing s va n with
  | zero => exact State.Accessed.refl s
  | succ fuel ih =>
    unfold State.reachFrom
    split
    · exact State.Accessed.refl s
    · have h := s.accessed_reach1 c va a
      dsimp only
      generalize s.reach1 c va a = r at h ⊢
      obtain ⟨e | l, u⟩ := r
      · exact h
      · have h' := ih u (va + min n (pageLeft va)) (n - min n (pageLeft va))
        dsimp only
        generalize State.reachFrom c a fuel u (va + min n (pageLeft va)) (n - min n (pageLeft va)) = r' at h' ⊢
        obtain ⟨e | l, v⟩ := r'
        · exact h.trans h'
        · exact h.trans h'

/-! ### Reads (R65, R90, R254) -/

theorem State.accessed_passUnits (s : State) (must : Past → Nat) (pa : Nat) (bs : List Byte) : s.Accessed (s.passUnits must pa bs).2 :=
  foldl_rel (fun r r' : List Byte × State => r.2.Accessed r'.2) (fun r => State.Accessed.refl r.2) (fun _ _ _ => State.Accessed.trans)
    (fun r u => by
      obtain ⟨f, e, -⟩ := r.2.passUnit_spec must (u / 8)
      exact State.Accessed.of_eq e) _ (bs, s)

theorem State.accessed_readLocs (must : Nat → Past → Nat) (ps : List (Loc × Nat)) (s : State) : s.Accessed (State.readLocs must ps s).2 := by
  induction ps generalizing s with
  | nil => exact State.Accessed.refl s
  | cons e ps ih =>
    obtain ⟨pa | w, n⟩ := e
    · exact (s.accessed_passUnits _ _ _).trans (ih _)
    · exact ih s

theorem State.accessed_vread (s : State) (c va n : Nat) : s.Accessed (s.vread c va n).2 := by
  have h : s.Accessed (s.reach c va n .read).2 := State.accessed_reachFrom _ _ _ _ _ _
  unfold State.vread State.vreadBy
  generalize s.reach c va n .read = r at h ⊢
  obtain ⟨e | ps, u⟩ := r
  · exact h
  · dsimp only
    split
    · exact h
    · exact (h.trans (State.accessed_readLocs _ ps u)).trans (State.Accessed.of_eq rfl)

theorem State.accessed_readGraph (s : State) (x va : Nat) : s.Accessed (s.readGraph x va).2 := by
  have h := s.accessed_vread (launchLc x) va 64
  unfold State.readGraph
  generalize s.vread (launchLc x) va 64 = r at h ⊢
  obtain ⟨e | hd, u⟩ := r
  · exact h
  · dsimp only
    split
    · exact h
    · have h1 := u.accessed_vread (launchLc x) (fld hd 8 8) (64 * fld hd 4 1)
      generalize u.vread (launchLc x) (fld hd 8 8) (64 * fld hd 4 1) = r1 at h1 ⊢
      obtain ⟨e | st, v⟩ := r1
      · exact h.trans h1
      · have h2 := v.accessed_vread (launchLc x) (fld hd 16 8) (32 * fld hd 5 1)
        dsimp only
        generalize v.vread (launchLc x) (fld hd 16 8) (32 * fld hd 5 1) = r2 at h2 ⊢
        obtain ⟨e | ct, w⟩ := r2 <;> exact (h.trans h1).trans h2

/-! ### Writes (R151, R177, R183) -/

theorem State.accessed_setLc (s : State) (l : Nat) (m : Mem) (fl : List Nat) : s.Accessed (s.setLc l { s.lc l with loc := m, fill := fl }) := by
  refine ⟨⟨_, _, _, _, _, _, _, _, _, _, rfl⟩, fun k => ?_⟩
  rw [State.lc_setLc]
  split
  · next h => rw [h]
  · rfl

/-- The lines of an open region that an access fills are bytes of local memory and marks of filled lines. -/
theorem LCore.foldl_fill (f : LCore → Nat → Mem) (lines : List Nat) (c : LCore) : ∃ m fl,
    lines.foldl (fun c k => { c with loc := f c k, fill := sins k c.fill }) c = { c with loc := m, fill := fl } := by
  induction lines generalizing c with
  | nil => exact ⟨_, _, rfl⟩
  | cons k lines ih =>
    obtain ⟨m, fl, e⟩ := ih { c with loc := f c k, fill := sins k c.fill }
    exact ⟨m, fl, e⟩

theorem State.ltouch_setLc (s : State) (l a n : Nat) :
    s.ltouch l a n = s ∨ ∃ m fl, s.ltouch l a n = s.setLc l { s.lc l with loc := m, fill := fl } := by
  unfold State.ltouch
  dsimp only
  split
  · exact .inl rfl
  · obtain ⟨m, fl, e⟩ := LCore.foldl_fill
      (fun c k => twrite 0 c.loc (locBack c (s.specS l) (k * 64)) (tread 0 c.loc (locCommitted c (s.specS l) (k * 64)) 64))
      (((List.range ((min (a + n) (s.specS l) - 1) / 64 + 1 - a / 64)).map (fun i => a / 64 + i)).filter
        (fun k => !(s.lc l).fill.contains k)) (s.lc l)
    exact .inr ⟨m, fl, congrArg _ e⟩

theorem State.accessed_ltouch (s : State) (l a n : Nat) : s.Accessed (s.ltouch l a n) := by
  rcases s.ltouch_setLc l a n with e | ⟨m, fl, e⟩
  · rw [e]
    exact State.Accessed.refl s
  · rw [e]
    exact s.accessed_setLc l m fl

theorem State.accessed_lwrite (s : State) (l a : Nat) (bs : List Byte) : s.Accessed (s.lwrite l a bs) := by
  refine (s.accessed_ltouch l a bs.length).trans ?_
  unfold State.lwrite State.modLc
  dsimp only
  split
  · exact State.accessed_setLc _ l _ _
  · exact State.accessed_setLc _ l _ _

theorem State.accessed_writeLoc (s : State) (c : Nat) (l : Loc) (bs : List Byte) : s.Accessed (s.writeLoc c l bs) := by
  cases l with
  | phys pa leaf =>
    simp only [State.writeLoc]
    split
    · exact State.Accessed.of_eq rfl
    · exact (s.accessed_pwrite _ _ _ _).trans (State.Accessed.of_eq rfl)
  | win k a => exact s.accessed_lwrite k a bs

theorem State.accessed_writePieces (c : Nat) (ps : List (Loc × Nat)) (bs : List Byte) (s : State) : s.Accessed (State.writePieces c ps bs s) := by
  induction ps generalizing bs s with
  | nil => exact State.Accessed.refl s
  | cons e ps ih => exact (s.accessed_writeLoc c e.1 (bs.take e.2)).trans (ih _ _)

theorem State.accessed_vput (s : State) (c va : Nat) (ps : List (Loc × Nat)) (bs : List Byte) : s.Accessed (s.vput c va ps bs) := by
  have h := State.accessed_writePieces c ps bs s
  unfold State.vput
  dsimp only
  split
  · exact h
  · exact h.trans (State.Accessed.of_eq rfl)

theorem State.accessed_vwrite (s : State) (c va : Nat) (bs : List Byte) : s.Accessed (s.vwrite c va bs).2 := by
  have h : s.Accessed (s.reach c va bs.length .write).2 := State.accessed_reachFrom _ _ _ _ _ _
  unfold State.vwrite State.places
  generalize s.reach c va bs.length .write = r at h ⊢
  obtain ⟨e | ps, u⟩ := r
  · exact h
  · dsimp only
    cases u.hole c false ps with
    | some e => exact h
    | none => exact h.trans (u.accessed_vput c va ps bs)

/-! ### Terms of contexts after a write -/

theorem State.writeLoc_keeps (s : State) (c : Nat) (l : Loc) (bs : List Byte) : s.Keeps Ctx.terms (s.writeLoc c l bs) := by
  cases l with
  | phys pa leaf =>
    simp only [State.writeLoc]
    split
    · exact ⟨rfl, fun _ => rfl⟩
    · exact (s.pwrite_keeps _ _ _ _).trans ⟨rfl, fun _ => rfl⟩
  | win k a =>
    simp only [State.writeLoc, State.lwrite]
    rcases s.ltouch_setLc k a bs.length with e | ⟨m, fl, e⟩
    · rw [e]
      exact ⟨rfl, fun _ => rfl⟩
    · rw [e]
      exact ⟨rfl, fun _ => rfl⟩

theorem State.writePieces_keeps (c : Nat) (ps : List (Loc × Nat)) (bs : List Byte) (s : State) :
    s.Keeps Ctx.terms (State.writePieces c ps bs s) := by
  induction ps generalizing bs s with
  | nil => exact State.Keeps.refl _ s
  | cons e ps ih => exact (s.writeLoc_keeps c e.1 (bs.take e.2)).trans (ih _ _)

theorem State.vwrite_keeps (s : State) (c va : Nat) (bs : List Byte) : s.Keeps Ctx.terms (s.vwrite c va bs).2 := by
  have h : s.Keeps Ctx.terms (s.reach c va bs.length .write).2 := State.reachFrom_keeps _ _ _ _ _ _
  unfold State.vwrite State.places
  generalize s.reach c va bs.length .write = r at h ⊢
  obtain ⟨e | ps, u⟩ := r
  · exact h
  · dsimp only
    cases u.hole c false ps with
    | some e => exact h
    | none =>
      have h' := h.trans (State.writePieces_keeps c ps bs u)
      dsimp only [State.vput]
      split
      · exact h'
      · exact h'.trans (State.Keeps.modCtx (f := fun k => k.dirtied va bs.length) (fun _ => rfl) _ _)

end Sys2Proof.Machine
end

section
/-! SUPPORT. LAUNCH of a child graph (R102, R103, R451). Settles ChildLaunch. -/

namespace Sys2Proof.Machine

/-- The child that a LAUNCH by the issuing strand, a firing of graph `gr`, makes of a descriptor. -/
def State.childOf (s : State) (d : GraphDesc) (gr : Graph) (param : W64) : Graph :=
  { graphOf d s.myCtx.nextGid false gr.launch (gr.path ++ [(s.op.stage, s.op.q, s.op.nchild)]) (some gr.gid)
      (graphKeyChild s.op.fkey s.op.nchild) param s.cycle with wide := s.myCtx.serialGraph.isSome }

/-- What a LAUNCH waits for: room in the pending store, and every access of earlier bundles (R424, R451). -/
theorem State.launch_waits_iff (s : State) : (decide (pendingStore ≤ s.myCtx.pending.length) || !s.op.acc.isEmpty || !s.latch.calm) = true ↔
    256 ≤ s.myCtx.pending.length ∨ s.op.acc ≠ [] ∨ s.latch.calm = false := by
  simp only [Bool.or_eq_true, decide_eq_true_eq, Bool.not_eq_true', List.isEmpty_eq_false_iff, or_assoc]
  rfl

section
variable {s : State} {g : Guard} (hr : s.runs g) {a b c : R6} {fn : F4}
include hr

theorem exec_launch_deep (h : s.op.depth = 7 ∨ 65536 ≤ s.op.nchild) : exec (.launch g a b c fn) s = .next (s.raise (qerr 2 0)) := by
  refine exec_acts (execLaunch g a b c fn s) rfl rfl hr ?_
  exact if_pos h

variable (hdepth : ¬(s.op.depth = 7 ∨ 65536 ≤ s.op.nchild))
include hdepth

theorem exec_launch_waits (h : 256 ≤ s.myCtx.pending.length ∨ s.op.acc ≠ [] ∨ s.latch.calm = false) :
    exec (.launch g a b c fn) s = .next s.block := by
  refine exec_acts (execLaunch g a b c fn s) rfl rfl hr ?_
  exact (if_neg hdepth).trans (if_pos (s.launch_waits_iff.2 h))

variable (hgo : ¬(256 ≤ s.myCtx.pending.length ∨ s.op.acc ≠ [] ∨ s.latch.calm = false))
include hgo

theorem exec_launch_misaligned (h : (s.gv a).toNat % 64 ≠ 0) : exec (.launch g a b c fn) s = .next (s.raise (qerr 0x30 0)) := by
  refine exec_acts (execLaunch g a b c fn s) rfl rfl hr ?_
  exact (if_neg hdepth).trans ((if_neg (mt s.launch_waits_iff.1 hgo)).trans (if_pos h))

/-- A descriptor in order becomes a pending child, counted in its firing, whose strand blocks after issue. -/
theorem exec_launch_child (halign : (s.gv a).toNat % 64 = 0) {d : GraphDesc} {gr : Graph} {u : State}
    (hd : (s.beforeBundle.readGraph s.mySlot (s.gv a).toNat).1 = .ok d) (hu : (s.readGraph s.mySlot (s.gv a).toNat).2 = u)
    (hcheck : u.graphCheck s.mySlot d = none) (hstore : u.hearthRoom d.chans = true) (hgr : s.myGraph = some gr) :
    exec (.launch g a b c fn) s = .next ((u.setCtx s.mySlot { u.ctx s.mySlot with
        graphs := s.myCtx.graphs ++ [s.childOf d gr (s.gv b)], nextGid := s.myCtx.nextGid + 1 }).setStrand s.cur
      { s.me with nchild := s.me.nchild + 1, blk := .after, since := s.cycle }) := by
  have terms : ∀ {β : Type} (p : Ctx → β), (∀ k, p k.terms = p k) → p (u.ctx s.mySlot) = p (s.ctx s.mySlot) := by
    intro β p hp
    rw [← hp (u.ctx _), ← hp (s.ctx _), ← hu, (s.readGraph_keeps _ _).2]
  have graphs : (u.ctx s.mySlot).graphs = s.myCtx.graphs := terms Ctx.graphs (fun _ => rfl)
  have nextGid : (u.ctx s.mySlot).nextGid = s.myCtx.nextGid := terms Ctx.nextGid (fun _ => rfl)
  obtain ⟨⟨m, p, v, bd, z, cs, ls, ln, o, f, e⟩, -⟩ : s.Accessed u := hu ▸ s.accessed_readGraph _ _
  have graph : u.myGraph = some gr := by
    have slot : u.myGraph = (u.ctx s.mySlot).graph? s.me.gid := by rw [e]; rfl
    rw [slot, Ctx.graph?, graphs]
    exact hgr
  refine exec_acts (execLaunch g a b c fn s) rfl rfl hr ?_
  refine (if_neg hdepth).trans ((if_neg (mt s.launch_waits_iff.1 hgo)).trans ((if_neg (not_not.2 halign)).trans ?_))
  simp only [hd, hu, hcheck, hstore, graph, Bool.not_true, Bool.false_eq_true, if_false, State.addGraph, State.blockAfter, State.onMe_onMe,
    State.modCtx, graphs, nextGid]
  rw [e]
  rfl

end

/-- Settles O35: the blocks and traps of LAUNCH in their order, then the child that it makes. -/
theorem childLaunch : Obligations.ChildLaunch := by
  unfold Obligations.ChildLaunch
  intro s g a b c fn hr st va tr
  refine ⟨fun h => exec_launch_deep hr h, fun hd hn => ?_⟩
  have hdepth : ¬(s.op.depth = 7 ∨ 65536 ≤ s.op.nchild) := by
    rintro (h | h)
    · exact hd h
    · exact Nat.not_lt.2 h hn
  refine ⟨fun h => exec_launch_waits hr hdepth h, fun hroom hacc hcalm => ?_⟩
  have hgo : ¬(256 ≤ s.myCtx.pending.length ∨ s.op.acc ≠ [] ∨ s.latch.calm = false) := by
    rintro (h | h | h)
    · exact Nat.not_le.2 hroom h
    · exact h hacc
    · simp [hcalm] at h
  refine ⟨fun h => exec_launch_misaligned hr hdepth hgo h, fun halign d u gr hdesc hu hcheck hstore hgr => ?_⟩
  have done := exec_launch_child hr hdepth hgo halign (b := b) (c := c) (fn := fn) hdesc hu hcheck hstore hgr
  refine ⟨_, s.childOf d gr (s.gv b), done, rfl, rfl, rfl, rfl, rfl, rfl, rfl, rfl, rfl, rfl, rfl, rfl, rfl, fun x hx => ?_, fun x hx => ?_⟩
  · obtain ⟨y, -, rfl⟩ := List.mem_map.1 hx
    rfl
  · obtain ⟨y, -, rfl⟩ := List.mem_map.1 hx
    rfl

end Sys2Proof.Machine
end

section
/-! SUPPORT. GBAR and DGST (R83, R155, R251, R452, R455). Settles BarriersAndCheckpoints. -/

namespace Sys2Proof.Machine

/-! ### Tables changed entry by entry -/

/-- What a table reads as where each entry's value is changed, by a change that leaves the default as it is. -/
theorem tget_mapVal {α : Type} {d : α} {f : Nat → α → α} (hd : ∀ n, f n d = d) (t : Tab α) (n : Nat) :
    tget d (t.map (fun e => (e.1, f e.1 e.2))) n = f n (tget d t n) := by
  induction t with
  | nil => exact (hd n).symm
  | cons e t ih =>
    obtain ⟨k, v⟩ := e
    by_cases hk : k = n
    · simp [tget, hk]
    · simp [tget, hk, ih]

/-! ### GBAR (R452) -/

/-- A barrier's mark that is satisfied when the group is `n`. -/
def BarMark.meet (n : Nat) (m : BarMark) : BarMark := if m.group = n then { m with met := true } else m

/-- A strand all of whose marks of group `n` are satisfied. -/
def Strand.meet (n : Nat) (st : Strand) : Strand := { st with gbar := st.gbar.map (BarMark.meet n) }

theorem State.barrierDone_strand (s : State) (x n j : Nat) :
    (s.barrierDone x n).strand j = if j / 4 / 4096 = x then (s.strand j).meet n else s.strand j := by
  have entry : (fun e : Nat × Strand => if slotOfStrand e.1 == x then
        (e.1, { e.2 with gbar := e.2.gbar.map (fun m => if m.group == n then { m with met := true } else m) }) else e) =
      fun e => (e.1, if e.1 / 4 / 4096 = x then e.2.meet n else e.2) := by
    funext e
    simp only [Strand.meet, slotOfStrand, slotOf, lcOf, beq_iff_eq]
    split <;> rfl
  unfold State.barrierDone State.strand
  rw [entry]
  refine tget_mapVal (f := fun k st => if k / 4 / 4096 = x then st.meet n else st) (fun k => ?_) s.strands j
  split <;> rfl

theorem State.barrierDone_gbar (s : State) (x n : Nat) : ((s.barrierDone x n).ctx x).gbar = tset [] (s.ctx x).gbar n [] := by
  show ((s.modCtx x (fun c => { c with gbar := tset [] c.gbar n [] })).ctx x).gbar = _
  rw [State.ctx_modCtx_same]

/-- The group's bits with the arriving logical core's own are all its members'. -/
def State.barrierFull (s : State) (n : Nat) : Bool :=
  (s.myCtx.members n).all (fun m => (sins (lcNum s.myLc) (tget [] s.myCtx.gbar n)).contains m)

theorem State.barrier_full_iff (s : State) {n : Nat} :
    s.barrierFull n = true ↔ ∀ m ∈ s.myCtx.members n, m = lcNum s.myLc ∨ m ∈ tget [] s.myCtx.gbar n := by
  simp [State.barrierFull, List.all_eq_true, mem_sins]

/-- GBAR by a member of group `n`, as execGbar says it. -/
def State.gbarStep (s : State) (n : Nat) : State :=
  match s.me.gbar.find? (fun m => m.group == n) with
  | some m =>
    if m.met then (s.onMe (fun st => { st with gbar := st.gbar.filter (fun m => m.group != n) })).syncStrong s.cur else s.block
  | none =>
    if !s.op.drained || !s.latch.calm then s.block
    else if s.barrierFull n then (s.barrierDone s.mySlot n).syncStrong s.cur
    else ((s.modCtx s.mySlot (fun c => { c with gbar := tset [] c.gbar n (sins (lcNum s.myLc) (tget [] s.myCtx.gbar n)) })).onMe
      (fun st => { st with gbar := { group := n, met := false, tm := s.me.tm } :: st.gbar })).block

theorem State.gbarStep_met {s : State} {n : Nat} {m : BarMark} (hm : s.me.gbar.find? (fun m => m.group == n) = some m) (h : m.met = true) :
    s.gbarStep n = (s.setStrand s.cur { s.me with gbar := s.me.gbar.filter (fun m => m.group != n) }).syncStrong s.cur := by
  simp only [State.gbarStep, hm, h, if_true]
  rfl

theorem State.gbarStep_unmet {s : State} {n : Nat} {m : BarMark} (hm : s.me.gbar.find? (fun m => m.group == n) = some m)
    (h : m.met = false) : s.gbarStep n = s.block := by
  simp only [State.gbarStep, hm, h, Bool.false_eq_true, if_false]

theorem State.gbarStep_new {s : State} {n : Nat} (hnew : ∀ k ∈ s.me.gbar, k.group ≠ n) : s.gbarStep n =
    if !s.op.drained || !s.latch.calm then s.block
    else if s.barrierFull n then (s.barrierDone s.mySlot n).syncStrong s.cur
    else ((s.modCtx s.mySlot (fun c => { c with gbar := tset [] c.gbar n (sins (lcNum s.myLc) (tget [] s.myCtx.gbar n)) })).onMe
      (fun st => { st with gbar := { group := n, met := false, tm := s.me.tm } :: st.gbar })).block := by
  have unmarked : s.me.gbar.find? (fun m => m.group == n) = none := List.find?_eq_none.2 (fun k hk => by simpa using hnew k hk)
  simp only [State.gbarStep, unmarked]

section
variable {s : State} {g : Guard} (hr : s.runs g) {a b c : R6} {fn : F4} {n : Nat} (ha : (s.gv a).toNat = n) (hn : n < 256)
include hr ha hn

theorem exec_gbar_stranger (h : lcNum s.myLc ∉ s.myCtx.members n) : exec (.gbar g a b c fn) s = .next (s.raise (qerr 3 0)) := by
  subst ha
  refine exec_acts (execGbar g a b c fn s) rfl rfl hr ?_
  refine State.checked_some ?_ _
  simp [eField, hn, h, firstOf]

variable (hmem : lcNum s.myLc ∈ s.myCtx.members n)
include hmem

/-- What a GBAR of a group that has the logical core as a member does, once its checks have passed. -/
theorem exec_gbar_member : exec (.gbar g a b c fn) s = .next (s.gbarStep n) := by
  subst ha
  refine exec_acts (execGbar g a b c fn s) rfl rfl hr ?_
  have pass : firstOf [eField 1 (decide ((s.gv a).toNat < 256)),
      if (s.myCtx.members (s.gv a).toNat).contains (lcNum s.myLc) then none else some (qerr 3 0)] = none := by
    simp [eField, hn, hmem, firstOf]
  exact (State.checked_none pass _).trans rfl

variable (hnew : ∀ k ∈ s.me.gbar, k.group ≠ n)
include hnew

theorem exec_gbar_early (h : s.op.drained = false ∨ s.latch.calm = false) : exec (.gbar g a b c fn) s = .next s.block := by
  rw [exec_gbar_member hr ha hn hmem, State.gbarStep_new hnew]
  rw [if_pos (by simpa using h)]

variable (hop : s.op.drained = true) (hcalm : s.latch.calm = true)
include hop hcalm

theorem exec_gbar_first (h : ∃ m ∈ s.myCtx.members n, m ≠ lcNum s.myLc ∧ m ∉ tget [] s.myCtx.gbar n) :
    exec (.gbar g a b c fn) s = .next
      ((s.setCtx s.mySlot { s.myCtx with gbar := tset [] s.myCtx.gbar n (sins (lcNum s.myLc) (tget [] s.myCtx.gbar n)) }).setStrand s.cur
        { s.me with gbar := { group := n, met := false, tm := s.me.tm } :: s.me.gbar }).block := by
  have missing : ¬∀ m ∈ s.myCtx.members n, m = lcNum s.myLc ∨ m ∈ tget [] s.myCtx.gbar n := by
    push Not
    exact h
  rw [exec_gbar_member hr ha hn hmem, State.gbarStep_new hnew]
  rw [if_neg (by simp [hop, hcalm]), if_neg (mt s.barrier_full_iff.1 missing)]
  rfl

theorem exec_gbar_last (h : ∀ m ∈ s.myCtx.members n, m = lcNum s.myLc ∨ m ∈ tget [] s.myCtx.gbar n) :
    exec (.gbar g a b c fn) s = .next ((s.barrierDone s.mySlot n).syncStrong s.cur) := by
  rw [exec_gbar_member hr ha hn hmem, State.gbarStep_new hnew]
  rw [if_neg (by simp [hop, hcalm]), if_pos (s.barrier_full_iff.2 h)]

end

/-- The last arrival has no mark of the group, so only its view changes. -/
theorem State.barrierDone_me {s : State} {n : Nat} (hnew : ∀ k ∈ s.me.gbar, k.group ≠ n) (x : Nat) :
    (s.barrierDone x n).strand s.cur = s.me := by
  rw [State.barrierDone_strand]
  have same : s.me.gbar.map (BarMark.meet n) = s.me.gbar := by
    conv_rhs => rw [← List.map_id s.me.gbar]
    exact List.map_congr_left (fun k hk => if_neg (hnew k hk))
  split
  · exact congrArg (fun bs => { s.me with gbar := bs }) same
  · rfl

theorem State.syncStrong_strand (s : State) (t : Nat) : ∃ v, (s.syncStrong t).strand t = { s.strand t with view := v } :=
  ⟨_, State.strand_modStrand_same _ _ _⟩

/-! ### DGST (R455) -/

section
variable {s : State} {g : Guard} (hr : s.runs g) {a b c : R6} {fn : F4} {n : Nat} (ha : (s.gv a).toNat = n) (hn : n < 65536)
include hr ha hn

theorem exec_dgst_nodet (h : s.myCtx.det = false) : exec (.dgst g a b c fn) s = .next s := by
  subst ha
  refine exec_acts (execDgst g a b c fn s) rfl rfl hr ?_
  exact (State.checked_none (if_pos (decide_eq_true hn)) _).trans (if_pos (by simp [h]))

variable (hdet : s.myCtx.det = true) (halone : s.myCtx.serialGraph = none)
include hdet halone

theorem exec_dgst_go (h : s.me.dgstGo = true) : exec (.dgst g a b c fn) s =
    .next (s.setStrand s.cur { s.me with dgst := some n, dgstAt := s.latch.addr, blk := .after, since := s.cycle }) := by
  subst ha
  refine exec_acts (execDgst g a b c fn s) rfl rfl hr ?_
  refine (State.checked_none (if_pos (decide_eq_true hn)) _).trans ?_
  simp only [hdet, halone, Bool.not_true, Bool.false_eq_true, if_false]
  refine (if_pos h).trans ?_
  simp only [State.blockAfter, State.onMe_onMe]
  rfl

theorem exec_dgst_waits (h : s.me.dgstGo = false) :
    exec (.dgst g a b c fn) s = .next (s.setStrand s.cur { s.me with dgst := some n }).block := by
  subst ha
  refine exec_acts (execDgst g a b c fn s) rfl rfl hr ?_
  refine (State.checked_none (if_pos (decide_eq_true hn)) _).trans ?_
  simp only [hdet, halone, Bool.not_true, Bool.false_eq_true, if_false]
  exact if_neg (by simp [h])

end

/-- Settles O36: GBAR by its mark and the group's bits, and DGST by DET and what DGST_CHECKPOINT has let. -/
theorem barriersAndCheckpoints : Obligations.BarriersAndCheckpoints := by
  unfold Obligations.BarriersAndCheckpoints
  intro s g a b c fn hr n me ms bits
  refine ⟨fun hn => ⟨fun h => exec_gbar_stranger hr rfl hn h, fun hmem => ⟨fun k hk => ?_, fun hnew => ⟨?_, fun hop hcalm => ?_⟩⟩⟩,
    fun hn => ⟨?_, fun hdet hser => ?_⟩⟩
  · have step := exec_gbar_member hr (b := b) (c := c) (fn := fn) rfl hn hmem
    exact ⟨fun h => by rw [step, State.gbarStep_met hk h], fun h => by rw [step, State.gbarStep_unmet hk h]⟩
  · exact exec_gbar_early hr rfl hn hmem hnew
  · refine ⟨fun h => ⟨_, _, exec_gbar_first hr rfl hn hmem hnew hop hcalm h, rfl, fun k hk => tget_tset_other _ _ _ _ _ hk, fun m => ?_⟩,
      fun h => ?_⟩
    · rw [tget_tset_same]
      exact mem_sins _ _ _
    · have gbar := s.barrierDone_gbar s.mySlot n
      refine ⟨_, exec_gbar_last hr rfl hn hmem hnew hop hcalm h, ?_, ?_, fun k hk => ?_, fun j hj => ?_, rfl, rfl⟩
      · obtain ⟨v, own⟩ := (s.barrierDone s.mySlot n).syncStrong_strand s.cur
        rw [State.barrierDone_me hnew] at own
        exact own.trans (congrArg (fun w => { s.me with view := w }) (congrArg Strand.view own).symm)
      · exact (congrArg (fun t => tget [] t n) gbar).trans (tget_tset_same _ _ _ _)
      · exact (congrArg (fun t => tget [] t k) gbar).trans (tget_tset_other _ _ _ _ _ hk)
      · refine (State.strand_modStrand _ _ _ _).trans ((if_neg hj).trans ?_)
        exact s.barrierDone_strand s.mySlot n j
  · exact exec_dgst_nodet hr rfl hn
  · have alone : s.myCtx.serialGraph = none := List.find?_eq_none.2 (fun h hh => by simp [hser h hh])
    exact ⟨exec_dgst_go hr rfl hn hdet alone, exec_dgst_waits hr rfl hn hdet alone⟩

end Sys2Proof.Machine
end

section
/-! SUPPORT. SPECB, SPECC and SPECA (R120-R122, R454): the lines of an open region that an access fills, and what local memory reads before
and after a region is closed. Settles SpeculationRegions. -/

namespace Sys2Proof.Machine

/-! ### The lines of an open region (R120) -/

/-- What byte `x` of the speculable range reads as in an open region: the uncommitted copy's where its line is filled. -/
def LCore.regionByte (c : LCore) (z x : Nat) : Byte :=
  if x / 64 ∈ c.fill then tget 0 c.loc (locBack c z x) else tget 0 c.loc (locCommitted c z x)

/-- Line `k` of the uncommitted copy filled from the committed one. -/
def LCore.fillLine (z : Nat) (c : LCore) (k : Nat) : LCore :=
  { c with loc := twrite 0 c.loc (locBack c z (k * 64)) (tread 0 c.loc (locCommitted c z (k * 64)) 64), fill := sins k c.fill }

@[simp] theorem LCore.mem_fill_fillLine (z : Nat) (c : LCore) (k j : Nat) : j ∈ (c.fillLine z k).fill ↔ j = k ∨ j ∈ c.fill := mem_sins _ _ _

@[simp] theorem locBack_fillLine (z w : Nat) (c : LCore) (k x : Nat) : locBack (c.fillLine w k) z x = locBack c z x := rfl

@[simp] theorem locCommitted_fillLine (z w : Nat) (c : LCore) (k x : Nat) : locCommitted (c.fillLine w k) z x = locCommitted c z x := rfl

theorem locBack_open {c : LCore} (hact : c.act = true) {z x : Nat} (hx : x < z) : locBack c z x = if c.sel then x else shadowBase z + x := by
  cases hsel : c.sel <;> simp [locBack, hx, hact, hsel]

theorem LCore.fillLine_loc (c : LCore) (z k m : Nat) :
    tget 0 (c.fillLine z k).loc m = if locBack c z (k * 64) ≤ m ∧ m < locBack c z (k * 64) + 64
      then tget 0 c.loc (locCommitted c z (k * 64) + (m - locBack c z (k * 64))) else tget 0 c.loc m := by
  have len : (tread 0 c.loc (locCommitted c z (k * 64)) 64).length = 64 := by simp [tread_eq]
  refine (tget_twrite _ _ _ _ _).trans ?_
  rw [len]
  split
  · exact tread_getD _ _ _ _ _ (by omega)
  · rfl

/-- The bytes that back the range follow one another. -/
theorem locBack_add (c : LCore) {z a i : Nat} (h : a + i < z) : locBack c z a + i = locBack c z (a + i) := by
  unfold locBack
  rw [if_pos (by omega), if_pos h]
  split
  · exact Nat.add_assoc _ _ _
  · rfl

section
variable {c : LCore} (hact : c.act = true) {z : Nat}
include hact

theorem LCore.fillLine_back {k x : Nat} (hk : k * 64 + 64 ≤ z) (hx : x < z) : tget 0 (c.fillLine z k).loc (locBack c z x) =
    if x / 64 = k then tget 0 c.loc (locCommitted c z x) else tget 0 c.loc (locBack c z x) := by
  rw [LCore.fillLine_loc, locBack_open hact (by omega), locBack_open hact hx]
  unfold locCommitted
  by_cases h : x / 64 = k
  · rw [if_pos h, if_pos (by split <;> omega)]
    congr 1
    split <;> omega
  · rw [if_neg h, if_neg (by split <;> omega)]

variable (hz : z ≤ 0x20000)
include hz

/-- The two copies of the range do not meet, so that filling a line leaves the committed copy as it is. -/
theorem LCore.fillLine_committed {k x : Nat} (hk : k * 64 + 64 ≤ z) (hx : x < z) :
    tget 0 (c.fillLine z k).loc (locCommitted c z x) = tget 0 c.loc (locCommitted c z x) := by
  rw [LCore.fillLine_loc, locBack_open hact (by omega)]
  refine if_neg ?_
  unfold locCommitted shadowBase
  split <;> omega

theorem LCore.fillLine_regionByte {k x : Nat} (hk : k * 64 + 64 ≤ z) (hfresh : k ∉ c.fill) (hx : x < z) :
    (c.fillLine z k).regionByte z x = c.regionByte z x := by
  simp only [LCore.regionByte, LCore.mem_fill_fillLine, locBack_fillLine, locCommitted_fillLine, LCore.fillLine_committed hact hz hk hx,
    LCore.fillLine_back hact hk hx]
  by_cases h : x / 64 = k
  · simp [h, hfresh]
  · simp [h]

end

/-- Lines filled one after the other, none of them filled before. -/
theorem LCore.foldl_fillLine {z : Nat} (hz : z ≤ 0x20000) {ks : List Nat} (hfit : ∀ k ∈ ks, k * 64 + 64 ≤ z) (hnodup : ks.Nodup) :
    ∀ {c : LCore}, c.act = true → (∀ k ∈ ks, k ∉ c.fill) →
      (∀ x, x < z → (ks.foldl (LCore.fillLine z) c).regionByte z x = c.regionByte z x) ∧
      (∀ j, j ∈ (ks.foldl (LCore.fillLine z) c).fill ↔ j ∈ ks ∨ j ∈ c.fill) ∧
      ∀ x, locBack (ks.foldl (LCore.fillLine z) c) z x = locBack c z x := by
  induction ks with
  | nil => exact fun _ _ => ⟨fun _ _ => rfl, fun _ => by simp, fun _ => rfl⟩
  | cons k ks ih =>
    intro c hact hfresh
    obtain ⟨hout, hnodup⟩ := List.nodup_cons.1 hnodup
    have fresh : ∀ j ∈ ks, j ∉ (c.fillLine z k).fill := by
      intro j hj hfill
      rcases (LCore.mem_fill_fillLine _ _ _ _).1 hfill with rfl | h
      · exact hout hj
      · exact hfresh j (List.mem_cons_of_mem _ hj) h
    obtain ⟨bytes, filled, back⟩ := ih (fun j hj => hfit j (List.mem_cons_of_mem _ hj)) hnodup (c := c.fillLine z k) hact fresh
    refine ⟨fun x hx => (bytes x hx).trans ?_, fun j => (filled j).trans ?_, fun x => (back x).trans rfl⟩
    · exact LCore.fillLine_regionByte hact hz (hfit k (List.mem_cons_self ..)) (hfresh k (List.mem_cons_self ..)) hx
    · rw [LCore.mem_fill_fillLine, List.mem_cons]
      tauto

section
variable {s : State} {l : Nat} (hact : (s.lc l).act = true) (hz : s.specS l ≤ 0x20000)
include hact hz

/-- An access of the speculable range finds each byte's line filled, and the byte as the region reads it. -/
theorem State.ltouch_byte {a n x : Nat} (ha : a ≤ x) (hn : x < a + n) (hx : x < s.specS l) :
    tget 0 ((s.ltouch l a n).lc l).loc (locBack (s.lc l) (s.specS l) x) = (s.lc l).regionByte (s.specS l) x := by
  obtain ⟨q, hq⟩ : ∃ q, s.specS l = q * 64 := by
    unfold State.specS Ctx.specBytes
    split
    · exact ⟨_, (Nat.mul_assoc _ 64 64).symm⟩
    · exact ⟨0, rfl⟩
  generalize hks : (((List.range ((min (a + n) (s.specS l) - 1) / 64 + 1 - a / 64)).map (fun i => a / 64 + i)).filter
    (fun k => !(s.lc l).fill.contains k)) = ks
  have mem : ∀ k, k ∈ ks ↔ a / 64 ≤ k ∧ k ≤ (min (a + n) (s.specS l) - 1) / 64 ∧ k ∉ (s.lc l).fill := by
    intro k
    rw [← hks]
    simp only [List.mem_filter, List.mem_map, List.mem_range, Bool.not_eq_true', List.contains_eq_mem, decide_eq_false_iff_not]
    constructor
    · rintro ⟨⟨i, hi, rfl⟩, hk⟩
      exact ⟨by omega, by omega, hk⟩
    · rintro ⟨h1, h2, hk⟩
      exact ⟨⟨k - a / 64, by omega, by omega⟩, hk⟩
  have nodup : ks.Nodup := by
    rw [← hks]
    exact ((List.nodup_range).map (fun i j h => by simpa using h)).filter _
  have touch : s.ltouch l a n = s.setLc l (ks.foldl (LCore.fillLine (s.specS l)) (s.lc l)) := by
    rw [← hks]
    exact if_neg (by simp [hact]; omega)
  obtain ⟨bytes, filled, back⟩ := LCore.foldl_fillLine hz (ks := ks) (fun k hk => by have := (mem k).1 hk; omega) nodup hact
    (fun k hk => ((mem k).1 hk).2.2)
  have line : x / 64 ∈ (ks.foldl (LCore.fillLine (s.specS l)) (s.lc l)).fill := by
    by_cases h : x / 64 ∈ (s.lc l).fill
    · exact (filled _).2 (.inr h)
    · exact (filled _).2 (.inl ((mem _).2 ⟨by omega, by omega, h⟩))
  rw [touch, State.lc_setLc_same, ← bytes x hx, ← back x]
  exact (if_pos line).symm

end

/-! ### Reads of the speculable range -/

/-- A read within the speculable range, byte by byte. -/
theorem State.lread_speculable {s : State} {l y n : Nat} (h : y + n ≤ s.specS l) :
    s.lread l y n = (List.range n).map (fun i => tget 0 ((s.ltouch l y n).lc l).loc (locBack ((s.ltouch l y n).lc l) (s.specS l) (y + i))) := by
  by_cases hn : n = 0
  · subst hn
    simp [State.lread, tread_eq]
  · have hk : min n (s.specS l - y) = n := by omega
    simp only [State.lread, hk, if_pos (show y < s.specS l by omega), Nat.sub_self, tread_eq, List.range_zero, List.map_nil, List.append_nil]
    refine List.map_congr_left (fun i hi => congrArg _ (locBack_add _ ?_))
    have := List.mem_range.1 hi
    omega

theorem State.locBack_ltouch (s : State) (l a n z x : Nat) : locBack ((s.ltouch l a n).lc l) z x = locBack (s.lc l) z x := by
  rcases s.ltouch_setLc l a n with e | ⟨m, fl, e⟩
  · rw [e]
  · rw [e, State.lc_setLc_same]
    rfl

theorem State.lread_open {s : State} {l y n : Nat} (hact : (s.lc l).act = true) (hz : s.specS l ≤ 0x20000) (h : y + n ≤ s.specS l) :
    s.lread l y n = (List.range n).map (fun i => (s.lc l).regionByte (s.specS l) (y + i)) := by
  rw [State.lread_speculable h]
  refine List.map_congr_left (fun i hi => ?_)
  have := List.mem_range.1 hi
  rw [s.locBack_ltouch, State.ltouch_byte hact hz (by omega) (by omega) (by omega)]

theorem State.lread_closed {s : State} {l y n : Nat} (hact : (s.lc l).act = false) (h : y + n ≤ s.specS l) :
    s.lread l y n = (List.range n).map (fun i => tget 0 (s.lc l).loc (locBack (s.lc l) (s.specS l) (y + i))) := by
  have touch : s.ltouch l y n = s := if_pos (by simp [hact])
  rw [State.lread_speculable h, touch]

/-! ### SPECB, SPECC and SPECA (R454) -/

/-- The local core once its region is closed, by SPECC as its touched lines have left it. -/
def LCore.closed (c : LCore) (commit : Bool) : LCore := { c with act := false, sel := c.sel != commit, fill := [], opener := 0 }

theorem State.ltouch_closed (s : State) (l a n : Nat) :
    ∃ m, (s.ltouch l a n).modLc l (fun c => c.closed true) = s.setLc l { (s.lc l).closed true with loc := m } := by
  rcases s.ltouch_setLc l a n with e | ⟨m, fl, e⟩
  · exact ⟨(s.lc l).loc, by rw [e]; rfl⟩
  · refine ⟨m, ?_⟩
    rw [e, State.modLc, State.lc_setLc_same]
    simp [State.setLc, tset_tset, LCore.closed]

/-- What SPECC commits is what was read within the region. -/
theorem State.lread_committed {s : State} {l y n : Nat} (hact : (s.lc l).act = true) (hz : s.specS l ≤ 0x20000) (h : y + n ≤ s.specS l) :
    ((s.ltouch l 0 (s.specS l)).modLc l (fun c => c.closed true)).lread l y n = s.lread l y n := by
  have size : ((s.ltouch l 0 (s.specS l)).modLc l (fun c => c.closed true)).specS l = s.specS l := by
    rcases s.ltouch_setLc l 0 (s.specS l) with e | ⟨m, fl, e⟩ <;> rw [e] <;> rfl
  rw [State.lread_open hact hz h, State.lread_closed (by rw [State.lc_modLc_same]; rfl) (size.symm ▸ h), size, State.lc_modLc_same]
  refine List.map_congr_left (fun i hi => ?_)
  have := List.mem_range.1 hi
  rw [← State.ltouch_byte hact hz (Nat.zero_le (y + i)) (n := s.specS l) (by omega) (by omega), ← s.locBack_ltouch l 0 (s.specS l)]
  have still : ((s.ltouch l 0 (s.specS l)).lc l).act = true := by
    rcases s.ltouch_setLc l 0 (s.specS l) with e | ⟨m, fl, e⟩
    · rw [e, hact]
    · rw [e, State.lc_setLc_same, hact]
  refine congrArg (tget 0 _) ?_
  simp [locBack, LCore.closed, still]

theorem State.specBusy_iff (s : State) : s.specBusy = true ↔ ∃ k ∈ (s.lc s.myLc).edt,
    (spadRange 0 s.myS).meets k.rd1 = true ∨ (spadRange 0 s.myS).meets k.rd2 = true ∨ (spadRange 0 s.myS).meets k.wr = true := by
  simp only [State.specBusy, List.any_eq_true, Bool.or_eq_true, or_assoc]

theorem State.holdsRegion_iff (s : State) : s.holdsRegion = true ↔ (s.lc s.myLc).act = true ∧ (s.lc s.myLc).opener = s.me.fkey := by
  simp only [State.holdsRegion, Bool.and_eq_true, beq_iff_eq]

section
variable {s : State}

theorem State.closeRegion_trap (h : s.myCtx.spec = false ∨ s.holdsRegion = false) (commit : Bool) :
    s.closeRegion commit = s.raise { cause := 0x15, addr := 0, info := 0 } := if_pos (by simpa using h)

variable (hspec : s.myCtx.spec = true) (hmine : s.holdsRegion = true)
include hspec hmine

theorem State.closeRegion_busy (h : s.specBusy = true) (commit : Bool) : s.closeRegion commit = s.block :=
  (if_neg (by simp [hspec, hmine])).trans (if_pos h)

theorem State.closeRegion_closes (h : s.specBusy = false) (commit : Bool) : s.closeRegion commit =
    (if commit then s.ltouch s.myLc 0 s.myS else s).modLc s.myLc (fun c => c.closed commit) := by
  refine (if_neg (by simp [hspec, hmine])).trans ((if_neg (by simp [h])).trans ?_)
  cases commit with
  | false => rfl
  | true => rcases s.ltouch_setLc s.myLc 0 s.myS with e | ⟨m, fl, e⟩ <;> simp only [e] <;> rfl

end

section
variable {s : State} {g : Guard} (hr : s.runs g) {a b c : R6} {fn : F4}
include hr

theorem exec_specb_trap (h : s.myCtx.spec = false ∨ (s.lc s.myLc).act = true) :
    exec (.specb g a b c fn) s = .next (s.raise { cause := 0x15, addr := 0, info := 0 }) := by
  refine exec_acts (execSpecb g a b c fn s) rfl rfl hr ?_
  exact if_pos (by simpa using h)

theorem exec_specb_open (hspec : s.myCtx.spec = true) (hact : (s.lc s.myLc).act = false) : exec (.specb g a b c fn) s = .next
    (if s.specBusy then s.block else s.setLc s.myLc { s.lc s.myLc with act := true, opener := s.op.fkey, fill := [] }) := by
  refine exec_acts (execSpecb g a b c fn s) rfl rfl hr ?_
  exact if_neg (by simp [hspec, hact])

theorem exec_specc : exec (.specc g a b c fn) s = .next (s.closeRegion true) := exec_acts (execSpecc g a b c fn s) rfl rfl hr rfl

theorem exec_speca : exec (.speca g a b c fn) s = .next (s.closeRegion false) := exec_acts (execSpeca g a b c fn s) rfl rfl hr rfl

end

/-- Settles O37: SPECX, the wait and the effect of each of the three, and the reads of the range by its lines. -/
theorem speculationRegions : Obligations.SpeculationRegions := by
  unfold Obligations.SpeculationRegions
  intro s g a b c fn hr l x z specx mine busy
  have hbusy : s.specBusy = true ↔ busy := s.specBusy_iff
  have hmine : s.holdsRegion = true ↔ mine := s.holdsRegion_iff
  have stop : s.myCtx.spec = false ∨ s.holdsRegion = false → specx (.specc g a b c fn) ∧ specx (.speca g a b c fn) := fun h =>
    ⟨(exec_specc hr).trans (by rw [State.closeRegion_trap h]), (exec_speca hr).trans (by rw [State.closeRegion_trap h])⟩
  refine ⟨fun h => ⟨exec_specb_trap hr (.inl h), stop (.inl h)⟩, fun h => exec_specb_trap hr (.inr h), fun h => stop (.inr ?_),
    fun hspec hact => ⟨fun h => ?_, fun h => ?_⟩, fun hspec hm => ⟨fun h => ?_, fun h => ?_⟩⟩
  · exact Bool.eq_false_iff.2 (mt hmine.1 h)
  · rw [exec_specb_open hr hspec hact, if_pos (hbusy.2 h)]
  · rw [exec_specb_open hr hspec hact, if_neg (mt hbusy.1 h)]
  · have stay := State.closeRegion_busy hspec (hmine.2 hm) (hbusy.2 h)
    exact ⟨(exec_specc hr).trans (by rw [stay]), (exec_speca hr).trans (by rw [stay])⟩
  · have close := State.closeRegion_closes hspec (hmine.2 hm) (Bool.eq_false_iff.2 (mt hbusy.1 h))
    obtain ⟨m, touched⟩ := s.ltouch_closed l 0 z
    have commit : s.closeRegion true = s.setLc l { x.closed true with loc := m } := (close true).trans touched
    refine ⟨(exec_speca hr).trans ?_, _, (exec_specc hr).trans (by rw [commit]), ?_⟩
    · rw [close]
      simp only [Bool.false_eq_true, if_false, State.modLc, LCore.closed, Bool.bne_false]
      rfl
    · rw [State.lc_setLc_same]
      refine ⟨rfl, Bool.xor_true _, rfl, by simp only [LCore.closed, Bool.bne_true], fun hz y n hy => ?_⟩
      rw [← touched]
      exact State.lread_committed hm.1 hz hy

end Sys2Proof.Machine
end

section
/-! SUPPORT. Folds that change the strands of a list one by one. -/

namespace Sys2Proof.Machine

theorem State.OnlyStrands.refl (s : State) : s.OnlyStrands s := ⟨s.strands, rfl⟩

theorem State.OnlyStrands.trans {s t u : State} (h : s.OnlyStrands t) (h' : t.OnlyStrands u) : s.OnlyStrands u := by
  obtain ⟨a, e⟩ := h
  obtain ⟨b, e'⟩ := h'
  exact ⟨b, by rw [e', e]⟩

theorem State.OnlyStrands.modStrand (s : State) (t : Nat) (f : Strand → Strand) : s.OnlyStrands (s.modStrand t f) := ⟨_, rfl⟩

theorem State.OnlyStrands.eq {s t : State} (h : s.OnlyStrands t) : t = { s with strands := t.strands } := by
  obtain ⟨a, e⟩ := h
  rw [e]

/-- Each strand of a list that meets a test is changed once, the test and the change speaking of that strand alone. -/
theorem State.foldl_strands {s : State} {step : State → Nat → State} {p : Nat → Strand → Prop} [∀ j st, Decidable (p j st)]
    {f : Nat → Strand → Strand} (once : ∀ j st, p j st → p j (f j st) → f j (f j st) = f j st) (ts : List Nat) :
    ∀ u, s.OnlyStrands u → (∀ u t, s.OnlyStrands u → step u t = if p t (u.strand t) then u.modStrand t (f t) else u) →
      u.OnlyStrands (ts.foldl step u) ∧
      ∀ j, (ts.foldl step u).strand j = if j ∈ ts ∧ p j (u.strand j) then f j (u.strand j) else u.strand j := by
  induction ts with
  | nil => exact fun u _ _ => ⟨State.OnlyStrands.refl u, fun j => by simp⟩
  | cons t ts ih =>
    intro u hu hstep
    have first : ∀ j, (step u t).strand j = if j = t ∧ p j (u.strand j) then f j (u.strand j) else u.strand j := by
      intro j
      rw [hstep u t hu]
      split
      · next hp =>
        rw [State.strand_modStrand]
        by_cases hj : j = t
        · subst hj
          simp [hp]
        · simp [hj]
      · next hp =>
        rw [if_neg]
        rintro ⟨rfl, h⟩
        exact hp h
    have only : u.OnlyStrands (step u t) := by
      rw [hstep u t hu]
      split
      · exact State.OnlyStrands.modStrand u t _
      · exact State.OnlyStrands.refl u
    obtain ⟨rest, each⟩ := ih (step u t) (hu.trans only) hstep
    refine ⟨only.trans rest, fun j => (each j).trans ?_⟩
    rw [first]
    by_cases hj : j = t ∧ p j (u.strand j)
    · obtain ⟨rfl, hp⟩ := hj
      have now : j = j ∧ p j (u.strand j) := ⟨rfl, hp⟩
      have listed : j ∈ j :: ts ∧ p j (u.strand j) := ⟨List.mem_cons_self .., hp⟩
      rw [if_pos now, if_pos listed]
      split
      · next h => exact once j _ hp h.2
      · rfl
    · rw [if_neg hj]
      refine if_congr ?_ rfl rfl
      rw [List.mem_cons]
      constructor
      · exact fun h => ⟨.inr h.1, h.2⟩
      · exact fun h => ⟨h.1.resolve_left (fun e => hj ⟨e, h.2⟩), h.2⟩

/-- The same where each strand of the list is changed. -/
theorem State.foldl_modStrand {s : State} {step : State → Nat → State} {f : Nat → Strand → Strand} (once : ∀ j st, f j (f j st) = f j st)
    (hstep : ∀ u t, s.OnlyStrands u → step u t = u.modStrand t (f t)) (ts : List Nat) :
    s.OnlyStrands (ts.foldl step s) ∧ ∀ j, (ts.foldl step s).strand j = if j ∈ ts then f j (s.strand j) else s.strand j := by
  obtain ⟨only, each⟩ := State.foldl_strands (p := fun _ _ => True) (fun j st _ _ => once j st) ts s (State.OnlyStrands.refl s)
    (fun u t hu => (hstep u t hu).trans (if_pos trivial).symm)
  exact ⟨only, fun j => (each j).trans (if_congr (by simp) rfl rfl)⟩

/-- The strands of a context's logical cores. -/
theorem mem_slots {s : State} {x t : Nat} : t ∈ (s.lcKeys x).flatMap strandsOf ↔ t / 4 ∈ s.lcKeys x := by
  simp [List.mem_flatMap, mem_strandsOf]

end Sys2Proof.Machine
end

section
/-! SUPPORT. Digest checkpoints (R83, R154-R157, R455, R456): who is let issue, V, and what each outcome of the comparison changes. Settles
DigestCheckpoints. -/

namespace Sys2Proof.Machine

/-! ### Who has come to a checkpoint -/

section
variable {s : State} {x n : Nat} {fam : List Graph} {j : Nat}

/-- The strand runs a firing of the family that stands at checkpoint `n`. -/
def State.standsAt (s : State) (x n : Nat) (fam : List Graph) (j : Nat) : Prop :=
  j / 4 ∈ s.lcKeys x ∧ (s.strand j).occ = true ∧ (s.strand j).dgst = some n ∧ ∃ h ∈ fam, h.gid = (s.strand j).gid

theorem State.mem_dgstIssued :
    j ∈ s.dgstIssued x n fam ↔ s.standsAt x n fam j ∧ ((s.strand j).blk = .after ∨ (s.strand j).blk = .halted) := by
  simp only [State.dgstIssued, List.mem_filter, mem_slots, State.standsAt, Strand.dgstOut, Bool.and_eq_true, Bool.or_eq_true, beq_iff_eq,
    List.any_eq_true]
  constructor
  · rintro ⟨h1, ⟨⟨h2, -, h3⟩, h4⟩, h5⟩
    exact ⟨⟨h1, h2, h4, h5⟩, h3⟩
  · rintro ⟨⟨h1, h2, h4, h5⟩, h3⟩
    exact ⟨h1, ⟨⟨h2, by simp [h4], h3⟩, h4⟩, h5⟩

theorem State.mem_dgstWaiters : j ∈ s.dgstWaiters x n fam ↔ s.standsAt x n fam j ∧ (s.strand j).blk = .before ∧ (s.strand j).dgstGo = false ∧
    ∀ k ∈ (s.lc (j / 4)).edt, k.strand ≠ j % 4 := by
  simp only [State.dgstWaiters, List.mem_filter, mem_slots, State.standsAt, Bool.and_eq_true, beq_iff_eq, List.any_eq_true,
    Bool.not_eq_true', Bool.eq_false_iff, ne_eq, not_exists, not_and, lcOf]
  tauto

end

/-! ### The firings let issue, passed or trapped -/

theorem State.dgstLet_spec (s : State) (ws : List Nat) : s.OnlyStrands (s.dgstLet ws) ∧
    ∀ j, (s.dgstLet ws).strand j = if j ∈ ws then { s.strand j with dgstGo := true, blk := .ready } else s.strand j :=
  State.foldl_modStrand (f := fun _ st => { st with dgstGo := true, blk := .ready }) (fun _ _ => rfl) (fun _ _ _ => rfl) ws

/-- A strand whose checkpoint is passed; `away` where its logical core has left its core. -/
def Strand.passed (away : Bool) (st : Strand) : Strand :=
  { st with dgst := none, dgstGo := false, blk := if st.parked = true ∧ away = true then .ready else st.blk }

theorem Strand.passed_of_none {st : Strand} (hd : st.dgst = none) (hg : st.dgstGo = false) (away : Bool) : st.passed away = st := by
  have still : st.parked = false := by simp [Strand.parked, Strand.dgstOut, hd]
  unfold Strand.passed
  rw [if_neg (by simp [still]), ← hd, ← hg]

theorem State.dgstPass_spec (s : State) (x n : Nat) (ws : List Nat) :
    (s.modCtx x (fun c => { c with dgstidx := max c.dgstidx (n + 1) })).OnlyStrands (s.dgstPass x n ws) ∧
    ∀ j, (s.dgstPass x n ws).strand j = if j ∈ ws then (s.strand j).passed (s.lc (j / 4)).core.isNone else s.strand j := by
  refine State.foldl_modStrand (s := s.modCtx x (fun c => { c with dgstidx := max c.dgstidx (n + 1) }))
    (f := fun j st => st.passed (s.lc (j / 4)).core.isNone) (fun j st => Strand.passed_of_none rfl rfl _) (fun u t hu => ?_) ws
  obtain ⟨st, rfl⟩ := hu
  simp only [State.modStrand, Strand.passed, Bool.and_eq_true]
  rfl

/-- A firing of a mismatched checkpoint, at the DGST trap of its bundle. -/
def Strand.mismatched (n : Nat) (st : Strand) : Strand :=
  { st with blk := .ready, ecause := 0x11, einfo := BitVec.ofNat 64 n, epc := st.dgstAt, pc := st.dgstAt, dgst := none, dgstGo := false }

/-- The firings of a mismatched checkpoint take their traps, and the stop for the graph's re-execution begins. -/
def State.dgstMismatch (s : State) (x n : Nat) (g : Graph) (ws : List Nat) : State :=
  ((ws.foldl (fun s t => s.modStrand t (Strand.mismatched n)) (s.dgstMis x n 0 g)).requeueFreeze x).startStop x (.serial g.gid n)

theorem State.dgstMis_hasEvent (s : State) (x n : Nat) (g : Graph) : (s.dgstMis x n 0 g).hasEvent (fun e =>
    e.typ = 5 ∧ e.ctxid = s.ctxid x ∧ e.result = g.launch % 2 ^ 32 + n * 2 ^ 32 ∧ e.info0 = 0 ∧ e.info1 = g.key.toNat) := by
  unfold State.dgstMis State.report State.hasEvent
  dsimp only
  split
  · exact ⟨_, List.mem_append_left _ (List.mem_append_right _ (List.mem_singleton_self _)), rfl, rfl, rfl, rfl, rfl⟩
  · exact ⟨_, List.mem_append_right _ (List.mem_append_right _ (List.mem_singleton_self _)), rfl, rfl, rfl, rfl, rfl⟩

theorem State.requeueFreeze_spec (s : State) (x : Nat) : ((s.requeueFreeze x).ctx x).freezeRec = none ∧
    ∃ cs, s.requeueFreeze x = { s with ctxs := cs, cmdQ := (s.ctx x).freezeRec.toList ++ s.cmdQ } := by
  unfold State.requeueFreeze
  split
  · next r h =>
    refine ⟨?_, _, by rw [h]; rfl⟩
    show ((s.modCtx x (fun c => { c with freezeRec := none })).ctx x).freezeRec = none
    rw [State.ctx_modCtx_same]
  · next h => exact ⟨h, s.ctxs, by rw [h]; rfl⟩

theorem State.dgstMismatch_spec (s : State) (x n : Nat) (g : Graph) (ws : List Nat) :
    (s.dgstMismatch x n g ws).hasEvent (fun e =>
      e.typ = 5 ∧ e.ctxid = s.ctxid x ∧ e.result = g.launch % 2 ^ 32 + n * 2 ^ 32 ∧ e.info0 = 0 ∧ e.info1 = g.key.toNat) ∧
    (∀ j, (s.dgstMismatch x n g ws).strand j = if j ∈ ws then (s.strand j).mismatched n else s.strand j) ∧
    (∃ k, ((s.dgstMismatch x n g ws).ctx x).coll = some k ∧ k.cause = .serial g.gid n) ∧
    ((s.dgstMismatch x n g ws).ctx x).freezeRec = none ∧
    ∃ cs st a, s.dgstMismatch x n g ws =
      { s with ctxs := cs, strands := st, arb := a, cmdQ := (s.ctx x).freezeRec.toList ++ s.cmdQ } := by
  have event := s.dgstMis_hasEvent x n g
  obtain ⟨a, mis⟩ : ∃ a, s.dgstMis x n 0 g = { s with arb := a } := ⟨_, State.report_eq _ _ _ _ _ _ _ _ _⟩
  obtain ⟨⟨st, only⟩, each⟩ := State.foldl_modStrand (s := s.dgstMis x n 0 g) (step := fun s t => s.modStrand t (Strand.mismatched n))
    (f := fun _ => Strand.mismatched n) (fun _ _ => rfl) (fun _ _ _ => rfl) ws
  obtain ⟨clear, cs, queued⟩ := (ws.foldl (fun s t => s.modStrand t (Strand.mismatched n)) (s.dgstMis x n 0 g)).requeueFreeze_spec x
  unfold State.dgstMismatch State.startStop
  rw [queued] at clear ⊢
  rw [only] at each clear ⊢
  rw [mis] at each event clear ⊢
  refine ⟨event, each, ?_, ?_, ⟨_, st, a, rfl⟩⟩
  · rw [State.ctx_modCtx_same]
    exact ⟨_, rfl, rfl⟩
  · rw [State.ctx_modCtx_same]
    exact clear

/-! ### V (R155) -/

theorem State.dgstSum_eq (s : State) (x n : Nat) (fam : List Graph) : s.dgstSum x n fam =
    ((s.dgstIssued x n fam ++ s.popWaiters x fam (s.dgstIssued x n fam)).map (fun t =>
      ((s.strand t).fkey ^^^ ((s.strand t).dgsta + (s.strand t).dgste)) * 0xBF58476D1CE4E5B9#64)).foldl (· + ·) 0 +
      (fam.map (·.dgst)).foldl (· + ·) 0 := by
  have order : ∀ (l : List W64) (b c : W64), l.foldl (· + ·) (b + c) = l.foldl (· + ·) b + c := by
    intro l
    induction l with
    | nil => exact fun _ _ => rfl
    | cons a l ih => exact fun b c => (congrArg (l.foldl (· + ·)) (add_right_comm b c a)).trans (ih _ c)
  rw [← order, zero_add, List.foldl_map, List.foldl_map]
  rfl

/-! ### The step (R155) -/

section
variable {s : State} {x gid n : Nat} {g : Graph} (hg : (s.ctx x).graph? gid = some g) (hser : g.serial = none)
  (halone : (s.ctx x).serialGraph = none) (hdet : (s.ctx x).det = true)
include hg hser halone hdet

theorem exec_dgstCheckpoint : exec (.dgstCheckpoint x gid n) s =
    if s.dgstForms x gid n ((s.ctx x).family gid) then .next (s.dgstCheck x n g ((s.ctx x).family gid))
    else .next (if s.active x && s.dgstReady x gid n ((s.ctx x).family gid) then s.dgstLet (s.dgstWaiters x n ((s.ctx x).family gid)) else s) := by
  show execDgstCheckpoint x gid n s = _
  simp only [execDgstCheckpoint, hg, hser]
  exact if_neg (by simp [halone, hdet])

end

section
variable {s u : State} {x n : Nat} {g : Graph} {fam : List Graph} {bs : List Byte}
  (hread : s.vread (launchLc x) (((s.ctx x).dgsttab + 16 * n) % 2 ^ 64) 16 = (.ok bs, u))
include hread

theorem State.dgstCheck_records (hrec : fld bs 8 1 % 2 = 1) {w : State} (hw : u.vwrite (launchLc x) (((s.ctx x).dgsttab + 16 * n) % 2 ^ 64)
    (leBytes 8 (s.dgstSum x n fam).toNat ++ leBytes 1 (fld bs 8 1 - 1)) = (.ok (), w)) :
    s.dgstCheck x n g fam = w.dgstPass x n (s.dgstIssued x n fam) := by
  unfold State.dgstCheck
  dsimp only
  rw [hread]
  dsimp only
  rw [if_pos (by simp [bitOf_zero, hrec]), hw]

theorem State.dgstCheck_compares (hrec : fld bs 8 1 % 2 = 0) : s.dgstCheck x n g fam =
    if fld bs 0 8 = (s.dgstSum x n fam).toNat then u.dgstPass x n (s.dgstIssued x n fam)
    else u.dgstMismatch x n g (s.dgstIssued x n fam) := by
  unfold State.dgstCheck
  dsimp only
  rw [hread]
  dsimp only
  rw [if_neg (by simp [bitOf_zero, hrec])]
  rfl

end

/-- What a checkpoint's pass leaves of the state in which it is found. -/
theorem State.dgstPass_accessed {s w : State} (acc : s.Accessed w) (keeps : s.Keeps Ctx.terms w) (x n : Nat) (ws : List Nat) :
    (∀ j, (w.dgstPass x n ws).strand j = if j ∈ ws then
      { s.strand j with
        dgst := none, dgstGo := false
        blk := if (s.strand j).parked = true ∧ (s.lc (j / 4)).core = none then .ready else (s.strand j).blk }
      else s.strand j) ∧
    ((w.dgstPass x n ws).ctx x).dgstidx = max (s.ctx x).dgstidx (n + 1) ∧
    w.dgstPass x n ws = { w with ctxs := (w.dgstPass x n ws).ctxs, strands := (w.dgstPass x n ws).strands } := by
  obtain ⟨⟨st, only⟩, each⟩ := w.dgstPass_spec x n ws
  refine ⟨fun j => (each j).trans ?_, ?_, by rw [only]; rfl⟩
  · simp only [acc.strand, acc.core, Strand.passed, Option.isNone_iff_eq_none]
  · have kept : (w.ctx x).dgstidx = (s.ctx x).dgstidx := (congrArg Ctx.dgstidx (keeps.2 x) :)
    rw [only, ← kept]
    show ((w.modCtx x (fun c => { c with dgstidx := max c.dgstidx (n + 1) })).ctx x).dgstidx = _
    rw [State.ctx_modCtx_same]

/-- Settles O48: the firings let issue where the checkpoint does not form yet, and the three outcomes of its comparison. -/
theorem digestCheckpoints : Obligations.DigestCheckpoints := by
  unfold Obligations.DigestCheckpoints
  intro s x gid n g hg hser halone hdet fam ours waits ws
  have step := exec_dgstCheckpoint (n := n) hg hser halone hdet
  refine ⟨fun j => State.mem_dgstIssued, fun hforms hact hready => ?_, fun hforms hnot => ?_, fun bs u hforms => ?_⟩
  · obtain ⟨only, each⟩ := s.dgstLet_spec (s.dgstWaiters x n fam)
    refine ⟨_, (step.trans (if_neg (by simp [fam, hforms]))).trans (by rw [if_pos (by simp [hact, fam, hready])]), only.eq,
      fun j => ⟨fun h => ?_, fun h => ?_⟩⟩
    · exact (each j).trans (if_pos (State.mem_dgstWaiters.2 h))
    · exact (each j).trans (if_neg (mt State.mem_dgstWaiters.1 h))
  · refine (step.trans (if_neg (by simp [fam, hforms]))).trans ?_
    rw [if_neg]
    rcases hnot with h | h <;> simp [h, fam]
  · intro va v hread passes
    have acc : s.Accessed u := by simpa [hread] using s.accessed_vread (launchLc x) va 16
    have keeps : s.Keeps Ctx.terms u := by simpa [hread] using s.vread_keeps (launchLc x) va 16
    have sum : s.dgstSum x n fam = v := s.dgstSum_eq x n fam
    have check : exec (.dgstCheckpoint x gid n) s = .next (s.dgstCheck x n g fam) := step.trans (if_pos hforms)
    refine ⟨fun hrec hsame => ⟨_, check, ?_⟩, fun hrec w hw => ⟨_, check, ?_⟩, fun hrec hdiff => ⟨_, check, ?_⟩⟩
    · rw [State.dgstCheck_compares hread hrec, if_pos (by rw [sum, hsame])]
      exact State.dgstPass_accessed acc keeps x n ws
    · rw [State.dgstCheck_records hread hrec (sum.symm ▸ hw)]
      have accW : u.Accessed w := by simpa [hw] using u.accessed_vwrite (launchLc x) va (leBytes 8 v.toNat ++ leBytes 1 (fld bs 8 1 - 1))
      have keepsW : u.Keeps Ctx.terms w := by simpa [hw] using u.vwrite_keeps (launchLc x) va (leBytes 8 v.toNat ++ leBytes 1 (fld bs 8 1 - 1))
      exact State.dgstPass_accessed (acc.trans accW) (keeps.trans keepsW) x n ws
    · rw [State.dgstCheck_compares hread hrec, if_neg (by rwa [sum])]
      obtain ⟨event, each, ⟨k, hk, cause⟩, clear, cs, st, a, e⟩ := u.dgstMismatch_spec x n g ws
      have terms : (u.ctx x).terms = (s.ctx x).terms := keeps.2 x
      have ctxid : u.ctxid x = s.ctxid x := by
        have gen : (u.ctx x).gen = (s.ctx x).gen := (congrArg Ctx.gen terms :)
        unfold State.ctxid
        rw [gen]
      have freezeRec : (u.ctx x).freezeRec = (s.ctx x).freezeRec := (congrArg Ctx.freezeRec terms :)
      have gid' : g.gid = gid := by simpa using List.find?_some hg
      rw [freezeRec, keeps.1] at e
      refine ⟨?_, fun j => (each j).trans (by simp only [acc.strand]; rfl), ⟨k, hk, cause.trans (by rw [gid'])⟩, clear, by rw [e]⟩
      obtain ⟨ev, hev, h1, h2, h3, h4, h5⟩ := event
      exact ⟨ev, hev, h1, h2.trans ctxid, h3, h4, h5⟩

end Sys2Proof.Machine
end

section
/-! SUPPORT. A context's graphs where one of them is changed. -/

namespace Sys2Proof.Machine

section
variable {f : Graph → Graph} (c : Ctx) (gid : Nat)

/-- A change that keeps a graph's number is seen at that number. -/
theorem Ctx.graph?_modGraph (hf : ∀ h, (f h).gid = h.gid) : (c.modGraph gid f).graph? gid = (c.graph? gid).map f := by
  unfold Ctx.modGraph Ctx.graph?
  induction c.graphs with
  | nil => rfl
  | cons h hs ih =>
    by_cases e : h.gid = gid
    · simp [e, hf]
    · simpa [e] using ih

/-- Whether a graph is re-executed stands in its own record. -/
theorem Ctx.serialGraph_modGraph (hf : ∀ h, (f h).serial = h.serial) (alone : c.serialGraph = none) : (c.modGraph gid f).serialGraph = none := by
  refine List.find?_eq_none.2 (fun h hh => ?_)
  obtain ⟨k, hk, rfl⟩ := List.mem_map.1 hh
  have single := List.find?_eq_none.1 alone k hk
  split
  · rwa [hf]
  · exact single

end

/-- A graph that has made progress (R114). -/
def Graph.moved (g : Graph) (now : Nat) : Graph := { g with lastProgress := now, reported := false }

section
variable (s : State) (x gid : Nat)

theorem State.graph?_modGraph {f : Graph → Graph} (hf : ∀ h, (f h).gid = h.gid) :
    ((s.modGraph x gid f).ctx x).graph? gid = ((s.ctx x).graph? gid).map f :=
  (congrArg (fun c => Ctx.graph? c gid) (State.ctx_modCtx_same _ _ _)).trans ((s.ctx x).graph?_modGraph gid hf)

theorem State.graph?_progress : ((s.progress x gid).ctx x).graph? gid = ((s.ctx x).graph? gid).map (fun g => g.moved s.cycle) :=
  s.graph?_modGraph x gid (f := fun g => g.moved s.cycle) (fun _ => rfl)

theorem State.serialGraph_modGraph {f : Graph → Graph} (hf : ∀ h, (f h).serial = h.serial) (alone : (s.ctx x).serialGraph = none) :
    ((s.modGraph x gid f).ctx x).serialGraph = none :=
  (congrArg Ctx.serialGraph (State.ctx_modCtx_same _ _ _)).trans ((s.ctx x).serialGraph_modGraph gid hf alone)

theorem State.serialGraph_progress (alone : (s.ctx x).serialGraph = none) : ((s.progress x gid).ctx x).serialGraph = none :=
  s.serialGraph_modGraph x gid (f := fun g => g.moved s.cycle) (fun _ => rfl) alone

theorem State.lcKeys_modGraph (f : Graph → Graph) (y : Nat) : (s.modGraph x gid f).lcKeys y = s.lcKeys y := by
  unfold State.lcKeys State.modGraph
  rw [State.ctx_modCtx]
  split
  · next e => rw [e]; rfl
  · rfl

theorem State.lcKeys_progress (y : Nat) : (s.progress x gid).lcKeys y = s.lcKeys y := s.lcKeys_modGraph x gid _ y

end

/-! ### Slots left idle (R105, R106) -/

/-- An idle slot of no stage. -/
def Strand.idled (st : Strand) : Strand := { st with assign := none, marked := false }

/-- A slot bound to no stage. -/
def Strand.freed (st : Strand) : Strand := { st with assign := none, reserved := false, marked := false }

section
variable (s : State) (x gid i : Nat)

theorem State.freeStage_spec : s.OnlyStrands (s.freeStage x gid i) ∧ ∀ j, (s.freeStage x gid i).strand j =
    if j / 4 ∈ s.lcKeys x ∧ (s.strand j).assign = some (gid, i) then (s.strand j).freed else s.strand j := by
  obtain ⟨only, each⟩ := State.foldl_strands (s := s) (step := fun s t =>
      if (s.strand t).assign == some (gid, i) then s.modStrand t Strand.freed else s)
    (p := fun _ st => st.assign = some (gid, i)) (f := fun _ => Strand.freed) (fun _ _ _ _ => rfl)
    ((s.lcKeys x).flatMap strandsOf) s (State.OnlyStrands.refl s) (fun u t _ => if_congr (beq_iff_eq ..) rfl rfl)
  exact ⟨only, fun j => (each j).trans (if_congr (and_congr_left' mem_slots) rfl rfl)⟩

/-- What the slots of a stage come to when one of its firings has started or ended (R106). -/
theorem State.dropSpare_spec {g : Graph} (hg : (s.ctx x).graph? gid = some g) (alone : (s.ctx x).serialGraph = none) :
    s.OnlyStrands (s.dropSpare x gid i) ∧ ∀ j, (s.dropSpare x gid i).strand j =
      if g.nfire i ≤ (g.stageS i).nextq ∧ j / 4 ∈ s.lcKeys x ∧ (s.strand j).assign = some (gid, i) ∧ (s.strand j).occ = false ∧
        (s.strand j).reserved = false then (s.strand j).idled else s.strand j := by
  unfold State.dropSpare
  simp only [hg, alone, Option.isSome_none, Bool.false_eq_true, or_false]
  split
  · next left => exact ⟨State.OnlyStrands.refl s, fun j => (if_neg (fun h => Nat.not_le.2 left h.1)).symm⟩
  · next full =>
    obtain ⟨only, each⟩ := State.foldl_strands (s := s) (step := fun s t =>
        if (s.strand t).assign == some (gid, i) && !(s.strand t).occ && !(s.strand t).reserved then s.modStrand t Strand.idled else s)
      (p := fun _ st => st.assign = some (gid, i) ∧ st.occ = false ∧ st.reserved = false) (f := fun _ => Strand.idled) (fun _ _ _ _ => rfl)
      ((s.lcKeys x).flatMap strandsOf) s (State.OnlyStrands.refl s) (fun u t _ => if_congr (by simp [and_assoc]) rfl rfl)
    refine ⟨only, fun j => (each j).trans (if_congr ?_ rfl rfl)⟩
    rw [mem_slots]
    exact (and_iff_right (Nat.not_lt.1 full)).symm

end

end Sys2Proof.Machine
end

section
/-! SUPPORT. The start of a firing (R94, R95, R106). -/

namespace Sys2Proof.Machine

/-- A firing finds its four arguments in G1 to G4 and every other register zero (R94). -/
theorem Strand.start_gGet (old : Strand) (now seen : Nat) (g : Graph) (i q : Nat) (tvb : W64) (n : Nat) :
    (old.start now seen g i q tvb).gGet n = if n = 4 then firingKey g.key i q else if n = 3 then BitVec.ofNat 64 q
      else if n = 2 then ((g.stages[i]?).map (·.sarg)).getD 0 else if n = 1 then g.param else 0 := by
  have regs : (old.start now seen g i q tvb).gGet n = ((((Strand.idle.gSet 1 g.param).gSet 2 (((g.stages[i]?).map (·.sarg)).getD 0)).gSet 3
    (BitVec.ofNat 64 q)).gSet 4 (firingKey g.key i q)).gGet n := rfl
  have idle : Strand.idle.gGet n = 0 := by simp [Strand.gGet, Strand.idle, tget]
  simp only [regs, Strand.gGet_gSet, idle]
  simp

/-- A graph with the progress of a stage changed. -/
def Graph.onStage (g : Graph) (i : Nat) (f : StageS → StageS) : Graph := { g with sst := lmod f g.sst i }

theorem Graph.stageS_of_getElem? {g : Graph} {i : Nat} {p : StageS} (h : g.sst[i]? = some p) : g.stageS i = p := by
  simp [Graph.stageS, List.getD, h]

theorem Graph.nfire_of_getElem? {g : Graph} {i : Nat} {d : StageD} (h : g.stages[i]? = some d) : g.nfire i = d.nfire := by
  simp [Graph.nfire, nfireOf, h]

section
variable {s : State} {t gid i : Nat} {g : Graph} {d : StageD} {p : StageS}
  (hocc : (s.strand t).occ = false) (hassign : (s.strand t).assign = some (gid, i)) (halone : (s.ctx (t / 4 / 4096)).serialGraph = none)
  (hg : (s.ctx (t / 4 / 4096)).graph? gid = some g) (hlive : g.live = true) (hd : g.stages[i]? = some d) (hp : g.sst[i]? = some p)
  (hleft : p.nextq < d.nfire)
include hocc hassign halone hg hlive hd hp hleft

theorem State.startOf_assigned : s.startOf t = some (gid, i) := by
  have alone : (s.ctx (slotOfStrand t)).serialGraph = none := halone
  have graph : (s.ctx (slotOfStrand t)).graph? gid = some g := hg
  simp only [State.startOf, hocc, alone, hassign, graph, hlive, Graph.stageS_of_getElem? hp, Graph.nfire_of_getElem? hd, hleft, decide_true]
  rfl

theorem exec_firingStart : exec (.firingStart t) s = .next (if !s.canStart t || s.outOfTurn t gid i then s else
    (((s.modStrand t (fun st => st.start s.cycle s.vtime g i p.nextq (s.ctx (t / 4 / 4096)).tvb)).modGraph (t / 4 / 4096) gid
      (fun g => g.onStage i (fun r => { r with nextq := p.nextq + 1 }))).progress (t / 4 / 4096) gid).dropSpare
      (t / 4 / 4096) gid i) := by
  have graph : (s.ctx (slotOfStrand t)).graph? gid = some g := hg
  show execFiringStart t s = _
  simp only [execFiringStart, State.startOf_assigned hocc hassign halone hg hlive hd hp hleft, graph, Graph.stageS_of_getElem? hp]
  split <;> rfl

end

theorem State.canStart_iff (s : State) (t : Nat) : s.canStart t = true ↔ (s.lc (t / 4)).core ≠ none ∧ s.mayRun t = true := by
  simp [State.canStart, lcOf, Option.isSome_iff_ne_none]

/-- Out of turn is a stage's firing that a lower slot could start now, or a higher one has started in this cycle (R95). -/
theorem State.outOfTurn_iff (s : State) (t gid i : Nat) : s.outOfTurn t gid i = true ↔ ∃ u, u / 4 ∈ s.lcKeys (t / 4 / 4096) ∧
    ((u < t ∧ ((s.lc (u / 4)).core ≠ none ∧ s.mayRun u = true) ∧ s.startOf u = some (gid, i)) ∨
      (t < u ∧ (s.strand u).occ = true ∧ (s.strand u).gid = gid ∧ (s.strand u).stage = i ∧ (s.strand u).began = s.cycle)) := by
  simp only [State.outOfTurn, List.any_eq_true, mem_slots, Bool.or_eq_true, Bool.and_eq_true, decide_eq_true_eq, State.canStart_iff, beq_iff_eq,
    and_assoc]
  rfl

theorem State.outOfTurn_false {s : State} {t gid i : Nat}
    (hlow : ∀ u, u / 4 ∈ s.lcKeys (t / 4 / 4096) → u < t → ¬((s.lc (u / 4)).core ≠ none ∧ s.mayRun u = true ∧ s.startOf u = some (gid, i)))
    (hhigh : ∀ u, u / 4 ∈ s.lcKeys (t / 4 / 4096) → t < u →
      ¬((s.strand u).occ = true ∧ (s.strand u).gid = gid ∧ (s.strand u).stage = i ∧ (s.strand u).began = s.cycle)) :
    s.outOfTurn t gid i = false := by
  rw [Bool.eq_false_iff, Ne, State.outOfTurn_iff]
  rintro ⟨u, hu, ⟨hlt, ⟨hc, hr⟩, hs⟩ | ⟨hlt, h⟩⟩
  · exact hlow u hu hlt ⟨hc, hr, hs⟩
  · exact hhigh u hu hlt h

/-- A stage's progress changed is its graph's progress, and nothing but the graph's record. -/
theorem State.onStage_spec {s w : State} {x gid i : Nat} {g : Graph} {p : StageS} {f : StageS → StageS} (halone : (s.ctx x).serialGraph = none)
    (hg : (s.ctx x).graph? gid = some g) (hp : g.sst[i]? = some p) (hw : (s.modGraph x gid (fun g => g.onStage i f)).progress x gid = w) :
    (w.ctx x).graph? gid = some { g with sst := g.sst.set i (f p), lastProgress := s.cycle, reported := false } ∧
    (w.ctx x).serialGraph = none ∧ w.lcKeys x = s.lcKeys x ∧ (w.ctx x).ctxdgst = (s.ctx x).ctxdgst ∧ ∃ cs, w = { s with ctxs := cs } := by
  subst hw
  refine ⟨?_, State.serialGraph_progress _ _ _ (State.serialGraph_modGraph _ _ _ (fun _ => rfl) halone), ?_, ?_, _, rfl⟩
  · rw [State.graph?_progress, State.graph?_modGraph _ _ _ (f := fun g => g.onStage i f) (fun _ => rfl), hg, ← lmod_eq_set f hp]
    rfl
  · rw [State.lcKeys_progress, State.lcKeys_modGraph]
  · rw [State.progress, State.modGraph, State.modGraph, State.ctx_modCtx_same, State.ctx_modCtx_same]
    rfl

/-- What the start of a stage's firing comes to: the slot's registers, the graph's progress, and the slots with no firing left to start. -/
theorem State.started_spec {s : State} {x t gid i : Nat} {g : Graph} {d : StageD} {p : StageS} (halone : (s.ctx x).serialGraph = none)
    (hg : (s.ctx x).graph? gid = some g) (hd : g.stages[i]? = some d) (hp : g.sst[i]? = some p) (hleft : p.nextq < d.nfire) {st : Strand}
    (hst : st.occ = true) {u : State} (hu : (((s.setStrand t st).modGraph x gid
      (fun g => g.onStage i (fun r => { r with nextq := p.nextq + 1 }))).progress x gid).dropSpare x gid i = u) :
    u.strand t = st ∧
    (u.ctx x).graph? gid = some { g with sst := g.sst.set i { p with nextq := p.nextq + 1 }, lastProgress := s.cycle, reported := false } ∧
    (∀ j, j ≠ t → u.strand j = if p.nextq + 1 = d.nfire ∧ j / 4 ∈ s.lcKeys x ∧ (s.strand j).assign = some (gid, i) ∧
      (s.strand j).occ = false ∧ (s.strand j).reserved = false then (s.strand j).idled else s.strand j) ∧
    u = { s with ctxs := u.ctxs, strands := u.strands } := by
  generalize hv : ((s.setStrand t st).modGraph x gid (fun g => g.onStage i (fun r => { r with nextq := p.nextq + 1 }))).progress x gid = v at hu
  obtain ⟨graph, alone, keys, -, cs, hv⟩ := State.onStage_spec (s := s.setStrand t st) halone hg hp hv
  have keys : v.lcKeys x = s.lcKeys x := keys
  have graph : (v.ctx x).graph? gid =
      some { g with sst := g.sst.set i { p with nextq := p.nextq + 1 }, lastProgress := s.cycle, reported := false } := graph
  have strands : ∀ j, v.strand j = if j = t then st else s.strand j := fun j => by
    rw [hv]
    exact State.strand_setStrand s t j st
  obtain ⟨⟨sts, only⟩, each⟩ := v.dropSpare_spec x gid i graph alone
  rw [hu] at only each
  have full : d.nfire ≤ p.nextq + 1 ↔ p.nextq + 1 = d.nfire := by omega
  have size : i < g.sst.length := (List.getElem?_eq_some_iff.1 hp).1
  simp only [Graph.nfire_of_getElem? (g := { g with
      sst := g.sst.set i { p with nextq := p.nextq + 1 }, lastProgress := s.cycle, reported := false }) hd,
    Graph.stageS_of_getElem? (g := { g with sst := g.sst.set i { p with nextq := p.nextq + 1 }, lastProgress := s.cycle, reported := false })
      (List.getElem?_set_self size), full, keys, strands] at each
  refine ⟨?_, ?_, fun j hj => ?_, ?_⟩
  · rw [each]
    simp [hst]
  · rw [only]
    exact graph
  · rw [each]
    simp only [if_neg hj]
  · rw [only, hv]
    rfl

end Sys2Proof.Machine
end

section
/-! SUPPORT. The end of a firing (R96, R154, R459). -/

namespace Sys2Proof.Machine

section
variable {s : State} {t : Nat} (hocc : (s.strand t).occ = true) (hblk : (s.strand t).blk = .halted) (hdgst : (s.strand t).dgst = none)
  (hrun : s.mayRun t = true) (hin : s.resultsIn t = true)
include hocc hblk hdgst hrun hin

/-- A halted firing none of whose faults is left to report. -/
theorem exec_firingEnd (hsaid : (s.lc (t / 4)).unreported (t % 4) (fun _ => true) = none) : exec (.firingEnd t) s = .next
    (if (s.lc (t / 4)).edt.any (fun k => k.strand == t % 4 && k.fault.isSome) then s.kill (t / 4 / 4096) 3 cEFLT (s.strand t).pc.toNat
     else if (s.lc (t / 4)).edt.any (fun k => k.strand == t % 4) then s else s.endFiring t) := by
  have said : (s.lc (lcOf t)).unreported (t % 4) (fun _ => true) = none := hsaid
  show execFiringEnd t s = _
  simp only [execFiringEnd, hocc, hblk, hdgst, hrun, hin, said]
  rfl

end

theorem State.lcKeys_modCtx (s : State) (x : Nat) {f : Ctx → Ctx} (hf : ∀ c, (f c).nlc = c.nlc) (y : Nat) :
    (s.modCtx x f).lcKeys y = s.lcKeys y := by
  unfold State.lcKeys
  rw [State.ctx_modCtx]
  split
  · next e => rw [e, hf]
  · rfl

/-- The digest of a firing that ends is counted in its graph's part and in the context's (R154, R155). -/
theorem State.foldFiring_spec {s : State} {t : Nat} {g : Graph} (halone : (s.ctx (t / 4 / 4096)).serialGraph = none)
    (hg : (s.ctx (t / 4 / 4096)).graph? (s.strand t).gid = some g) {term : W64}
    (hterm : (if (s.ctx (t / 4 / 4096)).det then (s.strand t).digestTerm else 0) = term) :
    ((s.foldFiring t).ctx (t / 4 / 4096)).ctxdgst = (s.ctx (t / 4 / 4096)).ctxdgst + term ∧
    ((s.foldFiring t).ctx (t / 4 / 4096)).graph? (s.strand t).gid = some { g with dgst := g.dgst + term } ∧
    ((s.foldFiring t).ctx (t / 4 / 4096)).serialGraph = none ∧ (s.foldFiring t).lcKeys (t / 4 / 4096) = s.lcKeys (t / 4 / 4096) ∧
    ∃ cs, s.foldFiring t = { s with ctxs := cs } := by
  have slot : slotOfStrand t = t / 4 / 4096 := rfl
  unfold State.foldFiring
  simp only [slot]
  generalize t / 4 / 4096 = x at halone hg hterm ⊢
  split
  · next hdet =>
    have zero : term = 0 := hterm.symm.trans (if_neg (by simpa using hdet))
    rw [zero, add_zero, add_zero]
    exact ⟨rfl, hg, halone, rfl, s.ctxs, rfl⟩
  · next hdet =>
    have full : (s.strand t).digestTerm = term := (if_pos (by simpa using hdet)).symm.trans hterm
    rw [full]
    have alone := State.serialGraph_modGraph (s.modCtx x (fun c => { c with ctxdgst := c.ctxdgst + term })) x (s.strand t).gid
      (f := fun g => { g with dgst := g.dgst + term }) (fun _ => rfl) (by rw [State.ctx_modCtx_same]; exact halone)
    rw [alone]
    refine ⟨?_, ?_, alone, ?_, _, rfl⟩
    · rw [State.modGraph, State.ctx_modCtx_same, State.ctx_modCtx_same]
      rfl
    · rw [State.graph?_modGraph _ _ _ (f := fun g => { g with dgst := g.dgst + term }) (fun _ => rfl), State.ctx_modCtx_same]
      exact congrArg _ hg
    · rw [State.lcKeys_modGraph]
      exact s.lcKeys_modCtx x (f := fun c => { c with ctxdgst := c.ctxdgst + term }) (fun _ => rfl) x

/-- When a stage's last firing has ended its slots are freed, and before that those with no firing to start become idle; whatever else the
slots hold stays. -/
theorem State.slotsLeft {s : State} {x gid i : Nat} {g : Graph} (hg : (s.ctx x).graph? gid = some g) (alone : (s.ctx x).serialGraph = none)
    {u : State} (hu : u = s.freeStage x gid i ∨ u = s.dropSpare x gid i) :
    s.OnlyStrands u ∧ ∀ j, (u.strand j).freed = (s.strand j).freed := by
  rcases hu with rfl | rfl
  · obtain ⟨only, each⟩ := s.freeStage_spec x gid i
    refine ⟨only, fun j => ?_⟩
    rw [each]
    split <;> rfl
  · obtain ⟨only, each⟩ := s.dropSpare_spec x gid i hg alone
    refine ⟨only, fun j => ?_⟩
    rw [each]
    split <;> rfl

section
variable {s : State} {t : Nat} {g : Graph} {p : StageS} (halone : (s.ctx (t / 4 / 4096)).serialGraph = none)
  (hg : (s.ctx (t / 4 / 4096)).graph? (s.strand t).gid = some g) (hp : g.sst[(s.strand t).stage]? = some p)
include halone hg hp

/-- The end of a firing, up to what its slots are bound to. -/
theorem State.endFiring_spec {term : W64} (hterm : (if (s.ctx (t / 4 / 4096)).det then (s.strand t).digestTerm else 0) = term) :
    ((s.endFiring t).ctx (t / 4 / 4096)).ctxdgst = (s.ctx (t / 4 / 4096)).ctxdgst + term ∧
    ((s.endFiring t).ctx (t / 4 / 4096)).graph? (s.strand t).gid = some { g with
      dgst := g.dgst + term, sst := g.sst.set (s.strand t).stage { p with ended := p.ended + 1 }, lastProgress := s.cycle, reported := false } ∧
    (∀ j, ((s.endFiring t).strand j).freed = if j = t then ((s.strand t).over s.cycle).freed else (s.strand j).freed) ∧
    ∃ cs ls st, s.endFiring t = { s with ctxs := cs, lcs := ls, strands := st } := by
  obtain ⟨ctxdgst, graph, alone, keys, cs, fold⟩ := State.foldFiring_spec halone hg hterm
  generalize hu : s.endFiring t = u
  unfold State.endFiring at hu
  generalize s.foldFiring t = f at ctxdgst graph alone keys fold hu
  have strand : ∀ j, f.strand j = s.strand j := fun j => by rw [fold]; rfl
  dsimp only [slotOfStrand, slotOf, lcOf] at hu
  rw [strand] at hu
  generalize hv : (f.modLc (t / 4) _).modStrand t _ = v at hu
  generalize hw : State.progress (v.modGraph _ _ _) _ _ = w at hu
  have same : v.ctxs = f.ctxs := by rw [← hv]; rfl
  obtain ⟨graph', alone', keys', ctxdgst', cs', hw⟩ := State.onStage_spec (s := v) (f := fun p => { p with ended := p.ended + 1 })
    (x := t / 4 / 4096) (gid := (s.strand t).gid) (i := (s.strand t).stage) (g := { g with dgst := g.dgst + term })
    (by rw [State.ctx, same]; exact alone)
    (by rw [State.ctx, same]; exact graph) hp hw
  rw [graph'] at hu
  have slots : u = w.freeStage (t / 4 / 4096) (s.strand t).gid (s.strand t).stage ∨
      u = w.dropSpare (t / 4 / 4096) (s.strand t).gid (s.strand t).stage := by
    rw [← hu]
    exact ite_eq_or_eq _ _ _
  obtain ⟨⟨sts, only⟩, each⟩ := State.slotsLeft graph' alone' slots
  refine ⟨?_, ?_, fun j => ?_, ?_⟩
  · rw [only]
    refine ctxdgst'.trans (Eq.trans ?_ ctxdgst)
    rw [State.ctx, same, State.ctx]
  · rw [only]
    have now : v.cycle = s.cycle := by rw [← hv, fold]; rfl
    rw [← now]
    exact graph'
  · rw [each, hw]
    show (v.strand j).freed = _
    rw [← hv, State.strand_modStrand, fold]
    split
    · rfl
    · rfl
  · rw [only, hw, ← hv, fold]
    exact ⟨_, _, _, rfl⟩

end

end Sys2Proof.Machine
end

section
/-! SUPPORT. The end of a graph (R97, R105), a child's instantiation (R104, R105), and the publication of a channel's entry (R98, R448). -/

namespace Sys2Proof.Machine

/-! ### A graph ends -/

/-- The slots bound to any of some stages are freed. -/
theorem State.freeStages_spec (x gid : Nat) (is : List Nat) : ∀ s : State, s.OnlyStrands (is.foldl (fun s i => s.freeStage x gid i) s) ∧
    ∀ j, (is.foldl (fun s i => s.freeStage x gid i) s).strand j =
      if j / 4 ∈ s.lcKeys x ∧ ∃ i ∈ is, (s.strand j).assign = some (gid, i) then (s.strand j).freed else s.strand j := by
  induction is with
  | nil => exact fun s => ⟨State.OnlyStrands.refl s, fun j => by simp⟩
  | cons i is ih =>
    intro s
    obtain ⟨first, each⟩ := s.freeStage_spec x gid i
    obtain ⟨rest, eachRest⟩ := ih (s.freeStage x gid i)
    refine ⟨first.trans rest, fun j => (eachRest j).trans ?_⟩
    have keys : (s.freeStage x gid i).lcKeys x = s.lcKeys x := by
      obtain ⟨st, e⟩ := first
      rw [e]
      rfl
    rw [keys, each]
    by_cases h : j / 4 ∈ s.lcKeys x ∧ (s.strand j).assign = some (gid, i)
    · have any : j / 4 ∈ s.lcKeys x ∧ ∃ k ∈ i :: is, (s.strand j).assign = some (gid, k) := ⟨h.1, i, List.mem_cons_self .., h.2⟩
      simp only [if_pos h, if_pos any]
      exact ite_self _
    · simp only [if_neg h]
      refine if_congr (and_congr_right fun hk => ?_) rfl rfl
      simp only [List.mem_cons, exists_eq_or_imp]
      exact (or_iff_right (fun hi => h ⟨hk, hi⟩)).symm

theorem mem_lcKeys {s : State} {x k : Nat} : k ∈ s.lcKeys x ↔ ∃ l < (s.ctx x).nlc, k = x * 4096 + l := by
  simp [State.lcKeys, lcKey, eq_comm]

section
variable {s : State} {x gid : Nat} {g : Graph} (hused : (s.ctx x).used = true) (hg : (s.ctx x).graph? gid = some g) (hlive : g.live = true)
  (hser : g.serial = none) (hall : g.allEnded = true) (hchild : ∀ h ∈ (s.ctx x).graphs, h.parent ≠ some gid)
  (hstores : s.graphStores x gid = false)
include hused hg hlive hser hall hchild hstores

theorem exec_graphEnd : exec (.graphEnd x gid) s = .next (((List.range g.stages.length).foldl (fun u i => State.freeStage u x gid i)
    (match g.parent with
      | some p => s.modGraph x p (fun h => { h with dgst := h.dgst + g.dgst })
      | none => s.report evGRAPHDONE (s.ctxid x) 0 srcPackage 0 g.launch 0 0)).modCtx x
    (fun c => { c with graphs := c.graphs.filter (fun h => h.gid != gid) })) := by
  have childless : (s.ctx x).graphs.any (fun h => h.parent == some gid) = false := by
    simpa [List.any_eq_false] using hchild
  show execGraphEnd x gid s = _
  simp only [execGraphEnd, hg, hused, hlive, hser, hall, childless, hstores]
  rfl

end

/-- A graph's slots are freed and its record leaves, of a state `w` that differs in the graphs' digests and the events reported. -/
theorem State.graphLeaves {s w u : State} {x gid n : Nat} (hw : ∃ cs a, w = { s with ctxs := cs, arb := a }) (keys : w.lcKeys x = s.lcKeys x)
    (hu : ((List.range n).foldl (fun s i => s.freeStage x gid i) w).modCtx x
      (fun c => { c with graphs := c.graphs.filter (fun h => h.gid != gid) }) = u) :
    (∀ t, t / 4 / 4096 = x → t / 4 % 4096 < (s.ctx x).nlc → (∃ i, i < n ∧ (s.strand t).assign = some (gid, i)) →
      (u.strand t).assign = none ∧ (u.strand t).reserved = false) ∧
    (u.ctx x).graphs = (w.ctx x).graphs.filter (fun h => h.gid != gid) ∧ u.arb = w.arb ∧
    u = { s with ctxs := u.ctxs, strands := u.strands, arb := u.arb } := by
  obtain ⟨⟨st, only⟩, each⟩ := State.freeStages_spec x gid (List.range n) w
  rw [only] at hu each
  subst hu
  have strand : ∀ j, w.strand j = s.strand j := fun j => by
    obtain ⟨cs, a, e⟩ := hw
    rw [e]
    rfl
  refine ⟨fun t hx hl ⟨i, hi, hassign⟩ => ?_, ?_, rfl, ?_⟩
  · have member : t / 4 ∈ w.lcKeys x := by
      rw [keys]
      exact mem_lcKeys.2 ⟨t / 4 % 4096, hl, by omega⟩
    have freed := (each t).trans (if_pos ⟨member, i, List.mem_range.2 hi, by rw [strand]; exact hassign⟩)
    exact ⟨congrArg Strand.assign freed, congrArg Strand.reserved freed⟩
  · rw [State.ctx_modCtx_same]
    rfl
  · obtain ⟨cs, a, e⟩ := hw
    rw [e]
    rfl

/-! ### The slots of a child (R105) -/

/-- The choice of slots serves the reservations in their order, each by a candidate of its own that no other holds. -/
theorem chooseSlots_spec {cand : Nat → List Nat} {rs used : List Nat} {m : Matching} (h : chooseSlots cand rs used = some m) :
    m.map Prod.fst = rs ∧ (m.map Prod.snd).Nodup ∧ ∀ e ∈ m, e.2 ∈ cand e.1 ∧ e.2 ∉ used := by
  induction rs generalizing used m with
  | nil =>
    obtain rfl : m = [] := by simpa [chooseSlots, eq_comm] using h
    simp
  | cons r rs ih =>
    unfold chooseSlots at h
    dsimp only at h
    split at h
    · exact absurd h (by simp)
    · next k hk =>
      obtain ⟨rest, hrest, rfl⟩ := Option.map_eq_some_iff.1 h
      obtain ⟨order, distinct, each⟩ := ih hrest
      have free : k ∈ cand r ∧ k ∉ used := by simpa using List.mem_of_find?_eq_some hk
      refine ⟨by simp [order], ?_, ?_⟩
      · rw [List.map_cons, List.nodup_cons]
        refine ⟨fun hk => ?_, distinct⟩
        obtain ⟨e, he, rfl⟩ := List.mem_map.1 hk
        exact (each e he).2 (List.mem_cons_self ..)
      · intro e he
        rcases List.mem_cons.1 he with rfl | he
        · exact free
        · exact ⟨(each e he).1, fun hu => (each e he).2 (List.mem_cons_of_mem _ hu)⟩

theorem State.reserveSlots_spec {s : State} {x : Nat} {st : List StageD} {m : List (Nat × Nat)} (h : s.reserveSlots x st = some m) :
    m.map Prod.fst = reservationStages st ∧ (m.map Prod.snd).Nodup ∧
    ∀ e ∈ m, (s.strand e.2).reserved = false ∧ ∃ l ∈ (s.ctx x).members (pgrpOf st e.1), e.2 / 4 = x * 4096 + l := by
  unfold State.reserveSlots at h
  dsimp only at h
  split at h
  · exact absurd h (by simp)
  · obtain ⟨k, hk, rfl⟩ := Option.map_eq_some_iff.1 h
    obtain ⟨order, distinct, each⟩ := chooseSlots_spec hk
    refine ⟨?_, by simpa [List.map_map, Function.comp_def] using distinct, fun e he => ?_⟩
    · rw [List.map_map]
      have stages : (Prod.fst ∘ fun e : Nat × Nat => ((reservationStages st).getD e.1 0, e.2)) =
          (fun i => (reservationStages st).getD i 0) ∘ Prod.fst := rfl
      rw [stages, ← List.map_map, order]
      refine List.ext_getElem (by simp) (fun i h1 h2 => ?_)
      simp [List.getD, h2]
    · obtain ⟨r, hr, rfl⟩ := List.mem_map.1 he
      have held := (each r hr).1
      simp only [List.mem_flatMap, List.mem_filter, mem_strandsOf, Bool.not_eq_true'] at held
      obtain ⟨l, hl, hslot, hfree⟩ := held
      exact ⟨hfree, l, hl, hslot⟩

/-- A slot bound to a stage of a graph. -/
def Strand.bound (st : Strand) (gid i : Nat) : Strand := { st with assign := some (gid, i), reserved := true, marked := false }

theorem State.bind_spec (gid : Nat) {m : List (Nat × Nat)} : (m.map Prod.snd).Nodup → ∀ s : State, s.OnlyStrands (s.bind gid m) ∧
    (∀ e ∈ m, (s.bind gid m).strand e.2 = (s.strand e.2).bound gid e.1) ∧ ∀ t, t ∉ m.map Prod.snd → (s.bind gid m).strand t = s.strand t := by
  induction m with
  | nil => exact fun _ s => ⟨State.OnlyStrands.refl s, by simp, fun _ _ => rfl⟩
  | cons e m ih =>
    intro distinct s
    obtain ⟨fresh, distinct⟩ := List.nodup_cons.1 distinct
    obtain ⟨only, each, others⟩ := ih distinct (s.modStrand e.2 (fun st => st.bound gid e.1))
    refine ⟨(State.OnlyStrands.modStrand s _ _).trans only, fun k hk => ?_, fun t ht => ?_⟩
    · rcases List.mem_cons.1 hk with rfl | hk
      · exact (others _ fresh).trans (State.strand_modStrand_same _ _ _)
      · refine (each k hk).trans ?_
        rw [State.strand_modStrand, if_neg]
        rintro e'
        exact fresh (e' ▸ List.mem_map_of_mem hk)
    · rw [List.map_cons, List.mem_cons, not_or] at ht
      refine (others t ht.2).trans ?_
      rw [State.strand_modStrand, if_neg ht.1]

section
variable {s : State} {x gid : Nat} {g : Graph} {m : List (Nat × Nat)} (hact : s.active x = true) (hg : (s.ctx x).graph? gid = some g)
  (hlive : g.live = false) (halone : (s.ctx x).serialGraph = none) (hhead : (s.ctx x).waiting.head? = some g)
  (hm : s.reserveSlots x g.stages = some m)
include hact hg hlive halone hhead hm

/-- The first child that waits goes where its reservations have slots. -/
theorem exec_childInstantiate : exec (.childInstantiate x gid) s =
    .next ((s.bind gid m).modGraph x gid (fun g => { g with live := true, lastProgress := s.cycle })) := by
  have number : g.gid = gid := by simpa using List.find?_some hg
  have first : (s.ctx x).waiting.takeWhile (fun h => h.gid != gid) = [] := by
    obtain ⟨tl, e⟩ := List.head?_eq_some_iff.1 hhead
    rw [e]
    exact List.takeWhile_cons_of_neg (by simp [number])
  have cycle : (s.bind gid m).cycle = s.cycle := by
    obtain ⟨st, e⟩ := (State.bind_spec gid (State.reserveSlots_spec hm).2.1 s).1
    rw [e]
  show execChildInstantiate x gid s = _
  simp only [execChildInstantiate, hg, hact, hlive, halone, first, hm, cycle]
  simp

end

/-! ### Publication (R98, R448) -/

/-- A write of local memory, where no speculable range stands in its way. -/
theorem State.lwrite_loc {s : State} {l : Nat} (hz : s.specS l = 0) (a : Nat) (bs : List Byte) (n : Nat) :
    tget 0 ((s.lwrite l a bs).lc l).loc n = if a ≤ n ∧ n < a + bs.length then bs.getD (n - a) 0 else tget 0 (s.lc l).loc n := by
  have touch : s.ltouch l a bs.length = s := if_pos (by simp [hz])
  simp only [State.lwrite, touch, hz, Nat.not_lt_zero, if_false, State.lc_modLc_same]
  exact tget_twrite _ _ _ _ _

theorem State.lwrite_eq (s : State) (l a : Nat) (bs : List Byte) : ∃ ls, s.lwrite l a bs = { s with lcs := ls } := by
  obtain ⟨ls, e⟩ := s.ltouch_eq l a bs.length
  unfold State.lwrite
  rw [e]
  exact ⟨_, rfl⟩

section
variable {s : State} {x gid ch idx q t : Nat} {bs : List Byte} {g : Graph} {r : Chan} (hg : (s.ctx x).graph? gid = some g)
  (hr : g.cst[ch]? = some r) (hslot : r.slot idx = .reserved q t bs)
include hg hr hslot

theorem exec_channelPublish : exec (.channelPublish x gid ch idx) s = .next (if s.settled t then s.publish x gid ch idx else s) := by
  have slot : (g.chrec ch).slot idx = .reserved q t bs := by simpa [Graph.chrec, List.getD, hr] using hslot
  show execChannelPublish x gid ch idx s = _
  simp only [execChannelPublish, hg, slot]

/-- A channel's record with an entry published. -/
def Chan.publish (r : Chan) (idx q : Nat) (bs : List Byte) : Chan :=
  { r with slots := tset .empty r.slots idx (.published q bs), pushes := (r.pushes + 1) % 2 ^ 32 }

theorem State.publish_spec {w u : State}
    (hw : (if g.inPad ch then s.lwrite (lcKey x (((g.chan? ch).map (·.splc)).getD 0)) (g.padAddr ch idx) bs else s) = w)
    (hu : s.publish x gid ch idx = u) :
    (u.ctx x).graph? gid = some { g with
      cst := g.cst.set ch (r.publish idx q (if g.inPad ch then [] else bs)), lastProgress := s.cycle, reported := false } ∧
    u.lcs = w.lcs ∧ u = { s with ctxs := u.ctxs, lcs := u.lcs } := by
  have record : g.chrec ch = r := by simp [Graph.chrec, List.getD, hr]
  obtain ⟨ls, e⟩ : ∃ ls, w = { s with lcs := ls } := by
    rw [← hw]
    split
    · exact s.lwrite_eq _ _ _
    · exact ⟨s.lcs, rfl⟩
  generalize hb : (if g.inPad ch then [] else bs) = b
  have done : u = (w.modGraph x gid (fun g => g.modChan ch (fun r => r.publish idx q b))).progress x gid := by
    rw [← hu]
    simp only [State.publish, hg, record, hslot, hw, hb]
    rfl
  refine ⟨?_, by rw [done]; rfl, by rw [done, e]; rfl⟩
  rw [done, State.graph?_progress, State.graph?_modGraph _ _ _ (f := fun g => g.modChan ch (fun r => r.publish idx q b)) (fun _ => rfl), e,
    ← lmod_eq_set (fun r => Chan.publish r idx q b) hr]
  show Option.map _ (((s.ctx x).graph? gid).map _) = _
  rw [hg]
  rfl

end

end Sys2Proof.Machine
end

section
/-! SUPPORT. Firings and graphs, clause by clause. Settles FiringsAndGraphs. -/

namespace Sys2Proof.Machine

/-- A reported fault of a firing's commands that no handler has resolved kills the context at the firing's end (R459). -/
theorem exec_firingEnd_kill {s : State} {t : Nat} (hocc : (s.strand t).occ = true) (hblk : (s.strand t).blk = .halted)
    (hdgst : (s.strand t).dgst = none) (hrun : s.mayRun t = true) (hin : s.resultsIn t = true)
    (hsaid : ∀ k ∈ (s.lc (t / 4)).edt, k.strand = t % 4 → k.fault ≠ none → k.reported = true)
    (hfault : ∃ k ∈ (s.lc (t / 4)).edt, k.strand = t % 4 ∧ k.fault ≠ none) :
    exec (.firingEnd t) s = .next (s.kill (t / 4 / 4096) 3 cEFLT (s.strand t).pc.toNat) := by
  have said : (s.lc (t / 4)).unreported (t % 4) (fun _ => true) = none := List.find?_eq_none.2 (fun k hk => by
    simp only [Bool.and_eq_true, beq_iff_eq, Bool.not_eq_true', Option.isSome_iff_ne_none, and_true]
    rintro ⟨⟨hs, hf⟩, silent⟩
    rw [hsaid k hk hs hf] at silent
    exact nomatch silent)
  rw [exec_firingEnd hocc hblk hdgst hrun hin said, if_pos]
  obtain ⟨k, hk, hs, hf⟩ := hfault
  exact List.any_eq_true.2 ⟨k, hk, by simp [hs, Option.isSome_iff_ne_none, hf]⟩

theorem exec_firingEnd_ends {s : State} {t : Nat} (hocc : (s.strand t).occ = true) (hblk : (s.strand t).blk = .halted)
    (hdgst : (s.strand t).dgst = none) (hrun : s.mayRun t = true) (hin : s.resultsIn t = true)
    (hnone : ∀ k ∈ (s.lc (t / 4)).edt, k.strand ≠ t % 4) : exec (.firingEnd t) s = .next (s.endFiring t) := by
  have said : (s.lc (t / 4)).unreported (t % 4) (fun _ => true) = none := List.find?_eq_none.2 (fun k hk => by simp [hnone k hk])
  rw [exec_firingEnd hocc hblk hdgst hrun hin said, if_neg, if_neg]
  · simpa [List.any_eq_true] using hnone
  · rw [List.any_eq_true]
    rintro ⟨k, hk, h⟩
    simp [hnone k hk] at h

/-- GRAPHDONE of a top-level graph. -/
theorem State.graphDone_spec (s : State) (x launch : Nat) :
    ∃ a, s.report evGRAPHDONE (s.ctxid x) 0 srcPackage 0 launch 0 0 = { s with arb := a } ∧
    ∃ e ∈ (s.report evGRAPHDONE (s.ctxid x) 0 srcPackage 0 launch 0 0).arb.held ++
      (s.report evGRAPHDONE (s.ctxid x) 0 srcPackage 0 launch 0 0).arb.waiting, e.typ = 2 ∧ e.ctxid = s.ctxid x ∧ e.result = launch := by
  obtain ⟨e, he, typ, ctxid, -, -, -, result, -⟩ := s.report_hasEvent evGRAPHDONE (s.ctxid x) 0 srcPackage 0 launch 0 0
  exact ⟨_, State.report_eq _ _ _ _ _ _ _ _ _, e, he, typ, ctxid, result⟩

/-- Strands that agree but for what their slots are bound to. -/
theorem Strand.eq_of_freed {a b : Strand} (h : a.freed = b.freed) :
    a = { b with assign := a.assign, reserved := a.reserved, marked := a.marked } :=
  calc a = { a.freed with assign := a.assign, reserved := a.reserved, marked := a.marked } := rfl
    _ = { b.freed with assign := a.assign, reserved := a.reserved, marked := a.marked } := by rw [h]

/-- Settles O46: each clause by its step, and what the step does to the slots and to the graph's record. -/
theorem firingsAndGraphs : Obligations.FiringsAndGraphs := by
  unfold Obligations.FiringsAndGraphs
  refine ⟨fun s t gid i g d p => ?_, fun s t g p => ?_, fun s t hocc hblk hdgst hrun hin hused hsaid hfault => ?_,
    fun s x gid g hused hg hlive hser hall hchild hstores => ?_, fun s x gid g m hact hg hlive halone hhead hm => ?_,
    fun s x gid ch idx q t bs g r hg hr hslot => ⟨fun h => ?_, fun h => ?_⟩⟩
  · intro x hocc hassign halone hcore hrun hg hlive hd hp hleft mine
    have step := exec_firingStart hocc hassign halone hg hlive hd hp hleft
    refine ⟨fun ⟨u, hu, hlt, hc, hr, hs⟩ => ?_, fun hlow hhigh => ?_⟩
    · rw [step, if_pos]
      simp only [Bool.or_eq_true]
      exact .inr ((s.outOfTurn_iff t gid i).2 ⟨u, hu, .inl ⟨hlt, ⟨hc, hr⟩, hs⟩⟩)
    · have turn := State.outOfTurn_false hlow hhigh
      rw [if_neg (by simp [turn, (s.canStart_iff t).2 ⟨hcore, hrun⟩])] at step
      generalize hu : State.dropSpare _ _ _ _ = u at step
      obtain ⟨own, graph, others, frame⟩ := State.started_spec halone hg hd hp hleft
        (st := (s.strand t).start s.cycle s.vtime g i p.nextq (s.ctx x).tvb) rfl hu
      refine ⟨_, step, ?_, graph, others, frame⟩
      rw [own]
      have entry : ((g.stages[i]?).map (·.entry)).getD 0 = d.entry := by rw [hd]; rfl
      have sarg : ((g.stages[i]?).map (·.sarg)).getD 0 = d.sarg := by rw [hd]; rfl
      have gid' : g.gid = gid := by simpa using List.find?_some hg
      have regs := (s.strand t).start_gGet s.cycle s.vtime g i p.nextq (s.ctx x).tvb
      refine ⟨rfl, rfl, gid', rfl, rfl, entry, entry, rfl, rfl, rfl, regs 1, (regs 2).trans sarg, regs 3, regs 4, fun n hn => ?_, rfl, rfl, rfl,
        rfl, rfl, rfl, rfl, rfl, rfl, rfl, rfl, rfl, rfl⟩
      rw [regs, if_neg (by omega), if_neg (by omega), if_neg (by omega), if_neg (by omega)]
  · intro x st hocc hblk hdgst hrun hin hnone halone hg hp term
    obtain ⟨ctxdgst, graph, strands, cs, ls, sts, e⟩ := State.endFiring_spec halone hg hp rfl
    have step := exec_firingEnd_ends hocc hblk hdgst hrun hin hnone
    generalize s.endFiring t = u at step ctxdgst graph strands e
    have own := strands t
    rw [if_pos rfl] at own
    refine ⟨u, step, ?_, ?_, ?_, ?_, ?_, ?_, ctxdgst, graph, fun j hj => ?_, by rw [e]⟩
    · exact (congrArg Strand.occ own :)
    · exact (congrArg Strand.g own :)
    · exact (congrArg Strand.ecause own :)
    · exact (congrArg Strand.eaddr own :)
    · exact (congrArg Strand.einfo own :)
    · exact (congrArg Strand.acc own :)
    · have same := strands j
      rw [if_neg hj] at same
      exact Strand.eq_of_freed same
  · refine ⟨_, exec_firingEnd_kill hocc hblk hdgst hrun hin hsaid hfault, ?_, State.kill_mem _ _ _ _ _⟩
    rw [State.kill_ctx, if_pos rfl]
  · have step := exec_graphEnd hused hg hlive hser hall hchild hstores
    cases hpar : g.parent with
    | none =>
      rw [hpar] at step
      obtain ⟨arb, hw, ev, hev, typ, ctxid, result⟩ := s.graphDone_spec x g.launch
      dsimp only at step
      generalize State.report _ _ _ _ _ _ _ _ _ = w at step hw hev
      obtain ⟨slots, graphs, events, frame⟩ := State.graphLeaves ⟨_, _, hw⟩ (by rw [hw]; rfl) rfl
      refine ⟨_, step, slots, fun _ => ⟨graphs.trans (by rw [hw]; rfl), ev, ?_, typ, ctxid, result⟩, fun p h => absurd h (by simp), frame⟩
      rw [events]
      exact hev
    | some p =>
      rw [hpar] at step
      dsimp only at step
      obtain ⟨slots, graphs, events, frame⟩ := State.graphLeaves (s := s) (w := s.modGraph x p (fun h => { h with dgst := h.dgst + g.dgst }))
        ⟨_, _, rfl⟩ (s.lcKeys_modGraph x p _ x) rfl
      refine ⟨_, step, slots, fun h => absurd h (by simp), fun q hq => ⟨events, graphs.trans ?_⟩, frame⟩
      obtain rfl := Option.some.inj hq
      rw [State.modGraph, State.ctx_modCtx_same]
      simp only [Ctx.modGraph, beq_iff_eq]
  · obtain ⟨order, distinct, slots⟩ := State.reserveSlots_spec hm
    obtain ⟨⟨st, only⟩, each, others⟩ := State.bind_spec gid distinct s
    refine ⟨order, distinct, slots, _, exec_childInstantiate hact hg hlive halone hhead hm, ?_, each, others, ?_⟩
    · rw [State.graph?_modGraph _ _ _ (f := fun g => { g with live := true, lastProgress := s.cycle }) (fun _ => rfl), only]
      exact congrArg _ hg
    · rw [only]
      rfl
  · rw [exec_channelPublish hg hr hslot, if_neg (by simp [h])]
  · have step := exec_channelPublish hg hr hslot
    rw [if_pos h] at step
    obtain ⟨graph, lcs, frame⟩ := State.publish_spec hg hr hslot rfl rfl
    refine ⟨_, step, graph, fun hpad => ?_, fun c hpad hc hz a => ?_, frame⟩
    · rw [lcs]
      simp [hpad]
    · have dest : lcKey x (((g.chan? ch).map (·.splc)).getD 0) = x * 4096 + c.splc := by rw [Graph.chan?, hc]; rfl
      have addr : g.padAddr ch idx = c.spaddr + idx * c.esz := by rw [Graph.padAddr, Graph.esz, Graph.chan?, hc]; rfl
      rw [State.lc, lcs, if_pos hpad, dest, addr]
      exact State.lwrite_loc hz _ bs a

end Sys2Proof.Machine
end

section
/-! SUPPORT. The grants of a die (R108-R111): which logical cores are runnable, and what handing out cores changes. -/

namespace Sys2Proof.Machine

theorem State.core_isNone {s : State} {l : Nat} (h : (s.lc l).core ≠ none) : (s.lc l).core.isNone = false :=
  Bool.eq_false_iff.2 (mt Option.isNone_iff_eq_none.1 h)

/-! ### What a core's work depends on -/

/-- A context without its credit and its aging. -/
def Ctx.uncredited (c : Ctx) : Ctx := { c with deficit := [], aging := 0, agingFrom := 0 }

/-- What of a strand decides whether it has work. -/
def Strand.stand (st : Strand) : Bool × Blk × Option (Nat × Nat) × Bool × Bool × List BarMark × Bool :=
  (st.occ, st.blk, st.assign, st.reserved, st.dgstGo, st.gbar, st.tm)

/-- The family of a graph depends on the context's graphs alone. -/
theorem Ctx.below_congr {c c' : Ctx} (h : c.graphs = c'.graphs) : c.below = c'.below := by
  funext gid fuel
  induction fuel with
  | zero => rfl
  | succ fuel ih =>
    funext n
    simp only [Ctx.below, Ctx.graph?, h, ih]

section
variable {s t : State} (hc : ∀ x, (t.ctx x).uncredited = (s.ctx x).uncredited) (hs : ∀ j, (t.strand j).stand = (s.strand j).stand)
include hc hs

/-- Whether a logical core is runnable depends on neither credit nor cores. -/
theorem State.runnable_congr (l : Nat) : t.runnable l = s.runnable l := by
  have used : ∀ x, (t.ctx x).used = (s.ctx x).used := fun x => (congrArg Ctx.used (hc x) :)
  have coll : ∀ x, (t.ctx x).coll = (s.ctx x).coll := fun x => (congrArg Ctx.coll (hc x) :)
  have graphs : ∀ x, (t.ctx x).graphs = (s.ctx x).graphs := fun x => (congrArg Ctx.graphs (hc x) :)
  have nlc : ∀ x, (t.ctx x).nlc = (s.ctx x).nlc := fun x => (congrArg Ctx.nlc (hc x) :)
  have below : ∀ x, (t.ctx x).below = (s.ctx x).below := fun x => Ctx.below_congr (graphs x)
  have graph : ∀ x, (t.ctx x).graph? = (s.ctx x).graph? := fun x => by funext gid; rw [Ctx.graph?, Ctx.graph?, graphs]
  have serial : ∀ x, (t.ctx x).serialGraph = (s.ctx x).serialGraph := fun x => by rw [Ctx.serialGraph, Ctx.serialGraph, graphs]
  have occ : ∀ j, (t.strand j).occ = (s.strand j).occ := fun j => congrArg (fun p => p.1) (hs j)
  have blk : ∀ j, (t.strand j).blk = (s.strand j).blk := fun j => congrArg (fun p => p.2.1) (hs j)
  have assign : ∀ j, (t.strand j).assign = (s.strand j).assign := fun j => congrArg (fun p => p.2.2.1) (hs j)
  have reserved : ∀ j, (t.strand j).reserved = (s.strand j).reserved := fun j => congrArg (fun p => p.2.2.2.1) (hs j)
  have dgstGo : ∀ j, (t.strand j).dgstGo = (s.strand j).dgstGo := fun j => congrArg (fun p => p.2.2.2.2.1) (hs j)
  have gbar : ∀ j, (t.strand j).gbar = (s.strand j).gbar := fun j => congrArg (fun p => p.2.2.2.2.2.1) (hs j)
  have tm : ∀ j, (t.strand j).tm = (s.strand j).tm := fun j => congrArg (fun p => p.2.2.2.2.2.2) (hs j)
  unfold State.runnable
  have fin : t.finishing = s.finishing := by
    funext j
    simp only [State.finishing, Strand.owesIssue, serial, used, coll, blk, dgstGo, gbar, tm]
  have slot : t.serialSlot = s.serialSlot := by
    funext x gid
    simp only [State.serialSlot, State.lcKeys, nlc, reserved, assign]
  have held : t.heldBack = s.heldBack := by
    funext j
    simp only [State.heldBack, serial, slot]
  have next : t.serialNext = s.serialNext := by
    funext x g
    have family : (t.ctx x).family g.gid = (s.ctx x).family g.gid := by rw [Ctx.family, Ctx.family, graphs, below]
    unfold State.serialNext
    rw [family, graph]
  have start : t.startOf = s.startOf := by
    funext j
    simp only [State.startOf, serial, graph, occ, assign, slot, next]
  simp only [State.active, State.hasWork, Strand.isReady, used, coll, occ, blk, fin, held, start]

end

/-! ### Cores handed out -/

/-- A logical core without its place and its time there. -/
def LCore.unplaced (c : LCore) : LCore := { c with core := .none, grantedAt := 0, held := 0, expired := false, issuing := .none }

/-- Credit, turns and cores have been handed out; a core goes to none that has no work and no engine command to carry on with. -/
structure State.Granted (s t : State) : Prop where
  only : ∃ cs ls b r, t = { s with ctxs := cs, lcs := ls, busy := b, rr := r }
  ctx : ∀ x, (t.ctx x).uncredited = (s.ctx x).uncredited
  lc : ∀ l, (t.lc l).unplaced = (s.lc l).unplaced
  stays : ∀ l, s.runnable l = false → (∀ k ∈ (s.lc l).edt, k.fault ≠ none) → (s.lc l).core = none → (t.lc l).core = none

section
variable {s t u : State}

theorem State.Granted.refl (s : State) : s.Granted s :=
  ⟨⟨_, _, _, _, rfl⟩, fun _ => rfl, fun _ => rfl, fun _ _ _ h => h⟩

theorem State.Granted.strand (h : s.Granted t) (j : Nat) : t.strand j = s.strand j := by
  obtain ⟨cs, ls, b, r, e⟩ := h.only
  rw [e]
  rfl

theorem State.Granted.runnable (h : s.Granted t) (l : Nat) : t.runnable l = s.runnable l :=
  State.runnable_congr h.ctx (fun j => by rw [h.strand]) l

theorem State.Granted.edt (h : s.Granted t) (l : Nat) : (t.lc l).edt = (s.lc l).edt := (congrArg LCore.edt (h.lc l) :)

theorem State.Granted.trans (h : s.Granted t) (h' : t.Granted u) : s.Granted u := by
  obtain ⟨cs, ls, b, r, e⟩ := h.only
  obtain ⟨cs', ls', b', r', e'⟩ := h'.only
  exact ⟨⟨cs', ls', b', r', by rw [e', e]⟩, fun x => (h'.ctx x).trans (h.ctx x), fun l => (h'.lc l).trans (h.lc l),
    fun l idle done none => h'.stays l ((h.runnable l).trans idle) (fun k hk => done k (h.edt l ▸ hk)) (h.stays l idle done none)⟩

/-- Credit and aging change. -/
theorem State.Granted.credit {f : Ctx → Ctx} (hf : ∀ c, (f c).uncredited = c.uncredited) (s : State) (x : Nat) : s.Granted (s.modCtx x f) := by
  refine ⟨⟨_, _, _, _, rfl⟩, fun y => ?_, fun _ => rfl, fun _ _ _ h => h⟩
  rw [State.ctx_modCtx]
  split
  · next e => rw [e, hf]
  · rfl

theorem State.Granted.unless {c : Prop} [Decidable c] (h : s.Granted t) : s.Granted (if c then s else t) := by
  split
  · exact State.Granted.refl s
  · exact h

/-- A turn of the round-robin is noted. -/
theorem State.Granted.turn (s : State) (r : Tab Nat) : s.Granted { s with rr := r } :=
  ⟨⟨_, _, _, _, rfl⟩, fun _ => rfl, fun _ => rfl, fun _ _ _ h => h⟩

/-- A logical core with work, or with an engine command that has not faulted, gets a core. -/
theorem State.Granted.attach {l : Nat} (hwork : s.runnable l = true ∨ ∃ k ∈ (s.lc l).edt, k.fault = none) (n : Nat) :
    s.Granted (s.attach l n) := by
  refine ⟨⟨_, _, _, _, rfl⟩, fun _ => rfl, fun k => ?_, fun k idle done none => ?_⟩
  · unfold State.attach
    rw [State.lc_modLc]
    split
    · next e => rw [e]; rfl
    · rfl
  · unfold State.attach
    rw [State.lc_modLc, if_neg]
    · exact none
    · rintro rfl
      rcases hwork with h | ⟨c, hc, h⟩
      · simp [idle] at h
      · exact done c hc h

theorem State.grantTo_granted (d x n : Nat) : ∀ s : State, s.Granted (State.grantTo d x n s) := by
  induction n with
  | zero => exact State.Granted.refl
  | succ n ih =>
    intro s
    unfold State.grantTo
    split
    · next core l hcore hl =>
      have waits : s.waits l = true := by
        have := List.find?_some hl
        simp only [Bool.and_eq_true] at this
        exact this.1
      split
      · refine State.Granted.trans (State.Granted.attach (.inl ?_) core) (ih _)
        simp only [State.waits, Bool.and_eq_true] at waits
        exact waits.2
      · exact State.Granted.refl s
    · exact State.Granted.refl s

theorem State.grant_granted (d n : Nat) : ∀ s : State, s.Granted (State.grant d n s) := by
  induction n with
  | zero => exact State.Granted.refl
  | succ n ih =>
    intro s
    unfold State.grant
    split
    · next core x hcore hx =>
      exact (State.Granted.credit (by intro; rfl) s x).trans ((State.Granted.turn _ _).trans ((State.grantTo_granted d x _ _).trans (ih _)))
    · exact State.Granted.refl s

theorem State.settleCredit_granted (s : State) (d : Nat) : s.Granted (s.settleCredit d) := by
  refine foldl_rel State.Granted State.Granted.refl (fun _ _ _ => State.Granted.trans) (fun s x => ?_) _ s
  have deficit : s.Granted (if (s.lcsOn x d).any s.runnable then s else s.modCtx x (fun c => { c with deficit := tset 0 c.deficit d 0 })) :=
    .unless (.credit (by intro; rfl) s x)
  exact deficit.trans (.unless (.credit (f := fun c => { c with aging := 0, agingFrom := _ }) (by intro; rfl) _ x))

/-- Of a list of logical cores that all have engine commands to carry on with, those for which a core is free get one. -/
theorem State.attachRest_granted (d : Nat) {ls : List Nat} : ∀ s : State, (∀ l ∈ ls, ∃ k ∈ (s.lc l).edt, k.fault = none) →
    s.Granted (ls.foldl (fun s l => match s.freeCore d with
      | some n => s.attach l n
      | none => s) s) := by
  induction ls with
  | nil => exact fun s _ => State.Granted.refl s
  | cons l ls ih =>
    intro s hls
    have first : s.Granted (match s.freeCore d with
        | some n => s.attach l n
        | none => s) := by
      split
      · exact State.Granted.attach (.inr (hls l (List.mem_cons_self ..))) _
      · exact State.Granted.refl s
    exact first.trans (ih _ (fun k hk => by rw [first.edt]; exact hls k (List.mem_cons_of_mem _ hk)))

theorem State.grantRest_granted (s : State) (d : Nat) : s.Granted (s.grantRest d) := by
  refine State.attachRest_granted d s (fun l hl => ?_)
  have lingers := (List.mem_filter.1 hl).2
  simp only [State.lingers, Bool.and_eq_true, List.any_eq_true, Option.isNone_iff_eq_none] at lingers
  exact lingers.1.2

theorem State.grants_granted (s : State) (d : Nat) : s.Granted (s.grants d) :=
  (s.settleCredit_granted d).trans ((State.grant_granted d _ _).trans ((State.settleCredit_granted _ d).trans (State.grantRest_granted _ d)))

end

end Sys2Proof.Machine
end

section
/-! SUPPORT. The rebalance of a die (R106, R111, R112). -/

namespace Sys2Proof.Machine

/-! ### A new base priority (R112) -/

theorem Ctx.takePrio_none {c : Ctx} (h : c.newPrio = none) (d : Nat) : c.takePrio d = c := by
  simp [Ctx.takePrio, h]

theorem Ctx.takePrio_some {c : Ctx} {p : Nat} (h : c.newPrio = some p) (d : Nat) : c.takePrio d =
    if (List.range 8).all (fun k => tget 0 (tset 0 c.diePrio d (p + 1)) k == p + 1) then { c with prio := p, newPrio := none, diePrio := [] }
    else { c with diePrio := tset 0 c.diePrio d (p + 1) } := by
  simp [Ctx.takePrio, h]

theorem Ctx.takePrio_takePrio (c : Ctx) (d : Nat) : (c.takePrio d).takePrio d = c.takePrio d := by
  cases h : c.newPrio with
  | none => rw [Ctx.takePrio_none h, Ctx.takePrio_none h]
  | some p =>
    rw [Ctx.takePrio_some h]
    split
    · rfl
    · next hall =>
      simp only [Ctx.takePrio, h, tset_tset]
      exact if_neg hall

theorem Ctx.basePrio_of_diePrio {c : Ctx} {d p : Nat} (h : tget 0 c.diePrio d = p + 1) : c.basePrio d = p := by
  simp [Ctx.basePrio, h]

/-- A die that takes up a new base priority goes by it, and every other die as before. -/
theorem Ctx.basePrio_takePrio (c : Ctx) {d e : Nat} (he : e < 8) :
    (c.takePrio d).basePrio e = if e = d then c.newPrio.getD (c.basePrio d) else c.basePrio e := by
  cases h : c.newPrio with
  | none =>
    rw [Ctx.takePrio_none h]
    split
    · next e' => rw [e']; rfl
    · rfl
  | some p =>
    have taken : tget 0 (tset 0 c.diePrio d (p + 1)) e = if e = d then p + 1 else tget 0 c.diePrio e := tget_tset _ _ _ _ _
    rw [Ctx.takePrio_some h]
    split
    · next hall =>
      have all : tget 0 (tset 0 c.diePrio d (p + 1)) e = p + 1 := by
        simpa using List.all_eq_true.1 hall e (List.mem_range.2 he)
      have now : ({ c with prio := p, newPrio := none, diePrio := [] } : Ctx).basePrio e = p := rfl
      rw [now]
      split
      · rfl
      · next hne =>
        rw [all, if_neg hne] at taken
        exact (Ctx.basePrio_of_diePrio taken.symm).symm
    · split
      · next e' => exact Ctx.basePrio_of_diePrio (taken.trans (if_pos e'))
      · next hne =>
        rw [if_neg hne] at taken
        unfold Ctx.basePrio
        rw [taken]

/-- A fold of one idempotent change over contexts changes each of them once, and no other. -/
theorem State.foldl_modCtx {f : Ctx → Ctx} (hf : ∀ c, f (f c) = f c) (xs : List Nat) (s : State) :
    s.OnlyCtxs (xs.foldl (fun s x => s.modCtx x f) s) ∧
    ∀ y, (xs.foldl (fun s x => s.modCtx x f) s).ctx y = if y ∈ xs then f (s.ctx y) else s.ctx y := by
  induction xs generalizing s with
  | nil => exact ⟨⟨s.ctxs, rfl⟩, fun y => by simp⟩
  | cons x xs ih =>
    obtain ⟨⟨c, e⟩, each⟩ := ih (s.modCtx x f)
    refine ⟨⟨c, e⟩, fun y => (each y).trans ?_⟩
    rw [State.ctx_modCtx]
    by_cases hy : y = x
    · subst hy
      simp [hf]
    · simp [hy]

/-- Every context of the package has taken up its new priority on a die. -/
theorem State.takePrios_spec (s : State) {d : Nat} :
    ∃ cs, s.slots.foldl (fun s x => s.modCtx x (fun c => c.takePrio d)) s = { s with ctxs := cs } ∧
    ∀ y, (tget Ctx.free cs y).graphs = (s.ctx y).graphs ∧ ∀ e, e < 8 → (tget Ctx.free cs y).basePrio e =
      if e = d then (s.ctx y).newPrio.getD ((s.ctx y).basePrio d) else (s.ctx y).basePrio e := by
  obtain ⟨⟨cs, only⟩, each⟩ := State.foldl_modCtx (f := fun c => c.takePrio d) (fun c => Ctx.takePrio_takePrio c d) s.slots s
  refine ⟨cs, only, fun y => ?_⟩
  have here : tget Ctx.free cs y = if y ∈ s.slots then (s.ctx y).takePrio d else s.ctx y := by
    rw [← each, only]
    rfl
  have taken : tget Ctx.free cs y = (s.ctx y).takePrio d := by
    rw [here]
    split
    · rfl
    · next hy =>
      have free : s.ctx y = Ctx.free := tget_absent _ _ _ (fun e he h => hy (List.mem_map.2 ⟨e, he, h⟩))
      rw [free]
      exact (Ctx.takePrio_none rfl d).symm
  rw [taken]
  refine ⟨?_, fun e he => (s.ctx y).basePrio_takePrio he⟩
  cases h : (s.ctx y).newPrio with
  | none => rw [Ctx.takePrio_none h]
  | some p =>
    rw [Ctx.takePrio_some h]
    split <;> rfl

/-! ### Logical cores placed anew (R22) -/

theorem State.placeOne_eq (s : State) (l : Nat) : ∃ ls b, s.placeOne l = { s with lcs := ls, busy := b } := by
  unfold State.placeOne
  dsimp only
  split
  · split <;> exact ⟨_, _, rfl⟩
  · exact ⟨_, _, rfl⟩

theorem State.rehome_eq (s : State) (d : Nat) : ∃ ls b, s.rehome d = { s with lcs := ls, busy := b } := by
  unfold State.rehome
  split
  · exact ⟨_, _, rfl⟩
  · refine foldl_rel (fun s t : State => ∃ ls b, t = { s with lcs := ls, busy := b }) (fun s => ⟨_, _, rfl⟩) ?_
      (fun s l => s.placeOne_eq l) _ s
    rintro s t u ⟨_, _, e⟩ ⟨_, _, e'⟩
    exact ⟨_, _, by rw [e', e]⟩

/-! ### Blocked strands whose condition has come true (R111) -/

/-- Strands blocked before issue or by YIELD may have become ready, and nothing else. -/
def State.Woken (s t : State) : Prop := s.OnlyStrands t ∧ ∀ j, t.strand j = s.strand j ∨
  (((s.strand j).blk = .before ∨ (s.strand j).blk = .yielded) ∧ t.strand j = { s.strand j with blk := .ready })

theorem State.Woken.refl (s : State) : s.Woken s := ⟨State.OnlyStrands.refl s, fun _ => .inl rfl⟩

theorem State.Woken.trans {s t u : State} (h : s.Woken t) (h' : t.Woken u) : s.Woken u := by
  refine ⟨h.1.trans h'.1, fun j => ?_⟩
  rcases h.2 j with e | ⟨was, e⟩
  · rw [← e]
    exact h'.2 j
  · refine .inr ⟨was, ?_⟩
    rcases h'.2 j with e' | ⟨now, -⟩
    · rw [e', e]
    · rw [e] at now
      rcases now with h | h <;> cases h

theorem State.Woken.modStrand {s : State} {t : Nat} (h : (s.strand t).blk = .before ∨ (s.strand t).blk = .yielded) :
    s.Woken (s.modStrand t (fun st => { st with blk := .ready })) := by
  refine ⟨State.OnlyStrands.modStrand s t _, fun j => ?_⟩
  rw [State.strand_modStrand]
  split
  · next e => exact .inr ⟨e ▸ h, by rw [e]⟩
  · exact .inl rfl

/-! ### Slots given to stages (R106) -/

/-- Slots may have been given to other stages or marked, but for those reserved for one. -/
def State.Reassigned (s t : State) : Prop := s.OnlyStrands t ∧ ∀ j, (t.strand j).idled = (s.strand j).idled ∧
  ((s.strand j).reserved = true → (s.strand j).assign ≠ none → t.strand j = s.strand j)

section
variable {s t u : State}

theorem State.Reassigned.refl (s : State) : s.Reassigned s := ⟨State.OnlyStrands.refl s, fun _ => ⟨rfl, fun _ _ => rfl⟩⟩

theorem State.Reassigned.trans (h : s.Reassigned t) (h' : t.Reassigned u) : s.Reassigned u := by
  refine ⟨h.1.trans h'.1, fun j => ⟨(h'.2 j).1.trans (h.2 j).1, fun hr ha => ?_⟩⟩
  have same := (h.2 j).2 hr ha
  rw [← same] at hr ha
  exact ((h'.2 j).2 hr ha).trans same

theorem State.Reassigned.reserved (h : s.Reassigned t) (j : Nat) : (t.strand j).reserved = (s.strand j).reserved :=
  (congrArg Strand.reserved (h.2 j).1 :)

/-- A slot that is not reserved for a stage changes. -/
theorem State.Reassigned.modStrand {k : Nat} {f : Strand → Strand} (hf : ∀ st, (f st).idled = st.idled)
    (h : (s.strand k).reserved = false ∨ (s.strand k).assign = none) : s.Reassigned (s.modStrand k f) := by
  refine ⟨State.OnlyStrands.modStrand s k f, fun j => ?_⟩
  rw [State.strand_modStrand]
  split
  · next e =>
    rw [e]
    refine ⟨hf _, fun hr ha => ?_⟩
    rcases h with h | h
    · simp [h] at hr
    · exact absurd h ha
  · exact ⟨rfl, fun _ _ => rfl⟩

theorem State.markSlots_reassigned {ts : List Nat} : ∀ s : State, (∀ t ∈ ts, (s.strand t).reserved = false) → s.Reassigned
    (ts.foldl (fun s t => s.modStrand t (fun st => if st.occ then { st with marked := true } else { st with assign := none })) s) := by
  induction ts with
  | nil => exact fun s _ => State.Reassigned.refl s
  | cons k ts ih =>
    intro s hs
    have first : s.Reassigned (s.modStrand k (fun st => if st.occ then { st with marked := true } else { st with assign := none })) :=
      .modStrand (fun st => by split <;> rfl) (.inl (hs k (List.mem_cons_self ..)))
    exact first.trans (ih _ (fun j hj => (first.reserved j).trans (hs j (List.mem_cons_of_mem _ hj))))

theorem State.markDown_reassigned (slots : List Nat) (q : Quota) (s : State) : s.Reassigned (State.markDown slots q s) := by
  refine State.markSlots_reassigned s (fun t ht => ?_)
  have can := List.mem_reverse.1 (List.mem_of_mem_take ht)
  have free := (List.mem_filter.1 can).2
  simp only [Bool.and_eq_true, Bool.not_eq_true'] at free
  exact free.1

theorem State.handOut_reassigned (n : Nat) : ∀ (idle : List Nat) (qs : List Quota) (s : State), (∀ t ∈ idle, (s.strand t).assign = none) →
    s.Reassigned (State.handOut n idle qs s) := by
  induction n with
  | zero => exact fun _ _ s _ => State.Reassigned.refl s
  | succ n ih =>
    intro idle qs s hidle
    unfold State.handOut
    split
    · exact State.Reassigned.refl s
    · split
      · exact State.Reassigned.refl s
      · next q _ _ k hk =>
        refine State.Reassigned.trans (.modStrand (f := fun st => { st with assign := some (q.gid, q.stage) }) (fun _ => rfl)
          (.inr (hidle k (List.mem_of_find?_eq_some hk)))) (ih _ _ _ (fun j hj => ?_))
        have other := List.mem_filter.1 hj
        rw [State.strand_modStrand, if_neg (by simpa using other.2)]
        exact hidle j other.1

theorem State.dropSpare_reassigned (s : State) (x gid i : Nat) : s.Reassigned (s.dropSpare x gid i) := by
  unfold State.dropSpare
  split
  · exact State.Reassigned.refl s
  · split
    · exact State.Reassigned.refl s
    · refine foldl_rel State.Reassigned State.Reassigned.refl (fun _ _ _ => State.Reassigned.trans) (fun s t => ?_) _ s
      split
      · next h =>
        simp only [Bool.and_eq_true, Bool.not_eq_true'] at h
        exact .modStrand (fun _ => rfl) (.inl h.2)
      · exact State.Reassigned.refl s

theorem State.reassign_reassigned (s : State) (x d : Nat) : s.Reassigned (s.reassign x d) := by
  unfold State.reassign
  dsimp only
  refine State.Reassigned.trans (t := (s.quotas x d).foldl (fun u q =>
    if q.due < q.have' then State.markDown ((s.lcsOn x d).flatMap strandsOf) q u else u) s) ?_ ?_
  · refine foldl_rel State.Reassigned State.Reassigned.refl (fun _ _ _ => State.Reassigned.trans) (fun s q => ?_) _ s
    split
    · exact State.markDown_reassigned _ q s
    · exact State.Reassigned.refl s
  · refine State.Reassigned.trans (State.handOut_reassigned _ _ _ _ (fun t ht => ?_))
      (foldl_rel State.Reassigned State.Reassigned.refl (fun _ _ _ => State.Reassigned.trans)
        (fun s (q : Quota) => s.dropSpare_reassigned x q.gid q.stage) _ _)
    have idle := (List.mem_filter.1 ht).2
    simp only [Bool.and_eq_true, Option.isNone_iff_eq_none] at idle
    exact idle.1

end

/-! ### The rebalance -/

theorem State.OnlyStrands.ctx {s t : State} (h : s.OnlyStrands t) (x : Nat) : t.ctx x = s.ctx x := by
  obtain ⟨st, e⟩ := h
  rw [e]
  rfl

/-- The blocked strands of the logical cores of a die that are not resident, as the rebalance wakes them. -/
def State.wakeAway (s : State) (d : Nat) (isOver : Nat → State → Bool) : State :=
  ((s.slots.flatMap (fun x => (s.lcsOn x d).filter (fun l => (s.lc l).core.isNone))).flatMap strandsOf).foldl (fun s t =>
    if (s.strand t).occ && s.mayRun t && ((s.strand t).blk == .yielded || ((s.strand t).blk == .before && isOver t s)) then
      s.modStrand t (fun st => { st with blk := .ready }) else s) s

/-- The slots of a die's contexts, as the rebalance gives them out. -/
def State.reassignAll (s : State) (d : Nat) : State :=
  s.slots.foldl (fun s x => if s.active x && (s.ctx x).serialGraph.isNone then s.reassign x d else s) s

theorem State.rebalance_eq (s : State) (d : Nat) (isOver : Nat → State → Bool) {u g : State}
    (hu : (s.slots.foldl (fun s x => s.modCtx x (fun c => c.takePrio d)) s).rehome d = u)
    (hg : (((u.wakeAway d isOver).reassignAll d).grants d) = g) :
    s.rebalance d isOver = { g with nextReb := tset 0 g.nextReb d (g.cycle + 2500) } := by
  subst hu hg
  rfl

theorem State.wakeAway_woken (s : State) (d : Nat) (isOver : Nat → State → Bool) : s.Woken (s.wakeAway d isOver) := by
  refine foldl_rel State.Woken State.Woken.refl (fun _ _ _ => State.Woken.trans) (fun s t => ?_) _ s
  split
  · next h =>
    simp only [Bool.and_eq_true, Bool.or_eq_true, beq_iff_eq] at h
    exact State.Woken.modStrand (h.2.symm.imp And.left id)
  · exact State.Woken.refl s

theorem State.reassignAll_reassigned (s : State) (d : Nat) : s.Reassigned (s.reassignAll d) := by
  refine foldl_rel State.Reassigned State.Reassigned.refl (fun _ _ _ => State.Reassigned.trans) (fun s x => ?_) _ s
  split
  · exact s.reassign_reassigned x d
  · exact State.Reassigned.refl s

/-- What a rebalance keeps and changes. -/
theorem State.rebalance_spec (s : State) (d : Nat) (isOver : Nat → State → Bool) {t : State} (ht : s.rebalance d isOver = t) :
    (∀ e, tget 0 t.nextReb e = if e = d then s.cycle + 2500 else tget 0 s.nextReb e) ∧
    (∀ x, (t.ctx x).graphs = (s.ctx x).graphs ∧ ∀ e, e < 8 → (t.ctx x).basePrio e =
      if e = d then (s.ctx x).newPrio.getD ((s.ctx x).basePrio d) else (s.ctx x).basePrio e) ∧
    (∀ j, ∃ st, (st = s.strand j ∨ (((s.strand j).blk = .before ∨ (s.strand j).blk = .yielded) ∧ st = { s.strand j with blk := .ready })) ∧
      (t.strand j).idled = st.idled ∧ (st.reserved = true → st.assign ≠ none → t.strand j = st)) ∧
    t = { s with ctxs := t.ctxs, lcs := t.lcs, strands := t.strands, busy := t.busy, rr := t.rr, nextReb := t.nextReb } := by
  obtain ⟨cs, prios, taken⟩ := s.takePrios_spec (d := d)
  obtain ⟨ls, b, placed⟩ := ({ s with ctxs := cs } : State).rehome_eq d
  generalize hu : ({ s with ctxs := cs, lcs := ls, busy := b } : State) = u at placed
  rw [s.rebalance_eq d isOver ((congrArg (fun w => State.rehome w d) prios).trans placed) rfl] at ht
  have woken := u.wakeAway_woken d isOver
  generalize u.wakeAway d isOver = v at ht woken
  have given := v.reassignAll_reassigned d
  generalize v.reassignAll d = w at ht given
  have granted := w.grants_granted d
  generalize w.grants d = g at ht granted
  subst ht
  have ctx : ∀ x, (g.ctx x).uncredited = (tget Ctx.free cs x).uncredited := by
    intro x
    rw [granted.ctx, given.1.ctx, woken.1.ctx, ← hu]
    rfl
  obtain ⟨st, e⟩ := woken.1
  obtain ⟨st', e'⟩ := given.1
  obtain ⟨cs', ls', b', r', e''⟩ := granted.only
  refine ⟨fun n => ?_, fun x => ⟨?_, fun n hn => ?_⟩, fun j => ?_, ?_⟩
  · have cycle : g.cycle = s.cycle := by rw [e'', e', e, ← hu]
    have nextReb : g.nextReb = s.nextReb := by rw [e'', e', e, ← hu]
    rw [cycle, nextReb]
    exact tget_tset _ _ _ _ _
  · exact (congrArg Ctx.graphs (ctx x) :).trans (taken x).1
  · refine Eq.trans ?_ ((taken x).2 n hn)
    exact (congrArg (fun c => Ctx.basePrio c n) (ctx x) :)
  · refine ⟨v.strand j, ?_, ?_, fun hr ha => ?_⟩
    · have := woken.2 j
      rw [← hu] at this
      exact this
    · rw [← (given.2 j).1, ← granted.strand]
      rfl
    · rw [← (given.2 j).2 hr ha, ← granted.strand]
      rfl
  · rw [e'', e', e, ← hu]

end Sys2Proof.Machine
end

section
/-! SUPPORT. A logical core leaves its core: its quantum, and the swap (R110, R128, R234). -/

namespace Sys2Proof.Machine

/-- A strand whose register writes are complete and that sees the first `n` stores. -/
def Strand.fencedAt (st : Strand) (n : Nat) : Strand := { st.settle with view := { View.upTo n with fenced := st.view.fenced } }

/-- A logical core whose commands see the first `n` stores. -/
def LCore.fencedAt (c : LCore) (n : Nat) : LCore := { c with edt := c.edt.map (fun k => { k with view := View.upTo n }) }

/-- The strands and commands of a logical core that stops. -/
theorem State.settleLc_spec (s : State) (l : Nat) : (∃ st ls, s.settleLc l = { s with strands := st, lcs := ls }) ∧
    (∀ j, (s.settleLc l).strand j = if j / 4 = l ∧ (s.strand j).occ = true then (s.strand j).fencedAt s.vtime else s.strand j) ∧
    ∀ k, (s.settleLc l).lc k = if k = l then (s.lc l).fencedAt s.vtime else s.lc k := by
  obtain ⟨st, only⟩ := s.settleStrands_only (strandsOf l)
  have settled := s.strand_settleStrands (strandsOf l)
  rw [only] at settled
  obtain ⟨⟨st', only'⟩, fenced⟩ := State.foldl_strands (s := { s with strands := st })
    (step := fun s t => if (s.strand t).occ then s.syncAll t else s) (p := fun _ st => st.occ = true)
    (f := fun _ st => { st with view := { View.upTo s.vtime with fenced := st.view.fenced } }) (fun _ _ _ _ => rfl) (strandsOf l)
    { s with strands := st } (State.OnlyStrands.refl _) (fun u t hu => by
      obtain ⟨x, rfl⟩ := hu
      rfl)
  rw [only'] at fenced
  have done : s.settleLc l = ({ s with strands := st' } : State).modLc l (fun c => c.fencedAt s.vtime) := by
    show (s.settleStrands (strandsOf l)).fenceLc l = _
    rw [only]
    unfold State.fenceLc
    rw [only']
    rfl
  refine ⟨s.settleLc_eq l, fun j => ?_, fun k => ?_⟩
  · rw [done, State.strand_modLc]
    refine (fenced j).trans ?_
    rw [settled]
    simp only [mem_strandsOf]
    by_cases h : j / 4 = l ∧ (s.strand j).occ = true
    · simp only [if_pos h]
      exact if_pos ⟨h.1, h.2⟩
    · simp only [if_neg h]
  · rw [done, State.lc_modLc]
    rfl

/-- A resident logical core leaves its core. -/
theorem State.detach_resident {s : State} {l n : Nat} (h : (s.lc l).core = some n) :
    (∃ st ls cs b, s.detach l = { s with strands := st, lcs := ls, ctxs := cs, busy := b }) ∧
    (∀ j, (s.detach l).strand j = if j / 4 = l ∧ (s.strand j).occ = true then (s.strand j).fencedAt s.vtime else s.strand j) ∧
    (∀ k, ((s.detach l).lc k).unplaced = if k = l then ((s.lc l).fencedAt s.vtime).unplaced else (s.lc k).unplaced) ∧
    (∀ x, ((s.detach l).ctx x).uncredited = (s.ctx x).uncredited) ∧ ((s.detach l).lc l).core = none := by
  obtain ⟨⟨st, ls, only⟩, strands, lcs⟩ := s.settleLc_spec l
  rw [only] at strands lcs
  have leaves := s.detach_spec l
  refine ⟨leaves.2.2, ?_, ?_, ?_, leaves.1⟩
  · unfold State.detach
    simp only [h, only]
    exact strands
  · intro k
    unfold State.detach
    simp only [h, only]
    rw [State.lc_modLc]
    split
    · exact (congrArg LCore.unplaced ((lcs l).trans (if_pos rfl)) :)
    · next hk => exact (congrArg LCore.unplaced ((lcs k).trans (if_neg hk)) :)
  · intro x
    unfold State.detach
    simp only [h, only]
    generalize hc : State.modCtx _ _ _ = c
    show (c.ctx x).uncredited = _
    rw [← hc]
    exact (State.Granted.credit (by intro; rfl) _ _).ctx x

/-- Logical cores that agree but for their places. -/
theorem LCore.eq_of_unplaced {a b : LCore} (h : a.unplaced = b.unplaced) : a = { b with
    core := a.core, grantedAt := a.grantedAt, held := a.held, expired := a.expired, issuing := a.issuing } :=
  calc a = { a.unplaced with
        core := a.core, grantedAt := a.grantedAt, held := a.held, expired := a.expired, issuing := a.issuing } := rfl
    _ = { b.unplaced with
        core := a.core, grantedAt := a.grantedAt, held := a.held, expired := a.expired, issuing := a.issuing } := by rw [h]

theorem exec_quantumExpiry {s : State} {l : Nat} (hcore : (s.lc l).core ≠ none) : exec (.quantumExpiry l) s =
    .next (if (s.lc l).grantedAt + 250000 ≤ s.cycle then s.setLc l { s.lc l with expired := true } else s) := by
  show execQuantumExpiry l s = _
  have resident : (s.lc l).core.isSome = true := Option.isSome_iff_ne_none.2 hcore
  simp only [execQuantumExpiry, resident, Bool.true_and, decide_eq_true_eq]
  rfl

section
variable {s : State} {l : Nat} (hcore : (s.lc l).core ≠ none)
include hcore

theorem exec_residencySwap (hstop : s.active (l / 4096) = true ∨ s.stoppedLc l = true) (hyield : s.mustYield l = true)
    (hpoint : s.stopPoint l = true) : exec (.residencySwap l) s = .next ((s.detach l).grants (s.lc l).die) := by
  have away : (s.lc l).core.isNone = false := State.core_isNone hcore
  have stops : (s.active (slotOf l) || s.stoppedLc l || s.awaitsCheck l) = true := by
    rcases hstop with h | h
    · rw [show s.active (slotOf l) = true from h]
      rfl
    · rw [h, Bool.or_true]
      rfl
  show execResidencySwap l s = _
  unfold execResidencySwap
  rw [away, stops, hyield, hpoint]
  rfl

theorem State.swap_spec {d : Nat} {t : State} (ht : (s.detach l).grants d = t) :
    (s.runnable l = false → (∀ k ∈ (s.lc l).edt, k.fault ≠ none) → (t.lc l).core = none) ∧
    (∀ j, t.strand j = if j / 4 = l ∧ (s.strand j).occ = true then (s.strand j).fencedAt s.vtime else s.strand j) ∧
    (∀ k, t.lc k = { s.lc k with
      core := (t.lc k).core, grantedAt := (t.lc k).grantedAt, held := (t.lc k).held, expired := (t.lc k).expired, issuing := (t.lc k).issuing
      edt := if k = l then (s.lc k).edt.map (fun c => { c with view := View.upTo s.vtime }) else (s.lc k).edt }) ∧
    t = { s with ctxs := t.ctxs, lcs := t.lcs, strands := t.strands, busy := t.busy, rr := t.rr } := by
  obtain ⟨n, hn⟩ := Option.ne_none_iff_exists'.1 hcore
  obtain ⟨⟨st, ls, cs, b, only⟩, strands, lcs, ctxs, gone⟩ := State.detach_resident hn
  have granted := (s.detach l).grants_granted d
  rw [ht] at granted
  refine ⟨fun idle done => granted.stays l ?_ ?_ gone, fun j => (granted.strand j).trans (strands j), fun k => ?_, ?_⟩
  · refine (State.runnable_congr ctxs (fun j => ?_) l).trans idle
    rw [strands]
    split <;> rfl
  · have edt : ((s.detach l).lc l).edt = ((s.lc l).fencedAt s.vtime).edt := (congrArg LCore.edt ((lcs l).trans (if_pos rfl)) :)
    rw [edt]
    intro k hk
    obtain ⟨c, hc, rfl⟩ := List.mem_map.1 hk
    exact done c hc
  · have kept := (granted.lc k).trans (lcs k)
    by_cases hk : k = l
    · rw [if_pos hk] at kept ⊢
      subst hk
      exact LCore.eq_of_unplaced kept
    · rw [if_neg hk] at kept ⊢
      exact LCore.eq_of_unplaced kept
  · obtain ⟨cs', ls', b', r', e⟩ := granted.only
    rw [e, only]

end

end Sys2Proof.Machine
end

section
/-! SUPPORT. Aging, deadlock reports and the Damper's windows (R108, R114, R116). -/

namespace Sys2Proof.Machine

theorem exec_agingTick {s : State} {x : Nat} (hused : (s.ctx x).used = true) (hwaits : ∃ l ∈ s.lcKeys x, s.waits l = true) :
    exec (.agingTick x) s = .next (if (s.ctx x).agingFrom + 12500000 ≤ s.cycle then
      s.setCtx x { s.ctx x with aging := min 8 ((s.ctx x).aging + 1), agingFrom := (s.ctx x).agingFrom + 12500000 } else s) := by
  have waiting : (s.lcKeys x).any s.waits = true := List.any_eq_true.2 hwaits
  have due : ((s.ctx x).used && (s.lcKeys x).any s.waits && decide ((s.ctx x).agingFrom + 12500000 ≤ s.cycle)) = true ↔
      (s.ctx x).agingFrom + 12500000 ≤ s.cycle := by simp [hused, waiting]
  show execAgingTick x s = _
  unfold execAgingTick
  exact congrArg _ (if_congr due rfl rfl)

section
variable {s : State} {x gid : Nat} {g : Graph} (hg : (s.ctx x).graph? gid = some g)
include hg

theorem exec_deadlockTimeout_early (h : g.reported = true ∨ s.cycle < g.lastProgress + 125000000) :
    exec (.deadlockTimeout x gid) s = .next s := by
  show execDeadlockTimeout x gid s = _
  simp only [execDeadlockTimeout, hg]
  refine if_pos ?_
  have limit : Config.deadlockCycles = 125000000 := rfl
  simp only [limit, Bool.or_eq_true, Bool.not_eq_true', decide_eq_false_iff_not, Nat.not_le]
  rcases h with h | h
  · exact .inl (.inr h)
  · exact .inr h

variable {i : Nat} (hlive : g.live = true) (hi : i < g.stages.length) (hleft : (g.stageS i).ended < g.nfire i)
  (hfirst : ∀ j, j < i → g.nfire j ≤ (g.stageS j).ended) (hnew : g.reported = false) (hlate : g.lastProgress + 125000000 ≤ s.cycle)
include hlive hi hleft hfirst hnew hlate

/-- The first stage with firings left is reported. -/
theorem exec_deadlockTimeout_reports : exec (.deadlockTimeout x gid) s = .next
    ((s.report evDEADLOCK (s.ctxid x) 0 srcPackage 0 g.launch i 0).modGraph x gid (fun g => { g with reported := true })) := by
  have stage : (List.range g.stages.length).find? (fun i => decide ((g.stageS i).ended < g.nfire i)) = some i := by
    rw [List.find?_range_eq_some]
    exact ⟨by simpa using hleft, List.mem_range.2 hi, fun j hj => by simpa using hfirst j hj⟩
  have limit : Config.deadlockCycles = 125000000 := rfl
  show execDeadlockTimeout x gid s = _
  simp only [execDeadlockTimeout, hg, stage]
  exact if_neg (by simp [hlive, hnew, limit, hlate])

omit hlive hi hleft hfirst hnew hlate in
theorem State.deadlock_spec {t : State} (ht : (s.report evDEADLOCK (s.ctxid x) 0 srcPackage 0 g.launch i 0).modGraph x gid
      (fun g => { g with reported := true }) = t) :
    t = { s with ctxs := t.ctxs, arb := t.arb } ∧ (t.ctx x).graph? gid = some { g with reported := true } ∧
      ∃ e ∈ t.arb.held ++ t.arb.waiting, e.typ = 4 ∧ e.ctxid = s.ctxid x ∧ e.result = g.launch ∧ e.info0 = i := by
  obtain ⟨e, he, typ, ctxid, -, -, -, result, info⟩ := s.report_hasEvent evDEADLOCK (s.ctxid x) 0 srcPackage 0 g.launch i 0
  have same := s.report_eq evDEADLOCK (s.ctxid x) 0 srcPackage 0 g.launch i 0
  generalize s.report evDEADLOCK (s.ctxid x) 0 srcPackage 0 g.launch i 0 = w at ht he same
  subst ht
  refine ⟨by rw [same]; rfl, ?_, e, he, typ, ctxid, result, info⟩
  rw [State.graph?_modGraph _ _ _ (f := fun g => { g with reported := true }) (fun _ => rfl), same]
  exact congrArg _ hg

end

/-! ### The Damper (R116) -/

/-- The Damper's count after a window in which `real` row-steps were ready. -/
def damped (k n real : Nat) : Nat :=
  if k = 80 then min real 10000 else min 10000 (min (n + k * 125) (max (n - k * 125) real))

theorem exec_damperWindow (s : State) (core demand : Nat) {k n left m : Nat} (hk : s.env.damperK.getD (core / 152) 10 = k)
    (hn : tget 0 s.damper core = n) (hleft : tget 0 s.rowSteps core = left) (hm : damped k n (min demand left) = m) :
    exec (.damperWindow core demand) s = .next (if s.cycle < tget 0 s.damperAt core + 1250 then s else { s with
      damper := tset 0 s.damper core m, rowSteps := tset 0 s.rowSteps core (left - min (min demand left) m),
      damperAt := tset 0 s.damperAt core (tget 0 s.damperAt core + 1250) }) := by
  subst hk hn hleft hm
  show execDamperWindow core demand s = _
  unfold execDamperWindow
  split <;> rfl

/-- The count stays within its limits, and where the step is large enough it is what the window had ready. -/
theorem damped_spec (k n real : Nat) :
    (k = 80 → damped k n real = min real 10000) ∧
    (k ≠ 80 → damped k n real ≤ n + k * 125 ∧ damped k n real ≤ 10000 ∧ (n ≤ 10000 → n ≤ damped k n real + k * 125) ∧
      (real ≤ 10000 → n ≤ real + k * 125 → real ≤ n + k * 125 → damped k n real = real)) := by
  unfold damped
  refine ⟨fun h => if_pos h, fun h => ?_⟩
  rw [if_neg h]
  omega

end Sys2Proof.Machine
end

section
/-! SUPPORT. Strand switches, and blocked strands that become ready (R83-R85, R345, R347). -/

namespace Sys2Proof.Machine

/-! ### The strand chosen (R84) -/

/-- The order of a switch: SPRI, then the strand blocked earliest, then the lowest slot. -/
def State.precedes (s : State) (c u : Nat) : Prop :=
  s.spri u < s.spri c ∨ (s.spri u = s.spri c ∧ ((s.strand c).since < (s.strand u).since ∨ ((s.strand c).since = (s.strand u).since ∧ c < u)))

theorem State.goesFirst_iff (s : State) (c u : Nat) : s.goesFirst c u = true ↔ s.precedes c u := by
  simp only [State.goesFirst, State.precedes, Bool.or_eq_true, Bool.and_eq_true, decide_eq_true_eq, beq_iff_eq]
  refine or_congr_right (and_congr_left' eq_comm)

theorem State.precedes_asymm {s : State} {c u : Nat} (h : s.precedes c u) : ¬s.precedes u c := by
  unfold State.precedes at *
  omega

/-- The one that goes before all others of a list is the first of them. -/
theorem State.firstOfThese_eq {s : State} {ts : List Nat} {c : Nat} (hc : c ∈ ts) (hfirst : ∀ u ∈ ts, u ≠ c → s.precedes c u) :
    s.firstOfThese ts = some c := by
  suffices key : ∀ (ts : List Nat) (best : Option Nat), (c ∈ ts ∨ best = some c) → (∀ b, best = some b → b ≠ c → s.precedes c b) →
      (∀ u ∈ ts, u ≠ c → s.precedes c u) → ts.foldl (fun best t =>
        match best with
        | some b => if s.goesFirst t b then some t else best
        | none => some t) best = some c from key ts none (.inl hc) (fun _ h => nomatch h) hfirst
  clear hc hfirst
  intro ts
  induction ts with
  | nil => exact fun best hin _ _ => hin.resolve_left List.not_mem_nil
  | cons t ts ih =>
    intro best hin hbest hfirst
    have rest : ∀ u ∈ ts, u ≠ c → s.precedes c u := fun u hu => hfirst u (List.mem_cons_of_mem _ hu)
    have head : t ≠ c → s.precedes c t := hfirst t (List.mem_cons_self ..)
    rw [List.foldl_cons]
    cases best with
    | none =>
      refine ih _ ?_ (fun b hb => Option.some.inj hb ▸ head) rest
      rcases hin with h | h
      · exact (List.mem_cons.1 h).symm.imp id (fun e => congrArg some e.symm)
      · exact nomatch h
    | some b =>
      dsimp only
      split
      · next first =>
        refine ih _ ?_ (fun b hb => Option.some.inj hb ▸ head) rest
        by_cases htc : t = c
        · exact .inr (congrArg some htc)
        · rcases hin with h | h
          · exact .inl ((List.mem_cons.1 h).resolve_left (Ne.symm htc))
          · obtain rfl := Option.some.inj h
            exact absurd ((s.goesFirst_iff t b).1 first) (State.precedes_asymm (head htc))
      · next last =>
        refine ih _ ?_ hbest rest
        by_cases htc : t = c
        · subst htc
          by_cases hbt : b = t
          · exact .inr (congrArg some hbt)
          · exact absurd ((s.goesFirst_iff t b).2 (hbest b rfl hbt)) last
        · rcases hin with h | h
          · exact .inl ((List.mem_cons.1 h).resolve_left (Ne.symm htc))
          · exact .inr h

/-- The strands of a logical core that are ready. -/
theorem State.choose_ready {s : State} {l c : Nat} (hl : c / 4 = l) (hocc : (s.strand c).occ = true) (hblk : (s.strand c).blk = .ready)
    (hrun : s.mayRun c = true) (hfirst : ∀ u, u / 4 = l → (s.strand u).occ = true → (s.strand u).blk = .ready →
      s.mayRun u = true → u ≠ c → s.precedes c u) : s.choose l = some c := by
  have pick : s.firstOfThese ((strandsOf l).filter (fun t => (s.strand t).isReady && s.mayRun t)) = some c := by
    refine State.firstOfThese_eq ?_ (fun u hu hne => ?_)
    · exact List.mem_filter.2 ⟨mem_strandsOf.2 hl, by simp [Strand.isReady, hocc, hblk, hrun]⟩
    · obtain ⟨hul, hu⟩ := List.mem_filter.1 hu
      simp only [Strand.isReady, Bool.and_eq_true, beq_iff_eq] at hu
      exact hfirst u (mem_strandsOf.1 hul) hu.1.1 hu.1.2 hu.2 hne
  unfold State.choose
  rw [pick]

/-- Where none is ready the one that YIELD has blocked is chosen. -/
theorem State.choose_yielded {s : State} {l c : Nat} (hl : c / 4 = l) (hocc : (s.strand c).occ = true) (hblk : (s.strand c).blk = .yielded)
    (hrun : s.mayRun c = true) (honly : ∀ u, u / 4 = l → (s.strand u).occ = true → s.mayRun u = true →
      (s.strand u).blk ≠ .ready ∧ ((s.strand u).blk = .yielded → u = c)) : s.choose l = some c := by
  have noneReady : (strandsOf l).filter (fun t => (s.strand t).isReady && s.mayRun t) = [] := by
    refine List.filter_eq_nil_iff.2 (fun u hu h => ?_)
    simp only [Strand.isReady, Bool.and_eq_true, beq_iff_eq] at h
    exact (honly u (mem_strandsOf.1 hu) h.1.1 h.2).1 h.1.2
  have pick : s.firstOfThese ((strandsOf l).filter (fun t => (s.strand t).occ && (s.strand t).blk == .yielded && s.mayRun t)) = some c := by
    refine State.firstOfThese_eq ?_ (fun u hu hne => ?_)
    · exact List.mem_filter.2 ⟨mem_strandsOf.2 hl, by simp [hocc, hblk, hrun]⟩
    · obtain ⟨hul, hu⟩ := List.mem_filter.1 hu
      simp only [Bool.and_eq_true, beq_iff_eq] at hu
      exact absurd ((honly u (mem_strandsOf.1 hul) hu.1.1 hu.2).2 hu.1.2) hne
  unfold State.choose
  rw [noneReady, pick]
  rfl

/-! ### The switch -/

/-- The state after a switch to strand `c`. -/
def State.switched (s : State) (l c : Nat) : State :=
  (((strandsOf l).filter (fun t => (s.strand t).blk == .yielded)).foldl (fun s t => s.modStrand t (fun st => { st with blk := .ready }))
    (s.modLc l (fun k => { k with issuing := some (c % 4) }))).advance 2

theorem exec_strandSwitch {s : State} {l c : Nat} (hcore : (s.lc l).core ≠ none) (hl : c / 4 = l) (hrun : s.mayRun c = true)
    (hidle : ∀ i, (s.lc l).issuing = some i → ¬((s.strand (l * 4 + i)).isReady = true ∧ s.mayRun (l * 4 + i) = true))
    (hpick : s.choose l = some c) : exec (.strandSwitch l) s = .next (s.switched l c) := by
  have away : (s.lc l).core.isNone = false := State.core_isNone hcore
  have anyRuns : (strandsOf l).any s.mayRun = true := List.any_eq_true.2 ⟨c, mem_strandsOf.2 hl, hrun⟩
  show execStrandSwitch l s = _
  unfold execStrandSwitch
  cases hi : (s.lc l).issuing with
  | none =>
    simp only [hi, away, anyRuns, hpick]
    rfl
  | some i =>
    have now : ((s.strand (l * 4 + i)).isReady && s.mayRun (l * 4 + i)) = false := by simpa using hidle i hi
    simp only [hi, away, now, anyRuns, hpick]
    rfl

theorem State.switched_spec (s : State) (l c : Nat) : s.switched l c = { s with
      ctxs := (s.switched l c).ctxs, lcs := (s.switched l c).lcs, strands := (s.switched l c).strands, cycle := s.cycle + 2 } ∧
    (∀ k, (s.switched l c).lc k = if k = l then { s.lc l with issuing := some (c % 4) } else s.lc k) ∧
    ∀ u, (s.switched l c).strand u = if u / 4 = l ∧ (s.strand u).blk = .yielded then { s.strand u with blk := .ready } else s.strand u := by
  obtain ⟨⟨st, only⟩, each⟩ := State.foldl_modStrand (s := s.modLc l (fun k => { k with issuing := some (c % 4) }))
    (step := fun s t => s.modStrand t (fun st => { st with blk := .ready })) (f := fun _ st => { st with blk := .ready }) (fun _ _ => rfl)
    (fun _ _ _ => rfl) ((strandsOf l).filter (fun t => (s.strand t).blk == .yielded))
  rw [only] at each
  unfold State.switched
  rw [only]
  refine ⟨rfl, fun k => (s.lc_modLc l k (fun k => { k with issuing := some (c % 4) }) :), fun u => (each u).trans ?_⟩
  refine if_congr ?_ rfl rfl
  rw [List.mem_filter, mem_strandsOf, beq_iff_eq]

end Sys2Proof.Machine
end

section
/-! SUPPORT. Blocked strands that become ready (R83, R85, R347), and the scheduler's steps together. Settles Scheduling. -/

namespace Sys2Proof.Machine

/-! ### A blocked strand becomes ready -/

section
variable {s : State} {t : Nat} (hocc : (s.strand t).occ = true) (hcore : (s.lc (t / 4)).core ≠ none)
include hocc hcore

/-- A strand blocked before issue looks at its bundle again. -/
theorem exec_strandReady_before (hblk : (s.strand t).blk = .before) : exec (.strandReady t) s =
    .next (if s.mayRun t && !s.wouldBlock t then s.setStrand t { s.strand t with blk := .ready } else s) := by
  have away : (s.lc (lcOf t)).core.isNone = false := State.core_isNone hcore
  show execStrandReady t s = _
  simp only [execStrandReady, hblk]
  exact if_neg (by simp [hocc, away])

variable (hblk : (s.strand t).blk = .after)
include hblk

theorem exec_strandReady_waits (h : s.resultsIn t = false ∨ (s.strand t).dgst ≠ none) : exec (.strandReady t) s = .next s := by
  have away : (s.lc (lcOf t)).core.isNone = false := State.core_isNone hcore
  show execStrandReady t s = _
  simp only [execStrandReady, hblk]
  refine (if_neg (by simp [hocc, away])).trans (if_pos ?_)
  simp only [Bool.or_eq_true, Bool.not_eq_true', Option.isSome_iff_ne_none]
  exact .inl h

variable (hin : s.resultsIn t = true) (hdgst : (s.strand t).dgst = none) (hstop : (s.lc (t / 4)).stopping = false)
include hin hdgst hstop

theorem exec_strandReady_after (hlate : (s.strand t).late = none) (hstep : (s.strand t).stepWait = none) : exec (.strandReady t) s =
    .next (s.setStrand t { (s.strand t).flagsOf (s.strand t).since with blk := .ready }) := by
  have away : (s.lc (lcOf t)).core.isNone = false := State.core_isNone hcore
  have runs : (s.lc (lcOf t)).stopping = false := hstop
  show execStrandReady t s = _
  simp only [execStrandReady, hblk, hlate, hstep]
  exact (if_neg (by simp [hocc, away])).trans (if_neg (by simp [hin, hdgst, runs]))

/-- The trap that waited for the bundle's results is entered (R347). -/
theorem exec_strandReady_late {tr : Trap} (hlate : (s.strand t).late = some tr) : exec (.strandReady t) s =
    .next ((s.modStrand t (fun st => { st with late := none })).enterTrap t tr (s.strand t).pc) := by
  have away : (s.lc (lcOf t)).core.isNone = false := State.core_isNone hcore
  have runs : (s.lc (lcOf t)).stopping = false := hstop
  show execStrandReady t s = _
  simp only [execStrandReady, hblk, hlate]
  exact (if_neg (by simp [hocc, away])).trans (if_neg (by simp [hin, hdgst, runs]))

end

/-- A trap of a bundle, entered by a strand that is not in trap mode. -/
theorem State.enterTrap_eq {s : State} {t : Nat} {tr : Trap} (hcause : tr.cause ≠ cMEMERR) (htm : (s.strand t).tm = false) (epc : W64) :
    s.enterTrap t tr epc = s.setStrand t { (s.strand t).settle with
      epc := epc, ecause := BitVec.ofNat 64 tr.cause, eaddr := tr.addr, einfo := tr.info, tm := true, pc := (s.strand t).tvb, blk := .ready,
      dgst := none, dgstGo := (s.strand t).dgstGo && (s.strand t).dgst.isNone } := by
  unfold State.enterTrap State.enterTrapAs
  rw [if_neg hcause, if_neg (by simp [htm])]
  rfl

/-! ### The scheduler's steps -/

theorem exec_rebalance {s : State} {d : Nat} (hd : d < 8) (hdue : tget 0 s.nextReb d ≤ s.cycle) (hpower : s.power = .ready) :
    exec (.rebalance d) s = .next (s.rebalance d (fun t s => !s.wouldBlock t)) := by
  show execRebalance d s = _
  unfold execRebalance
  rw [if_pos ⟨hd, hdue, hpower⟩]

/-- What a rebalance leaves of a strand: `st` is the strand as it was or as it was woken. -/
theorem Strand.rebalanced {old new st : Strand}
    (hst : st = old ∨ ((old.blk = .before ∨ old.blk = .yielded) ∧ st = { old with blk := .ready })) (idled : new.idled = st.idled)
    (same : st.reserved = true → st.assign ≠ none → new = st) :
    new = { old with assign := new.assign, marked := new.marked, blk := new.blk } ∧
    (new.blk ≠ old.blk → (old.blk = .before ∨ old.blk = .yielded) ∧ new.blk = .ready) ∧
    (old.reserved = true → old.assign ≠ none → new.assign = old.assign ∧ new.marked = old.marked) := by
  have blk : new.blk = st.blk := (congrArg Strand.blk idled :)
  have whole : new = { st with assign := new.assign, marked := new.marked } :=
    calc new = { new.idled with assign := new.assign, marked := new.marked } := rfl
      _ = { st.idled with assign := new.assign, marked := new.marked } := by rw [idled]
  rcases hst with rfl | ⟨was, rfl⟩
  · exact ⟨blk ▸ whole, fun h => absurd blk h, fun hr ha => by rw [same hr ha]; exact ⟨rfl, rfl⟩⟩
  · exact ⟨blk ▸ whole, fun _ => ⟨was, blk⟩, fun hr ha => by rw [same hr ha]; exact ⟨rfl, rfl⟩⟩

/-- Settles O45: the steps of the die and the core one by one, then the switch and the strands that become ready. -/
theorem scheduling : Obligations.Scheduling := by
  unfold Obligations.Scheduling
  refine ⟨⟨?_, ?_, ?_, ?_, ?_⟩, ?_, ?_, ?_⟩
  · intro s d hd hpower hdue
    obtain ⟨nextReb, ctxs, strands, frame⟩ := s.rebalance_spec d (fun t s => !s.wouldBlock t) rfl
    refine ⟨_, exec_rebalance hd hdue hpower, nextReb, ctxs, fun j => ?_, frame⟩
    obtain ⟨st, hst, idled, same⟩ := strands j
    exact Strand.rebalanced hst idled same
  · intro s l hcore
    rw [exec_quantumExpiry hcore]
    refine ⟨fun h => by rw [if_pos h], fun h => by rw [if_neg (by omega)], fun hstop hyield hpoint => ?_⟩
    obtain ⟨gone, strands, lcs, frame⟩ := State.swap_spec hcore (d := (s.lc l).die) rfl
    refine ⟨_, exec_residencySwap hcore hstop hyield hpoint, gone, fun j => ⟨fun hj => ?_, fun hj => ?_⟩, lcs, frame⟩
    · rw [strands, if_pos hj]
      exact ⟨rfl, rfl, rfl, rfl, rfl, rfl⟩
    · rw [strands, if_neg hj]
  · intro s x c hc hused hwaits
    subst hc
    rw [exec_agingTick hused hwaits]
    exact ⟨fun h => by rw [if_pos h], fun h => by rw [if_neg (by omega)]⟩
  · intro s x gid g i hg hlive hi hleft hfirst
    exact ⟨fun hnew hlate => ⟨_, exec_deadlockTimeout_reports hg hlive hi hleft hfirst hnew hlate, State.deadlock_spec hg rfl⟩,
      exec_deadlockTimeout_early hg⟩
  · intro s core demand k n left real
    have step := exec_damperWindow s core demand (k := k) rfl rfl rfl rfl
    refine ⟨fun h => ?_, fun h => ?_⟩
    · rw [step, if_pos h]
    · rw [if_neg (by omega)] at step
      obtain ⟨always, limits⟩ := damped_spec k n real
      have count : tget 0 (tset 0 s.damper core (damped k n real)) core = damped k n real := tget_tset_same _ _ _ _
      refine ⟨_, step, rfl, tget_tset_same _ _ _ _, fun c hc => ⟨tget_tset_other _ _ _ _ _ hc, tget_tset_other _ _ _ _ _ hc⟩, ?_, ?_, ?_⟩
      · exact (tget_tset_same _ _ _ _).trans (by rw [count])
      · exact fun hk => count.trans (always hk)
      · intro hk
        rw [← count] at limits
        exact limits hk
  · intro s l c hcore could can hc hidle hfirst
    obtain ⟨hl, hocc, hblk, hrun⟩ := hc
    have pick : s.choose l = some c := State.choose_ready hl hocc hblk hrun (fun u hu ho hb hr hne => hfirst u ⟨hu, ho, hb, hr⟩ hne)
    obtain ⟨frame, lcs, strands⟩ := s.switched_spec l c
    refine ⟨_, exec_strandSwitch hcore hl hrun (fun i hi h => ?_) pick, frame, lcs, strands⟩
    simp only [Strand.isReady, Bool.and_eq_true, beq_iff_eq] at h
    exact hidle i hi ⟨h.1.1, h.1.2, h.2⟩
  · intro s l c hcore hl hocc hblk hrun hsmall honly
    have pick := State.choose_yielded hl hocc hblk hrun honly
    obtain ⟨frame, lcs, strands⟩ := s.switched_spec l c
    refine ⟨_, exec_strandSwitch hcore hl hrun (fun i hi h => ?_) pick, by rw [frame], ?_, ?_⟩
    · simp only [Strand.isReady, Bool.and_eq_true, beq_iff_eq] at h
      have := hsmall i hi
      exact (honly (l * 4 + i) (by omega) h.1.1 h.2).1 h.1.2
    · rw [lcs, if_pos rfl]
    · rw [strands, if_pos ⟨hl, hblk⟩]
  · intro s t hocc hcore ready
    refine ⟨fun hblk hrun hgo => ?_, fun hblk hwait => ?_, fun hblk hdgst => exec_strandReady_waits hocc hcore hblk (.inr hdgst),
      fun hblk hin hdgst hstop => ⟨exec_strandReady_after hocc hcore hblk hin hdgst hstop, fun tr hlate hcause htm => ?_⟩,
      fun hblk hin => exec_strandReady_waits hocc hcore hblk (.inl hin)⟩
    · rw [exec_strandReady_before hocc hcore hblk, if_pos (by simp [hrun, hgo])]
    · rw [exec_strandReady_before hocc hcore hblk, if_neg (by simp [hwait])]
    · refine ⟨_, exec_strandReady_late hocc hcore hblk hin hdgst hstop hlate, ?_⟩
      rw [State.enterTrap_eq hcause (by rw [State.strand_modStrand_same]; exact htm), State.strand_modStrand_same, State.modStrand,
        State.setStrand_setStrand, State.strand_setStrand_same]
      exact ⟨⟨rfl, rfl, rfl, rfl, rfl, rfl, rfl, rfl, rfl⟩, rfl⟩

end Sys2Proof.Machine
end

section
/-! SUPPORT. Global accesses (R154, R247, R378, R386-R390, R396): the checks that they pass, the accesses that join those pending of the
strand, and the digest folds of stores. Settles GlobalScalars. -/

namespace Sys2Proof.Machine

/-! ### What a translation leaves of the issuing strand (R182-R187) -/

section
variable {s u : State}

theorem State.Accessed.cur (h : s.Accessed u) : u.cur = s.cur := by
  obtain ⟨⟨_, _, _, _, _, _, _, _, _, _, e⟩, -⟩ := h
  rw [e]

theorem State.Accessed.cycle (h : s.Accessed u) : u.cycle = s.cycle := by
  obtain ⟨⟨_, _, _, _, _, _, _, _, _, _, e⟩, -⟩ := h
  rw [e]

theorem State.Accessed.env (h : s.Accessed u) : u.env = s.env := by
  obtain ⟨⟨_, _, _, _, _, _, _, _, _, _, e⟩, -⟩ := h
  rw [e]

theorem State.Accessed.me (h : s.Accessed u) : u.me = s.me := by
  unfold State.me
  rw [h.cur, h.strand]

theorem State.Accessed.isFar (h : s.Accessed u) (c : Nat) (l : Loc) : u.isFar c l = s.isFar c l := by
  unfold State.isFar State.fid
  rw [h.env, h.2 c]

theorem State.Accessed.access (h : s.Accessed u) (op : AccOp) (va size cls scope x y : Nat) (dst : AccDst) (kind : Nat) (l : Loc) :
    u.access op va size cls scope x y dst kind l = s.access op va size cls scope x y dst kind l := by
  unfold State.access State.myLc
  rw [h.cur, h.me, h.isFar]

theorem State.Accessed.onMe (h : s.Accessed u) (f : Strand → Strand) : u.onMe f = u.setStrand s.cur (f s.me) := by
  rw [← h.cur, ← h.me]
  rfl

theorem State.Keeps.det (h : s.Keeps Ctx.terms u) (hcur : u.cur = s.cur) : u.myCtx.det = s.myCtx.det := by
  have terms : u.myCtx.terms = s.myCtx.terms := by
    unfold State.myCtx State.mySlot
    rw [hcur]
    exact h.2 _
  exact (congrArg Ctx.det terms :)

theorem State.accessed_of_reach1 {c va : Nat} {a : Acc} {r : Except Fail Loc} (h : s.reach1 c va a = (r, u)) : s.Accessed u := by
  have frame := s.accessed_reach1 c va a
  rwa [h] at frame

theorem State.det_of_reach1 {c va : Nat} {a : Acc} {r : Except Fail Loc} (h : s.reach1 c va a = (r, u)) : u.myCtx.det = s.myCtx.det := by
  have keeps := s.reach1_keeps c va a
  rw [h] at keeps
  exact keeps.det (State.accessed_of_reach1 h).cur

/-- Neither the logical-core window nor an address above it takes an atomic (R183). -/
theorem State.lt_window_of_reach1_atomic {c va : Nat} {l : Loc} (h : s.reach1 c va .atomic = (.ok l, u)) : va < 0xFF000000000000 := by
  by_contra hva
  have fault : ∃ k r lv, s.xlate c va .atomic = (.fault k r lv, s) := by
    unfold State.xlate
    dsimp only
    by_cases above : 2 ^ 56 ≤ va
    · exact ⟨_, _, _, if_pos above⟩
    · rw [if_neg above, if_pos (show Config.windowBase ≤ va from Nat.le_of_not_lt hva)]
      by_cases past : 2 ^ 36 ≤ va - Config.windowBase
      · exact ⟨_, _, _, if_pos past⟩
      · exact ⟨_, _, _, (if_neg past).trans ((if_neg (by decide)).trans (if_pos (.inr (.inr (.inr (.inl rfl))))))⟩
  obtain ⟨k, r, lv, e⟩ := fault
  unfold State.reach1 at h
  rw [e] at h
  cases h

end

/-! ### The checks of a global access (R378) -/

section
variable {s u : State} {a : Acc} {n : Nat}

theorem State.accessed_reachLanes (a : Acc) (s : State) (lanes : List (Nat × Nat)) : s.Accessed (State.reachLanes a s lanes).2 := by
  induction lanes generalizing s with
  | nil => exact State.Accessed.refl s
  | cons e lanes ih =>
    have first := s.accessed_reach1 s.myLc e.2 a
    unfold State.reachLanes
    generalize s.reach1 s.myLc e.2 a = r at first ⊢
    obtain ⟨_ | l, v⟩ := r
    · exact first
    · have rest := ih v
      dsimp only
      generalize State.reachLanes a v lanes = r' at rest ⊢
      obtain ⟨_ | _, w⟩ := r' <;> exact first.trans rest

theorem State.accessed_of_reachLanes {lanes : List (Nat × Nat)} {r : Except Trap (List (Nat × Nat × Loc))}
    (h : State.reachLanes a s lanes = (r, u)) : s.Accessed u := by
  have frame := State.accessed_reachLanes a s lanes
  rwa [h] at frame

theorem State.reachLanes_one {va : Nat} {l : Loc} (h : s.reach1 s.myLc va a = (.ok l, u)) :
    State.reachLanes a s [(0, va)] = (.ok [(0, va, l)], u) := by
  simp only [State.reachLanes, h]

/-- A global access goes on where every lane's address is aligned, translates and names memory that can be accessed. -/
theorem State.globals_pass {lanes : List (Nat × Nat)} {rs : List (Nat × Nat × Loc)} (halign : ∀ e ∈ lanes, e.2 % n = 0)
    (hreach : State.reachLanes a s lanes = (.ok rs, u)) (hmem : u.hole s.myLc (a != .write) (rs.map (fun e => (e.2.2, n))) = none)
    (f : List (Nat × Nat × Loc) → State → State) : s.globals n a lanes f = f rs u := by
  have aligned : lanes.find? (fun e => e.2 % n != 0) = none := List.find?_eq_none.2 (fun e he => by simp [halign e he])
  unfold State.globals
  simp only [aligned, hreach, hmem]

theorem State.globals_one {va : Nat} {l : Loc} (halign : va % n = 0) (hreach : s.reach1 s.myLc va a = (.ok l, u))
    (hmem : u.hole s.myLc (a != .write) [(l, n)] = none) (f : List (Nat × Nat × Loc) → State → State) :
    s.globals n a [(0, va)] f = f [(0, va, l)] u :=
  State.globals_pass (by simpa using halign) (State.reachLanes_one hreach) hmem f

end

/-! ### Digest folds of stores (R154) -/

/-- DS after a store of bytes at an address by the issuing strand: folded where DET is set, unless the address lies in the logical-core
window (R154, R183). -/
def State.digest (s : State) (ds : W64) (a : Nat) (bs : List Byte) : W64 :=
  if s.myCtx.det = true ∧ ¬(0xFF000000000000 ≤ a ∧ a < 2 ^ 56) then foldDS ds a bs else ds

theorem State.foldMine_onMe (s : State) (f : Strand → Strand) (a : Nat) (bs : List Byte) :
    (s.onMe f).foldMine a bs = s.onMe (fun st => { f st with dgsta := s.digest (f st).dgsta a bs }) := by
  have cond : ((s.onMe f).myCtx.det && !(decide (Config.windowBase ≤ a) && decide (a < 2 ^ 56))) = true ↔
      s.myCtx.det = true ∧ ¬(0xFF000000000000 ≤ a ∧ a < 2 ^ 56) := by
    rw [Bool.and_eq_true, Bool.not_eq_true', ← Bool.decide_and, decide_eq_false_iff_not]
    rfl
  unfold State.foldMine State.digest
  by_cases h : s.myCtx.det = true ∧ ¬(0xFF000000000000 ≤ a ∧ a < 2 ^ 56)
  · simp only [if_pos h, if_pos (cond.2 h), State.onMe_onMe]
  · simp only [if_neg h, if_neg (mt cond.1 h)]

theorem State.foldl_foldMine_onMe {α : Type} (adr : α → Nat) (bs : α → List Byte) (es : List α) (s : State) (f : Strand → Strand) :
    es.foldl (fun s e => s.foldMine (adr e) (bs e)) (s.onMe f) =
      s.onMe (fun st => { f st with dgsta := es.foldl (fun ds e => s.digest ds (adr e) (bs e)) (f st).dgsta }) := by
  induction es generalizing f with
  | nil => rfl
  | cons e es ih => rw [List.foldl_cons, State.foldMine_onMe, ih]; rfl

/-- DS after an atomic of `n` bytes at an address: its operand is folded, and for a CAS the new value after it (R154). -/
def State.digestAtomic (s : State) (ds : W64) (a n op x y : Nat) : W64 :=
  let ds := s.digest ds a (leBytes n x)
  if op = 5 then s.digest ds a (leBytes n y) else ds

theorem State.foldAtomic_onMe (s : State) (f : Strand → Strand) (a n op x y : Nat) :
    (s.onMe f).foldAtomic a n op x y = s.onMe (fun st => { f st with dgsta := s.digestAtomic (f st).dgsta a n op x y }) := by
  unfold State.foldAtomic State.digestAtomic
  dsimp only
  rw [State.foldMine_onMe]
  split
  · rw [State.foldMine_onMe]
  · rfl

theorem State.digest_congr {s u : State} (h : u.myCtx.det = s.myCtx.det) : u.digest = s.digest := by
  unfold State.digest
  rw [h]

theorem State.digestAtomic_congr {s u : State} (h : u.myCtx.det = s.myCtx.det) : u.digestAtomic = s.digestAtomic := by
  unfold State.digestAtomic
  rw [State.digest_congr h]

theorem State.digestAtomic_below {s : State} {a : Nat} (ha : a < 0xFF000000000000) (ds : W64) (n op x y : Nat) :
    s.digestAtomic ds a n op x y = if s.myCtx.det = true ∧ a < 0xFF000000000000 then
      let ds := foldDS ds a (leBytes n x)
      if op = 5 then foldDS ds a (leBytes n y) else ds
    else ds := by
  unfold State.digestAtomic State.digest
  by_cases hdet : s.myCtx.det = true
  · simp [hdet, ha]
  · simp [hdet]

/-! ### Accesses that join those pending (R386-R390, R396) -/

/-- The access joins those pending as the latest in the strand's program order. -/
def Strand.joined (st : Strand) (e : Access) : Strand := { st with acc := st.acc ++ [{ e with num := st.accNo }], accNo := st.accNo + 1 }

section
variable {s u : State} (h : s.Accessed u) (op : AccOp) (va size cls scope x y : Nat) (dst : AccDst) (kind : Nat) (l : Loc)
include h

/-- The access that brings a value: it joins those pending in the state after its translation, and the strand blocks after issue. -/
theorem State.Accessed.pend_load : (u.pend [u.access op va size cls scope x y dst kind l]).blockAfter =
    u.setStrand s.cur { s.me.joined (s.access op va size cls scope x y dst kind l) with blk := .after, since := s.cycle } := by
  rw [State.pend_blockAfter, h.cur, h.me, h.cycle, h.access]
  rfl

variable (hdet : u.myCtx.det = s.myCtx.det)
include hdet

/-- The store or exact-add, whose datum folds into the digest at once; the strand goes on. -/
theorem State.Accessed.pend_store (bs : List Byte) :
    (u.pend [u.access op va size cls scope x y dst kind l]).foldMine va bs =
      u.setStrand s.cur { s.me.joined (s.access op va size cls scope x y dst kind l) with dgsta := s.digest s.me.dgsta va bs } := by
  rw [State.pend, State.foldMine_onMe, h.onMe, h.access, State.digest_congr hdet]
  rfl

/-- The atomic: its operands fold into the digest at once, and the strand blocks after issue. -/
theorem State.Accessed.pend_atomic (n k v w : Nat) :
    ((u.pend [u.access op va size cls scope x y dst kind l]).foldAtomic va n k v w).blockAfter =
      u.setStrand s.cur { s.me.joined (s.access op va size cls scope x y dst kind l) with
        dgsta := s.digestAtomic s.me.dgsta va n k v w, blk := .after, since := s.cycle } := by
  rw [State.pend, State.foldAtomic_onMe, State.blockAfter, State.onMe_onMe, h.onMe, h.access, State.cycle_onMe, h.cycle,
    State.digestAtomic_congr hdet]
  rfl

end

section
variable {s u : State} {g : Guard} (hr : s.runs g) {d a b : R6} {scope : F4} {cls fn : F3} {va n : Nat} {l : Loc}
include hr

theorem exec_lbr (hva : 0xFE000000100000 + 32 * (s.gv a + s.gv b).toNat + 8 * fn.toNat = va) (hn : (s.gv a + s.gv b).toNat < 65536)
    (hreach : s.reach1 s.myLc va .read = (.ok l, u)) (hmem : u.hole s.myLc true [(l, 8)] = none) :
    exec (.lbr g d a b (BitVec.ofNat 4 fn.toNat)) s = .next (u.setStrand s.cur
      { s.me.joined (s.access .load va 8 1 1 0 0 (.g d.toNat false) l.kind l) with blk := .after, since := s.cycle }) := by
  have hfn : (BitVec.ofNat 4 fn.toNat).toNat = fn.toNat := by
    rw [BitVec.toNat_ofNat]
    omega
  have place : (BitVec.ofNat 64 (Config.bufferBase + 32 * (s.gv a + s.gv b).toNat)).toNat + 8 * (BitVec.ofNat 4 fn.toNat).toNat = va := by
    rw [hfn, ← hva, BitVec.toNat_ofNat, Config.bufferBase]
    omega
  refine exec_acts (execLbr g d a b _ s) rfl rfl hr ?_
  refine (if_neg (Nat.not_le.2 hn)).trans ?_
  rw [place]
  exact (State.globals_one (by omega) hreach hmem _).trans ((State.accessed_of_reach1 hreach).pend_load ..)

variable (hva : (s.gv a).toNat = va)
include hva

theorem exec_ldg (hn : 2 ^ (fn.toNat % 4) = n) (halign : va % n = 0) (hreach : s.reach1 s.myLc va .read = (.ok l, u))
    (hmem : u.hole s.myLc true [(l, n)] = none) : exec (.ldg g d a scope cls fn) s = .next (u.setStrand s.cur
      { s.me.joined (s.access .load va n cls.toNat scope.toNat 0 0 (.g d.toNat (fn.getLsbD 2)) l.kind l) with
        blk := .after, since := s.cycle }) := by
  subst hva hn
  refine exec_acts (execLdg g d a scope cls fn s) rfl rfl hr ?_
  exact (State.globals_one halign hreach hmem _).trans ((State.accessed_of_reach1 hreach).pend_load ..)

theorem exec_stg (hn : 2 ^ (fn.toNat % 4) = n) (halign : va % n = 0) (hreach : s.reach1 s.myLc va .write = (.ok l, u))
    (hmem : u.hole s.myLc false [(l, n)] = none) {x : Nat} (hx : (s.gv d).toNat % 2 ^ (8 * n) = x) :
    exec (.stg g d a scope cls fn) s = .next (u.setStrand s.cur
      { s.me.joined (s.access .store va n cls.toNat scope.toNat x 0 .none l.kind l) with
        dgsta := s.digest s.me.dgsta va (leBytes n x) }) := by
  subst hva hn hx
  refine exec_acts (execStg g d a scope cls fn s) rfl rfl hr ?_
  exact (State.globals_one halign hreach hmem _).trans
    ((State.accessed_of_reach1 hreach).pend_store (hdet := State.det_of_reach1 hreach) ..)

theorem exec_xadd (halign : va % 8 = 0) (hreach : s.reach1 s.myLc va .xadd = (.ok l, u)) (hmem : u.hole s.myLc true [(l, 8)] = none)
    {x : Nat} (hx : (s.gv d).toNat % 2 ^ 32 = x) :
    exec (.xadd g d a scope cls fn) s = .next (u.setStrand s.cur
      { s.me.joined (s.access (.xadd (leafAnchor l.leaf)) va 8 cls.toNat scope.toNat x 0 .none l.kind l) with
        dgsta := s.digest s.me.dgsta va (leBytes 4 x) }) := by
  have datum : (lo32 (s.gv d)).toNat = x := hx ▸ BitVec.toNat_setWidth ..
  subst hva
  refine exec_acts (execXadd g d a scope cls fn s) rfl rfl hr ?_
  dsimp only
  rw [datum]
  exact (State.globals_one halign hreach hmem _).trans
    ((State.accessed_of_reach1 hreach).pend_store (hdet := State.det_of_reach1 hreach) ..)

theorem exec_atg (hn : (if fn.getLsbD 0 then 4 else 8) = n) {k x y : Nat} (hk : s.kLit.toNat = k)
    (hx : (s.op.gGet d.toNat).toNat % 2 ^ (8 * n) = x) (hy : (s.op.gGet (d.toNat + 1)).toNat % 2 ^ (8 * n) = y)
    (hop : k ≤ 9) (hpair : k = 5 → d ≠ 62) (halign : va % n = 0) (hreach : s.reach1 s.myLc va .atomic = (.ok l, u))
    (hmem : u.hole s.myLc true [(l, n)] = none) : exec (.atg g d a scope cls fn) s = .next (u.setStrand s.cur
      { s.me.joined (s.access (.atomic k) va n cls.toNat scope.toNat x y (.g d.toNat false) l.kind l) with
        dgsta := s.digestAtomic s.me.dgsta va n k x y, blk := .after, since := s.cycle }) := by
  have ok : (Instr.atg g d a scope cls fn).kOk s.kLit = true := by
    simp only [Instr.kOk, hk, Bool.and_eq_true, decide_eq_true_eq, Bool.not_eq_true', Bool.and_eq_false_iff, beq_eq_false_iff_ne]
    exact ⟨hop, (em (k = 5)).imp hpair id⟩
  subst hva hn hk hx hy
  refine exec_acts (execAtg g d a scope cls fn s) rfl rfl hr ?_
  refine (if_neg (by rw [ok]; exact Bool.false_ne_true)).trans ?_
  exact (State.globals_one halign hreach hmem _).trans
    ((State.accessed_of_reach1 hreach).pend_atomic (hdet := State.det_of_reach1 hreach) ..)

end

/-! ### Vector accesses (R387) -/

section
variable {s u : State} {g : Guard} (hr : s.runs g) {d a : R6} {scope : F4} {cls fn : F3} {rs : List (Nat × Nat × Loc)}
  (halign : ∀ e ∈ s.glLanes a fn, e.2 % 4 = 0)
include hr halign

theorem exec_vldg (hreach : State.reachLanes .read s (s.glLanes a fn) = (.ok rs, u))
    (hmem : u.hole s.myLc true (rs.map (fun e => (e.2.2, 4))) = none) : exec (.vldg g d a scope cls fn) s =
    .next (u.pend (rs.map (fun e => u.access .load e.2.1 4 cls.toNat scope.toNat 0 0 (.lane d.toNat e.1)
      (strongest (rs.map (fun e => e.2.2.kind))) e.2.2))).blockAfter :=
  exec_acts (execVldg g d a scope cls fn s) rfl rfl hr (State.globals_pass halign hreach hmem _)

theorem exec_vstg (hreach : State.reachLanes .write s (s.glLanes a fn) = (.ok rs, u))
    (hmem : u.hole s.myLc false (rs.map (fun e => (e.2.2, 4))) = none) : exec (.vstg g d a scope cls fn) s =
    .next (rs.foldl (fun u e => u.foldMine e.2.1 (leBytes 4 ((s.vv d).getD e.1 0).toNat)) (u.pend (rs.map (fun e =>
      u.access .store e.2.1 4 cls.toNat scope.toNat ((s.vv d).getD e.1 0).toNat 0 .none
        (strongest (rs.map (fun e => e.2.2.kind))) e.2.2)))) :=
  exec_acts (execVstg g d a scope cls fn s) rfl rfl hr (State.globals_pass halign hreach hmem _)

end

/-! ### The statement -/

/-- Settles O26: each instruction by its effect once its address has passed the checks; the state after a translation differs from the one
before in nothing of the issuing strand. -/
theorem globalScalars : Obligations.GlobalScalars := by
  unfold Obligations.GlobalScalars
  refine ⟨?_, ?_, ?_⟩
  · intro s g d a b scope cls fn l u hr
    refine ⟨fun halign hreach hmem => exec_ldg hr rfl rfl halign hreach hmem,
      fun hn hreach hmem => exec_lbr hr rfl hn hreach hmem, fun hop hpair halign hreach hmem => ?_⟩
    have low := State.lt_window_of_reach1_atomic hreach
    refine (exec_atg hr rfl rfl rfl rfl rfl hop hpair halign hreach hmem).trans ?_
    by_cases folds : s.myCtx.det = true ∧ (s.gv a).toNat < 0xFF000000000000
    · simp only [State.digestAtomic_below low, if_pos folds]
      rfl
    · simp only [State.digestAtomic_below low, if_neg folds]
      rfl
  · intro s g d a scope cls fn l u hr
    refine ⟨fun halign hreach hmem => ?_, fun halign hreach hmem => exec_xadd hr rfl halign hreach hmem rfl⟩
    refine (exec_stg hr rfl rfl halign hreach hmem rfl).trans ?_
    rw [if_neg (show ¬(2 ^ (fn.toNat % 4) = 8 ∧ AccOp.store ≠ .store) from fun h => h.2 rfl)]
    rfl
  · intro s g d a scope cls fn rs u hr lanes halign
    refine ⟨fun hreach hmem => ⟨_, exec_vldg hr halign hreach hmem, ?_, ?_, rfl⟩,
      fun hreach hmem => ⟨_, exec_vstg hr halign hreach hmem, ?_⟩⟩
    · simp only [State.blockAfter, State.me_onMe]
    · rw [State.blockAfter, State.pend, State.onMe_onMe, State.me_onMe, Strand.pend, (State.accessed_of_reachLanes hreach).me]
    · rw [State.pend, State.foldl_foldMine_onMe, State.me_onMe, (State.accessed_of_reachLanes hreach).me]
      exact ⟨rfl, rfl, rfl⟩

end Sys2Proof.Machine
end

section
/-! SUPPORT. MTS (R161, R335, R351-R353): when it may write, what it writes and what it refuses. Settles SpecialRegisterWrites. -/

namespace Sys2Proof.Machine

/-! ### When an MTS may write -/

/-- R351 read as the condition under which no PRIV is raised. -/
theorem State.mtsPriv_eq_none {s : State} {n : Nat} {v : W64} (hn : mtsNever n = false) (ht : s.op.tm = true ∨ mtsTrapOnly n = false)
    (hd : n = 0 → v.getLsbD 2 = true → s.myCtx.debug = true) : s.mtsPriv n v = none := by
  unfold State.mtsPriv
  rw [if_neg (by simp [hn]), if_neg (by simpa using fun h => ht.resolve_right (by simp [h])), if_neg]
  rintro ⟨h0, h2, h⟩
  simp [hd h0 h2] at h

/-- An MTS that needs trap mode, of a register other than STATUS, passes R351 in trap mode. -/
theorem State.mtsPriv_of_tm {s : State} {n : Nat} {v : W64} (tm : s.op.tm = true) (h0 : n ≠ 0) (hn : n < 0x01E ∨ 0x020 ≤ n ∧ n < 0x030) :
    s.mtsPriv n v = none := by
  refine State.mtsPriv_eq_none ?_ (.inl tm) fun h => absurd h h0
  simp only [mtsNever, Bool.or_eq_false_iff, beq_eq_false_iff_ne, decide_eq_false_iff_not]
  omega

/-- An MTS of a register that needs no trap mode passes R351. -/
theorem State.mtsPriv_of_open {s : State} {n : Nat} {v : W64} (h : 6 ≤ n ∧ n ≤ 0x00A ∨ 0x010 ≤ n ∧ n ≤ 0x017) : s.mtsPriv n v = none := by
  refine State.mtsPriv_eq_none ?_ (.inr ?_) fun h0 => absurd h0 (by omega)
  · simp only [mtsNever, Bool.or_eq_false_iff, beq_eq_false_iff_ne, decide_eq_false_iff_not]
    omega
  · simp only [mtsTrapOnly, Bool.or_eq_false_iff, Bool.and_eq_false_iff, beq_eq_false_iff_ne, decide_eq_false_iff_not]
    omega

/-! ### Two latencies -/

/-- A write at a lower key and one at a higher key, in either order. -/
theorem tset_tset_of_lt {α : Type} [DecidableEq α] (d : α) (t : Tab α) {a b : Nat} (h : a < b) (v w : α) :
    tset d (tset d t a v) b w = tset d (tset d t b w) a v := by
  have keys : ∀ p q : Nat → Bool, (∀ k, p k = q k) → t.filter (fun e => p e.1) = t.filter fun e => q e.1 :=
    fun p q e => List.filter_congr fun x _ => e x.1
  have below := keys (fun k => decide (k < b) && decide (k < a)) (fun k => decide (k < a)) (by grind)
  have below' := keys (fun k => decide (k < a) && decide (k < b)) (fun k => decide (k < a)) (by grind)
  have between := keys (fun k => decide (k < b) && decide (a < k)) (fun k => decide (a < k) && decide (k < b)) (by grind)
  have above := keys (fun k => decide (b < k) && decide (a < k)) (fun k => decide (b < k)) (by grind)
  have above' := keys (fun k => decide (a < k) && decide (b < k)) (fun k => decide (b < k)) (by grind)
  have nowhere := keys (fun k => decide (b < k) && decide (k < a)) (fun _ => false) (by grind)
  have nowhere' := keys (fun k => decide (k < a) && decide (b < k)) (fun _ => false) (by grind)
  simp only [tset, List.filter_append, List.filter_filter, below, below', between, above, above', nowhere, nowhere']
  split <;> split <;> simp [h, Nat.le_of_lt h]

theorem Strand.latency_comm (st : Strand) (r r' : RegName) (n m : Nat) (h : r.key ≠ r'.key) :
    (st.latency r n).latency r' m = (st.latency r' m).latency r n := by
  unfold Strand.latency
  by_cases hr : r.discards = true <;> by_cases hr' : r'.discards = true <;> simp [hr, hr', tget_tset, h, h.symm]
  rcases Nat.lt_or_gt_of_ne h with hlt | hlt
  · exact tset_tset_of_lt 0 _ hlt _ _
  · exact (tset_tset_of_lt 0 _ hlt _ _).symm

theorem RegName.key_sp_ne_t {n k : Nat} (hn : n < 64) (hk : k < 64) : (RegName.sp n).key ≠ (RegName.t k).key := by
  unfold RegName.key
  simp [RegName.file, RegName.num]
  omega

/-! ### The two outcomes -/

section
variable {s : State} {g : Guard} {a : R6} {n : Nat} (h : s.runs g) (hn : n < 4096) (hp : s.mtsPriv n (s.gv a) = none)
include h hn hp

/-- A value within its register's limits: the write, which for a TCFG has the tile's latency too. -/
theorem State.mts_writes (hok : s.mtsOk n (s.gv a) = true) {st : Strand}
    (e : (if 0x010 ≤ n ∧ n ≤ 0x017 then ((s.me.specWrite n (s.gv a)).latency (.sp n) 1).latency (.t (n - 0x10)) 1
      else (s.me.specWrite n (s.gv a)).latency (.sp n) 1) = st) :
    s.ends (.mts g (BitVec.ofNat 12 n) a) (s.strandNow st) := by
  subst e
  have ht : (BitVec.ofNat 12 n).toNat = n := by simpa using hn
  refine State.ends_act (execMts g (BitVec.ofNat 12 n) a s) h rfl rfl ?_
  dsimp only
  rw [ht, State.checked_none (by simp [hp, hok, firstOf])]
  rfl

/-- A value outside its register's limits: ILLOP. -/
theorem State.mts_raises (hok : s.mtsOk n (s.gv a) = false) :
    exec (.mts g (BitVec.ofNat 12 n) a) s = .next (s.raise { cause := 0x01, addr := 0, info := BitVec.ofNat 64 s.latch.slot }) := by
  have ht : (BitVec.ofNat 12 n).toNat = n := by simpa using hn
  refine exec_acts (execMts g (BitVec.ofNat 12 n) a s) rfl rfl h ?_
  dsimp only
  rw [ht]
  exact State.checked_some (by simp [hp, hok, firstOf, illop, trap0, cILLOP]) _

end

/-! ### What an MTS writes -/

theorem Strand.specWrite_xv (st : Strand) (v : W64) {n : Nat} (h1 : 1 ≤ n) (h3 : n ≤ 3) :
    st.specWrite (7 + n) v = { st with xv := tset 0 st.xv n v } := by
  interval_cases n <;> rfl

theorem Strand.specWrite_tcfg (st : Strand) (v : W64) {n : Nat} (h : n < 8) :
    st.specWrite (0x010 + n) v =
      { st with tcfg := tset 0 st.tcfg n v, td := tclear st.td (n * 1024) 1024,
                tst := tset 0 st.tst n (if tcRows v = 0 then 0 else 1) } := by
  interval_cases n <;> rfl

theorem Strand.specWrite_lcnt (st : Strand) (v : W64) {n : Nat} (h : n < 6) :
    st.specWrite (0x018 + n) v = { st with lcnt := tset 0 st.lcnt n v } := by
  interval_cases n <;> rfl

theorem Strand.specWrite_lnk (st : Strand) (v : W64) {n : Nat} (h : n < 16) :
    st.specWrite (0x020 + n) v = { st with lnk := tset 0 st.lnk n v } := by
  interval_cases n <;> rfl

theorem Strand.specWrite_lnkd (st : Strand) {v : W64} (h : v.toNat ≤ 16) : st.specWrite 0x00B v = { st with lnkd := v.toNat } := by
  have e : v.toNat % 32 = v.toNat := Nat.mod_eq_of_lt (by omega)
  show { st with lnkd := v.toNat % 32 } = _
  rw [e]

/-! ### The limits -/

theorem State.mtsOk_of_free (s : State) {n : Nat} (v : W64) (h : n = 1 ∨ n = 2 ∨ 4 ≤ n ∧ n ≤ 7 ∨ 0x018 ≤ n) : s.mtsOk n v = true := by
  unfold State.mtsOk
  rw [if_neg (by omega), if_neg (by omega), if_neg (by omega), if_neg (by omega), if_neg (by omega)]

theorem State.mtsOk_xv (s : State) (v : W64) {n : Nat} (h1 : 1 ≤ n) (h3 : n ≤ 3) :
    s.mtsOk (7 + n) v = (decide (v.toNat < 32) && v.toNat != 16) := by
  interval_cases n <;> rfl

theorem State.mtsOk_tcfg (s : State) (v : W64) {n : Nat} (h : n < 8) : s.mtsOk (0x010 + n) v = tcfgOk v := by
  interval_cases n <;> rfl

/-- The writes of R351 that need trap mode, but for STATUS. -/
theorem State.mts_writes_tm {s : State} {g : Guard} {a : R6} (h : s.runs g) (tm : s.op.tm = true) {n : Nat} {st : Strand} (h0 : n ≠ 0)
    (hn : n < 0x010 ∨ 0x018 ≤ n ∧ n < 0x01E ∨ 0x020 ≤ n ∧ n < 0x030) (hok : s.mtsOk n (s.gv a) = true) (e : s.me.specWrite n (s.gv a) = st) :
    s.ends (.mts g (BitVec.ofNat 12 n) a) (s.strandNow (st.latency (.sp n) 1)) := by
  refine State.mts_writes h (by omega) (State.mtsPriv_of_tm tm h0 (by omega)) hok ?_
  rw [if_neg (by omega), e]

/-- R161's limits on rows, columns, type and size. -/
theorem tcfgOk_eq_false {v : W64} (h : 32 < tcRows v ∨ 4 < tcType v ∨ (tcRows v ≠ 0 ∧ (tcCols v = 0 ∨ 32 < tcCols v ∨
    1024 < tcRows v * tcCols v * etSize (tcType v)))) : tcfgOk v = false := by
  cases hk : tcfgOk v with
  | false => rfl
  | true =>
    simp only [tcfgOk, Bool.and_eq_true, Bool.or_eq_true, beq_iff_eq, decide_eq_true_eq] at hk
    obtain ⟨⟨⟨-, ht⟩, hr⟩, h0 | ⟨⟨h1, h2⟩, h3⟩⟩ := hk <;> omega

/-- Settles O6: each register by its limits and by what its write leaves, and the values outside the limits. -/
theorem specialRegisterWrites : Obligations.SpecialRegisterWrites := by
  refine ⟨fun s g a h => ?_, fun s g a h =>
    ⟨fun n h1 h3 hv => ?_, fun n hn hv => ?_, fun tm => ⟨fun hv => ?_, fun hv => ?_, fun hv hd => ?_⟩⟩⟩
  · refine ⟨State.mts_writes h (by decide) (State.mtsPriv_of_open (by omega)) rfl rfl,
      State.mts_writes h (by decide) (State.mtsPriv_of_open (by omega)) rfl rfl, fun n h1 h3 hv hne => ?_, fun n hn hv => ?_, fun tm => ?_⟩
    · refine State.mts_writes h (by omega) (State.mtsPriv_of_open (by omega)) ?_ ?_
      · simpa [State.mtsOk_xv s _ h1 h3, hv] using hne
      · rw [if_neg (by omega), Strand.specWrite_xv _ _ h1 h3]
    · refine State.mts_writes h (by omega) (State.mtsPriv_of_open (by omega)) ((State.mtsOk_tcfg s _ hn).trans hv) ?_
      rw [if_pos (by omega), Strand.specWrite_tcfg _ _ hn, Nat.add_sub_cancel_left]
      exact Strand.latency_comm _ (.sp (0x010 + n)) (.t n) 1 1 (RegName.key_sp_ne_t (by omega) (by omega))
    · have w := @State.mts_writes_tm s g a h tm
      have free := fun n => State.mtsOk_of_free s (n := n) (s.gv a)
      refine ⟨w (n := 1) (by decide) (by omega) rfl rfl, w (n := 2) (by decide) (by omega) rfl rfl, w (n := 4) (by decide) (by omega) rfl rfl,
        w (n := 5) (by decide) (by omega) rfl rfl, fun hv => w (n := 3) (by decide) (by omega) (decide_eq_true hv) rfl,
        fun hv => w (n := 0x00B) (by decide) (by omega) (decide_eq_true hv) (Strand.specWrite_lnkd _ hv),
        fun n hn => w (by omega) (by omega) (free _ (by omega)) (Strand.specWrite_lcnt _ _ hn),
        fun n hn => w (by omega) (by omega) (free _ (by omega)) (Strand.specWrite_lnk _ _ hn), fun hv hd => ?_⟩
      exact State.mts_writes (n := 0) h (by decide) (State.mtsPriv_eq_none rfl (.inl tm) fun _ => hd) (beq_iff_eq.mpr hv) rfl
  · refine State.mts_raises h (by omega) (State.mtsPriv_of_open (by omega)) ?_
    rw [State.mtsOk_xv s _ h1 h3]
    grind
  · exact State.mts_raises h (by omega) (State.mtsPriv_of_open (by omega)) ((State.mtsOk_tcfg s _ hn).trans (tcfgOk_eq_false hv))
  · exact State.mts_raises h (by decide) (State.mtsPriv_of_tm tm (by decide) (by decide)) (decide_eq_false (by omega))
  · exact State.mts_raises h (by decide) (State.mtsPriv_of_tm tm (by decide) (by decide)) (decide_eq_false (by omega))
  · exact State.mts_raises h (by decide) (State.mtsPriv_eq_none rfl (.inl tm) fun _ _ => hd) (beq_eq_false_iff_ne.mpr hv)

end Sys2Proof.Machine
end

section
/-! SUPPORT. LDS and STS (R165, R377, R381, R442): the addresses that pass, the values loaded, core control and BTE starts. Settles
ScratchpadScalar. -/

namespace Sys2Proof.Machine

/-! ### Addresses that scalar accesses reach (R119, R163, R377) -/

/-- An aligned access inside the scratchpad or the side bank that misses the shadow passes the checks of R377. -/
theorem locCheck_scalar {z k va : Nat} (wr : Bool) (hk : k < 4) (hva : va + 2 ^ k ≤ 0x110000) (ha : va % 2 ^ k = 0)
    (hz : z = 0 ∨ va + 2 ^ k ≤ 0x100000 - z ∨ 0x100000 ≤ va) : locCheck z wr (2 ^ k) (2 ^ k) [(0, va)] = none := by
  have shadow : shadowHit z va (2 ^ k) = false := by
    unfold shadowHit shadowBase
    simp only [Bool.and_eq_false_iff, decide_eq_false_iff_not]
    omega
  have space : ¬16777216 ≤ va := by omega
  have last : locRange (va + 2 ^ k - 1) = locRange va := by
    unfold locRange
    interval_cases k <;> grind
  have inside : locRange va ≠ 2 := by
    have := Nat.two_pow_pos k
    unfold locRange
    split
    · decide
    · rw [if_pos (by omega)]
      decide
  simp [locCheck, last, shadow, space, ha, inside]

/-! ### Values loaded -/

theorem extend_zero (n x : Nat) : extend false n x = (BitVec.ofNat (8 * n) x).setWidth 64 := by
  apply BitVec.eq_of_toNat_eq
  simp [extend]

theorem extend_sign (n x : Nat) : extend true n x = (BitVec.ofNat (8 * n) x).signExtend 64 := by
  have two : 2 ^ (8 * n - 1) ≤ 2 ^ (8 * n) ∧ (n ≠ 0 → 2 ^ (8 * n) = 2 * 2 ^ (8 * n - 1)) :=
    ⟨Nat.pow_le_pow_right (by decide) (by omega), fun h => by rw [← pow_succ', Nat.sub_add_cancel (by omega)]⟩
  have sign : sgn (8 * n) x = (BitVec.ofNat (8 * n) x).toInt := by
    rw [BitVec.toInt_eq_toNat_cond, BitVec.toNat_ofNat]
    unfold sgn
    dsimp only
    rcases Nat.eq_zero_or_pos n with rfl | hn
    · simp [Nat.mod_one]
    · rw [two.2 hn.ne']
      split <;> split <;> grind
  simp only [extend, if_true, w64, sign, BitVec.signExtend]

/-! ### Core control (R165) -/

/-- The number whose set bits below `n` are those that `p` gives. -/
theorem testBit_foldl_two_pow (p : Nat → Bool) (n : Nat) : (List.range n).foldl (fun a i => if p i then a + 2 ^ i else a) 0 < 2 ^ n ∧
    ∀ c, c < n → ((List.range n).foldl (fun a i => if p i then a + 2 ^ i else a) 0).testBit c = p c := by
  induction n with
  | zero => exact ⟨Nat.one_pos, nofun⟩
  | succ n ih =>
    obtain ⟨hlt, hbit⟩ := ih
    rw [List.range_succ, List.foldl_append]
    generalize (List.range n).foldl (fun a i => if p i then a + 2 ^ i else a) 0 = x at hlt hbit
    simp only [List.foldl_cons, List.foldl_nil]
    refine ⟨by split <;> omega, fun c hc => ?_⟩
    rcases Nat.lt_or_eq_of_le (Nat.le_of_lt_succ hc) with hc | rfl
    · rw [← hbit c hc]
      split
      · rw [Nat.add_comm, Nat.testBit_two_pow_add_gt hc]
      · rfl
    · split
      next hp => rw [Nat.add_comm, Nat.testBit_two_pow_add_eq, Nat.testBit_lt_two_pow hlt, hp]; rfl
      next hp => rw [Nat.testBit_lt_two_pow hlt, Bool.eq_false_iff.mpr hp]

/-- The word of core control that names the busy BTE channels. -/
theorem LCore.control_busy (l : LCore) {c : Nat} (hc : c < 8) :
    (l.control 8).getLsbD c = l.edt.any (fun k => k.kind == .bte && k.st != 0 && k.word.toNat / 64 == c) := by
  have hb := (testBit_foldl_two_pow (fun i => l.edt.any fun k => k.kind == .bte && k.st != 0 && k.word.toNat / 64 == i) 8).2 c hc
  rw [← hb]
  have e : l.control 8 = BitVec.ofNat 64 ((List.range 8).foldl (fun a i =>
      if l.edt.any (fun k => k.kind == .bte && k.st != 0 && k.word.toNat / 64 == i) then a + 2 ^ i else a) 0) := rfl
  rw [e, BitVec.getLsbD_ofNat, decide_eq_true (by omega), Bool.true_and]

/-! ### The instructions -/

theorem State.sread_eq (s : State) (va n : Nat) :
    s.sread va n = ((s.ltouch s.myLc va n).lread s.myLc va n, s.ltouch s.myLc va n) := by
  obtain ⟨ls, e⟩ := s.ltouch_eq s.myLc va n
  have here : (s.ltouch s.myLc va n).myLc = s.myLc := by
    rw [e]
    rfl
  unfold State.sread
  dsimp only
  rw [here]

/-- A BTE start takes the last entry of the table. -/
theorem State.placed_bte (s : State) (w : W32) (x : W64) (room : (s.lc s.myLc).edt.length < 32) :
    s.placed (fun k => k.kind = .bte ∧ k.a = x ∧ k.word = w ∧ k.rd1 = wholeRange ∧ k.wr = wholeRange)
      (s.place1 .bte (fun k => { k with word := w, a := x, rd1 := wholeRange, wr := wholeRange })) := by
  have full : ¬edtSize ≤ (s.lc s.myLc).edt.length := Nat.not_le.mpr room
  unfold State.place1
  rw [if_neg full]
  refine ⟨{ Cmd.new (s.lc s.myLc).nextCmd (s.cur % 4) s.me.gid s.me.fkey .bte with
    after := s.me.accNo, view := s.me.view, word := w, a := x, rd1 := wholeRange, wr := wholeRange,
    cix := if s.myCtx.det then s.me.ecmd else 0 }, ⟨rfl, rfl, rfl, rfl, rfl⟩, rfl, rfl, rfl, rfl, rfl, rfl, rfl, rfl, rfl, rfl, ?_⟩
  cases s.myCtx.det
  · rfl
  · rfl

/-- With the table full an engine command blocks before issue. -/
theorem State.place1_full {s : State} {kind : CmdKind} {f : Cmd → Cmd} (full : 32 ≤ (s.lc s.myLc).edt.length) :
    s.place1 kind f = s.block := by
  have full : edtSize ≤ (s.lc s.myLc).edt.length := full
  unfold State.place1
  rw [if_pos full]

section
variable {s : State} {g : Guard} {a b d : R6} (h : s.runs g)
include h

/-- LDS where the checks pass: the register receives the bytes at the address, extended. -/
theorem State.lds_reads {fn : F4} {va n : Nat} (hva : (s.gv a + s.gv b).toNat = va) (hn : 2 ^ (fn.toNat % 4) = n) (hlt : va < 0x300000)
    (hc : locCheck (s.specS s.myLc) false n n [(0, va)] = none) :
    s.ends (.lds g d a b fn)
      ((s.ltouch s.myLc va n).putsG d (extend (fn.getLsbD 2) n (leNat ((s.ltouch s.myLc va n).lread s.myLc va n))) 5 0) := by
  subst hva hn
  refine State.ends_act (execLds g d a b fn s) h rfl rfl ?_
  dsimp only
  rw [if_neg (by omega), State.checked_none (c := locCheck s.myS _ _ _ _) hc, State.sread_eq]
  exact State.putsG_wG0 _ _ _ _

/-- LDS.8 of core control. -/
theorem State.lds_control {off : Nat} (hva : (s.gv a + s.gv b).toNat = 0x300000 + off) (hr : off < 0x40) (ha : off % 8 = 0) :
    s.ends (.lds g d a b 3) (s.putsG d ((s.lc s.myLc).control off) 5 0) := by
  refine State.ends_act (execLds g d a b 3 s) h rfl rfl ?_
  dsimp only
  rw [hva, if_pos ⟨by omega, by omega, rfl, by omega⟩, Nat.add_sub_cancel_left]
  exact State.putsG_wG0 _ _ _ _

omit h in
/-- A store away from the aperture is performed where the checks pass. -/
theorem State.storeScalar_stores {fn : F4} {va n : Nat} (hva : (s.gv a + s.gv b).toNat = va) (hn : 2 ^ (fn.toNat % 4) = n)
    (hap : va < 0x200000) (hc : locCheck (s.specS s.myLc) true n n [(0, va)] = none) :
    s.storeScalar d a b fn = s.lwrite s.myLc va (leBytes n (s.gv d).toNat) := by
  have away : isAperture va = false := by simp [isAperture, Nat.not_le.mpr hap]
  unfold State.storeScalar
  dsimp only
  rw [hva, hn, away, Bool.false_and, if_neg Bool.false_ne_true]
  exact State.checked_none hc _

omit h in
/-- An STS.8 at the aperture is a BTE start. -/
theorem State.storeScalar_starts {c : Nat} (hc : c < 8) (hva : (s.gv a + s.gv b).toNat = 0x200000 + 64 * c) :
    s.storeScalar d a b 3 =
      s.place1 .bte (fun k => { k with word := BitVec.ofNat 32 (64 * c), a := s.gv d, rd1 := wholeRange, wr := wholeRange }) := by
  have here : isAperture (0x200000 + 64 * c) = true := by simp [isAperture]; omega
  unfold State.storeScalar
  dsimp only
  rw [hva, here, Nat.add_sub_cancel_left]
  rfl

end

/-- Settles O20: loads and stores by their checks and effects, core control by its words, BTE starts by their entry. -/
theorem scratchpadScalar : Obligations.ScratchpadScalar := by
  refine ⟨fun s g d a b k h hk hva ha hz => ?_, fun s g d a b h => ?_⟩
  · have hc := fun wr => locCheck_scalar wr hk hva ha hz
    have hpos := Nat.two_pow_pos k
    have size : ∀ j, j = k ∨ j = 4 + k → 2 ^ ((BitVec.ofNat 4 j).toNat % 4) = 2 ^ k := by
      rintro j hj
      rw [BitVec.toNat_ofNat]
      congr 1
      omega
    have stores : ∀ j : F4, 2 ^ (j.toNat % 4) = 2 ^ k → s.storeScalar d a b j =
        s.lwrite s.myLc (s.gv a + s.gv b).toNat (leBytes (2 ^ k) (s.gv d).toNat) :=
      fun j hj => State.storeScalar_stores rfl hj (by omega) (hc true)
    refine ⟨?_, ?_, fun closed => ?_, fun _ => ?_, ?_⟩
    · have plain : (BitVec.ofNat 4 k).getLsbD 2 = false := by interval_cases k <;> rfl
      rw [← extend_zero, ← plain]
      exact State.lds_reads h rfl (size k (.inl rfl)) (by omega) (hc false)
    · have signed : (BitVec.ofNat 4 (4 + k)).getLsbD 2 = true := by interval_cases k <;> rfl
      rw [← extend_sign, ← signed]
      exact State.lds_reads h rfl (size (4 + k) (.inr rfl)) (by omega) (hc false)
    · simp [State.ltouch, closed]
    · exact exec_acts (execSts g d a b _ s) rfl rfl h (stores _ (size k (.inl rfl)))
    · rintro rfl
      exact exec_acts (execBteStart g d a b 3 s) rfl rfl h (stores 3 rfl)
  · refine ⟨fun hva => State.lds_control (off := 0) h hva (by decide) rfl,
      fun hva => ⟨_, State.lds_control (off := 8) h hva (by decide) rfl, fun c hc => LCore.control_busy _ hc⟩,
      fun hva => State.lds_control (off := 16) h hva (by decide) rfl, fun c hc hva => ⟨fun room => ?_, fun full => ?_⟩⟩
    · refine State.ends_act (execBteStart g d a b 3 s) h rfl rfl ?_
      rw [State.storeScalar_starts hc hva]
      exact State.placed_bte s _ _ room
    · refine exec_acts (execBteStart g d a b 3 s) rfl rfl h ?_
      rw [State.storeScalar_starts hc hva]
      exact State.place1_full full

end Sys2Proof.Machine
end

section
/-! SUPPORT. What scratchpad accesses raise (R163, R164, R170, R377, R382): the checks of local addresses and of banks. Settles
ScratchpadTraps. -/

namespace Sys2Proof.Machine

/-! ### The checks of R377 -/

/-- What the checks of R377 raise is PROT or ALIGN. -/
theorem locCheck_cause {z size al : Nat} {wr : Bool} {lanes : List (Nat × Nat)} {tr : Trap} (h : locCheck z wr size al lanes = some tr) :
    tr.cause = 0x07 ∨ tr.cause = 0x04 := by
  unfold locCheck at h
  split at h
  · cases h
    exact .inl rfl
  split at h
  · cases h
    exact .inl rfl
  split at h
  · cases h
    exact .inr rfl
  dsimp only at h
  split at h
  · cases h
    exact .inr rfl
  · cases h

/-- An address outside the scratchpad and the side bank: PROT. -/
theorem locCheck_outside {z size al va : Nat} (wr : Bool) (h : 0x110000 ≤ va) :
    locCheck z wr size al [(0, va)] = some (locProt va wr) := by
  have outside : locRange va = 2 := by
    unfold locRange
    rw [if_neg (by omega), if_neg (by omega)]
  by_cases far : 16777216 ≤ va
  · simp [locCheck, far]
  · simp [locCheck, far, outside]

/-- A misaligned address inside them, without a shadow: ALIGN. -/
theorem locCheck_misaligned {size al va : Nat} (wr : Bool) (hs : 0 < size) (h : va + size ≤ 0x110000) (ha : va % al ≠ 0) :
    locCheck 0 wr size al [(0, va)] = some (trapA cALIGN (BitVec.ofNat 64 va) 0) := by
  have inside : ∀ x, x < 0x110000 → locRange x ≠ 2 := by
    intro x hx
    unfold locRange
    split
    · decide
    · simp
  have space : ¬16777216 ≤ va := by omega
  simp [locCheck, space, inside va (by omega), inside (va + size - 1) (by omega), shadowHit, ha]

/-! ### Banks (R170) -/

/-- The step of the bank check: the head against the lanes after it. -/
theorem bankCheck_cons (e : Nat × Nat) (rest : List (Nat × Nat)) :
    bankCheck (e :: rest) =
      match rest.find? (fun f => (bankOf f.2).1 == (bankOf e.2).1 && (bankOf f.2).2.1 == (bankOf e.2).2.1 &&
        (bankOf f.2).2.2 != (bankOf e.2).2.2) with
      | some f =>
        some (trapA cBANKC (BitVec.ofNat 64 e.2) (f.1 * 2 ^ 14 + e.1 * 256 + (if (bankOf e.2).1 then 32 else 0) + (bankOf e.2).2.1))
      | none => bankCheck rest := rfl

/-- Lanes that pass the bank check do not conflict. -/
theorem pairwise_of_bankCheck {lanes : List (Nat × Nat)} (h : bankCheck lanes = none) : lanes.Pairwise (fun e f =>
    (bankOf e.2).1 = (bankOf f.2).1 → (bankOf e.2).2.1 = (bankOf f.2).2.1 → (bankOf e.2).2.2 = (bankOf f.2).2.2) := by
  induction lanes with
  | nil => exact .nil
  | cons e rest ih =>
    rw [bankCheck_cons] at h
    split at h
    · cases h
    next hf =>
      refine .cons (fun f hmem hside hbank => ?_) (ih h)
      have := List.find?_eq_none.mp hf f hmem
      simp only [hside, hbank, beq_self_eq_true, Bool.true_and, bne_iff_ne, ne_eq, not_not] at this
      exact this.symm

/-- BANKC names two lanes in one bank on different lines, and the address of the lower. -/
theorem exists_of_bankCheck {lanes : List (Nat × Nat)} {tr : Trap} (h : bankCheck lanes = some tr) :
    tr.cause = 0x05 ∧ ∃ e ∈ lanes, ∃ f ∈ lanes, (bankOf e.2).1 = (bankOf f.2).1 ∧ (bankOf e.2).2.1 = (bankOf f.2).2.1 ∧
      (bankOf e.2).2.2 ≠ (bankOf f.2).2.2 ∧ tr.addr = BitVec.ofNat 64 e.2 := by
  induction lanes with
  | nil => cases h
  | cons e rest ih =>
    rw [bankCheck_cons] at h
    split at h
    next f hf =>
      have clash := List.find?_some hf
      simp only [Bool.and_eq_true, beq_iff_eq, bne_iff_ne] at clash
      obtain ⟨⟨hside, hbank⟩, hline⟩ := clash
      cases h
      have hmem := List.mem_cons_of_mem e (List.mem_of_find?_eq_some hf)
      exact ⟨rfl, e, List.mem_cons_self, f, hmem, hside.symm, hbank.symm, hline.symm, rfl⟩
    · obtain ⟨hc, x, hx, y, hy, r⟩ := ih h
      exact ⟨hc, x, List.mem_cons_of_mem _ hx, y, List.mem_cons_of_mem _ hy, r⟩

/-! ### Vector accesses (R382) -/

/-- A vector access passes where every lane passes R377 and, unless it is contiguous, no two lanes conflict. -/
theorem State.laneCheck_eq_none {s : State} {wr contiguous : Bool} {lanes : List (Nat × Nat)} (h : s.laneCheck wr contiguous lanes = none) :
    locCheck s.myS wr 4 4 lanes = none ∧ (contiguous = false → bankCheck lanes = none) := by
  unfold State.laneCheck at h
  generalize locCheck s.myS wr 4 4 lanes = c at h ⊢
  cases c with
  | some t => cases h
  | none =>
    refine ⟨rfl, ?_⟩
    rintro rfl
    generalize bankCheck lanes = b at h ⊢
    cases b with
    | some t => cases h
    | none => rfl

/-- A contiguous access raises only what R377 raises. -/
theorem State.laneCheck_contiguous (s : State) (wr : Bool) (lanes : List (Nat × Nat)) :
    s.laneCheck wr true lanes = locCheck s.myS wr 4 4 lanes := by
  unfold State.laneCheck
  generalize locCheck s.myS wr 4 4 lanes = c
  cases c with
  | some t => rfl
  | none => rfl

/-! ### Scalar accesses -/

section
variable {s : State} {g : Guard} {a b d : R6} {fn : F4} {n : Nat} {tr : Trap} (h : s.runs g) (hn : 2 ^ (fn.toNat % 4) = n) (h8 : n ≠ 8)
include h hn h8

/-- LDS of fewer than 8 bytes raises what its check finds. -/
theorem State.lds_raises (hc : locCheck (s.specS s.myLc) false n n [(0, (s.gv a + s.gv b).toNat)] = some tr) :
    exec (.lds g d a b fn) s = .next (s.raise tr) := by
  refine exec_acts (execLds g d a b fn s) rfl rfl h ?_
  dsimp only
  rw [hn, if_neg fun hx => h8 hx.2.2.1]
  exact State.checked_some hc _

/-- STS of fewer than 8 bytes raises what its check finds. -/
theorem State.sts_raises (hc : locCheck (s.specS s.myLc) true n n [(0, (s.gv a + s.gv b).toNat)] = some tr) :
    exec (.sts g d a b fn) s = .next (s.raise tr) := by
  refine exec_acts (execSts g d a b fn s) rfl rfl h ?_
  unfold State.storeScalar
  dsimp only
  rw [hn, beq_false_of_ne h8, Bool.and_false, if_neg Bool.false_ne_true]
  exact State.checked_some hc _

end

/-- Settles O24: scalar accesses by the checks of R377, vector accesses by the bank check. -/
theorem scratchpadTraps : Obligations.ScratchpadTraps := by
  refine ⟨fun s g d a b k h hk hspec => ?_, fun s wr lanes => ⟨fun hc => ?_, fun tr hc => ?_⟩, fun lanes tr => exists_of_bankCheck⟩
  · have size : 2 ^ ((BitVec.ofNat 4 k).toNat % 4) = 2 ^ k := by
      rw [BitVec.toNat_ofNat]
      congr 1
      omega
    have small : 2 ^ k ≠ 8 := by interval_cases k <;> decide
    refine ⟨fun hva => ?_, fun hva ha => ?_⟩
    · exact ⟨State.lds_raises h size small (locCheck_outside false hva), State.sts_raises h size small (locCheck_outside true hva)⟩
    · have z : s.specS s.myLc = 0 := if_neg (Bool.eq_false_iff.mp hspec)
      have hc := fun wr => locCheck_misaligned wr (Nat.two_pow_pos k) hva ha
      exact ⟨State.lds_raises h size small (by rw [z]; exact hc false), State.sts_raises h size small (by rw [z]; exact hc true)⟩
  · exact pairwise_of_bankCheck ((State.laneCheck_eq_none hc).2 rfl)
  · rw [State.laneCheck_contiguous] at hc
    rcases locCheck_cause hc with e | e
    · rw [e]
      decide
    · rw [e]
      decide

end Sys2Proof.Machine
end

section
/-! SUPPORT. Translation (R182-R187): what it may change, and the walk over the tables, an entry at a time. Settles Translation. -/

namespace Sys2Proof.Machine

/-! ### What a translation changes -/

/-- What a context is apart from its cached translations and the bitmap of the pages written. -/
def Ctx.uncached (c : Ctx) : Ctx := { c with tlb := [], nodes := [], dirty := [] }

@[simp] theorem Ctx.uncached_cache (c : Ctx) (va : Nat) (r : Xl) (ns : List CachedNode) : (c.cache va r ns).uncached = c.uncached := by
  cases r <;> rfl

theorem Ctx.eq_of_uncached {c k : Ctx} (h : k.uncached = c.uncached) : k = { c with tlb := k.tlb, nodes := k.nodes, dirty := k.dirty } :=
  congrArg (fun x : Ctx => { x with tlb := k.tlb, nodes := k.nodes, dirty := k.dirty }) h

/-- `u` is `s` but for what a translation may change. -/
def State.Translated (s u : State) : Prop :=
  (∃ m p v z c ln o f, u = { s with mem := m, past := p, vtime := v, zips := z, ctxs := c, lines := ln, outq := o, fresh := f }) ∧
  ∀ y, (u.ctx y).uncached = (s.ctx y).uncached

section
variable {s t u : State}

theorem State.Translated.refl (s : State) : s.Translated s := ⟨⟨_, _, _, _, _, _, _, _, rfl⟩, fun _ => rfl⟩

theorem State.Translated.trans (h : s.Translated t) (h' : t.Translated u) : s.Translated u := by
  obtain ⟨⟨_, _, _, _, _, _, _, _, e⟩, hc⟩ := h
  obtain ⟨⟨_, _, _, _, _, _, _, _, e'⟩, hc'⟩ := h'
  exact ⟨⟨_, _, _, _, _, _, _, _, by rw [e', e]⟩, fun y => (hc' y).trans (hc y)⟩

/-- A change to contexts alone that leaves what is not cached. -/
theorem State.Translated.modCtx {f : Ctx → Ctx} (h : ∀ c, (f c).uncached = c.uncached) (s : State) (x : Nat) : s.Translated (s.modCtx x f) :=
  ⟨⟨_, _, _, _, _, _, _, _, rfl⟩, (State.Keeps.modCtx h s x).2⟩

theorem State.Translated.foldl {α : Type} {f : State → α → State} (h : ∀ (s : State) (a : α), s.Translated (f s a)) (l : List α)
    (s : State) : s.Translated (l.foldl f s) :=
  foldl_rel State.Translated State.Translated.refl (fun _ _ _ => State.Translated.trans) h l s

end

/-- Fewer than 512 bytes cover no block of HBM whole. -/
theorem wholeBlocks_eq_nil {pa n : Nat} (h : n < 512) : wholeBlocks pa n = [] := by
  unfold wholeBlocks
  refine List.filter_eq_nil_iff.mpr fun b _ => ?_
  simp only [Bool.and_eq_true, decide_eq_true_eq]
  omega

theorem State.translated_tagDirty (s : State) (who : Option Nat) (frame : Nat) : s.Translated (s.tagDirty who frame) := by
  refine State.Translated.foldl (fun s t => ?_) _ s
  exact State.Translated.modCtx (by intro; rfl) s _

/-- A write of a table entry. -/
theorem State.translated_pwrite (s : State) (who : Option Nat) (zip : Bool) (pa : Nat) {bs : List Byte} (h : bs.length < 512) :
    s.Translated (s.pwrite who zip pa bs) := by
  have tags : ∀ (b : Prop) [Decidable b] (l : List Nat) (u : State), u.Translated
      (if b then l.foldl (fun s i => s.tagDirty who (pa / 65536 + i)) u else u) := by
    intro b _ l u
    split
    · exact State.Translated.foldl (fun s i => s.translated_tagDirty who _) l u
    · exact State.Translated.refl u
  have bad : s.bad.filter (fun b => !(wholeBlocks pa bs.length).contains b) = s.bad := by
    rw [wholeBlocks_eq_nil h]
    exact List.filter_eq_self.mpr fun _ _ => rfl
  unfold State.pwrite
  split
  · exact State.Translated.refl s
  · have start : s.Translated { s.note pa bs.length with
        mem := twrite 0 s.mem pa bs
        bad := s.bad.filter (fun b => !(wholeBlocks pa bs.length).contains b)
        zips := (zipBlocks pa bs.length).foldl (fun z b => if zip then sins b z else z.filter (fun k => k != b)) s.zips } :=
      ⟨⟨_, _, _, _, _, _, _, _, by rw [bad]; rfl⟩, fun _ => rfl⟩
    have h := start.trans (tags ((isHbm pa || isHearth pa) = true) (List.range ((pa + bs.length - 1) / 65536 + 1 - pa / 65536)) _)
    dsimp only
    split
    · exact h.trans ⟨⟨_, _, _, _, _, _, _, _, rfl⟩, fun _ => rfl⟩
    · exact h

theorem State.translated_lookup (s : State) (l va : Nat) : s.Translated (s.lookup l va).2 := by
  unfold State.lookup
  dsimp only
  split
  · exact State.Translated.modCtx (fun c => c.uncached_cache _ _ _) s _
  · have tick : s.Translated s.tick.2 := ⟨⟨_, _, _, _, _, _, _, _, rfl⟩, fun _ => rfl⟩
    exact tick.trans (State.Translated.modCtx (fun c => c.uncached_cache _ _ _) s.tick.2 _)

theorem State.translated_orLeaf (s : State) (l epa bits cur : Nat) : s.Translated (s.orLeaf l epa bits cur) := by
  unfold State.orLeaf
  split
  · exact ⟨⟨_, _, _, _, _, _, _, _, rfl⟩, fun _ => rfl⟩
  · exact s.translated_pwrite _ _ _ (by simp)

theorem State.translated_setAD (s : State) (l va : Nat) (a : Acc) (pa e epa level : Nat) : s.Translated (s.setAD l va a pa e epa level).2 := by
  unfold State.setAD
  dsimp only
  generalize (if epa < 2 ^ 51 ∧ (!s.ownFid (epa >>> 37)) = true then e else leNat (s.pread epa 8)) = cur
  split
  · exact State.Translated.refl s
  split
  · exact State.Translated.refl s
  split
  · exact State.Translated.refl s
  split
  · exact State.Translated.refl s
  · exact (s.translated_orLeaf l epa _ cur).trans (State.Translated.modCtx (fun c => c.uncached_cache _ _ _) _ _)

theorem State.translated_xlate (s : State) (l va : Nat) (a : Acc) : s.Translated (s.xlate l va a).2 := by
  have h := s.translated_lookup l va
  unfold State.xlate
  dsimp only
  generalize s.lookup l va = r at h ⊢
  split
  · exact State.Translated.refl s
  split
  · repeat' split
    all_goals exact State.Translated.refl s
  · obtain ⟨x, u⟩ := r
    cases x with
    | ok pa e epa level =>
      dsimp only
      split
      · exact h
      · exact h.trans (u.translated_setAD _ _ _ _ _ _ _)
    | window => exact h
    | fault => exact h
    | err => exact h

theorem State.translated_reach1 (s : State) (c va : Nat) (a : Acc) : s.Translated (s.reach1 c va a).2 := by
  have h := s.translated_xlate c va a
  unfold State.reach1
  generalize s.xlate c va a = r at h ⊢
  obtain ⟨x, u⟩ := r
  cases x <;> exact h

/-! ### The walk (R182, R184, R185) -/

theorem bitOf_eq (x i : Nat) : bitOf x i = decide (x / 2 ^ i % 2 = 1) := Nat.testBit_eq_decide_div_mod_eq

/-- Die `d` finds value `e` in the entry of an address in a table at a level. -/
def State.entryIs (s : State) (d va table level e : Nat) : Prop :=
  s.bar d (table + 8 * (va / 2 ^ (16 + 10 * level) % 1024)) 8 true = none ∧
    leNat (s.pread (table + 8 * (va / 2 ^ (16 + 10 * level) % 1024)) 8) = e

section
variable {s : State} {d va table e : Nat}

theorem State.entryIs.walk_zero (h : s.entryIs d va table 0 e) :
    s.walkFrom d va 0 table = if !bitOf e 0 then .fault cTRANSL 0 0 else if !bitOf e 9 then .fault cTRANSL 2 0
      else .ok (leafFrame e + va % pageSize 0) e (table + 8 * (va / 2 ^ 16 % 1024)) 0 := by
  obtain ⟨hb, he⟩ := h
  rw [State.walkFrom, Nat.shiftRight_eq_div_pow]
  dsimp only
  rw [hb, he]

theorem State.entryIs.walk_succ {n : Nat} (h : s.entryIs d va table (n + 1) e) :
    s.walkFrom d va (n + 1) table = if !bitOf e 0 then .fault cTRANSL 0 (n + 1)
      else if bitOf e 9 then
        if n + 1 = 3 then .fault cTRANSL 2 3
        else .ok (leafFrame e + va % pageSize (n + 1)) e (table + 8 * (va / 2 ^ (16 + 10 * (n + 1)) % 1024)) (n + 1)
      else s.walkFrom d va n (bitsOf e 51 13 * 8192) := by
  obtain ⟨hb, he⟩ := h
  rw [State.walkFrom, Nat.shiftRight_eq_div_pow, show 26 + 10 * n = 16 + 10 * (n + 1) by omega]
  dsimp only
  rw [hb, he]

/-- An entry without V. -/
theorem State.entryIs.walk_invalid {level : Nat} (h : s.entryIs d va table level e) (hv : e % 2 = 0) :
    s.walkFrom d va level table = .fault 0x06 0 level := by
  cases level with
  | zero => rw [h.walk_zero]; simp [bitOf_eq, hv, cTRANSL]
  | succ n => rw [h.walk_succ]; simp [bitOf_eq, hv, cTRANSL]

/-- A leaf at level 0, 1 or 2. -/
theorem State.entryIs.walk_leaf {level : Nat} (h : s.entryIs d va table level e) (hv : e % 2 = 1) (hl : e / 512 % 2 = 1) (h3 : level ≠ 3) :
    s.walkFrom d va level table =
      .ok (leafFrame e + va % pageSize level) e (table + 8 * (va / 2 ^ (16 + 10 * level) % 1024)) level := by
  cases level with
  | zero => rw [h.walk_zero]; simp [bitOf_eq, hv, hl]
  | succ n => rw [h.walk_succ, if_neg (by simp [bitOf_eq, hv]), if_pos (by simp [bitOf_eq, hl]), if_neg h3]

/-- A leaf at level 3. -/
theorem State.entryIs.walk_root (h : s.entryIs d va table 3 e) (hv : e % 2 = 1) (hl : e / 512 % 2 = 1) :
    s.walkFrom d va 3 table = .fault 0x06 2 3 := by
  rw [h.walk_succ, if_neg (by simp [bitOf_eq, hv]), if_pos (by simp [bitOf_eq, hl])]
  rfl

/-- An entry of level 0 that is no leaf. -/
theorem State.entryIs.walk_noLeaf (h : s.entryIs d va table 0 e) (hv : e % 2 = 1) (hl : e / 512 % 2 = 0) :
    s.walkFrom d va 0 table = .fault 0x06 2 0 := by
  rw [h.walk_zero, if_neg (by simp [bitOf_eq, hv]), if_pos (by simp [bitOf_eq, hl])]
  rfl

/-- An entry that names the table of the next level. -/
theorem State.entryIs.walk_table {n : Nat} (h : s.entryIs d va table (n + 1) e) (hv : e % 2 = 1) (hl : e / 512 % 2 = 0) :
    s.walkFrom d va (n + 1) table = s.walkFrom d va n (e / 2 ^ 13 % 2 ^ 39 * 8192) := by
  rw [h.walk_succ, if_neg (by simp [bitOf_eq, hv]), if_neg (by simp [bitOf_eq, hl]), bitsOf, Nat.shiftRight_eq_div_pow]

end

/-! ### What an access finds -/

section
variable {s : State} {l va : Nat} {a : Acc} (hva : va < 0xFF000000000000) (htlb : ∀ c ∈ (s.ctx (l / 4096)).tlb, c.covers va = false)
  (hnodes : ∀ c ∈ (s.ctx (l / 4096)).nodes, c.covers va = false)
include htlb hnodes

/-- With nothing cached the tables' answer is the one used. -/
theorem State.lookup_uncached : ∃ f, s.lookup l va = (s.walkFrom (s.lc l).die va 3 (s.ctx (l / 4096)).ptroot, s.modCtx (l / 4096) f) := by
  have none : s.staleXl (l / 4096) (s.lc l).die va (s.walkFrom (s.lc l).die va 3 (s.ctx (l / 4096)).ptroot) = [] := by
    have tlb : (s.ctx (l / 4096)).tlb.filter (·.covers va) = [] := List.filter_eq_nil_iff.mpr fun c hc => by simp [htlb c hc]
    have nodes : (s.ctx (l / 4096)).nodes.filter (·.covers va) = [] := List.filter_eq_nil_iff.mpr fun c hc => by simp [hnodes c hc]
    simp [State.staleXl, tlb, nodes]
  refine ⟨fun c => c.cache va (s.walkFrom (s.lc l).die va 3 (s.ctx (l / 4096)).ptroot)
    (s.nodesFrom va 3 (s.ctx (l / 4096)).ptroot), ?_⟩
  unfold State.lookup
  dsimp only
  rw [show slotOf l = l / 4096 from rfl, none]

include hva

theorem State.reach1_fault {c r lv : Nat} (h : s.walkFrom (s.lc l).die va 3 (s.ctx (l / 4096)).ptroot = .fault c r lv) :
    (s.reach1 l va a).1 = .error (.fault c r lv va) ∧ (s.reach1 l va a).2.mem = s.mem := by
  obtain ⟨f, e⟩ := State.lookup_uncached htlb hnodes
  have pools : ¬Config.windowBase ≤ va := Nat.not_le.mpr hva
  unfold State.reach1 State.xlate
  dsimp only
  rw [if_neg (by omega), if_neg pools, e, h]
  exact ⟨rfl, rfl⟩

theorem State.reach1_leaf {pa e epa lv : Nat} (h : s.walkFrom (s.lc l).die va 3 (s.ctx (l / 4096)).ptroot = .ok pa e epa lv)
    (hc : leafCheck e lv a = none) (hA : e / 64 % 2 = 1) (hD : a.writes = true → e / 128 % 2 = 1) :
    (s.reach1 l va a).1 = .ok (.phys pa e) ∧ (s.reach1 l va a).2.mem = s.mem := by
  obtain ⟨f, e'⟩ := State.lookup_uncached htlb hnodes
  have pools : ¬Config.windowBase ≤ va := Nat.not_le.mpr hva
  unfold State.reach1 State.xlate State.setAD
  dsimp only
  rw [if_neg (by omega), if_neg pools, e', h]
  dsimp only
  rw [hc]
  dsimp only
  rw [if_pos]
  · exact ⟨rfl, rfl⟩
  · cases hw : a.writes with
    | false => simp [bitOf_eq, hA]
    | true => simp [bitOf_eq, hA, hD hw]

end

theorem leafFrame_eq (e : Nat) : leafFrame e = e / 65536 % 2 ^ 36 * 65536 := by
  simp [leafFrame, bitsOf, Nat.shiftRight_eq_div_pow]

/-- Settles O25: the frame by `State.Translated`, and the walk one table at a time. -/
theorem translation : Obligations.Translation := by
  refine ⟨fun s l va a => ?_, fun s l va a e3 e2 e1 e0 hva htlb hnodes at3 => ?_⟩
  · obtain ⟨⟨_, _, _, _, _, _, _, _, e⟩, hc⟩ := s.translated_reach1 l va a
    exact ⟨by rw [e], fun y => Ctx.eq_of_uncached (hc y)⟩
  · have fault : ∀ {c r lv}, s.walkFrom (s.lc l).die va 3 (s.ctx (l / 4096)).ptroot = .fault c r lv →
        (s.reach1 l va a).1 = .error (.fault c r lv va) ∧ (s.reach1 l va a).2.mem = s.mem := State.reach1_fault hva htlb hnodes
    have leaf : ∀ {e epa lv}, s.walkFrom (s.lc l).die va 3 (s.ctx (l / 4096)).ptroot = .ok (leafFrame e + va % pageSize lv) e epa lv →
        leafCheck e lv a = none → e / 64 % 2 = 1 → (a.writes = true → e / 128 % 2 = 1) →
        (s.reach1 l va a).1 = .ok (.phys (e / 65536 % 2 ^ 36 * 65536 + va % 2 ^ (16 + 10 * lv)) e) ∧ (s.reach1 l va a).2.mem = s.mem := by
      intro e epa lv h
      rw [← leafFrame_eq]
      exact State.reach1_leaf hva htlb hnodes h
    have at3 : s.entryIs (s.lc l).die va (s.ctx (l / 4096)).ptroot 3 e3 := at3
    refine ⟨fun hv => fault (at3.walk_invalid hv), fun hv hl => fault (at3.walk_root hv hl), fun ⟨hv3, hl3⟩ at2 => ?_⟩
    have at2 : s.entryIs (s.lc l).die va _ 2 e2 := at2
    have step3 := at3.walk_table hv3 hl3
    refine ⟨fun hv => fault (step3.trans (at2.walk_invalid hv)),
      fun ⟨hv, hl, hc, hA, hD⟩ => leaf (step3.trans (at2.walk_leaf hv hl (by decide))) hc hA hD, fun ⟨hv2, hl2⟩ at1 => ?_⟩
    have at1 : s.entryIs (s.lc l).die va _ 1 e1 := at1
    have step2 := step3.trans (at2.walk_table hv2 hl2)
    refine ⟨fun hv => fault (step2.trans (at1.walk_invalid hv)),
      fun ⟨hv, hl, hc, hA, hD⟩ => leaf (step2.trans (at1.walk_leaf hv hl (by decide))) hc hA hD, fun ⟨hv1, hl1⟩ at0 => ?_⟩
    have at0 : s.entryIs (s.lc l).die va _ 0 e0 := at0
    have step1 := step2.trans (at1.walk_table hv1 hl1)
    exact ⟨fun hv => fault (step1.trans (at0.walk_invalid hv)), fun hv hl => fault (step1.trans (at0.walk_noLeaf hv hl)),
      fun ⟨hv, hl, hc, hA, hD⟩ => leaf (step1.trans (at0.walk_leaf hv hl (by decide))) hc hA hD⟩

end Sys2Proof.Machine
end

section
/-! SUPPORT. FENCE, CBFENCE and TINV (R190, R243, R356, R394, R395, R397): what they wait for and what TINV's access does. Settles
FencesAndInvalidation. -/

namespace Sys2Proof.Machine

/-! ### FENCE, CBFENCE and the issue of TINV (R394, R395, R397) -/

/-- A fence issues where what it waits for is done, and otherwise blocks before issue. -/
theorem State.fence_waits {s : State} {g : Guard} (d a : R6) (scope : F4) (cls fn : F3) {p : Prop} (h : s.runs g)
    (hp : p ↔ s.fenceReady fn.toNat scope.toNat = true) :
    (p → exec (.fence g d a scope cls fn) s = .next (s.fenceView s.cur fn.toNat scope.toNat)) ∧
      (¬p → exec (.fence g d a scope cls fn) s = .next s.block) := by
  refine ⟨fun hr => ?_, fun hr => ?_⟩
  · exact exec_acts (execFence g d a scope cls fn s) rfl rfl h (if_pos (hp.mp hr))
  · exact exec_acts (execFence g d a scope cls fn s) rfl rfl h (if_neg fun hf => hr (hp.mpr hf))

/-- What a release fence waits for. -/
theorem State.fenceReady_release (s : State) (scope : Nat) : s.fenceReady 1 scope = true ↔
    if scope ≤ 5 then s.remotesIdle s.cur = true else (∀ e ∈ s.me.acc, e.kind = 2) ∧ s.fabricIdle s.cur = true := by
  show (if scope ≤ 5 then s.remotesIdle s.cur else s.me.drained && s.fabricIdle s.cur) = true ↔ _
  split
  · exact Iff.rfl
  · simp [Strand.drained]

/-- What a full fence waits for. -/
theorem State.fenceReady_full (s : State) (scope : Nat) : s.fenceReady 2 scope = true ↔
    if scope ≤ 5 then s.remotesIdle s.cur = true else s.me.acc = [] ∧ s.fabricIdle s.cur = true := by
  show (if scope ≤ 5 then s.remotesIdle s.cur else s.me.acc.isEmpty && s.fabricIdle s.cur) = true ↔ _
  split
  · exact Iff.rfl
  · simp

theorem State.cbfence_waits {s : State} {g : Guard} (h : s.runs g) :
    (s.me.acc = [] ∧ s.fabricIdle s.cur = true → exec (.cbfence g) s = .next (s.setCtx s.mySlot { s.myCtx with cbc := [] })) ∧
      (¬(s.me.acc = [] ∧ s.fabricIdle s.cur = true) → exec (.cbfence g) s = .next s.block) := by
  have hp : (s.me.acc.isEmpty && s.fabricIdle s.cur) = true ↔ s.me.acc = [] ∧ s.fabricIdle s.cur = true := by simp
  refine ⟨fun hr => ?_, fun hr => ?_⟩
  · exact exec_acts (execCbfence g s) rfl rfl h (if_pos (hp.mpr hr))
  · exact exec_acts (execCbfence g s) rfl rfl h (if_neg fun hf => hr (hp.mp hf))

/-- TINV with the capability it needs: its access is pending and the strand waits. -/
theorem State.tinv_issues {s : State} {g : Guard} (d a : R6) (scope : F4) (cls fn : F3) (h : s.runs g) (tm : s.op.tm = true)
    (pager : s.myCtx.pager = true) : ∃ e : Access, e.op = .tinv (fn == 1) ∧ e.va = (s.gv a).toNat ∧ e.data = s.latch.addr.toNat ∧
      e.sent = false ∧ e.num = s.me.accNo ∧ exec (.tinv g d a scope cls fn) s = .next (s.setStrand s.cur { s.me with
        acc := s.me.acc ++ [e], accNo := s.me.accNo + 1, blk := .after, since := s.cycle }) := by
  refine ⟨{ s.access (.tinv (fn == 1)) (s.gv a).toNat 0 0 0 s.latch.addr.toNat 0 .none 2 (.win 0 0) with num := s.me.accNo },
    rfl, rfl, rfl, rfl, rfl, exec_acts (execTinv g d a scope cls fn s) rfl rfl h ?_⟩
  dsimp only
  rw [if_neg (by simp [tm, pager]), State.pend_blockAfter]

/-! ### TINV's access (R397) -/

section
variable {s : State} {t i v : Nat} {e : Access} {all : Bool} (he : (s.strand t).acc[i]? = some e) (hop : e.op = .tinv all)
include he hop

/-- The access of a TINV goes on where no earlier one of its strand is pending. -/
theorem State.tinv_performed (hgo : mayPerform ((s.strand t).acc.take i) e = true) :
    exec (.globalAccessPerformed t ⟨i, v⟩) s = .next (if !e.sent then (if s.fabricIdle t then s.invalidate t i e all else s)
      else if s.staleUse (t / 4 / 4096) then s else s.retire t i) := by
  show execGlobalAccessPerformed t ⟨i, v⟩ s = _
  have go : s.mayGo t i e = true := by
    simp [State.mayGo, hgo, State.remoteFirst, Access.releases, hop, AccOp.atMem]
  unfold execGlobalAccessPerformed
  dsimp only
  rw [he]
  dsimp only
  rw [if_neg (by simp [hop, AccOp.isTinv, go]), if_neg (by simp [hop, AccOp.reads]), if_neg (by simp [hop, AccOp.reads])]
  unfold State.performHere
  rw [hop]
  rfl

/-- A TINV behind another access waits for it. -/
theorem State.tinv_waits (hi : i ≠ 0) : exec (.globalAccessPerformed t ⟨i, v⟩) s = .next s := by
  have hold : mayPerform ((s.strand t).acc.take i) e = false := by
    cases hl : (s.strand t).acc with
    | nil => simp [hl] at he
    | cons k ks =>
      obtain ⟨n, rfl⟩ := Nat.exists_eq_succ_of_ne_zero hi
      simp [mayPerform, Access.holds, hop, AccOp.isTinv]
  show execGlobalAccessPerformed t ⟨i, v⟩ s = _
  unfold execGlobalAccessPerformed
  dsimp only
  rw [he]
  dsimp only
  rw [if_pos (by simp [State.mayGo, hold])]

end

/-! ### The marks of accesses that used an invalidated translation (R397 step 4) -/

/-- A table whose values change by a function that keeps the default. -/
theorem tget_map {α : Type} (d : α) (f : Nat → α → α) (hd : ∀ k, f k d = d) (tb : Tab α) (j : Nat) :
    tget d (tb.map fun e => (e.1, f e.1 e.2)) j = f j (tget d tb j) := by
  induction tb with
  | nil => exact (hd j).symm
  | cons e tb ih =>
    obtain ⟨k, x⟩ := e
    by_cases hk : k = j
    · subst hk
      simp [tget]
    · simpa [tget, hk] using ih

/-- An access that may have used a translation of the region, marked. -/
def Access.outdated (region : Option Nat) (k : Access) : Access := if k.usedRegion region = true then { k with stale := true } else k

/-- A strand with its pending accesses marked, where its context is the one in slot `x`. -/
def Strand.outdated (st : Strand) (x : Nat) (region : Option Nat) (j : Nat) : Strand :=
  if slotOfStrand j == x then { st with acc := st.acc.map (Access.outdated region) } else st

theorem State.strand_markStale (s : State) (x : Nat) (region : Option Nat) (j : Nat) :
    (s.markStale x region).strand j = (s.strand j).outdated x region j := by
  have e : s.strands.map (fun e => if slotOfStrand e.1 == x then (e.1, { e.2 with acc := e.2.acc.map (Access.outdated region) }) else e) =
      s.strands.map fun e => (e.1, e.2.outdated x region e.1) := by
    refine List.map_congr_left fun e _ => ?_
    unfold Strand.outdated
    split <;> rfl
  have idle : ∀ k, Strand.idle.outdated x region k = Strand.idle := by
    intro k
    unfold Strand.outdated
    split <;> rfl
  exact (congrArg (fun tb => tget Strand.idle tb j) e).trans (tget_map Strand.idle (fun k st => st.outdated x region k) idle s.strands j)

theorem Strand.outdated_eq (st : Strand) (x : Nat) (region : Option Nat) (j : Nat) :
    st.outdated x region j = { st with acc := st.acc.map fun k =>
      if j / 4 / 4096 = x ∧ k.usedRegion region = true then { k with stale := true } else k } := by
  have slot : slotOfStrand j = j / 4 / 4096 := rfl
  unfold Strand.outdated
  rw [slot]
  by_cases hx : j / 4 / 4096 = x
  · simp [hx, Access.outdated]
  · simp [hx]

/-! ### What TINV's access does (R190, R397) -/

/-- What the frame owner tags and the record of writable mappings become, or none for a third writable mapping (R190). -/
def State.retagged (s : State) (x : Nat) (all : Bool) (va : Nat) : Option (List Tag × List CachedLeaf) :=
  if all = true then (s.retagAll x (s.ctx x).ptroot).map (fun ts => (ts, s.knownOf (s.ctx x).ptroot)) else s.retagPage x (s.ctx x).ptroot va

/-- The translations that TINV leaves in its context's caches. -/
def Ctx.invalidated (c : Ctx) (all : Bool) (va : Nat) (ks : List CachedLeaf) : Ctx :=
  { c with tlb := if all then [] else c.tlb.filter (fun l => !l.covers va), nodes := [], known := ks }

theorem Ctx.mem_invalidated (c : Ctx) (all : Bool) (va : Nat) (ks : List CachedLeaf) (f : CachedLeaf) :
    f ∈ (c.invalidated all va ks).tlb ↔ all = false ∧ f ∈ c.tlb ∧ f.covers va = false := by
  unfold Ctx.invalidated
  cases all
  · simp
  · simp

/-- A strand whose TINV at position `i` waits for the accesses marked. -/
def Strand.waiting (st : Strand) (i : Nat) : Strand := { st with acc := lmod (fun k => { k with sent := true }) st.acc i }

section
variable {s : State} {t i : Nat} {e : Access} {all : Bool} (good : s.tablesBad 3 (s.ctx (t / 4 / 4096)).ptroot = false)
include good

/-- A third writable mapping: PROT, which kills the context. -/
theorem State.invalidate_third (h : s.retagged (t / 4 / 4096) all e.va = none) : s.invalidate t i e all =
    (s.setStrand t { s.strand t with acc := ldel (s.strand t).acc i }).kill (t / 4 / 4096) 3 0x07 (e.data % 2 ^ 64) := by
  have sound : ¬s.tablesBad 3 (s.ctx (slotOfStrand t)).ptroot = true := Bool.eq_false_iff.mp good
  unfold State.invalidate
  dsimp only
  rw [if_neg sound]
  split
  · have other : ∀ va, ¬(trapA cPROT va 9).cause = cMEMERR := fun va => (by decide : ¬cPROT = cMEMERR)
    unfold State.enterTrapAs
    rw [if_neg (other _), if_pos rfl]
    simp [slotOfStrand, slotOf, lcOf, trapA, cPROT, State.modStrand]
  · next r => exact absurd (h.symm.trans r) nofun

/-- The tags rebuilt and the translations dropped; the access ends, or stays with those that it waits for marked. -/
theorem State.invalidate_retagged {ts : List Tag} {ks : List CachedLeaf} (h : s.retagged (t / 4 / 4096) all e.va = some (ts, ks)) :
    s.invalidate t i e all =
      ({ (if s.usesPage (t / 4 / 4096) (if all then none else some e.va) then
          (s.markStale (t / 4 / 4096) (if all then none else some e.va)).modStrand t
            (fun st => { st with acc := lmod (fun a => { a with sent := true }) st.acc i })
        else s.modStrand t (fun st => { st with acc := ldel st.acc i })) with tags := ts } : State).modCtx (t / 4 / 4096)
        (fun c => c.invalidated all e.va ks) := by
  have sound : ¬s.tablesBad 3 (s.ctx (slotOfStrand t)).ptroot = true := Bool.eq_false_iff.mp good
  unfold State.invalidate
  dsimp only
  rw [if_neg sound]
  split
  · next r => exact absurd (h.symm.trans r) nofun
  · next r =>
    cases h.symm.trans r
    rfl

end

section
variable {s : State} {t i : Nat} {e : Access} {all : Bool} {ts : List Tag} {ks : List CachedLeaf}
  (good : s.tablesBad 3 (s.ctx (t / 4 / 4096)).ptroot = false) (h : s.retagged (t / 4 / 4096) all e.va = some (ts, ks))
include good h

/-- With no access to wait for the TINV ends at once. -/
theorem State.invalidate_ends (free : s.usesPage (t / 4 / 4096) (if all = true then none else some e.va) = false) :
    s.invalidate t i e all =
      ({ s.setStrand t { s.strand t with acc := ldel (s.strand t).acc i } with tags := ts } : State).modCtx (t / 4 / 4096)
        (fun c => c.invalidated all e.va ks) := by
  rw [State.invalidate_retagged good h, free]
  rfl

/-- While others may have used what it drops, they are marked and it stays. -/
theorem State.invalidate_stays (used : s.usesPage (t / 4 / 4096) (if all = true then none else some e.va) = true) :
    s.invalidate t i e all =
      ({ (s.markStale (t / 4 / 4096) (if all = true then none else some e.va)).modStrand t
          (fun st => st.waiting i) with tags := ts } : State).modCtx (t / 4 / 4096)
        (fun c => c.invalidated all e.va ks) := by
  rw [State.invalidate_retagged good h, used]
  rfl

/-- Each strand of the context then has its accesses marked, and TINV's own waits for them. -/
theorem State.strand_invalidate (used : s.usesPage (t / 4 / 4096) (if all = true then none else some e.va) = true) (j : Nat) :
    (s.invalidate t i e all).strand j =
      let st := (s.strand j).outdated (t / 4 / 4096) (if all = true then none else some e.va) j
      if j = t then st.waiting i else st := by
  rw [State.invalidate_stays good h used]
  refine Eq.trans (b := ((s.markStale (t / 4 / 4096) (if all = true then none else some e.va)).modStrand t fun st => st.waiting i).strand j)
    rfl ?_
  rw [State.strand_modStrand, State.strand_markStale, State.strand_markStale]
  by_cases hj : j = t
  · subst hj
    rfl
  · simp [hj]

/-- The tags and the context's caches, and what TINV leaves. -/
theorem State.invalidate_ctx : (s.invalidate t i e all).tags = ts ∧ (s.invalidate t i e all).mem = s.mem ∧
    (s.invalidate t i e all).lcs = s.lcs ∧
    (s.invalidate t i e all).ctx (t / 4 / 4096) = (s.ctx (t / 4 / 4096)).invalidated all e.va ks := by
  cases free : s.usesPage (t / 4 / 4096) (if all = true then none else some e.va) with
  | false =>
    rw [State.invalidate_ends good h free]
    exact ⟨rfl, rfl, rfl, State.ctx_modCtx_same _ _ _⟩
  | true =>
    rw [State.invalidate_stays good h free]
    exact ⟨rfl, rfl, rfl, State.ctx_modCtx_same _ _ _⟩

end

theorem State.tinv_retires {s : State} {t i : Nat} {e : Access} (he : (s.strand t).acc[i]? = some e) :
    ((s.retire t i).strand t).acc = ldel (s.strand t).acc i ∧ (s.retire t i).mem = s.mem ∧
      ∀ j, j ≠ t → (s.retire t i).strand j = s.strand j := by
  unfold State.retire
  rw [he]
  refine ⟨?_, rfl, fun j hj => ?_⟩
  · rw [State.strand_modStrand_same]
    rfl
  · rw [State.strand_modStrand, if_neg hj]
    rfl

/-- Settles O29: the fences and TINV's issue by what they wait for, TINV's access by its wait, its invalidation and its end. -/
theorem fencesAndInvalidation : Obligations.FencesAndInvalidation := by
  refine ⟨fun s g d a scope cls h => ?_, fun s t i v e all he hop => ?_⟩
  · refine ⟨State.fence_waits d a scope cls 0 h (by simp [State.fenceReady]),
      State.fence_waits d a scope cls 1 h (s.fenceReady_release _).symm,
      State.fence_waits d a scope cls 2 h (s.fenceReady_full _).symm, State.cbfence_waits h, fun tm pager fn all hf => ?_⟩
    have hall : (fn == 1) = all := by rcases hf with ⟨rfl, rfl⟩ | ⟨rfl, rfl⟩ <;> rfl
    rw [← hall]
    exact State.tinv_issues d a scope cls fn h tm pager
  · refine ⟨fun hs hw => ?_, fun hs hi idle good => ⟨fun third => ?_, fun ts ks r => ?_⟩,
      fun hs hgo => ⟨fun stale => ?_, fun fresh => ?_⟩⟩
    · rcases hw with hi | busy
      · exact State.tinv_waits he hop hi
      · by_cases hi : i = 0
        · subst hi
          rw [State.tinv_performed he hop rfl, hs, busy]
          rfl
        · exact State.tinv_waits he hop hi
    · subst hi
      rw [State.tinv_performed he hop rfl, hs, idle, State.invalidate_third good third]
      rfl
    · subst hi
      have runs : exec (.globalAccessPerformed t ⟨0, v⟩) s = .next (s.invalidate t 0 e all) := by
        rw [State.tinv_performed he hop rfl, hs, idle]
        rfl
      obtain ⟨htags, hmem, hlcs, hctx⟩ := State.invalidate_ctx (i := 0) good r
      refine ⟨s.invalidate t 0 e all, runs, htags, hmem, hlcs, ?_, fun f => ?_, fun free => ?_, fun used => ?_⟩
      · rw [hctx]
        rfl
      · rw [hctx]
        exact Ctx.mem_invalidated _ _ _ _ _
      · rw [State.invalidate_ends good r free]
        exact ⟨State.strand_setStrand_same _ _ _, rfl, rfl, fun j hj => State.strand_setStrand_other _ _ _ _ hj⟩
      · refine ⟨by rw [State.invalidate_stays good r used]; rfl, by rw [State.invalidate_stays good r used]; rfl, fun j => ?_⟩
        rw [State.strand_invalidate good r used, Strand.outdated_eq]
        by_cases hj : j = t
        · simp only [hj, if_true, Strand.waiting]
        · simp only [hj, if_false]
    · rw [State.tinv_performed he hop hgo, hs, stale]
      rfl
    · refine ⟨s.retire t i, ?_, State.tinv_retires he⟩
      rw [State.tinv_performed he hop hgo, hs, fresh]
      rfl

end Sys2Proof.Machine
end

section
/-! SUPPORT. Memory in canonical form (R176, log entry 4): what registers, traps, translation, reads and writes, commands
and flits leave of it. Settles MemoryCanonical. -/

namespace Sys2Proof.Machine

/-- What a step answers, where it is a state, has memory in canonical form. -/
def Out.memOk : Out → Prop
  | .next t => t.memOk
  | .fault _ => True
  | .refused _ => True

/-- Only memory counts. -/
theorem State.memOk_of_mem {s u : State} (e : u.mem = s.mem) (h : s.memOk) : u.memOk := by
  unfold State.memOk
  rw [e]
  exact h

/-- The state that a pair is known to hold. -/
theorem State.memOk_of_eq {α : Type} {r : α × State} {a : α} {u : State} (e : r = (a, u)) (hr : r.2.memOk) : u.memOk := by
  rw [e] at hr
  exact hr

theorem State.memOk_ite {c : Prop} [Decidable c] {u v : State} (hu : u.memOk) (hv : v.memOk) : (if c then u else v).memOk := by
  split
  · exact hu
  · exact hv

theorem Out.memOk_ite {c : Prop} [Decidable c] {o p : Out} (ho : o.memOk) (hp : p.memOk) : Out.memOk (if c then o else p) := by
  split
  · exact ho
  · exact hp

/-- What is kept by every turn is kept by the list's fold. -/
theorem State.memOk_foldl {α : Type} {s : State} (h : s.memOk) (l : List α) {f : State → α → State}
    (hf : ∀ u a, u.memOk → (f u a).memOk) : (l.foldl f s).memOk :=
  List.foldlRecOn (motive := State.memOk) l f h fun u hu a _ => hf u a hu

/-- The state that an answer is known to hold. -/
theorem State.memOk_of_next {o : Out} {u : State} (e : o = .next u) (ho : o.memOk) : u.memOk := by
  rw [e] at ho
  exact ho

section
variable {s : State} (h : s.memOk)
include h

theorem State.memOk_modGraph (x gid : Nat) (f : Graph → Graph) : (s.modGraph x gid f).memOk := h

theorem State.memOk_progress (x gid : Nat) : (s.progress x gid).memOk := h

theorem State.memOk_tick : (s.tick).2.memOk := h

theorem State.memOk_onMe (f : Strand → Strand) : (s.onMe f).memOk := h

theorem State.memOk_wG (d : R6) (v : W64) (n : Nat) : (s.wG d v n).memOk := h

theorem State.memOk_wP (d : Nat) (v : Bool) (n : Nat) : (s.wP d v n).memOk := h

theorem State.memOk_wQ (d : Nat) (v : W64) (n : Nat) : (s.wQ d v n).memOk := h

theorem State.memOk_wV (d : R6) (vs : List W32) (n : Nat) : (s.wV d vs n).memOk := h

theorem State.memOk_flag (fl n : Nat) : (s.flag fl n).memOk := h

theorem State.memOk_report (typ ctxid status src tag result i0 i1 : Nat) : (s.report typ ctxid status src tag result i0 i1).memOk := by
  grind [State.report, State.memOk]

theorem State.memOk_cmdDone (r : CmdRec) (ctxid status result : Nat) : (s.cmdDone r ctxid status result).memOk := State.memOk_report h ..

theorem State.memOk_release (x : Nat) : (s.release x).memOk := h

theorem State.memOk_memErr (a : Agent) (pa status : Nat) : (s.memErr a pa status).memOk := by
  unfold State.memOk State.memErr
  rw [State.kill_mem]
  exact State.memOk_report h ..

theorem State.memOk_fabricEventOf (id : Nat) (n : Node) (kind port fid lanes : Nat) : (s.fabricEventOf id n kind port fid lanes).memOk :=
  State.memOk_report h ..

theorem State.memOk_fabricEvent (n : Node) (kind port fid lanes : Nat) : (s.fabricEvent n kind port fid lanes).memOk :=
  State.memOk_fabricEventOf h ..

theorem State.memOk_unreach (a : Agent) (pa : Nat) : (s.unreach a pa).memOk := State.memOk_memErr (State.memOk_fabricEventOf h ..) ..

theorem State.memOk_waitReach (a : Agent) (pa : Nat) : (s.waitReach a pa).memOk := by
  grind [State.waitReach, State.memOk_unreach, State.memOk]

theorem State.memOk_failAt (a : Agent) (pa status : Nat) : (s.failAt a pa status).memOk := by
  grind [State.failAt, State.memOk_memErr, State.memOk_waitReach]

theorem State.memOk_stillStuck : (s.stillStuck).memOk := h

theorem State.memOk_enterTrapAs (t : Nat) (tr : Trap) (epc : W64) (tm : Bool) : (s.enterTrapAs t tr epc tm).memOk := by
  grind [State.enterTrapAs, State.modStrand_mem, State.kill_mem, State.memOk_failAt, State.memOk]

theorem State.memOk_enterTrap (t : Nat) (tr : Trap) (epc : W64) : (s.enterTrap t tr epc).memOk := State.memOk_enterTrapAs h ..

theorem State.memOk_leaveTrap (t : Nat) (epc : W64) : (s.leaveTrap t epc).memOk := h

theorem State.memOk_raise (tr : Trap) : (s.raise tr).memOk := State.memOk_enterTrap h ..

theorem State.memOk_block : (s.block).memOk := h

theorem State.memOk_stall : (s.stall).memOk := h

theorem State.memOk_blockAfter : (s.blockAfter).memOk := h

theorem State.memOk_note (pa n : Nat) : (s.note pa n).memOk := h

theorem State.memOk_mark (t0 : Nat) (f : Past → Past) : (s.mark t0 f).memOk := h

theorem State.memOk_lookup (l va : Nat) : (s.lookup l va).2.memOk := by
  grind [State.lookup, State.modCtx_mem, State.memOk_tick, State.memOk]

theorem State.memOk_orLeaf (l epa bits cur : Nat) : (s.orLeaf l epa bits cur).memOk := by
  grind [State.orLeaf, State.memOk_pwrite, State.memOk]

theorem State.memOk_setAD (l va : Nat) (a : Acc) (pa e epa level : Nat) : (s.setAD l va a pa e epa level).2.memOk := by
  grind [State.setAD, State.modCtx_mem, State.memOk_orLeaf, State.memOk]

theorem State.memOk_xlate (l va : Nat) (a : Acc) : (s.xlate l va a).2.memOk := by
  have found := State.memOk_lookup h l va
  unfold State.xlate
  dsimp only
  generalize s.lookup l va = r at found ⊢
  split
  · exact h
  · split
    · repeat' split
      all_goals exact h
    · grind [State.memOk_setAD]

theorem State.memOk_ltouch (l a n : Nat) : (s.ltouch l a n).memOk := by
  grind [State.ltouch, State.setLc_mem, State.memOk]

theorem State.memOk_lwrite (l a : Nat) (bs : List Byte) : (s.lwrite l a bs).memOk := State.memOk_ltouch h ..

theorem State.memOk_vOut (m : Mask) (d : R6) (n : Nat) (f : Nat → W32 × Nat) : (s.vOut m d n f).memOk := h

theorem State.memOk_v1 (m : Mask) (d a : R6) (n : Nat) (f : W32 → W32 × Nat) : (s.v1 m d a n f).memOk := h

theorem State.memOk_v2 (m : Mask) (d a b : R6) (n : Nat) (f : W32 → W32 → W32 × Nat) : (s.v2 m d a b n f).memOk := h

theorem State.memOk_v3 (m : Mask) (d a b : R6) (n : Nat) (f : W32 → W32 → W32 → W32 × Nat) : (s.v3 m d a b n f).memOk := h

theorem State.memOk_checked (c : Option Trap) {f : State → State} (hf : (f s).memOk) : (s.checked c f).memOk := by
  cases c with
  | none => exact hf
  | some tr => exact State.memOk_raise h tr

theorem State.memOk_reach1 (c va : Nat) (a : Acc) : (s.reach1 c va a).2.memOk := by
  grind [State.reach1, State.memOk_xlate]

theorem State.memOk_reachFrom (c : Nat) (a : Acc) (fuel : Nat) (a0 : Nat) (n : Nat) : (State.reachFrom c a fuel s a0 n).2.memOk := by
  induction fuel generalizing s a0 n with
  | zero => exact h
  | succ fuel ih => grind [State.reachFrom, State.memOk_reach1]

theorem State.memOk_reach (c va n : Nat) (a : Acc) : (s.reach c va n a).2.memOk := State.memOk_reachFrom h ..

theorem State.memOk_passUnit (must : Past → Nat) (unit : Nat) : (s.passUnit must unit).2.memOk := by
  grind [State.passUnit, State.memOk_tick]

theorem State.memOk_passUnits (must : Past → Nat) (pa : Nat) (bs : List Byte) : (s.passUnits must pa bs).2.memOk :=
  List.foldlRecOn (motive := fun r : List Byte × State => r.2.memOk) _ _ h fun _ hr _ _ => State.memOk_passUnit hr ..

theorem State.memOk_readLocs (must : Nat → Past → Nat) (ls : List (Loc × Nat)) : (State.readLocs must ls s).2.memOk := by
  induction ls generalizing s with
  | nil => exact h
  | cons e ps ih =>
    obtain ⟨pa | w, n⟩ := e
    · exact ih (State.memOk_passUnits h ..)
    · exact ih h

theorem State.memOk_vreadBy (must : Nat → Past → Nat) (c va n : Nat) : (s.vreadBy must c va n).2.memOk := by
  grind [State.vreadBy, State.memOk_reach, State.memOk_readLocs, State.memOk]

theorem State.memOk_vread (c va n : Nat) : (s.vread c va n).2.memOk := State.memOk_vreadBy h ..

theorem State.memOk_hold (c pa : Nat) (bs : List Byte) : (s.hold c pa bs).memOk := h

theorem State.memOk_writeLoc (c : Nat) (l : Loc) (bs : List Byte) : (s.writeLoc c l bs).memOk := by
  cases l with
  | phys pa leaf => grind [State.writeLoc, State.mark, State.memOk_pwrite, State.memOk_hold, State.memOk]
  | win k a => exact State.memOk_lwrite h ..

theorem State.memOk_writePieces (c : Nat) (ls : List (Loc × Nat)) (bs : List Byte) : (State.writePieces c ls bs s).memOk := by
  induction ls generalizing s bs with
  | nil => exact h
  | cons e ps ih => exact ih (State.memOk_writeLoc h ..) _

theorem State.memOk_ownHeld (l cmd n : Nat) : (s.ownHeld l cmd n).memOk := h

theorem State.memOk_places (c va n : Nat) : (s.places c va n).2.memOk := by
  grind [State.places, State.memOk_reach]

theorem State.memOk_vput (c va : Nat) (ps : List (Loc × Nat)) (bs : List Byte) : (s.vput c va ps bs).memOk := by
  grind [State.vput, State.modCtx_mem, State.memOk_writePieces, State.memOk]

theorem State.memOk_vwrite (c va : Nat) (bs : List Byte) : (s.vwrite c va bs).2.memOk := by
  grind [State.vwrite, State.memOk_places, State.memOk_vput]

theorem State.memOk_sawLoad (t : Nat) (e : Access) (k : Nat) : (s.sawLoad t e k).memOk := h

theorem State.memOk_sawStore (t : Nat) (e : Access) (t0 : Nat) (rmw : Bool) : (s.sawStore t e t0 rmw).memOk := by
  grind [State.sawStore, State.modStrand_mem, State.memOk_mark, State.memOk]

theorem State.memOk_syncAll (t : Nat) : (s.syncAll t).memOk := h

theorem State.memOk_fenceLc (l : Nat) : (s.fenceLc l).memOk :=
  State.memOk_foldl h _ fun _ _ hu => by grind [State.memOk_syncAll]

theorem State.memOk_syncStrong (t : Nat) : (s.syncStrong t).memOk := h

theorem State.memOk_fenceView (t kind scope : Nat) : (s.fenceView t kind scope).memOk := h

theorem State.memOk_overtake (t : Nat) (e : Access) (unit : Nat) : (s.overtake t e unit).memOk := h

theorem State.memOk_retire (t i : Nat) : (s.retire t i).memOk := by
  grind [State.retire, State.modStrand_mem, State.memOk]

theorem State.memOk_cmdRead (l : Nat) (k : Cmd) (va n : Nat) : (s.cmdRead l k va n).2.memOk := State.memOk_vreadBy h ..

theorem State.memOk_cbLine (l va : Nat) (now : List Byte) : (s.cbLine l va now).2.memOk := by
  grind [State.cbLine, State.modCtx_mem, State.memOk_tick, State.memOk]

theorem State.memOk_cbRead (l : Nat) (k : Cmd) (va n : Nat) : (s.cbRead l k va n).2.memOk := by
  have read := State.memOk_cmdRead h l k va n
  unfold State.cbRead
  generalize s.cmdRead l k va n = r at read ⊢
  obtain ⟨e | bs, u⟩ := r
  · exact read
  · exact List.foldlRecOn (motive := fun r : List Byte × State => r.2.memOk) _ _ read fun _ hr _ _ => State.memOk_cbLine hr ..

theorem State.memOk_pend (es : List Access) : (s.pend es).memOk := h

theorem State.memOk_foldMine (a : Nat) (bs : List Byte) : (s.foldMine a bs).memOk := by
  grind [State.foldMine, State.memOk_onMe]

theorem State.memOk_modCmd (l id : Nat) (f : Cmd → Cmd) : (s.modCmd l id f).memOk := h

theorem State.memOk_place1 (kind : CmdKind) (f : Cmd → Cmd) : (s.place1 kind f).memOk := by
  grind [State.place1, State.setLc_mem, State.memOk_onMe, State.memOk_block, State.memOk]

theorem State.memOk_finish (l id : Nat) : (s.finish l id).memOk := by
  grind [State.finish, State.modLc_mem, State.modStrand_mem, State.memOk]

theorem State.memOk_faultCmd (l id : Nat) (addr : Nat) (info : Nat) : (s.faultCmd l id addr info).memOk := h

theorem State.memOk_failCmd (l id : Nat) (f : Fail) (a : Acc) : (s.failCmd l id f a).memOk := by
  cases f with
  | fault => exact h
  | mem pa st => exact State.memOk_failAt h ..

theorem State.memOk_markReported (l id : Nat) : (s.markReported l id).memOk := by
  grind [State.markReported, State.memOk_modCmd, State.memOk_finish]

theorem State.memOk_reporting (p : Cmd → Bool) {f : State → State} (hf : (f s).memOk) : (s.reporting p f).memOk := by
  grind [State.reporting, State.memOk_markReported, State.memOk_raise]

theorem State.memOk_retryCmds (t : Nat) : (s.retryCmds t).memOk := h

theorem State.memOk_arStep (l a b n : Nat) (m : W64) : (s.arStep l a b n m).memOk := State.memOk_lwrite (State.memOk_ltouch h ..) ..

theorem State.memOk_publish (x gid c i : Nat) : (s.publish x gid c i).memOk := by
  grind [State.publish, State.memOk_modGraph, State.memOk_progress, State.memOk_lwrite]

theorem memOk_execChannelPublish (slot gid ch idx : Nat) : (execChannelPublish slot gid ch idx s).memOk := by
  grind [execChannelPublish, State.memOk_publish, Out.memOk]

theorem State.memOk_readGraph (x va : Nat) : (s.readGraph x va).2.memOk := by
  grind [State.readGraph, State.memOk_vread]

theorem State.memOk_addGraph (x : Nat) (g : Graph) : (s.addGraph x g).memOk := h

theorem State.memOk_bind (gid : Nat) (m : List (Nat × Nat)) : (s.bind gid m).memOk :=
  State.memOk_foldl h _ fun _ _ hu => hu

theorem State.memOk_forward (fuel : Nat) (n : Node) (f : Flit) (recovered : Bool) : (State.forward fuel s n f recovered).memOk := by
  induction fuel generalizing n with
  | zero => exact h
  | succ fuel ih =>
    unfold State.forward
    split
    · exact h
    · exact ih _
    · exact h
    · exact h

theorem State.memOk_wait (n : Node) (f : Flit) (recovered : Bool) : (s.wait n f recovered).memOk := State.memOk_forward h ..

theorem State.memOk_requestAs (stale : Bool) (d tag x : Nat) (f : Flit) (why : TxnFor) : (s.requestAs stale d tag x f why).memOk :=
  State.memOk_wait (by exact h) ..

theorem State.memOk_request (d tag x : Nat) (f : Flit) (why : TxnFor) : (s.request d tag x f why).memOk := State.memOk_requestAs h ..

theorem State.memOk_sendHeld (d : Nat) (hs : List Held) : (State.sendHeld d hs s).memOk := by
  induction hs generalizing s with
  | nil => exact h
  | cons e es ih =>
    unfold State.sendHeld
    split
    · exact ih h
    · split
      · exact h
      · exact ih (State.memOk_requestAs (by exact h) ..)

end

end Sys2Proof.Machine
end

section
/-! SUPPORT. Memory in canonical form (R176, log entry 4): firings, the scheduler and collective commands.
Settles MemoryCanonical. -/

namespace Sys2Proof.Machine

section
variable {s : State} (h : s.memOk)
include h

omit h in
/-- Memory is as before where only strands differ. -/
theorem State.OnlyStrands.memOk {u : State} (only : s.OnlyStrands u) (h : s.memOk) : u.memOk := by
  rw [only.eq]
  exact h

theorem State.memOk_dropSpare (x gid i : Nat) : (s.dropSpare x gid i).memOk :=
  (s.dropSpare_reassigned x gid i).1.memOk h

theorem memOk_execFiringStart (k : Nat) : (execFiringStart k s).memOk := by
  grind [execFiringStart, State.modStrand_mem, State.memOk_modGraph, State.memOk_progress, State.memOk_dropSpare, State.memOk, Out.memOk]

theorem State.memOk_foldFiring (t : Nat) : (s.foldFiring t).memOk := by
  grind [State.foldFiring, State.modCtx_mem, State.memOk_modGraph, State.memOk]

theorem State.memOk_freeStage (x gid i : Nat) : (s.freeStage x gid i).memOk :=
  (s.freeStage_spec x gid i).1.memOk h

theorem State.memOk_endFiring (t : Nat) : (s.endFiring t).memOk := by
  grind [State.endFiring, State.modLc_mem, State.modStrand_mem, State.memOk_modGraph, State.memOk_progress, State.memOk_dropSpare,
    State.memOk_foldFiring, State.memOk_freeStage, State.memOk]

theorem memOk_execFiringEnd (k : Nat) : (execFiringEnd k s).memOk := by
  grind [execFiringEnd, State.kill_mem, State.memOk_enterTrap, State.memOk_markReported, State.memOk_endFiring, State.memOk, Out.memOk]

theorem memOk_execGraphEnd (slot gid : Nat) : (execGraphEnd slot gid s).memOk := by
  have freed : ∀ u : State, u.memOk → ∀ is : List Nat, (is.foldl (fun s i => s.freeStage slot gid i) u).memOk :=
    fun u hu is => (u.freeStages_spec slot gid is).1.memOk hu
  grind [execGraphEnd, State.modCtx_mem, State.memOk_modGraph, State.memOk_report, State.memOk, Out.memOk]

theorem memOk_execChildInstantiate (slot gid : Nat) : (execChildInstantiate slot gid s).memOk := by
  grind [execChildInstantiate, State.memOk_modGraph, State.memOk_bind, Out.memOk]

theorem State.memOk_attach (l n : Nat) : (s.attach l n).memOk := h

theorem State.memOk_settleLc (l : Nat) : (s.settleLc l).memOk :=
  State.memOk_fenceLc (State.memOk_foldl h _ fun _ _ hu => by grind [State.modStrand_mem, State.memOk]) _

theorem State.memOk_detach (l : Nat) : (s.detach l).memOk := by
  grind [State.detach, State.modCtx_mem, State.modLc_mem, State.memOk_settleLc, State.memOk]

theorem State.memOk_grants (d : Nat) : (s.grants d).memOk := by
  obtain ⟨_, _, _, _, e⟩ := (s.grants_granted d).only
  rw [e]
  exact h

theorem memOk_execResidencySwap (lc : Nat) : (execResidencySwap lc s).memOk := by
  grind [execResidencySwap, State.memOk_detach, State.memOk_grants, Out.memOk]

theorem memOk_execQuantumExpiry (lc : Nat) : (execQuantumExpiry lc s).memOk := by
  grind [execQuantumExpiry, State.modLc_mem, State.memOk, Out.memOk]

theorem memOk_execAgingTick (slot : Nat) : (execAgingTick slot s).memOk := by
  grind [execAgingTick, State.modCtx_mem, State.memOk, Out.memOk]

theorem memOk_execDeadlockTimeout (slot gid : Nat) : (execDeadlockTimeout slot gid s).memOk := by
  grind [execDeadlockTimeout, State.memOk_modGraph, State.memOk_report, Out.memOk]

theorem State.memOk_advance (n : Nat) : (s.advance n).memOk := h

theorem State.memOk_rebalance (d : Nat) (isOver : Nat → State → Bool) : (s.rebalance d isOver).memOk := by
  obtain ⟨-, -, -, e⟩ := s.rebalance_spec d isOver rfl
  generalize s.rebalance d isOver = t at e ⊢
  exact State.memOk_of_mem (congrArg State.mem e) h

theorem memOk_execStrandSwitch (lc : Nat) : (execStrandSwitch lc s).memOk := by
  have ready : ∀ u : State, u.memOk → ∀ ts : List Nat,
      (ts.foldl (fun s t => s.modStrand t (fun st => { st with blk := .ready })) u).memOk :=
    fun u hu ts => State.memOk_foldl hu _ fun _ _ hv => hv
  grind [execStrandSwitch, State.modLc_mem, State.memOk_advance, State.memOk, Out.memOk]

theorem memOk_execDamperWindow (core demand : Nat) : (execDamperWindow core demand s).memOk := by
  grind [execDamperWindow, State.memOk, Out.memOk]

theorem State.memOk_collAll (l : Nat) (k : Cmd) (f : Cmd → Cmd) : (s.collAll l k f).memOk :=
  State.memOk_foldl h _ fun _ _ hu => by grind [State.memOk_modCmd]

theorem State.memOk_modBucket (l id b : Nat) (f : Bucket → Bucket) : (s.modBucket l id b f).memOk := h

theorem State.memOk_collFail (l id : Nat) (e : CollErr) : (s.collFail l id e).memOk := by
  grind [State.collFail, State.memOk_failAt, State.memOk_faultCmd]

theorem State.memOk_collSat (l : Nat) (k : Cmd) : (s.collSat l k).memOk := State.memOk_collAll h ..

omit h in
theorem memOk_collWords (n : Nat) {r : Except Fail (List Byte) × State} (h : r.2.memOk) : (collWords n r).2.memOk := by
  obtain ⟨e | bs, u⟩ := r <;> exact h

theorem State.memOk_collRead (l va n : Nat) : (s.collRead l va n).2.memOk := by
  grind [State.collRead, State.memOk_vread, memOk_collWords]

theorem State.memOk_collInput (l : Nat) (k : Cmd) (va n : Nat) : (s.collInput l k va n).2.memOk := by
  grind [State.collInput, State.memOk_cmdRead, memOk_collWords]

theorem State.memOk_collPlaces (l va n : Nat) : (s.collPlaces l va n).2.memOk := by
  grind [State.collPlaces, State.memOk_places]

theorem State.memOk_collPut (l id va : Nat) (ps : List (Loc × Nat)) (ws : List W32) : (s.collPut l id va ps ws).memOk := by
  grind [State.collPut, State.memOk_vput, State.memOk_modCmd]

theorem State.memOk_collWrite (l id va : Nat) (ws : List W32) : (s.collWrite l id va ws).2.memOk := by
  grind [State.collWrite, State.memOk_collPlaces, State.memOk_collPut]

theorem State.memOk_formMx (l id res : Nat) (y : List W32) : (s.formMx l id res y).2.memOk := by
  grind [State.formMx, State.memOk_collRead, State.memOk_collWrite]

theorem State.memOk_clFirst (l : Nat) (k : Cmd) (res : Nat) (y : List W32) : (s.clFirst l k res y).2.memOk := by
  grind [State.clFirst, State.memOk_formMx]

theorem State.memOk_sendSeg (l : Nat) (k : Cmd) (next b t i : Nat) (bs : List Byte) : (s.sendSeg l k next b t i bs).memOk := by
  grind [State.sendSeg, State.memOk_wait, State.memOk_modBucket, State.memOk]

theorem memOk_tryAll {f : State → Nat → Except CollErr Unit × State} (hf : ∀ u i, u.memOk → (f u i).2.memOk) (is : List Nat) :
    (tryAll f is s).2.memOk := by
  induction is generalizing s with
  | nil => exact h
  | cons i is ih => grind [tryAll]

theorem State.memOk_clPut (l next : Nat) (k : Cmd) (dst b t i : Nat) (more : Bool) (ps : List (Loc × Nat)) (bs : List Byte) :
    (s.clPut l next k dst b t i more ps bs).memOk := by
  grind [State.clPut, State.memOk_collPut, State.memOk_sendSeg]

theorem State.memOk_clKeep (l next : Nat) (k : Cmd) (dst b t i : Nat) (more : Bool) (bs : List Byte) :
    (s.clKeep l next k dst b t i more bs).2.memOk := by
  grind [State.clKeep, State.memOk_collPlaces, State.memOk_clPut]

theorem State.memOk_clForm (l next : Nat) (k : Cmd) (res dst b t i : Nat) (more : Bool) (y : List W32) :
    (s.clForm l next k res dst b t i more y).2.memOk := by
  grind [State.clForm, State.memOk_collPlaces, State.memOk_formMx, State.memOk_clPut]

theorem State.memOk_clOwn (l next : Nat) (k : Cmd) (p b q e i : Nat) (sum : List Byte) : (s.clOwn l next k p b q e i sum).2.memOk := by
  grind [State.clOwn, State.memOk_collWrite, State.memOk_clKeep, State.memOk_clForm]

theorem State.memOk_clStartSeg (l next : Nat) (k : Cmd) (p b q lo hi i : Nat) : (s.clStartSeg l next k p b q lo hi i).2.memOk := by
  grind [State.clStartSeg, State.memOk_collSat, State.memOk_collInput, State.memOk_clFirst, State.memOk_sendSeg, State.memOk_clKeep,
    State.memOk_clForm, State.memOk_clOwn]

/-- What a probe of one range finds, as clProbe makes it of each of its ranges. -/
def State.probe (s : State) (l va m : Nat) (a : Acc) : Option CollErr × State :=
  if m = 0 then (none, s)
  else match s.reach l va (4 * m) a with
    | (.error e, s) => (some (e, a), s)
    | (.ok ps, s) =>
      match s.hole l (a == .read) ps with
      | some (pa, st) => (some (.mem pa st, a), s)
      | none => (none, s)

theorem State.memOk_probe (l va m : Nat) (a : Acc) : (s.probe l va m a).2.memOk := by
  grind [State.probe, State.memOk_reach]

omit h in
theorem State.clProbe_eq (l : Nat) (k : Cmd) (p b r : Nat) : ∃ lo m, s.clProbe l k p b r =
    match s.probe l (clSrcAddr k.snap b 0) (clBktel k.snap) .read with
    | (some e, s) => (some e, s)
    | (none, s) =>
      match s.probe l (clDstAddr k.snap p b 0 lo) m .write with
      | (some e, s) => (some e, s)
      | (none, s) => if clEt k.snap = 3 then s.probe l (clResAddr k.snap b 0) (clBktel k.snap) .write else (none, s) :=
  ⟨_, _, rfl⟩

theorem State.memOk_clProbe (l : Nat) (k : Cmd) (p b r : Nat) : (s.clProbe l k p b r).2.memOk := by
  obtain ⟨lo, m, e⟩ := s.clProbe_eq l k p b r
  grind [State.memOk_probe]

theorem State.memOk_clFinished (l : Nat) (k : Cmd) (p b r : Nat) : (s.clFinished l k p b r).memOk := by
  grind [State.clFinished, State.memOk_modBucket]

theorem State.memOk_clBegin (l b : Nat) (k : Cmd) : (s.clBegin l b k).memOk := by
  grind [State.clBegin, State.memOk_modCmd, State.memOk_modBucket, State.memOk_collFail, memOk_tryAll, State.memOk_clStartSeg,
    State.memOk_clFinished]

theorem State.memOk_clEach (l : Nat) (k : Cmd) {f : State → Nat → Cmd → State} (hf : ∀ u m c, u.memOk → (f u m c).memOk) :
    (s.clEach l k f).memOk :=
  State.memOk_foldl h _ fun _ _ hu => by grind

theorem State.memOk_clStart (l : Nat) (k : Cmd) (b : Nat) : (s.clStart l k b).memOk := by
  have probed := State.memOk_clEach h l k (f := fun u m c =>
    match u.clProbe m c (s.collRing l k).length b (u.collRank m c) with
    | (some e, s) => s.collFail m c.id e
    | (none, s) => s) fun u m c hu => by grind [State.memOk_clProbe, State.memOk_collFail]
  unfold State.clStart
  dsimp only
  split
  · exact h
  · split
    · exact State.memOk_clEach probed l k fun _ _ _ hu => State.memOk_clBegin hu ..
    · exact probed

theorem State.memOk_clDisagree (l : Nat) (k : Cmd) : (s.clDisagree l k).memOk :=
  State.memOk_foldl h _ fun _ _ hu => by grind [State.memOk_sendSeg]

theorem State.memOk_collPoll (l id : Nat) : (s.collPoll l id).memOk := by
  unfold State.collPoll
  split
  · exact h
  · split
    · exact h
    · exact State.memOk_foldl (State.memOk_clDisagree h ..) _ fun _ _ hu => State.memOk_clStart hu ..

theorem State.memOk_collTake (l : Nat) (k : Cmd) : (s.collTake l k).memOk := by
  grind [State.collTake, State.modLc_mem, State.memOk_cbRead, State.memOk_modCmd, State.memOk_faultCmd, State.memOk_collFail, State.memOk]

theorem memOk_execCollAccept (lc cmd : Nat) : (execCollAccept lc cmd s).memOk := by
  grind [execCollAccept, State.memOk_collPoll, State.memOk_collTake, Out.memOk]

theorem State.memOk_clReceive (l next : Nat) (k : Cmd) (p r b t i : Nat) (bs : List Byte) :
    (s.clReceive l next k p r b t i bs).2.memOk := by
  grind [State.clReceive, State.memOk_collSat, State.memOk_collInput, State.memOk_formMx, State.memOk_sendSeg, State.memOk_clKeep,
    State.memOk_clOwn]

theorem memOk_execBseg (i : Nat) : (execBseg i s).memOk := by
  unfold execBseg
  split
  · exact h
  · next f _ =>
    refine Out.memOk_ite h (Out.memOk_ite h ?_)
    split
    · exact State.memOk_ite (by exact h) h
    · next k _ =>
      refine Out.memOk_ite h (Out.memOk_ite (State.memOk_faultCmd (by exact h) ..) (Out.memOk_ite h ?_))
      have lowered : (if bitOf f.op 2 then s.collSat (f.note % 2 ^ 24) k else s).memOk := State.memOk_ite (State.memOk_collSat h ..) h
      grind [State.memOk_clReceive, State.memOk_collFail, State.memOk_modBucket, State.memOk_clFinished, State.memOk, Out.memOk]

theorem State.memOk_clValues (l : Nat) (k : Cmd) (b r q e n : Nat) (out : Bool) : (s.clValues l k b r q e n out).2.memOk := by
  grind [State.clValues, State.memOk_collRead, State.memOk_collInput]

theorem State.memOk_freeBytes (n : Nat) : (s.freeBytes n).2.memOk := h

theorem State.memOk_clRemake (l : Nat) (k : Cmd) (b t i r : Nat) : (s.clRemake l k b t i r).2.memOk := by
  have sums : ∀ (q e n : Nat) (us : List Nat), (us.foldl (fun (a : List Byte × State) u =>
        match a.2.clValues l k b (r + (s.collRing l k).length - t % (s.collRing l k).length + u) q e n false with
        | (none, s) => s.freeBytes a.1.length
        | (some y, s) =>
          if u = 0 then (if clEt k.snap = 1 then bytesOfCells (fixCells (clAnch k.snap) y) else bytesOfWords y, s)
          else ((clAdd k.snap a.1 y).1, s)) ([], s)).2.memOk := fun q e n us =>
    List.foldlRecOn (motive := fun a : List Byte × State => a.2.memOk) _ _ h fun _ ha _ _ => by
      grind [State.memOk_clValues, State.memOk_freeBytes]
  unfold State.clRemake
  dsimp only
  split
  · exact h
  · split
    · grind [State.memOk_clValues, State.memOk_freeBytes]
    · split
      · exact State.memOk_freeBytes h _
      · exact sums ..

theorem State.memOk_clRevive (l : Nat) (k : Cmd) (b : Nat) : (s.clRevive l k b).memOk := by
  unfold State.clRevive
  refine State.memOk_ite h (State.memOk_foldl h _ fun u r hu => ?_)
  dsimp only
  cases u.matched ((s.collRing l k).getD r l) (clGrp k.snap) k.pos with
  | none => exact hu
  | some c =>
    refine State.memOk_clFinished (State.memOk_foldl (State.memOk_modBucket hu ..) _ fun v t hv =>
      State.memOk_foldl hv _ fun w i hw => State.memOk_ite ?_ hw) ..
    have made := State.memOk_clRemake hw l k b t i ((r + (s.collRing l k).length - 1) % (s.collRing l k).length)
    grind [State.memOk]

theorem State.memOk_arSat (l a : Nat) : (s.arSat l a).memOk := State.memOk_lwrite (State.memOk_ltouch h ..) ..

theorem memOk_execCollComplete (lc cmd : Nat) : (execCollComplete lc cmd s).memOk := by
  grind [execCollComplete, State.memOk_finish, State.memOk_arStep, State.memOk_arSat, Out.memOk]

end

end Sys2Proof.Machine
end

section
/-! SUPPORT. Memory in canonical form (R176, log entry 4): the slot instructions but for vector and floating-point arithmetic.
Settles MemoryCanonical. -/

namespace Sys2Proof.Machine

section
variable {s : State} (h : s.memOk)
include h

theorem memOk_act (g : Guard) {f : State → State} (hf : (f s).memOk) : (act g s f).memOk := by
  grind [act, Out.memOk]

theorem memOk_execAdd (g : Guard) (d a b : R6) (fn : F4) : (execAdd g d a b fn s).memOk := memOk_act h _ h

theorem memOk_execSub (g : Guard) (d a b : R6) (fn : F4) : (execSub g d a b fn s).memOk := memOk_act h _ h

theorem memOk_execMul (g : Guard) (d a b : R6) (fn : F4) : (execMul g d a b fn s).memOk := memOk_act h _ h

theorem memOk_execDiv (g : Guard) (d a b : R6) (fn : F4) : (execDiv g d a b fn s).memOk := memOk_act h _ h

theorem memOk_execLea (g : Guard) (d a b : R6) (fn : F4) : (execLea g d a b fn s).memOk := memOk_act h _ h

theorem memOk_execAddi (g : Guard) (d a : R6) (imm : BitVec 10) : (execAddi g d a imm s).memOk := memOk_act h _ h

theorem memOk_execMovi (g : Guard) (d : R6) (imm : W16) : (execMovi g d imm s).memOk := memOk_act h _ h

theorem memOk_execAnd (g : Guard) (d a b : R6) (fn : F4) : (execAnd g d a b fn s).memOk := memOk_act h _ h

theorem memOk_execOr (g : Guard) (d a b : R6) (fn : F4) : (execOr g d a b fn s).memOk := memOk_act h _ h

theorem memOk_execXor (g : Guard) (d a b : R6) (fn : F4) : (execXor g d a b fn s).memOk := memOk_act h _ h

theorem memOk_execAndn (g : Guard) (d a b : R6) (fn : F4) : (execAndn g d a b fn s).memOk := memOk_act h _ h

theorem memOk_execShl (g : Guard) (d a b : R6) (fn : F4) : (execShl g d a b fn s).memOk := memOk_act h _ h

theorem memOk_execShr (g : Guard) (d a b : R6) (fn : F4) : (execShr g d a b fn s).memOk := memOk_act h _ h

theorem memOk_execSar (g : Guard) (d a b : R6) (fn : F4) : (execSar g d a b fn s).memOk := memOk_act h _ h

theorem memOk_execRotr (g : Guard) (d a b : R6) (fn : F4) : (execRotr g d a b fn s).memOk := memOk_act h _ h

theorem memOk_execMin (g : Guard) (d a b : R6) (fn : F4) : (execMin g d a b fn s).memOk := memOk_act h _ h

theorem memOk_execMax (g : Guard) (d a b : R6) (fn : F4) : (execMax g d a b fn s).memOk := memOk_act h _ h

theorem memOk_execClz (g : Guard) (d a b : R6) (fn : F4) : (execClz g d a b fn s).memOk := memOk_act h _ h

theorem memOk_execCtz (g : Guard) (d a b : R6) (fn : F4) : (execCtz g d a b fn s).memOk := memOk_act h _ h

theorem memOk_execPopc (g : Guard) (d a b : R6) (fn : F4) : (execPopc g d a b fn s).memOk := memOk_act h _ h

theorem memOk_execExtr (g : Guard) (d a b : R6) (fn : F4) : (execExtr g d a b fn s).memOk := memOk_act h _ h

theorem memOk_execInsr (g : Guard) (d a b : R6) (fn : F4) : (execInsr g d a b fn s).memOk := memOk_act h _ h

theorem memOk_execCmp (g : Guard) (d a b : R6) (fn : F4) : (execCmp g d a b fn s).memOk := memOk_act h _ h

theorem memOk_execSel (g : Guard) (d a b : R6) (fn : F4) : (execSel g d a b fn s).memOk := memOk_act h _ h

theorem memOk_execPlog (g : Guard) (d a b : R6) (fn : F4) : (execPlog g d a b fn s).memOk := memOk_act h _ h

theorem memOk_execMfs (g : Guard) (d : R6) (num : BitVec 12) : (execMfs g d num s).memOk := memOk_act h _ h

theorem memOk_execMts (g : Guard) (num : BitVec 12) (a : R6) : (execMts g num a s).memOk := memOk_act h _ (State.memOk_checked h _ h)

theorem State.memOk_sread (a n : Nat) : (s.sread a n).2.memOk := State.memOk_ltouch h ..

theorem memOk_execLds (g : Guard) (d a b : R6) (fn : F4) : (execLds g d a b fn s).memOk := by
  grind [execLds, State.memOk_wG, act, State.memOk_checked, State.memOk_sread, Out.memOk]

theorem State.memOk_storeScalar (d a b : R6) (fn : F4) : (s.storeScalar d a b fn).memOk := by
  grind [State.storeScalar, State.memOk_lwrite, State.memOk_checked, State.memOk_place1]

theorem memOk_execSts (g : Guard) (d a b : R6) (fn : F4) : (execSts g d a b fn s).memOk := memOk_act h _ (State.memOk_storeScalar h ..)

theorem memOk_execBteStart (g : Guard) (d a b : R6) (fn : F4) : (execBteStart g d a b fn s).memOk :=
  memOk_act h _ (State.memOk_storeScalar h ..)

theorem State.memOk_gather (lanes : List (Nat × Nat)) : (s.gather lanes).2.memOk :=
  List.foldlRecOn (motive := fun r : List W32 × State => r.2.memOk) _ _ h fun _ hr _ _ => State.memOk_sread hr ..

theorem State.memOk_scatter (lanes : List (Nat × Nat)) (v : List W32) : (s.scatter lanes v).memOk :=
  State.memOk_foldl h _ fun _ _ hu => State.memOk_lwrite hu ..

theorem memOk_execVlds (g : Guard) (d a b : R6) (fn : F4) : (execVlds g d a b fn s).memOk :=
  memOk_act h _ (State.memOk_checked h _ (State.memOk_gather h ..))

theorem memOk_execVsts (g : Guard) (d a b : R6) (fn : F4) : (execVsts g d a b fn s).memOk :=
  memOk_act h _ (State.memOk_checked h _ (State.memOk_scatter h ..))

theorem memOk_execVldm (g : Guard) (d a b : R6) (fn : F4) : (execVldm g d a b fn s).memOk :=
  memOk_act h _ (State.memOk_checked h _ (State.memOk_gather h ..))

theorem memOk_execVstm (g : Guard) (d a b : R6) (fn : F4) : (execVstm g d a b fn s).memOk :=
  memOk_act h _ (State.memOk_checked h _ (State.memOk_scatter h ..))

theorem memOk_execTlds (g : Guard) (d a b : R6) (fn : F4) : (execTlds g d a b fn s).memOk :=
  memOk_act h g (State.memOk_checked h _ (State.memOk_foldl h _ fun _ _ hu =>
    State.memOk_onMe (State.memOk_sread hu ..) _))

theorem memOk_execTsts (g : Guard) (d a b : R6) (fn : F4) : (execTsts g d a b fn s).memOk :=
  memOk_act h g (State.memOk_checked h _ (State.memOk_foldl h _ fun _ _ hu => State.memOk_lwrite hu ..))

theorem State.memOk_reachLanes (a : Acc) (lanes : List (Nat × Nat)) : (State.reachLanes a s lanes).2.memOk := by
  induction lanes generalizing s with
  | nil => exact h
  | cons e lanes ih => grind [State.reachLanes, State.memOk_reach1]

theorem State.memOk_globals (n : Nat) (a : Acc) (lanes : List (Nat × Nat)) {f : List (Nat × Nat × Loc) → State → State}
    (hf : ∀ r u, u.memOk → (f r u).memOk) : (s.globals n a lanes f).memOk := by
  grind [State.globals, State.memOk_raise, State.memOk_reachLanes]

theorem memOk_execLdg (g : Guard) (d a : R6) (scope : F4) (cls fn : F3) : (execLdg g d a scope cls fn s).memOk := by
  grind [execLdg, State.memOk_blockAfter, act, State.memOk_pend, State.memOk_globals, Out.memOk]

theorem memOk_execStg (g : Guard) (d a : R6) (scope : F4) (cls fn : F3) : (execStg g d a scope cls fn s).memOk := by
  grind [execStg, act, State.memOk_pend, State.memOk_foldMine, State.memOk_globals, Out.memOk]

theorem memOk_execVldg (g : Guard) (d a : R6) (scope : F4) (cls fn : F3) : (execVldg g d a scope cls fn s).memOk := by
  grind [execVldg, State.memOk_blockAfter, act, State.memOk_pend, State.memOk_globals, Out.memOk]

theorem memOk_execVstg (g : Guard) (d a : R6) (scope : F4) (cls fn : F3) : (execVstg g d a scope cls fn s).memOk :=
  memOk_act h g (State.memOk_globals h _ _ _ fun _ _ hu =>
    State.memOk_foldl (State.memOk_pend hu _) _ fun _ _ hv => State.memOk_foldMine hv ..)

theorem State.memOk_foldAtomic (a n op x y : Nat) : (s.foldAtomic a n op x y).memOk := by
  grind [State.foldAtomic, State.memOk_foldMine]

theorem memOk_execAtg (g : Guard) (d a : R6) (scope : F4) (cls fn : F3) : (execAtg g d a scope cls fn s).memOk := by
  grind [execAtg, State.memOk_raise, State.memOk_blockAfter, act, State.memOk_pend, State.memOk_globals, State.memOk_foldAtomic, Out.memOk]

theorem memOk_execXadd (g : Guard) (d a : R6) (scope : F4) (cls fn : F3) : (execXadd g d a scope cls fn s).memOk := by
  grind [execXadd, act, State.memOk_pend, State.memOk_foldMine, State.memOk_globals, Out.memOk]

theorem State.memOk_remote (p : Nat) (f : Flit) (why : TxnFor) {wait after : State → State} (hw : (wait s).memOk)
    (ha : ∀ u : State, u.memOk → (after u).memOk) : (s.remote p f why wait after).memOk := by
  grind [State.remote, State.memOk_onMe, State.memOk_raise, State.memOk_request]

theorem State.memOk_pendRemote (op : AccOp) (p n x y : Nat) (dst : AccDst) : (s.pendRemote op p n x y dst).memOk := h

theorem memOk_execRst (g : Guard) (d a : R6) (scope : F4) (cls fn : F3) : (execRst g d a scope cls fn s).memOk := by
  grind [execRst, State.memOk_stall, act, State.memOk_checked, State.memOk_foldMine, State.memOk_sread, State.memOk_remote, Out.memOk]

theorem memOk_execRld (g : Guard) (d a : R6) (scope : F4) (cls fn : F3) : (execRld g d a scope cls fn s).memOk := by
  grind [execRld, State.memOk_blockAfter, act, State.memOk_checked, State.memOk_remote, State.memOk_pendRemote, Out.memOk]

theorem memOk_execRat (g : Guard) (d a : R6) (scope : F4) (cls fn : F3) : (execRat g d a scope cls fn s).memOk := by
  grind [execRat, State.memOk_blockAfter, act, State.memOk_checked, State.memOk_foldAtomic, State.memOk_remote, State.memOk_pendRemote,
    Out.memOk]

theorem memOk_execFence (g : Guard) (d a : R6) (scope : F4) (cls fn : F3) : (execFence g d a scope cls fn s).memOk := by
  grind [execFence, State.memOk_block, act, State.memOk_fenceView, Out.memOk]

theorem memOk_execCbfence (g : Guard) : (execCbfence g s).memOk := by
  grind [execCbfence, State.modCtx_mem, State.memOk_block, act, State.memOk, Out.memOk]

theorem memOk_execLbr (g : Guard) (d a b : R6) (fn : F4) : (execLbr g d a b fn s).memOk := by
  grind [execLbr, State.memOk_raise, State.memOk_blockAfter, act, State.memOk_pend, State.memOk_globals, Out.memOk]

theorem State.memOk_markStale (x : Nat) (va : Option Nat) : (s.markStale x va).memOk := h

theorem memOk_execTinv (g : Guard) (d a : R6) (scope : F4) (cls fn : F3) : (execTinv g d a scope cls fn s).memOk := by
  grind [execTinv, State.memOk_raise, State.memOk_blockAfter, act, State.memOk_pend, Out.memOk]

theorem State.memOk_invalidate (t i : Nat) (e : Access) (all : Bool) : (s.invalidate t i e all).memOk := by
  grind [State.invalidate, State.modCtx_mem, State.modStrand_mem, State.memOk_memErr, State.memOk_enterTrapAs, State.memOk_markStale,
    State.memOk]

theorem State.memOk_deliver (t : Nat) (e : Access) (x : Nat) : (s.deliver t e x).memOk := by
  grind [State.deliver, State.modStrand_mem, State.memOk_lwrite, State.memOk]

theorem State.memOk_dirtyAcc (t : Nat) (e : Access) : (s.dirtyAcc t e).memOk := by
  grind [State.dirtyAcc, State.modCtx_mem, State.memOk]

theorem State.memOk_putAcc (t : Nat) (e : Access) (bs : List Byte) : (s.putAcc t e bs).memOk :=
  State.memOk_dirtyAcc (State.memOk_writeLoc h ..) ..

theorem State.memOk_markBucket (l cmd b : Nat) : (s.markBucket l cmd b).memOk := by
  grind [State.markBucket, State.modLc_mem, State.memOk_modCmd, State.memOk_faultCmd, State.memOk_collPoll, State.memOk]

theorem State.memOk_storeAcc (t : Nat) (e : Access) (bs : List Byte) (rmw : Bool) : (s.storeAcc t e bs rmw).memOk :=
  State.memOk_sawStore (State.memOk_putAcc h ..) ..

theorem State.memOk_sendRemote (t i : Nat) (e : Access) (f : Flit) (why : TxnFor) : (s.sendRemote t i e f why).memOk := by
  grind [State.sendRemote, State.memOk_retire, State.memOk_request, State.memOk]

theorem State.memOk_performHere (t i : Nat) (e : Access) (earlier : List Access) (v : Nat) : (s.performHere t i e earlier v).memOk := by
  grind [State.performHere, State.memOk_modGraph, State.memOk_progress, State.memOk_lwrite, State.memOk_sawLoad, State.memOk_syncStrong,
    State.memOk_retire, State.memOk_arStep, State.memOk_invalidate, State.memOk_deliver, State.memOk_markBucket, State.memOk_storeAcc,
    State.memOk_sendRemote]

theorem State.memOk_sendAcc (t i : Nat) (e : Access) : (s.sendAcc t i e).memOk := by
  grind [State.sendAcc, State.modStrand_mem, State.memOk_overtake, State.memOk_request, State.memOk]

theorem memOk_execGlobalAccessPerformed (k : Nat) (p : Pick) : (execGlobalAccessPerformed k p s).memOk := by
  grind [execGlobalAccessPerformed, State.memOk_memErr, State.memOk_performHere, State.memOk_sendAcc, Out.memOk]

theorem State.memOk_jump (target : W64) : (s.jump target).memOk := h

theorem State.memOk_callTo (target : W64) : (s.callTo target).memOk := by
  grind [State.callTo, State.memOk_onMe, State.memOk_raise, State.memOk_jump]

theorem memOk_execNop (g : Guard) : (execNop g s).memOk := memOk_act h _ h

theorem memOk_execBr (g : Guard) (disp : BitVec 22) : (execBr g disp s).memOk := memOk_act h _ h

theorem memOk_execBrv (g : Guard) (q : F3) (disp : BitVec 19) : (execBrv g q disp s).memOk := by
  grind [execBrv, State.memOk_raise, act, State.memOk_jump, Out.memOk]

theorem memOk_execBri (g : Guard) (a : R6) : (execBri g a s).memOk := memOk_act h _ h

theorem memOk_execCall (g : Guard) (disp : BitVec 22) : (execCall g disp s).memOk := memOk_act h _ (State.memOk_callTo h ..)

theorem memOk_execCalli (g : Guard) (a : R6) : (execCalli g a s).memOk := memOk_act h _ (State.memOk_callTo h ..)

theorem memOk_execRet (g : Guard) : (execRet g s).memOk := by
  grind [execRet, State.memOk_onMe, State.memOk_raise, act, State.memOk_jump, Out.memOk]

theorem memOk_execLoop (g : Guard) (dims : F3) (c : R6) (len : BitVec 9) : (execLoop g dims c len s).memOk := by
  grind [execLoop, State.memOk_onMe, State.memOk_raise, act, State.memOk_jump, Out.memOk]

theorem memOk_execLexit (g : Guard) : (execLexit g s).memOk := by
  grind [execLexit, State.memOk_onMe, State.memOk_raise, act, State.memOk, Out.memOk]

theorem State.memOk_flagTest (e : Access) (v th : Nat) : (s.flagTest e v th).memOk := by
  grind [State.flagTest, State.memOk_block, State.memOk_sawLoad, State.memOk_syncStrong]

theorem State.memOk_flagFar (e : Access) (th : Nat) : (s.flagFar e th).memOk := by
  grind [State.flagFar, State.memOk_onMe, State.memOk_block, State.memOk_pend, State.memOk_flagTest]

theorem memOk_execWaitf (g : Guard) (a b : R6) : (execWaitf g a b s).memOk := by
  grind [execWaitf, State.memOk_raise, State.memOk_block, act, State.memOk_reach1, State.memOk_flagTest, State.memOk_flagFar, Out.memOk]

theorem memOk_execYield (g : Guard) : (execYield g s).memOk := memOk_act h _ h

theorem memOk_execHalt (g : Guard) : (execHalt g s).memOk := by
  grind [execHalt, State.memOk_onMe, State.memOk_raise, act, State.memOk_reporting, Out.memOk]

theorem memOk_execTrap (g : Guard) (code : W16) : (execTrap g code s).memOk := memOk_act h _ h

theorem memOk_execBrk (g : Guard) (code : W16) : (execBrk g code s).memOk := memOk_act h _ h

theorem memOk_execEret (g : Guard) : (execEret g s).memOk := by
  grind [execEret, State.memOk_leaveTrap, State.memOk_raise, act, State.memOk_retryCmds, State.memOk_jump, Out.memOk]

theorem memOk_execTfence (g : Guard) : (execTfence g s).memOk := by
  grind [execTfence, State.memOk_onMe, State.memOk_raise, act, State.memOk_reporting, Out.memOk]

theorem State.memOk_placeCmd (kind : CmdKind) (i : Instr) (a b c : R6) (f : Cmd → Cmd) : (s.placeCmd kind i a b c f).memOk := by
  grind [State.placeCmd, State.memOk_place1]

theorem memOk_execMma (g : Guard) (a b c : R6) (fn : F4) : (execMma g a b c fn s).memOk :=
  memOk_act h _ (State.memOk_checked h _ (State.memOk_placeCmd h ..))

theorem memOk_execMloadw (g : Guard) (a b c : R6) (fn : F4) : (execMloadw g a b c fn s).memOk := by
  grind [execMloadw, State.modLc_mem, State.memOk_block, act, State.memOk_checked, State.memOk_placeCmd, State.memOk, Out.memOk]

theorem memOk_execMdrain (g : Guard) (a b c : R6) (fn : F4) : (execMdrain g a b c fn s).memOk :=
  memOk_act h _ (State.memOk_checked h _ (State.memOk_placeCmd h ..))

theorem memOk_execMzero (g : Guard) (a b c : R6) (fn : F4) : (execMzero g a b c fn s).memOk := by
  grind [execMzero, State.memOk_raise, act, State.memOk_placeCmd, Out.memOk]

theorem memOk_execMaccld (g : Guard) (a b c : R6) (fn : F4) : (execMaccld g a b c fn s).memOk :=
  memOk_act h _ (State.memOk_checked h _ (State.memOk_placeCmd h ..))

theorem memOk_execEpload (g : Guard) (a b c : R6) (fn : F4) : (execEpload g a b c fn s).memOk := by
  grind [execEpload, State.modLc_mem, State.memOk_block, act, State.memOk_checked, State.memOk_placeCmd, State.memOk, Out.memOk]

theorem memOk_execArinit (g : Guard) (a b c : R6) (fn : F4) : (execArinit g a b c fn s).memOk :=
  memOk_act h _ (State.memOk_checked h _ (State.memOk_lwrite h ..))

theorem memOk_execArrive (g : Guard) (a b c : R6) (fn : F4) : (execArrive g a b c fn s).memOk := by
  grind [execArrive, State.memOk_raise, act, State.memOk_xlate, State.memOk_checked, State.memOk_pend, Out.memOk]

theorem State.memOk_arWait (x : Nat) (cond : ArRec → Bool) : (s.arWait x cond).memOk := by
  grind [State.arWait, State.memOk_block, State.memOk_ltouch, State.memOk_checked, State.memOk_syncAll, State.memOk_reporting]

theorem memOk_execArwait (g : Guard) (a b c : R6) (fn : F4) : (execArwait g a b c fn s).memOk := memOk_act h _ (State.memOk_arWait h ..)

theorem memOk_execArwaitm (g : Guard) (a b c : R6) (fn : F4) : (execArwaitm g a b c fn s).memOk := memOk_act h _ (State.memOk_arWait h ..)

theorem State.memOk_arTest (x d : Nat) (cond : ArRec → Bool) : (s.arTest x d cond).memOk := by
  grind [State.arTest, State.memOk_wP, State.memOk_ltouch, State.memOk_checked, State.memOk_syncAll]

theorem memOk_execArtest (g : Guard) (a b c : R6) (fn : F4) : (execArtest g a b c fn s).memOk := memOk_act h _ (State.memOk_arTest h ..)

theorem memOk_execArtestm (g : Guard) (a b c : R6) (fn : F4) : (execArtestm g a b c fn s).memOk := memOk_act h _ (State.memOk_arTest h ..)

theorem memOk_execEfence (g : Guard) (a b c : R6) (fn : F4) : (execEfence g a b c fn s).memOk := by
  grind [execEfence, State.memOk_block, act, State.memOk_syncAll, State.memOk_reporting, Out.memOk]

theorem memOk_execSkupd (g : Guard) (a b c : R6) (fn : F4) : (execSkupd g a b c fn s).memOk :=
  memOk_act h _ (State.memOk_checked h _ (State.memOk_placeCmd h ..))

theorem memOk_execSkqry (g : Guard) (a b c : R6) (fn : F4) : (execSkqry g a b c fn s).memOk :=
  memOk_act h _ (State.memOk_checked h _ (State.memOk_placeCmd h ..))

theorem memOk_execSkadd (g : Guard) (a b c : R6) (fn : F4) : (execSkadd g a b c fn s).memOk :=
  memOk_act h _ (State.memOk_checked h _ (State.memOk_placeCmd h ..))

theorem memOk_execSkclr (g : Guard) (a b c : R6) (fn : F4) : (execSkclr g a b c fn s).memOk :=
  memOk_act h _ (State.memOk_checked h _ (State.memOk_placeCmd h ..))

theorem memOk_execColl (g : Guard) (a b c : R6) (fn : F4) : (execColl g a b c fn s).memOk :=
  memOk_act h _ (State.memOk_checked h _ (State.memOk_placeCmd h ..))

theorem memOk_execCsig (g : Guard) (a b c : R6) (fn : F4) : (execCsig g a b c fn s).memOk := by
  grind [execCsig, State.memOk_raise, act, State.memOk_checked, State.memOk_pend, Out.memOk]

theorem memOk_execQpush (g : Guard) (a b c : R6) (fn : F4) : (execQpush g a b c fn s).memOk := by
  grind [execQpush, State.memOk_modGraph, State.memOk_onMe, State.memOk_block, act, State.memOk_checked, State.memOk_sread, Out.memOk]

theorem memOk_execQpop (g : Guard) (a b c : R6) (fn : F4) : (execQpop g a b c fn s).memOk := by
  grind [execQpop, State.memOk_modGraph, State.memOk_onMe, State.memOk_block, State.memOk_blockAfter, act, State.memOk_checked,
    State.memOk_pend, Out.memOk]

theorem memOk_execQtry (g : Guard) (a b c : R6) (fn : F4) : (execQtry g a b c fn s).memOk := by
  grind [execQtry, State.memOk_wP, act, State.memOk_checked, Out.memOk]

theorem State.memOk_beforeBundle : (s.beforeBundle).memOk := by
  grind [State.beforeBundle, State.modLc_mem, State.memOk]

theorem memOk_execLaunch (g : Guard) (a b c : R6) (fn : F4) : (execLaunch g a b c fn s).memOk := by
  grind [execLaunch, State.memOk_onMe, State.memOk_raise, State.memOk_block, State.memOk_blockAfter, act, State.memOk_readGraph,
    State.memOk_addGraph, Out.memOk]

theorem State.memOk_barrierDone (x g : Nat) : (s.barrierDone x g).memOk := h

theorem memOk_execGbar (g : Guard) (a b c : R6) (fn : F4) : (execGbar g a b c fn s).memOk := by
  grind [execGbar, State.modCtx_mem, State.memOk_onMe, State.memOk_block, act, State.memOk_checked, State.memOk_syncStrong,
    State.memOk_barrierDone, State.memOk, Out.memOk]

theorem memOk_execSpecb (g : Guard) (a b c : R6) (fn : F4) : (execSpecb g a b c fn s).memOk := by
  grind [execSpecb, State.modLc_mem, State.memOk_raise, State.memOk_block, act, State.memOk, Out.memOk]

theorem State.memOk_closeRegion (commit : Bool) : (s.closeRegion commit).memOk := by
  grind [State.closeRegion, State.modLc_mem, State.memOk_raise, State.memOk_block, State.memOk_ltouch, State.memOk]

theorem memOk_execSpecc (g : Guard) (a b c : R6) (fn : F4) : (execSpecc g a b c fn s).memOk := memOk_act h _ (State.memOk_closeRegion h ..)

theorem memOk_execSpeca (g : Guard) (a b c : R6) (fn : F4) : (execSpeca g a b c fn s).memOk := memOk_act h _ (State.memOk_closeRegion h ..)

theorem memOk_execDgst (g : Guard) (a b c : R6) (fn : F4) : (execDgst g a b c fn s).memOk := by
  grind [execDgst, State.memOk_modGraph, State.memOk_onMe, State.memOk_block, State.memOk_blockAfter, act, State.memOk_checked, Out.memOk]

theorem State.memOk_epiEach (f : EpiLane → EpiLane) : (s.epiEach f).memOk := by
  grind [State.epiEach, State.modLc_mem, State.memOk]

theorem State.memOk_epiEnd (f : EpiLane → W32) : (s.epiEnd f).memOk := by
  grind [State.epiEnd, State.modLc_mem, State.memOk]

theorem memOk_execEndp (x y z : F4) : (execEndp x y z s).memOk := State.memOk_epiEnd h ..

theorem memOk_execCvt (x y z : F4) : (execCvt x y z s).memOk := State.memOk_epiEach h ..

theorem memOk_execAddv (x y z : F4) : (execAddv x y z s).memOk := State.memOk_epiEach h ..

theorem memOk_execMulv (x y z : F4) : (execMulv x y z s).memOk := State.memOk_epiEach h ..

theorem memOk_execFmav (x y z : F4) : (execFmav x y z s).memOk := State.memOk_epiEach h ..

theorem memOk_execAdds (x y z : F4) : (execAdds x y z s).memOk := State.memOk_epiEach h ..

theorem memOk_execMuls (x y z : F4) : (execMuls x y z s).memOk := State.memOk_epiEach h ..

theorem memOk_execRelum (x y z : F4) : (execRelum x y z s).memOk := State.memOk_epiEach h ..

theorem memOk_execClamp (x y z : F4) : (execClamp x y z s).memOk := State.memOk_epiEach h ..

theorem memOk_execLutp (x y z : F4) : (execLutp x y z s).memOk := State.memOk_epiEach h ..

theorem memOk_execMaxe (x y z : F4) : (execMaxe x y z s).memOk := State.memOk_epiEach h ..

theorem memOk_execMine (x y z : F4) : (execMine x y z s).memOk := State.memOk_epiEach h ..

theorem memOk_execMove (x y z : F4) : (execMove x y z s).memOk := State.memOk_epiEach h ..

theorem memOk_execCvtb (x y z : F4) : (execCvtb x y z s).memOk := State.memOk_epiEach h ..

theorem memOk_execMaskw (x y z : F4) : (execMaskw x y z s).memOk := State.memOk_epiEach h ..

theorem memOk_execQout (x y z : F4) : (execQout x y z s).memOk := State.memOk_epiEnd h ..

end

end Sys2Proof.Machine
end

section
/-! SUPPORT. Memory in canonical form (R176, log entry 4): the matrix array and the bulk transfer engines.
Settles MemoryCanonical. -/

namespace Sys2Proof.Machine

section
variable {s : State} (h : s.memOk)
include h

theorem State.memOk_modLink (l : Nat) (f : Link → Link) : (s.modLink l f).memOk := h

theorem State.memOk_snapEpload (l id : Nat) : (s.snapEpload l id).memOk := by
  grind [State.snapEpload, State.memOk_cbRead, State.memOk_modCmd, State.memOk_failCmd]

theorem memOk_execEngineCommandReady (lc cmd : Nat) : (execEngineCommandReady lc cmd s).memOk := by
  grind [execEngineCommandReady, State.modLc_mem, State.memOk_faultCmd, State.memOk_snapEpload, State.memOk, Out.memOk]

theorem State.memOk_startMloadw (l : Nat) (k : Cmd) : (s.startMloadw l k).memOk := by
  grind [State.startMloadw, State.memOk_ltouch, State.memOk_modCmd, State.memOk_faultCmd]

theorem memOk_execMloadwComplete (lc cmd : Nat) : (execMloadwComplete lc cmd s).memOk := by
  grind [execMloadwComplete, State.modLc_mem, State.memOk_ltouch, State.memOk_finish, State.memOk, Out.memOk]

theorem State.memOk_addSteps (l n : Nat) : (s.addSteps l n).memOk := by
  grind [State.addSteps, State.memOk]

theorem State.memOk_mmaRows (l : Nat) (k : Cmd) (n : Nat) : (s.mmaRows l k n).memOk :=
  State.memOk_foldl h _ fun _ _ hu => State.memOk_addSteps (State.memOk_ltouch hu ..) ..

theorem memOk_execMmaComplete (lc cmd : Nat) : (execMmaComplete lc cmd s).memOk := by
  grind [execMmaComplete, State.modLc_mem, State.memOk_finish, State.memOk_mmaRows, State.memOk, Out.memOk]

theorem memOk_execMzeroComplete (lc cmd : Nat) : (execMzeroComplete lc cmd s).memOk := by
  grind [execMzeroComplete, State.modLc_mem, State.memOk_finish, State.memOk, Out.memOk]

theorem State.memOk_maccldRows (l : Nat) (k : Cmd) (n : Nat) : (s.maccldRows l k n).memOk :=
  State.memOk_foldl h _ fun _ _ hu => State.memOk_ltouch hu ..

theorem memOk_execMaccldComplete (lc cmd : Nat) : (execMaccldComplete lc cmd s).memOk := by
  grind [execMaccldComplete, State.memOk_finish, State.memOk_arStep, State.memOk_maccldRows, Out.memOk]

theorem memOk_execEploadComplete (lc cmd : Nat) : (execEploadComplete lc cmd s).memOk := by
  grind [execEploadComplete, State.modLc_mem, State.memOk_cmdRead, State.memOk_modCmd, State.memOk_finish, State.memOk_faultCmd,
    State.memOk_failCmd, State.memOk, Out.memOk]

theorem State.memOk_prepareRow (l id : Nat) : (s.prepareRow l id).memOk := by
  grind [State.prepareRow, State.setLc_mem, State.memOk]

theorem State.memOk_drainEnd (l : Nat) (k : Cmd) : (s.drainEnd l k).memOk := by
  grind [State.drainEnd, State.memOk_finish, State.memOk_arStep]

theorem memOk_execMdrainRowWritten (lc cmd : Nat) : (execMdrainRowWritten lc cmd s).memOk := by
  grind [execMdrainRowWritten, State.modLc_mem, State.memOk_lwrite, State.memOk_arStep, State.memOk_prepareRow, State.memOk_drainEnd,
    State.memOk, Out.memOk]

theorem memOk_execMatrixCommandStart (lc cmd : Nat) : (execMatrixCommandStart lc cmd s).memOk := by
  grind [execMatrixCommandStart, State.memOk_modCmd, State.memOk_faultCmd, State.memOk_snapEpload, State.memOk_startMloadw,
    State.memOk_prepareRow, Out.memOk]

theorem State.memOk_bteFill (l : Nat) (k : Cmd) : (s.bteFill l k).2.memOk := by
  grind [State.bteFill, State.memOk_cmdRead]

theorem State.memOk_bteAccept (l : Nat) (k : Cmd) : (s.bteAccept l k).memOk := by
  have read := State.memOk_cbRead h l k (templateAt k.a.toNat) 128
  unfold State.bteAccept
  refine State.memOk_ite h ?_
  generalize s.cbRead l k (templateAt k.a.toNat) 128 = r at read ⊢
  obtain ⟨e | t, u⟩ := r
  · exact State.memOk_failCmd read ..
  · refine State.memOk_ite read (State.memOk_ite read ?_)
    grind [State.memOk_modCmd, State.memOk_bteFill, State.memOk_faultCmd, State.memOk_failCmd]

theorem memOk_execBteAccept (lc cmd : Nat) : (execBteAccept lc cmd s).memOk := by
  grind [execBteAccept, State.memOk_bteAccept, Out.memOk]

theorem State.memOk_readPiece (l : Nat) (k : Cmd) (e : End) (p : Int × Nat) : (s.readPiece l k e p).2.memOk := by
  grind [State.readPiece, State.memOk_ltouch, State.memOk_cmdRead]

theorem State.memOk_readPieces (l : Nat) (k : Cmd) (e : End) (ps : List (Int × Nat)) : (State.readPieces l k e ps s).2.memOk := by
  induction ps generalizing s with
  | nil => exact h
  | cons p ps ih => grind [State.readPieces, State.memOk_readPiece]

theorem State.memOk_srcUnit (l : Nat) (k : Cmd) (n : Nat) : (s.srcUnit l k n).2.memOk := by
  grind [State.srcUnit, State.memOk_readPieces]

theorem State.memOk_streamByte (l : Nat) (k : Cmd) (i : Nat) : (s.streamByte l k i).2.memOk := by
  grind [State.streamByte, State.memOk_srcUnit]

theorem State.memOk_streamBits (l : Nat) (k : Cmd) (pos nb : Nat) : (s.streamBits l k pos nb).2.memOk := by
  grind [State.streamBits, State.memOk_streamByte]

theorem State.memOk_decodeRun (l : Nat) (k : Cmd) (want mark : Nat) (fuel : Nat) (at0 : DecAt) (at1 : DecAt) (n : Nat) (vs : List Int) :
    (State.decodeRun l k want mark fuel s at0 at1 n vs).2.memOk := by
  induction fuel generalizing s at0 at1 n vs with
  | zero => exact h
  | succ fuel ih => grind [State.decodeRun, State.memOk_cmdRead, State.memOk_streamBits]

theorem State.memOk_decodeTo (l : Nat) (k : Cmd) (u1 u2 : Nat) : (s.decodeTo l k u1 u2).2.memOk := State.memOk_decodeRun h ..

theorem State.memOk_chunkData (l : Nat) (k : Cmd) (c : Nat) : (s.chunkData l k c).2.memOk := by
  unfold State.chunkData
  dsimp only
  split
  · have decoded := State.memOk_decodeTo h l k ((k.chunkUnits c).1 + (k.chunkUnits c).2) (k.chunkUnits (c + 1)).1
    generalize s.decodeTo l k ((k.chunkUnits c).1 + (k.chunkUnits c).2) (k.chunkUnits (c + 1)).1 = r at decoded ⊢
    obtain ⟨r, u⟩ := r
    cases r with
    | ok vals d =>
      refine List.foldlRecOn (motive := fun r : ChunkOut × State => r.2.memOk) _ _ decoded fun r hr i _ => ?_
      obtain ⟨r, v⟩ := r
      cases r with
      | ok raw out d =>
        have read := State.memOk_cmdRead hr l k (fld k.snap2 64 8 + (k.chunkUnits c).1 + i) 1
        dsimp only
        generalize v.cmdRead l k (fld k.snap2 64 8 + (k.chunkUnits c).1 + i) 1 = r at read ⊢
        obtain ⟨_ | _, _⟩ := r <;> exact read
      | stall => exact hr
      | fail => exact hr
      | bad => exact hr
    | stall => exact decoded
    | fail => exact decoded
    | bad => exact decoded
  · refine List.foldlRecOn (motive := fun r : ChunkOut × State => r.2.memOk) _ _ h fun r hr i _ => ?_
    obtain ⟨r, v⟩ := r
    cases r with
    | ok raw out d =>
      have read := State.memOk_srcUnit hr l k ((k.chunkUnits c).1 + i)
      dsimp only
      generalize v.srcUnit l k ((k.chunkUnits c).1 + i) = r at read ⊢
      obtain ⟨_ | _, _⟩ := r <;> exact read
    | stall => exact hr
    | fail => exact hr
    | bad => exact hr

theorem State.memOk_bteArrive (l : Nat) (k : Cmd) (b n : Nat) (m : Nat → ArRec → W64) : (s.bteArrive l k b n m).memOk := by
  grind [State.bteArrive, State.memOk_arStep]

theorem State.memOk_bteRst (l : Nat) (k : Cmd) (p : Nat × List Byte) : (s.bteRst l k p).memOk := by
  grind [State.bteRst, State.memOk_request]

theorem State.memOk_writable (l : Nat) (runs : List (Int × List Byte)) : (State.writable l runs s).2.memOk := by
  induction runs generalizing s with
  | nil => exact h
  | cons r runs ih => grind [State.writable, State.memOk_places]

theorem State.memOk_writeRuns (l : Nat) (k : Cmd) (runs : List (Int × List Byte)) (places : List (List (Loc × Nat))) :
    (s.writeRuns l k runs places).memOk :=
  State.memOk_foldl h _ fun u i hu => by
    dsimp only
    split
    · exact State.memOk_lwrite hu ..
    · exact State.memOk_foldl (State.memOk_modCmd hu ..) _ fun _ _ hv => State.memOk_bteRst hv ..
    · grind [State.memOk_vput, State.memOk_ownHeld, State.memOk_modCmd]

theorem State.memOk_dstUnits (l : Nat) (k : Cmd) (ns : List Nat) : (State.dstUnits l k ns s).2.memOk := by
  induction ns generalizing s with
  | nil => exact h
  | cons n ns ih => grind [State.dstUnits, State.memOk_readPieces]

theorem State.memOk_compareChunk (l : Nat) (k : Cmd) (raw : List Byte) : (s.compareChunk l k raw).memOk := by
  grind [State.compareChunk, State.memOk_modCmd, State.memOk_failCmd, State.memOk_bteArrive, State.memOk_dstUnits]

theorem State.memOk_moveChunk (l : Nat) (k : Cmd) : (s.moveChunk l k).memOk := by
  grind [State.moveChunk, State.memOk_modCmd, State.memOk_faultCmd, State.memOk_failCmd, State.memOk_chunkData, State.memOk_bteArrive,
    State.memOk_writable, State.memOk_writeRuns, State.memOk_compareChunk]

theorem memOk_execBteChunkPerformed (lc cmd : Nat) : (execBteChunkPerformed lc cmd s).memOk := by
  grind [execBteChunkPerformed, State.memOk_modCmd, State.memOk_failCmd, State.memOk_bteFill, State.memOk_moveChunk, Out.memOk]

theorem memOk_execDecodeStall (lc cmd : Nat) : (execDecodeStall lc cmd s).memOk := by
  grind [execDecodeStall, State.memOk_faultCmd, Out.memOk]

theorem memOk_execBteCommandComplete (lc cmd : Nat) : (execBteCommandComplete lc cmd s).memOk := by
  grind [execBteCommandComplete, State.memOk_lwrite, State.memOk_finish, State.memOk_bteArrive, Out.memOk]

theorem State.memOk_readLine (i : Nat) : (s.readLine i).memOk := by
  grind [State.readLine, State.memOk]

theorem memOk_execMonitoredLineInvalidate (line : Nat) : (execMonitoredLineInvalidate line s).memOk := by
  grind [execMonitoredLineInvalidate, State.memOk_readLine, Out.memOk]

end

end Sys2Proof.Machine
end

section
/-! SUPPORT. Memory in canonical form (R176, log entry 4): power, sensors, the event log and the management registers.
Settles MemoryCanonical. -/

namespace Sys2Proof.Machine

section
variable {s : State} (h : s.memOk)
include h

theorem State.memOk_told (e : Event) : (s.told e).memOk := h

theorem State.memOk_writeEvent : (s.writeEvent).memOk := by
  grind [State.writeEvent, State.memOk_pwrite, State.memOk_told, State.memOk]

theorem memOk_execEventLogWrite : (execEventLogWrite s).memOk := by
  grind [execEventLogWrite, State.memOk_writeEvent, Out.memOk]

omit h in
theorem State.memOk_replaced {f : State → State} (hf : (f s).memOk) : (s.replaced f).memOk := by
  grind [State.replaced, State.memOk_report]

theorem State.memOk_enterReset (p : Power) : (s.enterReset p).memOk := h

theorem State.memOk_loseTier : (s.loseTier).memOk :=
  s.memOk_filter _ h

theorem State.memOk_startKindling (cold : Bool) : (s.startKindling cold).memOk := by
  grind [State.startKindling, State.memOk_enterReset, State.memOk_loseTier, State.memOk]

theorem State.memOk_failKindling (code : Nat) : (s.failKindling code).memOk := h

theorem State.memOk_selfTest : (s.selfTest).memOk := State.memOk_replaced h ..

theorem State.memOk_clearMemory : (s.clearMemory).memOk :=
  State.memOk_replaced (s.memOk_filter _ h)

theorem State.memOk_armLines : (s.armLines).memOk := by
  grind [State.armLines, State.memOk_readLine, State.memOk_replaced, State.memOk]

theorem State.memOk_setReady : (s.setReady).memOk :=
  List.foldlRecOn (motive := State.memOk) _ _ h fun _ hu _ _ => State.memOk_readLine hu _

theorem State.memOk_kindle : (s.kindle).memOk := by
  grind [State.kindle, State.memOk_failKindling, State.memOk_selfTest, State.memOk_clearMemory, State.memOk_armLines,
    State.memOk_setReady, State.memOk]

theorem memOk_execPowerGood : (execPowerGood s).memOk := by
  grind [execPowerGood, State.memOk_startKindling, State.memOk, Out.memOk]

theorem memOk_execPackageResetAsserted : (execPackageResetAsserted s).memOk := by
  grind [execPackageResetAsserted, State.memOk_enterReset, Out.memOk]

theorem memOk_execPackageResetRelease : (execPackageResetRelease s).memOk := by
  grind [execPackageResetRelease, State.memOk_startKindling, Out.memOk]

theorem memOk_execKindlingTimeout : (execKindlingTimeout s).memOk := by
  grind [execKindlingTimeout, State.memOk_failKindling, Out.memOk]

theorem memOk_execModulePowerLoss : (execModulePowerLoss s).memOk := State.memOk_loseTier h ..

theorem State.memOk_sense (die sensor : Nat) (reading : W16) : (s.sense die sensor reading).memOk := by
  grind [State.sense, State.memOk]

theorem State.memOk_flushLog (fuel : Nat) : (State.flushLog fuel s).memOk := by
  induction fuel generalizing s with
  | zero => exact h
  | succ n ih => grind [State.flushLog, State.memOk_writeEvent]

theorem State.memOk_trip (die sensor : Nat) (reading : W16) : (s.trip die sensor reading).memOk := by
  have killed : ∀ (u : State) (xs : List Nat), u.memOk → (xs.foldl (fun s x => s.kill x 4 0 0) u).memOk :=
    fun u xs hu => State.memOk_foldl hu _ fun _ _ hv => State.memOk_of_mem (State.kill_mem ..) hv
  exact State.memOk_enterReset (by grind [State.memOk_report, State.memOk_sense, State.memOk_flushLog]) _

theorem State.memOk_reads (die sensor : Nat) (reading : W16) : (s.reads die sensor reading).memOk := by
  grind [State.reads, State.memOk_sense, State.memOk_trip]

theorem memOk_execBlockOverheat (die : Nat) (b : BlockReading) : (execBlockOverheat die b s).memOk := by
  grind [execBlockOverheat, State.memOk_sense, State.memOk_trip, State.memOk, Out.memOk]

theorem memOk_execBlockCooled (die : Nat) (b : BlockReading) : (execBlockCooled die b s).memOk := by
  grind [execBlockCooled, State.memOk_sense, State.memOk, Out.memOk]

theorem memOk_execThermalTrip (die : Nat) (reading : W16) : (execThermalTrip die reading s).memOk := by
  grind [execThermalTrip, State.memOk_trip, Out.memOk]

theorem memOk_execCoreRetirement (die core : Nat) : (execCoreRetirement die core s).memOk := by
  grind [execCoreRetirement, State.memOk_report, State.memOk_memErr, State.memOk_detach, State.memOk_replaced, State.memOk, Out.memOk]

theorem memOk_execHbmRepairRowsExhausted (die stack : Nat) : (execHbmRepairRowsExhausted die stack s).memOk := State.memOk_replaced h ..

theorem State.memOk_linkLanes (link lanes : Nat) : (s.linkLanes link lanes).memOk := by
  grind [State.linkLanes, State.memOk_report, State.memOk]

theorem memOk_execAblumLinkFailure (link : Nat) : (execAblumLinkFailure link s).memOk := State.memOk_linkLanes h ..

theorem memOk_execAblumLinkRetrained (link lanes : Nat) : (execAblumLinkRetrained link lanes s).memOk := State.memOk_linkLanes h ..

theorem memOk_execMgmtRegisterWrite (off : Nat) (bytes : List Byte) : (execMgmtRegisterWrite off bytes s).memOk := h

end

end Sys2Proof.Machine
end

section
/-! SUPPORT. Memory in canonical form (R176, log entry 4): links and the messages of the fabric. Settles MemoryCanonical. -/

namespace Sys2Proof.Machine

section
variable {s : State} (h : s.memOk)
include h

theorem State.memOk_send (l : Nat) (inj : Node) (r : Ring) (cw : Bool) (f : Flit) : (s.send l inj r cw f).memOk := by
  grind [State.send, State.memOk_modLink, State.memOk]

theorem State.memOk_passOn (n : Node) (r : Ring) (cw : Bool) (inj : Node) (f : Flit) : (s.passOn n r cw inj f).memOk := by
  grind [State.passOn, State.memOk_send, State.memOk]

theorem State.memOk_cutLink (l : Nat) (f : Link → Link) : (s.cutLink l f).memOk := h

theorem State.memOk_dropDead (f : Flit) : (s.dropDead f).memOk := by
  grind [State.dropDead, State.memOk]

theorem State.memOk_takeBack (n : Node) (r : Ring) (cw : Bool) (f : Flit) : (s.takeBack n r cw f).memOk := by
  grind [State.takeBack, State.memOk_dropDead, State.memOk]

theorem State.memOk_arrive (l : Nat) (n inj : Node) (r : Ring) (cw : Bool) (f : Flit) (again : Bool) :
    (s.arrive l n inj r cw f again).memOk := by
  grind [State.arrive, State.memOk_fabricEvent, State.memOk_passOn, State.memOk_cutLink, State.memOk_takeBack, State.memOk]

theorem State.memOk_settleAck (l : Nat) : (s.settleAck l).memOk := h

theorem State.memOk_keepDamaged (w : OnWire) (bs field sent : List Byte) : (s.keepDamaged w bs field sent).memOk := by
  unfold State.keepDamaged
  split
  · split
    · exact h
    · split
      · exact State.memOk_of_mem (s := ite _ _ _) rfl (State.memOk_ite (State.memOk_modLink h ..) h)
      · dsimp only
        split
        · exact State.memOk_passOn (State.memOk_cutLink (by exact h) ..) ..
        · exact State.memOk_cutLink (by exact h) ..
  · exact State.memOk_of_mem (s := ite _ _ _) rfl (State.memOk_ite (State.memOk_modLink h ..) h)

theorem State.memOk_endRecovery (l seq : Nat) : (s.endRecovery l seq).memOk := by
  grind [State.endRecovery, State.memOk_modLink, State.memOk]

theorem State.memOk_resend (l seq : Nat) (f : Flit) : (s.resend l seq f).memOk := h

theorem State.memOk_takeField (l : Nat) (field : List Byte) : (s.takeField l field).memOk := by
  grind [State.takeField, State.memOk_modLink, State.memOk_resend, State.memOk]

theorem State.memOk_receive (w : OnWire) (errs : List (Nat × Byte)) : (s.receive w errs).memOk := by
  grind [State.receive, State.memOk_arrive, State.memOk_settleAck, State.memOk_keepDamaged, State.memOk_endRecovery, State.memOk_takeField]

theorem State.memOk_emptySlot (l : Nat) : (s.emptySlot l).memOk := by
  grind [State.emptySlot, State.memOk_takeField]

theorem memOk_execLinkFlitReceive (w : WireSrc) (errs : List (Nat × Byte)) : (execLinkFlitReceive w errs s).memOk := by
  unfold execLinkFlitReceive
  split
  · split
    · exact State.memOk_emptySlot h _
    · exact Out.memOk_ite h (State.memOk_receive (by exact h) ..)
  · exact Out.memOk_ite h (State.memOk_receive (State.memOk_ite h (State.memOk_modLink h ..)) ..)

theorem State.memOk_modRecov (i : Nat) (f : Recovery → Recovery) : (s.modRecov i f).memOk := h

theorem memOk_execNakReceived (i : Nat) : (execNakReceived i s).memOk := by
  grind [execNakReceived, State.memOk_modRecov, State.memOk, Out.memOk]

theorem memOk_execPar (i : Nat) (errs : List (Nat × Byte)) : (execPar i errs s).memOk := by
  grind [execPar, State.memOk_arrive, State.memOk_settleAck, State.memOk_endRecovery, State.memOk_takeField, State.memOk_modRecov,
    Out.memOk]

theorem memOk_execNakRepeatTimeout (i : Nat) : (execNakRepeatTimeout i s).memOk := by
  grind [execNakRepeatTimeout, State.memOk_modRecov, Out.memOk]

theorem State.memOk_drainLink (l : Nat) : (s.drainLink l).memOk := by
  unfold State.drainLink
  dsimp only
  split
  · exact State.memOk_foldl (State.memOk_modLink (by exact h) ..) _ fun _ _ hu => State.memOk_passOn hu ..
  · exact State.memOk_modLink (by exact h) ..

theorem memOk_execSegmentFailure (link : Nat) : (execSegmentFailure link s).memOk := by
  grind [execSegmentFailure, State.memOk_cutLink, State.memOk_drainLink, Out.memOk]

theorem memOk_execLinkRetrainDone (link : Nat) (fewer : Bool) : (execLinkRetrainDone link fewer s).memOk := by
  grind [execLinkRetrainDone, State.memOk_modLink, State.memOk_tick, State.memOk_fabricEvent, State.memOk_stillStuck,
    State.memOk_replaced, State.memOk, Out.memOk]

theorem State.memOk_injected (f : Flit) : (s.injected f).memOk := by
  grind [State.injected, State.memOk]

theorem State.memOk_sendAllHeld : (s.sendAllHeld).memOk :=
  State.memOk_foldl h _ fun _ _ hu => State.memOk_sendHeld hu ..

theorem memOk_execFlitInject (i : Nat) : (execFlitInject i s).memOk := by
  grind [execFlitInject, State.memOk_passOn, State.memOk_injected, State.memOk_sendAllHeld, State.memOk, Out.memOk]

theorem memOk_execRefusedFlitRetry (i : Nat) : (execRefusedFlitRetry i s).memOk := by
  grind [execRefusedFlitRetry, State.memOk, Out.memOk]

theorem memOk_execFlitAtExitNode (i : Nat) (free reserve : Bool) : (execFlitAtExitNode i free reserve s).memOk := by
  grind [execFlitAtExitNode, State.memOk_wait, State.memOk_passOn, State.memOk, Out.memOk]

omit h in
theorem State.memOk_of_answer {i typ : Nat} {t : Txn} {f : Flit} {u : State} (h : s.memOk) (e : s.answer i typ = some (t, f, u)) :
    u.memOk := by
  grind [State.answer, State.memOk_sendAllHeld, State.memOk]

theorem State.memOk_dropInbox (i typ : Nat) : (s.dropInbox i typ).memOk := by
  grind [State.dropInbox, State.memOk_sendAllHeld, State.memOk]

theorem State.memOk_failed (t : Txn) (op : Nat) : (s.failed t op).memOk := State.memOk_memErr h ..

theorem State.memOk_farAcquire (t : Nat) (e : Access) : (s.farAcquire t e).memOk := by
  grind [State.farAcquire, State.memOk_syncStrong]

theorem memOk_execRstack (i : Nat) : (execRstack i s).memOk := by
  unfold execRstack
  split
  · exact State.memOk_dropInbox h ..
  · next u e =>
    have hu := State.memOk_of_answer h e
    refine Out.memOk_ite (State.memOk_failed hu ..) ?_
    split
    · exact hu
    · exact hu
    · exact hu
    · grind [Out.memOk, State.memOk_dirtyAcc, State.memOk_retire]
    · grind [Out.memOk, State.memOk_bteArrive]
    · exact hu

theorem memOk_execRlddata (i : Nat) : (execRlddata i s).memOk := by
  unfold execRlddata
  split
  · exact State.memOk_dropInbox h ..
  · next u e =>
    have hu := State.memOk_of_answer h e
    refine Out.memOk_ite (State.memOk_failed hu ..) ?_
    split
    · exact State.memOk_lwrite hu ..
    · grind [Out.memOk, State.memOk_deliver, State.memOk_farAcquire, State.memOk_retire]
    · exact hu
    · exact hu
    · exact hu
    · exact hu

theorem State.memOk_atomicDone (k n : Nat) (e : Access) (old : Nat) (wrote : Bool) : (s.atomicDone k n e old wrote).memOk := by
  grind [State.atomicDone, State.memOk_retire, State.memOk_deliver, State.memOk_dirtyAcc, State.memOk_farAcquire]

theorem State.memOk_ratAnswer (k num : Nat) (old : Nat) : (s.ratAnswer k num old).memOk := by
  grind [State.ratAnswer, State.modStrand_mem, State.memOk_retire, State.memOk_dirtyAcc, State.memOk_atomicDone, State.memOk]

theorem memOk_execRatdata (i : Nat) : (execRatdata i s).memOk := by
  unfold execRatdata
  split
  · exact State.memOk_dropInbox h ..
  · next u e =>
    have hu := State.memOk_of_answer h e
    refine Out.memOk_ite (State.memOk_failed hu ..) ?_
    split
    · exact hu
    · exact State.memOk_ratAnswer hu ..
    · exact hu
    · exact hu
    · exact hu
    · exact hu

omit h in
theorem State.memOk_of_atTarget {i typ d : Nat} {f : Flit} {u : State} (h : s.memOk) (e : s.atTarget i typ = some (d, f, u)) : u.memOk := by
  grind [State.atTarget, State.memOk_injected, State.memOk]

theorem State.memOk_sawUnits (t : Nat) (e : Access) (pa n : Nat) : (s.sawUnits t e pa n).memOk :=
  State.memOk_foldl (by exact h) (unitsOf pa n) fun _ u hu => State.memOk_overtake hu t e (u / 8)

theorem State.memOk_rstData (f : Flit) : (s.rstData f).memOk := by
  grind [State.rstData, State.memOk_mark, State.memOk_pwrite, State.memOk_sawStore, State.memOk_sawUnits]

theorem State.memOk_rstFlag (d : Nat) (f : Flit) : (s.rstFlag d f).memOk := by
  grind [State.rstFlag, State.memOk_mark, State.memOk_pwrite]

theorem memOk_execRstAtTarget (i : Nat) : (execRstAtTarget i s).memOk := by
  grind [execRstAtTarget, State.memOk_wait, State.memOk_of_atTarget, State.memOk_rstData, State.memOk_rstFlag, Out.memOk]

theorem State.memOk_rldUnits (k : Nat) (e : Access) (v : Nat) (us : List Nat) : (s.rldUnits k e v us).2.memOk := by
  induction us generalizing s v with
  | nil => exact h
  | cons u us ih => exact ih (State.memOk_sawLoad h ..) _

theorem memOk_execRldAtTarget (i : Pick) : (execRldAtTarget i s).memOk := by
  grind [execRldAtTarget, State.memOk_wait, State.memOk_of_atTarget, State.memOk_rldUnits, Out.memOk]

theorem State.memOk_ratWrite (f : Flit) (old : Nat) : (s.ratWrite f old).memOk := by
  grind [State.ratWrite, State.memOk_mark, State.memOk_pwrite, State.memOk_sawLoad, State.memOk_sawStore]

theorem memOk_execRatAtTarget (i : Nat) : (execRatAtTarget i s).memOk := by
  grind [execRatAtTarget, State.memOk_wait, State.memOk_of_atTarget, State.memOk_ratWrite, Out.memOk]

theorem State.memOk_of_answerError (i : Nat) : (s.answerError i).memOk := by
  grind [State.answerError, State.memOk_wait, State.memOk_injected, State.memOk]

theorem memOk_execMgmt (i : Nat) : (execMgmt i s).memOk := State.memOk_dropInbox h ..

theorem memOk_execUnreachTimeout (i : Nat) : (execUnreachTimeout i s).memOk := by
  grind [execUnreachTimeout, State.memOk_memErr, State.memOk_fabricEventOf, State.memOk_wait, State.memOk_injected, State.memOk, Out.memOk]

end

end Sys2Proof.Machine
end

section
/-! SUPPORT. Memory in canonical form (R176, log entry 4): the sketch units. Settles MemoryCanonical. -/

namespace Sys2Proof.Machine

section
variable {s : State} (h : s.memOk)
include h

theorem State.memOk_sketchFail (l : Nat) (k : Cmd) (f : Option Fail) (a : Acc) : (s.sketchFail l k f a).memOk := by
  unfold State.sketchFail
  split
  · exact h
  · exact h
  · exact State.memOk_failAt h ..

theorem State.memOk_skPages (l : Nat) (d : List Byte) (a : Acc) : (s.skPages l d a).2.memOk :=
  List.foldlRecOn (motive := fun r : Except (Option Fail) Nat × State => r.2.memOk) _ _ h fun _ hr _ _ => by
    grind [State.memOk_reach1]

theorem State.memOk_skUse (l va place : Nat) (a : Acc) (rd : Bool) : (s.skUse l va place a rd).2.memOk := by
  grind [State.skUse, State.memOk_reach1]

theorem State.memOk_skUses (l place : Nat) (vas : List Nat) : (State.skUses l place vas s).2.memOk := by
  induction vas generalizing s place with
  | nil => exact h
  | cons va vas ih => grind [State.skUses, State.memOk_skUse]

theorem State.memOk_skPut (l : Nat) (c : SkCell) (v : Int) : (s.skPut l c v).memOk := State.memOk_vput h ..

theorem State.memOk_skAddTo (l id : Nat) (c : SkCell) (d : Int) : (s.skAddTo l id c d).1.memOk := State.memOk_skPut h ..

theorem State.memOk_skAddAll (l id : Nat) (adds : List (SkCell × Int)) : (s.skAddAll l id adds).1.memOk := by
  induction adds generalizing s with
  | nil => exact h
  | cons e adds ih => exact ih (State.memOk_skAddTo h ..)

theorem State.memOk_skSatAt (l desc : Nat) (sat : Bool) : (s.skSatAt l desc sat).2.memOk := by
  grind [State.skSatAt, State.memOk_reach]

theorem State.memOk_skSat (l desc : Nat) (ps : List (Loc × Nat)) : (s.skSat l desc ps).memOk := by
  grind [State.skSat, State.memOk_vput]

theorem State.memOk_skKey (l : Nat) (k : Cmd) (i : Nat) : (s.skKey l k i).2.memOk := State.memOk_ltouch h ..

theorem State.memOk_skDone (l id place place2 : Nat) : (s.skDone l id place place2).memOk := h

theorem State.memOk_skUpdate (l : Nat) (k : Cmd) (i : Nat) : (s.skUpdate l k i).memOk := by
  have read := State.memOk_skKey (State.memOk_ltouch h l (bitsOf k.b.toNat 51 32 + 4 * i) 4) l k i
  unfold State.skUpdate
  dsimp only
  generalize (s.ltouch l (bitsOf k.b.toNat 51 32 + 4 * i) 4).skKey l k i = r at read ⊢
  obtain ⟨key, u⟩ := r
  dsimp only
  split
  · split
    · next e => exact State.memOk_sketchFail (State.memOk_of_eq e (State.memOk_skSatAt read ..)) ..
    · next e => exact State.memOk_skDone (State.memOk_skSat (State.memOk_of_eq e (State.memOk_skSatAt read ..)) ..) ..
  · split
    · next e => exact State.memOk_sketchFail (State.memOk_of_eq e (State.memOk_skUses read ..)) ..
    · next used =>
      have used := State.memOk_of_eq used (State.memOk_skUses read ..)
      split
      · next e => exact State.memOk_sketchFail (State.memOk_of_eq e (State.memOk_skSatAt used ..)) ..
      · next e =>
        have sat := State.memOk_of_eq e (State.memOk_skSatAt used ..)
        exact State.memOk_skDone (State.memOk_skSat (State.memOk_skAddAll sat ..) ..) ..

theorem State.memOk_skResult (l : Nat) (k : Cmd) (i place : Nat) (ts : List Int) : (s.skResult l k i place ts).memOk := by
  grind [State.skResult, State.memOk_lwrite, State.memOk_modCmd, State.memOk_arStep, State.memOk_skDone]

theorem State.memOk_skQuery (l : Nat) (k : Cmd) (i : Nat) : (s.skQuery l k i).memOk := by
  have keyed := State.memOk_skKey h l k i
  -- `skUse` stands as a variable: at its arguments the kernel would evaluate the translation where the body is put in.
  obtain ⟨use, eu⟩ : ∃ f, f = State.skUse := ⟨_, rfl⟩
  have used : ∀ (u : State) (va place : Nat) (a : Acc) (rd : Bool), u.memOk → (use u l va place a rd).2.memOk :=
    fun _ _ _ _ _ hu => eu ▸ State.memOk_skUse hu ..
  obtain ⟨query, e⟩ : ∃ f, f = State.skQuery := ⟨_, rfl⟩
  rw [← e]
  delta State.skQuery at e
  rw [← eu] at e
  rw [e]
  dsimp only
  split
  · next e => exact State.memOk_sketchFail (State.memOk_modCmd (State.memOk_of_eq e (used _ _ _ _ _ keyed)) ..) ..
  · next e =>
    have got := State.memOk_of_eq e (used _ _ _ _ _ keyed)
    exact State.memOk_ite (State.memOk_modCmd got ..) (State.memOk_skResult got ..)

theorem State.memOk_skAddOne (l : Nat) (k : Cmd) (i : Nat) : (s.skAddOne l k i).memOk := by
  grind [State.skAddOne, State.memOk_sketchFail, State.memOk_skUse, State.memOk_skAddTo, State.memOk_skSatAt, State.memOk_skSat,
    State.memOk_skDone]

theorem State.memOk_skClearOne (l : Nat) (k : Cmd) (i : Nat) : (s.skClearOne l k i).memOk := by
  grind [State.skClearOne, State.memOk_modCmd, State.memOk_sketchFail, State.memOk_skUse, State.memOk_skPut, State.memOk_skDone]

theorem State.memOk_sketchUnit (l : Nat) (k : Cmd) : (s.sketchUnit l k).memOk := by
  grind [State.sketchUnit, State.memOk_skUpdate, State.memOk_skQuery, State.memOk_skAddOne, State.memOk_skClearOne]

theorem State.memOk_sketchRun (l id goal : Nat) (fuel : Nat) : (State.sketchRun l id goal fuel s).memOk := by
  induction fuel generalizing s with
  | zero => exact h
  | succ n ih => grind [State.sketchRun, State.memOk_sketchUnit]

theorem State.memOk_sketchTake (l : Nat) (k : Cmd) : (s.sketchTake l k).memOk := by
  have read := State.memOk_cbRead h l k k.a.toNat 64
  unfold State.sketchTake
  generalize s.cbRead l k k.a.toNat 64 = r at read ⊢
  obtain ⟨e | d, u⟩ := r
  · exact State.memOk_sketchFail read ..
  · refine State.memOk_ite (State.memOk_faultCmd read ..) ?_
    have pages := State.memOk_skPages read l d (if k.kind = .skqry then Acc.read else Acc.write)
    dsimp only
    generalize u.skPages l d (if k.kind = .skqry then Acc.read else Acc.write) = r at pages ⊢
    obtain ⟨e | p, v⟩ := r
    · exact State.memOk_sketchFail pages ..
    · refine State.memOk_ite (State.memOk_modCmd pages ..) ?_
      grind [State.memOk_cbRead, State.memOk_sketchFail, State.memOk_faultCmd, State.memOk_skPages, State.memOk_modCmd]

theorem memOk_execSketchAccept (lc cmd : Nat) : (execSketchAccept lc cmd s).memOk := by
  grind [execSketchAccept, State.memOk_sketchTake, Out.memOk]

theorem memOk_execSketchCommandComplete (lc : Nat) (u : UnitRun) : (execSketchCommandComplete lc u s).memOk := by
  grind [execSketchCommandComplete, State.memOk_finish, State.memOk_arStep, State.memOk_sketchRun, Out.memOk]

end

end Sys2Proof.Machine
end

section
/-! SUPPORT. Memory in canonical form (R176, log entry 4): fetching, stops and freezes, and digest checkpoints.
Settles MemoryCanonical. -/

namespace Sys2Proof.Machine



section
variable {s : State} (h : s.memOk)
include h

theorem State.memOk_lineAt (c : Nat) (pc : W64) : (s.lineAt c pc).2.memOk := by
  grind [State.lineAt, State.memOk_reach1]

theorem State.memOk_fetchFrom (c fuel : Nat) (pc : W64) : (State.fetchFrom c fuel s pc).2.memOk := by
  induction fuel generalizing s pc with
  | zero => exact h
  | succ fuel ih =>
    have hl := State.memOk_lineAt h c pc
    rw [State.fetchFrom]
    generalize s.lineAt c pc = r at hl ⊢
    obtain ⟨t | bs, u⟩ := r
    · exact hl
    · dsimp only
      split
      · exact hl
      · exact ih hl _
      · exact hl
      · exact hl

theorem State.memOk_fetch (t : Nat) : (s.fetch t).2.memOk := State.memOk_fetchFrom h ..

theorem State.memOk_prepare (t : Nat) (pc : W64) (b : Bundle) (is : List (Nat × Instr)) : (s.prepare t pc b is).memOk := h

theorem State.memOk_attempt (t : Nat) : (s.attempt t).2.memOk := by
  grind [State.attempt, State.memOk_fetch, State.memOk_prepare]

theorem memOk_slotWait (i : Instr) : (slotWait i s).memOk := by
  unfold slotWait
  split
  · exact memOk_execWaitf h _ _ _
  · exact memOk_execSts h _ _ _ _ _
  · exact memOk_execBteStart h _ _ _ _ _
  · exact memOk_execRst h _ _ _ _ _ _
  · exact memOk_execRld h _ _ _ _ _ _
  · exact memOk_execRat h _ _ _ _ _ _
  · exact memOk_execFence h _ _ _ _ _ _
  · exact memOk_execCbfence h _
  · exact memOk_execTinv h _ _ _ _ _ _
  · exact memOk_execMma h _ _ _ _ _
  · exact memOk_execMloadw h _ _ _ _ _
  · exact memOk_execMdrain h _ _ _ _ _
  · exact memOk_execMzero h _ _ _ _ _
  · exact memOk_execMaccld h _ _ _ _ _
  · exact memOk_execEpload h _ _ _ _ _
  · exact memOk_execArwait h _ _ _ _ _
  · exact memOk_execArwaitm h _ _ _ _ _
  · exact memOk_execEfence h _ _ _ _ _
  · exact memOk_execSkupd h _ _ _ _ _
  · exact memOk_execSkqry h _ _ _ _ _
  · exact memOk_execSkadd h _ _ _ _ _
  · exact memOk_execSkclr h _ _ _ _ _
  · exact memOk_execColl h _ _ _ _ _
  · exact memOk_execQpush h _ _ _ _ _
  · exact memOk_execQpop h _ _ _ _ _
  · exact memOk_execLaunch h _ _ _ _ _
  · exact memOk_execGbar h _ _ _ _ _
  · exact memOk_execSpecb h _ _ _ _ _
  · exact memOk_execSpecc h _ _ _ _ _
  · exact memOk_execSpeca h _ _ _ _ _
  · exact memOk_execDgst h _ _ _ _ _
  · exact h

theorem State.memOk_slotFate (slot : Nat) (i : Instr) : (s.slotFate slot i).memOk := by
  unfold State.slotFate
  split
  · exact State.memOk_of_next ‹_› (memOk_slotWait (by exact h) i)
  · exact h
  · exact h

theorem State.memOk_stepTrap (t info : Nat) : (s.stepTrap t info).memOk := by
  grind [State.stepTrap, State.modStrand_mem, State.memOk_enterTrap, State.memOk]

theorem State.memOk_stepDrain (t : Nat) (ids : List Nat) : (s.stepDrain t ids).memOk := by
  grind [State.stepDrain, State.modStrand_mem, State.memOk_enterTrap, State.memOk_markReported, State.memOk_stepTrap, State.memOk]

theorem memOk_execStrandReady (k : Nat) : (execStrandReady k s).memOk := by
  grind [execStrandReady, State.modStrand_mem, State.memOk_enterTrap, State.memOk_stepDrain, State.memOk, Out.memOk]

theorem memOk_execRebalance (die : Nat) : (execRebalance die s).memOk := by
  grind [execRebalance, State.memOk_rebalance, Out.memOk]

theorem State.memOk_startStop (x : Nat) (cause : StopCause) : (s.startStop x cause).memOk := h

theorem State.memOk_releaseStop (x : Nat) : (s.releaseStop x).memOk := State.memOk_of_mem (s.releaseStop_mem x) h

theorem State.memOk_ackStop (x : Nat) (i : StopInst) : (s.ackStop x i).memOk := h

theorem State.memOk_stopStep (t : Nat) : (s.stopStep t).memOk := by
  grind [State.stopStep, State.memOk_stepTrap, State.memOk_stepDrain]

theorem State.memOk_stopStrands (l : Nat) : (s.stopStrands l).memOk := by
  unfold State.stopStrands
  have stopped := State.memOk_foldl h (strandsOf l) fun u t hu => State.memOk_stopStep hu t
  refine State.memOk_of_mem (State.modLc_mem _ _ _) (State.memOk_foldl stopped _ fun u t hu => ?_)
  exact State.memOk_ite (by exact hu) hu

theorem State.memOk_stopRows (l units : Nat) : (s.stopRows l units).memOk := by
  grind [State.stopRows, State.memOk_mmaRows, State.memOk_maccldRows]

theorem State.memOk_stopSketch (x d units : Nat) : (s.stopSketch x d units).memOk := by
  unfold State.stopSketch
  refine State.memOk_foldl h _ fun u l hu => State.memOk_ite hu (State.memOk_foldl hu _ fun v k hv => State.memOk_ite ?_ hv)
  exact State.memOk_modCmd (State.memOk_sketchRun hv _ _ _ _) _ _ _

theorem memOk_execEngineStopAck (slot : Nat) (inst : StopInst) (units : Nat) : (execEngineStopAck slot inst units s).memOk := by
  grind [execEngineStopAck, State.modLc_mem, State.memOk_ackStop, State.memOk_stopStrands, State.memOk_stopRows, State.memOk_stopSketch,
    State.memOk, Out.memOk]

theorem State.memOk_noteSaturation (x : Nat) : (s.noteSaturation x).memOk := by
  refine State.memOk_foldl h _ fun u l hu => State.memOk_foldl hu _ fun v k hv => ?_
  grind [State.memOk_arSat]

theorem State.memOk_noteUnsaid (x : Nat) (img : List Byte) : (s.noteUnsaid x img).memOk := h

theorem State.memOk_renoteUnsaid (old new : List Byte) : (s.renoteUnsaid old new).memOk := by
  grind [State.renoteUnsaid, State.memOk]

theorem State.memOk_finishFreeze (x : Nat) (r : CmdRec) : (s.finishFreeze x r).memOk := by
  grind [State.finishFreeze, State.memOk_cmdDone, State.memOk_release, State.memOk_pwrite, State.memOk_releaseStop,
    State.memOk_noteUnsaid, State.memOk_renoteUnsaid]

theorem memOk_execFreezeTimeout (slot : Nat) : (execFreezeTimeout slot s).memOk := by
  grind [execFreezeTimeout, State.memOk_cmdDone, State.memOk_releaseStop, Out.memOk]

theorem State.memOk_discardWork (x gid : Nat) (fam : List Nat) : (s.discardWork x gid fam).memOk := by
  unfold State.discardWork
  dsimp only
  refine State.memOk_foldl (State.memOk_foldl (State.memOk_foldl h _ fun u t hu => ?_) _ fun u b hu => ?_) _ fun _ _ hu => hu
  · exact State.memOk_ite hu (State.memOk_ite hu hu)
  · exact State.memOk_ite hu hu

theorem State.memOk_beginSerial (x gid n : Nat) : (s.beginSerial x gid n).memOk := by
  grind [State.beginSerial, State.modCtx_mem, State.memOk_releaseStop, State.memOk_noteUnsaid, State.memOk_discardWork, State.memOk]

theorem memOk_execPreemptionComplete (slot : Nat) : (execPreemptionComplete slot s).memOk := by
  grind [execPreemptionComplete, State.memOk_finishFreeze, State.memOk_beginSerial, Out.memOk]

theorem State.memOk_dgstMis (x n flags : Nat) (g : Graph) : (s.dgstMis x n flags g).memOk := State.memOk_report h ..

theorem State.memOk_dgstKill (x n flags : Nat) (g : Graph) (epc : W64) : (s.dgstKill x n flags g epc).memOk := by
  grind [State.dgstKill, State.kill_mem, State.memOk_dgstMis, State.memOk]

theorem State.memOk_dgstLet (ws : List Nat) : (s.dgstLet ws).memOk := State.memOk_foldl h ws fun _ _ hu => hu

theorem State.memOk_dgstPass (x n : Nat) (ws : List Nat) : (s.dgstPass x n ws).memOk := State.memOk_foldl (by exact h) ws fun _ _ hu => hu

theorem State.memOk_requeueFreeze (x : Nat) : (s.requeueFreeze x).memOk := by
  grind [State.requeueFreeze, State.modCtx_mem, State.memOk]

theorem State.memOk_dgstCheck (x n : Nat) (g : Graph) (fam : List Graph) : (s.dgstCheck x n g fam).memOk := by
  have hr := State.memOk_vread h (launchLc x) (((s.ctx x).dgsttab + 16 * n) % 2 ^ 64) 16
  unfold State.dgstCheck
  dsimp only
  split
  · exact State.memOk_dgstKill (State.memOk_of_eq ‹_› hr) x n 2 g _
  next bs u e =>
    have hu : u.memOk := State.memOk_of_eq e hr
    split
    · have hw := State.memOk_vwrite hu (launchLc x) (((s.ctx x).dgsttab + 16 * n) % 2 ^ 64)
        (leBytes 8 (s.dgstSum x n fam).toNat ++ leBytes 1 (fld bs 8 1 - 1))
      split
      · exact State.memOk_dgstKill (State.memOk_of_eq ‹_› hw) x n 2 g _
      · exact State.memOk_dgstPass (State.memOk_of_eq ‹_› hw) x n _
    · refine State.memOk_ite (State.memOk_dgstPass hu x n _) (State.memOk_startStop (State.memOk_requeueFreeze ?_ x) x _)
      exact State.memOk_foldl (State.memOk_dgstMis hu x n 0 g) _ fun _ _ hv => hv

theorem State.memOk_endSerial (x : Nat) (g : Graph) (r : Serial) : (s.endSerial x g r).memOk := by
  have hw := State.memOk_vwrite h (launchLc x) (((s.ctx x).dgsttab + 16 * r.n) % 2 ^ 64) (leBytes 8 r.v.toNat)
  unfold State.endSerial
  generalize s.vwrite _ _ _ = r' at hw ⊢
  obtain ⟨e | a, u⟩ := r'
  · exact State.memOk_dgstKill hw x r.n 2 g 0
  · exact State.memOk_foldl (by exact hw) _ fun v i hv => State.memOk_freeStage hv x g.gid i

theorem memOk_execDgstCheckpoint (slot gid n : Nat) : (execDgstCheckpoint slot gid n s).memOk := by
  grind [execDgstCheckpoint, State.memOk_dgstKill, State.memOk_dgstLet, State.memOk_dgstCheck, State.memOk_endSerial, Out.memOk]

end

end Sys2Proof.Machine
end

section
/-! SUPPORT. Memory in canonical form (R176, log entry 4): the host's commands, queries and accesses.
Settles MemoryCanonical. -/

namespace Sys2Proof.Machine

section
variable {s : State} (h : s.memOk)
include h

theorem State.memOk_complete (i : Nat) (r : CmdRec) (status result : Nat) : (s.complete i r status result).memOk :=
  State.memOk_cmdDone (by exact h) ..

theorem State.memOk_perform (i opc : Nat) {f : CmdRec → State} (hf : ∀ r, (f r).memOk) : (s.perform i opc f).memOk := by
  unfold State.perform
  split
  · exact h
  · exact Out.memOk_ite h (Out.memOk_ite (State.memOk_complete h i _ _ _) (Out.memOk_ite h (hf _)))

theorem State.memOk_performFor (i opc : Nat) {f : CmdRec → Nat → State} (hf : ∀ r x, (f r x).memOk) :
    (s.performFor i opc f).memOk := by
  refine State.memOk_perform h i opc fun r => ?_
  split
  · exact State.memOk_complete h i r _ _
  · exact hf r _

theorem State.memOk_claim (x : Nat) (as' : List Nat) : (s.claim x as').memOk := h

theorem State.memOk_readGroup (x : Nat) (e : List Byte) : (s.readGroup x e).2.memOk := by
  have hr := State.memOk_vread h (launchLc x) (fld e 0 8) (8 * cdiv (s.ctx x).nlc 64)
  unfold State.readGroup
  dsimp only
  split
  · exact h
  split
  · exact h
  generalize s.vread _ _ _ = r at hr ⊢
  obtain ⟨t | bs, u⟩ := r
  · exact hr
  · exact hr

theorem State.memOk_readGroups (x : Nat) : (s.readGroups x).2.memOk := by
  have hr := State.memOk_vread h (launchLc x) (s.ctx x).grptab 4096
  unfold State.readGroups
  dsimp only
  split
  · exact h
  generalize s.vread _ _ _ = r at hr ⊢
  obtain ⟨t | t, u⟩ := r
  · exact hr
  refine List.foldlRecOn (motive := fun (r : List Byte × Option (List (List Nat)) × State) => r.2.2.memOk) _ _ hr fun r hu _ _ => ?_
  split
  · exact hu
  · have hg := State.memOk_readGroup hu x (r.1.take 16)
    split
    · exact State.memOk_of_eq ‹_› hg
    · exact State.memOk_of_eq ‹_› hg

theorem State.memOk_placeOne (l : Nat) : (s.placeOne l).memOk := by
  obtain ⟨ls, b, e⟩ := s.placeOne_eq l
  rw [e]
  exact h

theorem State.memOk_placeAll (x : Nat) : (s.placeAll x).memOk := State.memOk_foldl h _ fun _ l hu => State.memOk_placeOne hu l

theorem State.memOk_orNoSwap (x : Nat) {u : State} {y : Nat} (e : s.orNoSwap x = .ok (u, y)) : u.memOk := by
  grind [State.orNoSwap]

theorem State.memOk_createCtx (a : Nat) {u : State} {y : Nat} (e : s.createCtx a = .ok (u, y)) : u.memOk := by
  unfold State.createCtx at e
  dsimp only at e
  split at e
  · cases e
  split at e
  · cases e
  split at e
  · cases e
  next x _ =>
  split at e
  · cases e
  split at e
  · cases e
  have hr := State.memOk_readGroups (s := s.setCtx x (ctxOf (s.pread a 64) (tget 1 s.gens x) s.cycle)) (by exact h) x
  split at e
  · cases e
  next gs v e' =>
  have hv := State.memOk_of_eq e' hr
  split at e
  · cases e
  split at e
  · cases e
  · exact State.memOk_orNoSwap (State.memOk_placeAll (State.memOk_claim (by exact hv) x _) x) x e

theorem State.memOk_made (i : Nat) (r : CmdRec) (m : Made) (hm : ∀ u x, m = .ok (u, x) → u.memOk) : (s.made i r m).memOk := by
  unfold State.made
  split
  · exact State.memOk_complete h i r _ 0
  next u x => exact State.memOk_cmdDone (by exact hm u x rfl) r _ _ _

theorem memOk_execCreate (i : Nat) :
    (execCreate i s).memOk := State.memOk_perform h i 1 fun r => State.memOk_made h i r _ fun _ _ e => State.memOk_createCtx h _ e

theorem memOk_execLaunchRecord (i : Nat) : (execLaunchRecord i s).memOk := by
  refine State.memOk_performFor h i 2 fun r x => ?_
  have hr := State.memOk_readGraph h x (recArg r.bytes 0)
  have hc := State.memOk_complete h i r
  dsimp only
  split
  · exact hc _ 0
  refine State.memOk_ite (hc _ 0) ?_
  split
  · exact hc _ 0
  next d u e =>
    refine State.memOk_ite (hc _ 0) ?_
    split
    · exact hc _ 0
    · refine State.memOk_ite (hc _ 0) (State.memOk_complete ?_ i r _ _)
      exact State.memOk_bind (State.memOk_addGraph (State.memOk_of_eq e hr) x _) _ _

theorem memOk_execSetprio (i : Nat) :
    (execSetprio i s).memOk := State.memOk_performFor h i 3 fun r x => State.memOk_complete (by exact h) i r _ _

theorem memOk_execFreeze (i : Nat) : (execFreeze i s).memOk := by
  refine State.memOk_performFor h i 4 fun r x => ?_
  have hc := State.memOk_complete h i r
  refine State.memOk_ite (hc _ 0) (State.memOk_ite (hc _ 0) (State.memOk_ite (hc _ 0) (State.memOk_ite h ?_)))
  exact State.memOk_startStop (by exact h) x _

theorem memOk_execKill (i : Nat) : (execKill i s).memOk := by
  refine State.memOk_performFor h i 6 fun r x => State.memOk_cmdDone ?_ r _ _ _
  exact State.memOk_of_mem (State.kill_mem _ _ _ _ _) (by exact h)

theorem memOk_execDirtysnap (i : Nat) : (execDirtysnap i s).memOk := by
  refine State.memOk_performFor h i 7 fun r x => ?_
  have hc := State.memOk_complete h i r
  exact State.memOk_ite (hc _ 0) (State.memOk_ite (hc _ 0) (State.memOk_complete (State.memOk_pwrite _ _ _ _ _ (by exact h)) i r _ _))

theorem State.memOk_restoreRegion (root : Nat) (exact : Bool) (anchor : Int) (fuel va : Nat) (bs : List Byte) (used : List Nat)
    {ns : List Nat} {u : State} (e : State.restoreRegion root exact anchor fuel va bs used s = some (ns, u)) : u.memOk := by
  induction fuel generalizing s va bs used with
  | zero => grind [State.restoreRegion]
  | succ fuel ih =>
    rw [State.restoreRegion] at e
    split at e
    · grind
    split at e
    · cases e
    dsimp only at e
    split at e
    · cases e
    · exact ih (State.memOk_pwrite _ _ _ _ _ (State.memOk_pwrite _ _ _ _ _ h)) _ _ _ e

theorem State.memOk_restoreRegions (root : Nat) (rs : List (Nat × Bool × Int × List Byte)) (used : List Nat) {u : State}
    (e : State.restoreRegions root rs used s = some u) : u.memOk := by
  induction rs generalizing s used with
  | nil => grind [State.restoreRegions]
  | cons r rs ih =>
    obtain ⟨va, ex, anchor, bs⟩ := r
    rw [State.restoreRegions] at e
    split at e
    · cases e
    next used' v e' => exact ih (State.memOk_restoreRegion h root ex anchor _ _ _ _ e') _ e

theorem State.memOk_resumeDigests (x : Nat) : (s.resumeDigests x).memOk := State.memOk_ite h (State.memOk_foldl h _ fun _ g hu =>
    State.memOk_modGraph (State.memOk_tick hu) x g.gid _)

theorem State.memOk_resumeOpener (l : Nat) : (s.resumeOpener l).memOk := State.memOk_ite h (by exact State.memOk_tick h)

theorem State.memOk_recall (x : Nat) (u : Unsaid) : (s.recall x u).memOk := by
  refine State.memOk_foldl (by exact h) _ fun v l hv => ?_
  split
  · exact hv
  · exact hv

theorem State.memOk_renumber (x g : Nat) : (s.renumber x g).memOk := by
  refine State.memOk_foldl (State.memOk_foldl h _ fun u r hu => ?_) _ fun u r hu => ?_
  · exact State.memOk_foldl hu _ fun v e hv => State.memOk_modCmd hv _ _ _
  · exact State.memOk_foldl hu _ fun v k hv => State.memOk_modCmd hv _ _ _

theorem State.memOk_finishAlone (l : Nat) (k : Cmd) : (s.finishAlone l k).memOk := by
  grind [State.finishAlone, State.memOk_modCmd]

theorem State.memOk_reviveGroup (x g : Nat) : (s.reviveGroup x g).memOk := by
  refine State.memOk_foldl h _ fun u l hu => State.memOk_foldl hu _ fun v k hv => State.memOk_ite ?_ hv
  exact State.memOk_foldl (State.memOk_finishAlone hv l k) _ fun w b hw => State.memOk_ite hw (State.memOk_clRevive hw l k b)

theorem State.memOk_resumeDrains (l : Nat) :
    (s.resumeDrains l).memOk := State.memOk_foldl h _ fun _ k hu => State.memOk_ite (State.memOk_prepareRow hu l k.id) hu

theorem State.memOk_resumeSerial (x : Nat) : (s.resumeSerial x).memOk := by
  grind [State.resumeSerial, State.modCtx_mem, State.memOk]

theorem State.memOk_install (x : Nat) (b : ImageBody) (u : Option Unsaid) : (s.install x b u).memOk := by
  unfold State.install
  dsimp only
  refine State.memOk_resumeSerial (State.memOk_foldl ?_ _ fun v g hv => State.memOk_reviveGroup hv x g) x
  have hp : ∀ v : State, v.memOk → ((v.lcKeys x).foldl (fun s l => (s.resumeDrains l).fenceLc l) v).memOk := fun v hv =>
    State.memOk_foldl hv _ fun w l hw => State.memOk_fenceLc (State.memOk_resumeDrains hw l) l
  have ho : ∀ v : State, v.memOk → ((v.lcKeys x).foldl (fun (s : State) l => s.resumeOpener l) v).memOk := fun v hv =>
    State.memOk_foldl hv _ fun w l hw => State.memOk_resumeOpener hw l
  have hb := hp _ (State.memOk_placeAll (State.memOk_foldl
    (State.memOk_foldl h b.lcs.zipIdx fun v e hv => State.memOk_foldl (s := v.setLc (lcKey x e.2) e.1.1) hv e.1.2.zipIdx
      (f := fun s st => s.setStrand (lcKey x e.2 * 4 + st.2) st.1) fun w st hw => hw) b.held
      (f := fun s h => s.modStrand (lcKey x h.2.2.1 * 4 + h.2.2.2) (fun st => { st with assign := some (h.1, h.2.1), reserved := true }))
      fun w h' hw => hw) x)
  split
  · exact State.memOk_recall hb x _
  · exact State.memOk_foldl (State.memOk_resumeDigests (ho _ hb) x) _ fun v g hv => State.memOk_renumber hv x g

theorem State.memOk_resumeCtx (a da : Nat) {u : State} {y : Nat} (e : s.resumeCtx a da = .ok (u, y)) : u.memOk := by
  unfold State.resumeCtx at e
  generalize (if da = 0 then [] else s.pread da 64) = d at e
  dsimp only at e
  generalize (if da = 0 then [] else claimOf d) = lines at e
  split at e
  · cases e
  split at e
  · cases e
  split at e
  · cases e
  split at e
  · cases e
  split at e
  · cases e
  split at e
  · cases e
  next x _ =>
  split at e
  · cases e
  split at e
  · cases e
  split at e
  · cases e
  next v e' =>
  have hv := State.memOk_restoreRegions h _ _ _ e'
  split at e
  · cases e
  split at e
  · cases e
  · exact State.memOk_orNoSwap (State.memOk_install (State.memOk_claim (by exact hv) x _) x _ _) x e

theorem memOk_execResume (i : Nat) :
    (execResume i s).memOk := State.memOk_perform h i 5 fun r => State.memOk_made h i r _ fun _ _ e => State.memOk_resumeCtx h _ _ e

theorem State.memOk_answerQuery (i : Nat) (r : CmdRec) (bs : List Byte) : (s.answerQuery i r bs).memOk := by
  grind [State.answerQuery, State.memOk_pwrite, State.memOk_complete]

theorem State.memOk_query (i sel : Nat) {f : CmdRec → State} (hf : ∀ r, (f r).memOk) :
    (s.query i sel f).memOk := State.memOk_perform h i 8 fun r => State.memOk_ite (hf r) h

theorem memOk_execQueryDevinfo (i : Nat) : (execQueryDevinfo i s).memOk := by
  grind [execQueryDevinfo, State.memOk_answerQuery, State.memOk_query]

theorem memOk_execQueryCtxstate (i : Nat) : (execQueryCtxstate i s).memOk := by
  grind [execQueryCtxstate, State.memOk_complete, State.memOk_answerQuery, State.memOk_query]

theorem memOk_execQueryAttest (i : Nat) : (execQueryAttest i s).memOk := by
  grind [execQueryAttest, State.memOk_complete, State.memOk_answerQuery, State.memOk_query]

theorem memOk_execQueryLogstat (i : Nat) : (execQueryLogstat i s).memOk := by
  grind [execQueryLogstat, State.memOk_answerQuery, State.memOk_query]

theorem State.memOk_hostSawUnit (unit k : Nat) : (s.hostSawUnit unit k).memOk := by
  grind [State.hostSawUnit, State.memOk]

theorem State.memOk_hostLoad (off n : Nat) : (s.hostLoad off n).2.memOk := by
  grind [State.hostLoad, State.memOk_passUnit, State.memOk_hostSawUnit]

theorem State.memOk_hostLoads (us : List Nat) (off n : Nat) : (State.hostLoads us off n s).2.memOk := by
  induction us generalizing s with
  | nil => exact h
  | cons u us ih => exact ih (State.memOk_hostLoad h _ _)

theorem memOk_execHostRead (off len : Nat) : (execHostRead off len s).memOk := by
  grind [execHostRead, State.memOk_hostLoads, State.memOk, Out.memOk]

theorem memOk_execHostWrite (a : HostAddr) (bytes : List Byte) : (execHostWrite a bytes s).memOk := by
  unfold execHostWrite
  split
  · exact State.memOk_ite h (by exact State.memOk_foldl h _ fun u e hu => State.memOk_hostPut u _ _ hu)
  · exact State.memOk_ite (State.memOk_mark (State.memOk_pwrite _ _ _ _ _ h) _ _) h

theorem State.memOk_launchUnitError (x pa : Nat) : (s.launchUnitError x pa).memOk := by
  grind [State.launchUnitError, State.memOk_cmdDone, State.memOk_memErr, State.memOk_releaseStop, State.memOk_dgstKill]

theorem State.memOk_spoil (pa : Nat) : (s.spoil pa).memOk := by
  grind [State.spoil, State.memOk]

theorem State.memOk_answerError (i : Nat) : (s.answerError i).memOk := by
  unfold State.answerError
  split
  · exact h
  · exact State.memOk_wait (State.memOk_injected (by exact h) _) _ _ _

theorem State.memOk_agentError (agent : Agent) (pa : Nat) : (s.agentError agent pa).memOk := by
  unfold State.agentError
  split
  · exact State.memOk_answerError (State.memOk_spoil h pa) _
  · exact State.memOk_memErr (State.memOk_spoil h pa) agent pa _

theorem memOk_execUncorrectableError (agent : Agent) (pa : Nat) : (execUncorrectableError agent pa s).memOk := by
  have ha := State.memOk_agentError h agent pa
  cases agent with
  | launch x =>
    refine Out.memOk_ite (State.memOk_ite (State.memOk_launchUnitError (State.memOk_spoil h pa) x pa) h) ?_
    split
    · exact h
    refine Out.memOk_ite h ?_
    dsimp only [Out.memOk]
    split
    · exact State.memOk_complete (State.memOk_spoil h pa) _ _ _ 0
    · exact h
  | strand t => exact State.memOk_ite ha h
  | engine l k => exact State.memOk_ite ha h
  | bellows l => exact State.memOk_ite ha h
  | sketch l => exact State.memOk_ite ha h
  | walker l => exact State.memOk_ite ha h

end

end Sys2Proof.Machine
end

section
/-! SUPPORT. Memory in canonical form (R176, log entry 4): vector, tile and floating-point arithmetic.
Settles MemoryCanonical. -/

namespace Sys2Proof.Machine

section
variable {s : State} (h : s.memOk)
include h

theorem State.memOk_fOut (d : R6) (r : Nat × Nat) (n : Nat) : (s.fOut d r n).memOk := h

theorem memOk_execFadd (g : Guard) (d a b : R6) (fn : F4) : (execFadd g d a b fn s).memOk := memOk_act h _ h

theorem memOk_execFsub (g : Guard) (d a b : R6) (fn : F4) : (execFsub g d a b fn s).memOk := memOk_act h _ h

theorem memOk_execFmul (g : Guard) (d a b : R6) (fn : F4) : (execFmul g d a b fn s).memOk := memOk_act h _ h

theorem memOk_execFfma (g : Guard) (d a b : R6) (fn : F4) : (execFfma g d a b fn s).memOk := memOk_act h _ h

theorem memOk_execFmin (g : Guard) (d a b : R6) (fn : F4) : (execFmin g d a b fn s).memOk := memOk_act h _ h

theorem memOk_execFmax (g : Guard) (d a b : R6) (fn : F4) : (execFmax g d a b fn s).memOk := memOk_act h _ h

theorem memOk_execFcmp (g : Guard) (d a b : R6) (fn : F4) : (execFcmp g d a b fn s).memOk := memOk_act h _ h

theorem memOk_execFcvt (g : Guard) (d a b : R6) (fn : F4) : (execFcvt g d a b fn s).memOk := memOk_act h _ h

theorem memOk_execFdiv (g : Guard) (d a b : R6) (fn : F4) : (execFdiv g d a b fn s).memOk := memOk_act h _ h

theorem memOk_execFsqrt (g : Guard) (d a b : R6) (fn : F4) : (execFsqrt g d a b fn s).memOk := memOk_act h _ h

theorem memOk_execTmovr (m : Mask) (d a b : R6) (fn : F4) : (execTmovr m d a b fn s).memOk := memOk_act h _ (State.memOk_checked h _ h)

theorem memOk_execTmovc (m : Mask) (d a b : R6) (fn : F4) : (execTmovc m d a b fn s).memOk := memOk_act h _ (State.memOk_checked h _ h)

theorem memOk_execTrowv (m : Mask) (d a b : R6) (fn : F4) : (execTrowv m d a b fn s).memOk := memOk_act h _ (State.memOk_checked h _ h)

theorem memOk_execTzero (m : Mask) (d a b : R6) (fn : F4) : (execTzero m d a b fn s).memOk := memOk_act h _ (State.memOk_checked h _ h)

theorem memOk_execVadd (m : Mask) (d a b : R6) (fn : F4) : (execVadd m d a b fn s).memOk := memOk_act h _ h

theorem memOk_execVsub (m : Mask) (d a b : R6) (fn : F4) : (execVsub m d a b fn s).memOk := memOk_act h _ h

theorem memOk_execVmul (m : Mask) (d a b : R6) (fn : F4) : (execVmul m d a b fn s).memOk := memOk_act h _ h

theorem memOk_execVfma (m : Mask) (d a b : R6) (fn : F4) : (execVfma m d a b fn s).memOk := memOk_act h _ h

theorem memOk_execVmin (m : Mask) (d a b : R6) (fn : F4) : (execVmin m d a b fn s).memOk := memOk_act h _ h

theorem memOk_execVmax (m : Mask) (d a b : R6) (fn : F4) : (execVmax m d a b fn s).memOk := memOk_act h _ h

theorem memOk_execVabs (m : Mask) (d a b : R6) (fn : F4) : (execVabs m d a b fn s).memOk := memOk_act h _ h

theorem memOk_execVneg (m : Mask) (d a b : R6) (fn : F4) : (execVneg m d a b fn s).memOk := memOk_act h _ h

theorem memOk_execVrcp (m : Mask) (d a b : R6) (fn : F4) : (execVrcp m d a b fn s).memOk := memOk_act h _ h

theorem memOk_execVrsq (m : Mask) (d a b : R6) (fn : F4) : (execVrsq m d a b fn s).memOk := memOk_act h _ h

theorem memOk_execVexp2 (m : Mask) (d a b : R6) (fn : F4) : (execVexp2 m d a b fn s).memOk := memOk_act h _ h

theorem memOk_execVlog2 (m : Mask) (d a b : R6) (fn : F4) : (execVlog2 m d a b fn s).memOk := memOk_act h _ h

theorem memOk_execVlut (m : Mask) (d a b : R6) (fn : F4) : (execVlut m d a b fn s).memOk := memOk_act h _ h

theorem memOk_execVcmp (m : Mask) (d a b : R6) (fn : F4) : (execVcmp m d a b fn s).memOk := memOk_act h _ h

theorem memOk_execVsel (m : Mask) (d a b : R6) (fn : F4) : (execVsel m d a b fn s).memOk := memOk_act h _ h

theorem memOk_execVmov (m : Mask) (d a b : R6) (fn : F4) : (execVmov m d a b fn s).memOk := memOk_act h _ h

theorem memOk_execVand (m : Mask) (d a b : R6) (fn : F4) : (execVand m d a b fn s).memOk := memOk_act h _ h

theorem memOk_execVor (m : Mask) (d a b : R6) (fn : F4) : (execVor m d a b fn s).memOk := memOk_act h _ h

theorem memOk_execVxor (m : Mask) (d a b : R6) (fn : F4) : (execVxor m d a b fn s).memOk := memOk_act h _ h

theorem memOk_execVshl (m : Mask) (d a b : R6) (fn : F4) : (execVshl m d a b fn s).memOk := memOk_act h _ h

theorem memOk_execVshr (m : Mask) (d a b : R6) (fn : F4) : (execVshr m d a b fn s).memOk := memOk_act h _ h

theorem memOk_execVsar (m : Mask) (d a b : R6) (fn : F4) : (execVsar m d a b fn s).memOk := memOk_act h _ h

theorem memOk_execVcvt (m : Mask) (d a b : R6) (fn : F4) : (execVcvt m d a b fn s).memOk := memOk_act h _ h

theorem memOk_execVqmx (m : Mask) (d a b : R6) (fn : F4) : (execVqmx m d a b fn s).memOk := memOk_act h _ h

theorem memOk_execVdqmx (m : Mask) (d a b : R6) (fn : F4) : (execVdqmx m d a b fn s).memOk := memOk_act h _ h

theorem memOk_execVred (m : Mask) (d a b : R6) (fn : F4) : (execVred m d a b fn s).memOk := memOk_act h _ h

theorem memOk_execVperm (m : Mask) (d a b : R6) (fn : F4) : (execVperm m d a b fn s).memOk := memOk_act h _ h

theorem memOk_execVrot (m : Mask) (d a b : R6) (fn : F4) : (execVrot m d a b fn s).memOk := memOk_act h _ h

theorem memOk_execVbcast (m : Mask) (d a b : R6) (fn : F4) : (execVbcast m d a b fn s).memOk := memOk_act h _ h

theorem memOk_execVext (m : Mask) (d a b : R6) (fn : F4) : (execVext m d a b fn s).memOk := memOk_act h _ h

theorem memOk_execViota (m : Mask) (d a b : R6) (fn : F4) : (execViota m d a b fn s).memOk := memOk_act h _ h

theorem memOk_execQlog (m : Mask) (d a b : R6) (fn : F4) : (execQlog m d a b fn s).memOk := memOk_act h _ h

theorem memOk_execQpopc (m : Mask) (d a b : R6) (fn : F4) : (execQpopc m d a b fn s).memOk := memOk_act h _ h

end

end Sys2Proof.Machine
end

section
/-! SUPPORT. Memory in canonical form (R176, log entry 4): the dispatch of an instruction, the issue of a bundle, and a step.
Settles MemoryCanonical. -/

namespace Sys2Proof.Machine

section
variable {s : State} (h : s.memOk)
include h

theorem State.memOk_atSlot (n : Nat) : (s.atSlot n).memOk := h

theorem memOk_exec : ∀ i : Instr, Out.memOk (exec i s)
  | .powerGood => memOk_execPowerGood h
  | .packageResetRelease => memOk_execPackageResetRelease h
  | .kindlingTimeout => memOk_execKindlingTimeout h
  | .modulePowerLoss => memOk_execModulePowerLoss h
  | .blockOverheat die block => memOk_execBlockOverheat h die block
  | .blockCooled die block => memOk_execBlockCooled h die block
  | .thermalTrip die reading => memOk_execThermalTrip h die reading
  | .coreRetirement die core => memOk_execCoreRetirement h die core
  | .uncorrectableError agent pa => memOk_execUncorrectableError h agent pa
  | .flitInject n => memOk_execFlitInject h n
  | .linkFlitReceive w errs => memOk_execLinkFlitReceive h w errs
  | .nakReceived n => memOk_execNakReceived h n
  | .par n errs => memOk_execPar h n errs
  | .nakRepeatTimeout n => memOk_execNakRepeatTimeout h n
  | .linkRetrainDone link fewer => memOk_execLinkRetrainDone h link fewer
  | .segmentFailure link => memOk_execSegmentFailure h link
  | .unreachTimeout n => memOk_execUnreachTimeout h n
  | .flitAtExitNode n free reserve => memOk_execFlitAtExitNode h n free reserve
  | .refusedFlitRetry n => memOk_execRefusedFlitRetry h n
  | .rstAtTarget n => memOk_execRstAtTarget h n
  | .rldAtTarget n => memOk_execRldAtTarget h n
  | .ratAtTarget n => memOk_execRatAtTarget h n
  | .rstack n => memOk_execRstack h n
  | .rlddata n => memOk_execRlddata h n
  | .ratdata n => memOk_execRatdata h n
  | .bseg n => memOk_execBseg h n
  | .mgmt n => memOk_execMgmt h n
  | .ablumLinkFailure link => memOk_execAblumLinkFailure h link
  | .hostRead off len => memOk_execHostRead h off len
  | .hostWrite a bytes => memOk_execHostWrite h a bytes
  | .mgmtRegisterWrite off bytes => memOk_execMgmtRegisterWrite h off bytes
  | .monitoredLineInvalidate line => memOk_execMonitoredLineInvalidate h line
  | .create n => memOk_execCreate h n
  | .launchRecord n => memOk_execLaunchRecord h n
  | .setprio n => memOk_execSetprio h n
  | .freeze n => memOk_execFreeze h n
  | .resume n => memOk_execResume h n
  | .kill n => memOk_execKill h n
  | .dirtysnap n => memOk_execDirtysnap h n
  | .queryDevinfo n => memOk_execQueryDevinfo h n
  | .queryCtxstate n => memOk_execQueryCtxstate h n
  | .queryAttest n => memOk_execQueryAttest h n
  | .queryLogstat n => memOk_execQueryLogstat h n
  | .eventLogWrite => memOk_execEventLogWrite h
  | .freezeTimeout slot => memOk_execFreezeTimeout h slot
  | .engineStopAck slot inst units => memOk_execEngineStopAck h slot inst units
  | .preemptionComplete slot => memOk_execPreemptionComplete h slot
  | .rebalance die => memOk_execRebalance h die
  | .quantumExpiry lc => memOk_execQuantumExpiry h lc
  | .residencySwap lc => memOk_execResidencySwap h lc
  | .agingTick slot => memOk_execAgingTick h slot
  | .deadlockTimeout slot gid => memOk_execDeadlockTimeout h slot gid
  | .damperWindow core demand => memOk_execDamperWindow h core demand
  | .strandSwitch lc => memOk_execStrandSwitch h lc
  | .strandReady t => memOk_execStrandReady h t
  | .firingStart t => memOk_execFiringStart h t
  | .firingEnd t => memOk_execFiringEnd h t
  | .graphEnd slot gid => memOk_execGraphEnd h slot gid
  | .childInstantiate slot gid => memOk_execChildInstantiate h slot gid
  | .channelPublish slot gid ch idx => memOk_execChannelPublish h slot gid ch idx
  | .engineCommandReady lc cmd => memOk_execEngineCommandReady h lc cmd
  | .bteAccept lc cmd => memOk_execBteAccept h lc cmd
  | .bteChunkPerformed lc cmd => memOk_execBteChunkPerformed h lc cmd
  | .bteCommandComplete lc cmd => memOk_execBteCommandComplete h lc cmd
  | .decodeStall lc cmd => memOk_execDecodeStall h lc cmd
  | .matrixCommandStart lc cmd => memOk_execMatrixCommandStart h lc cmd
  | .mmaComplete lc cmd => memOk_execMmaComplete h lc cmd
  | .mloadwComplete lc cmd => memOk_execMloadwComplete h lc cmd
  | .mdrainRowWritten lc cmd => memOk_execMdrainRowWritten h lc cmd
  | .maccldComplete lc cmd => memOk_execMaccldComplete h lc cmd
  | .eploadComplete lc cmd => memOk_execEploadComplete h lc cmd
  | .sketchAccept lc cmd => memOk_execSketchAccept h lc cmd
  | .sketchCommandComplete lc cmd => memOk_execSketchCommandComplete h lc cmd
  | .collAccept lc cmd => memOk_execCollAccept h lc cmd
  | .collComplete lc cmd => memOk_execCollComplete h lc cmd
  | .dgstCheckpoint slot gid n => memOk_execDgstCheckpoint h slot gid n
  | .nop g => memOk_execNop h g
  | .br g disp => memOk_execBr h g disp
  | .brv g q disp => memOk_execBrv h g q disp
  | .bri g a => memOk_execBri h g a
  | .call g disp => memOk_execCall h g disp
  | .calli g a => memOk_execCalli h g a
  | .ret g => memOk_execRet h g
  | .loop g dims c len => memOk_execLoop h g dims c len
  | .lexit g => memOk_execLexit h g
  | .waitf g a b => memOk_execWaitf h g a b
  | .yield g => memOk_execYield h g
  | .halt g => memOk_execHalt h g
  | .trap g code => memOk_execTrap h g code
  | .eret g => memOk_execEret h g
  | .brk g code => memOk_execBrk h g code
  | .tfence g => memOk_execTfence h g
  | .add g d a b fn => memOk_execAdd h g d a b fn
  | .sub g d a b fn => memOk_execSub h g d a b fn
  | .mul g d a b fn => memOk_execMul h g d a b fn
  | .div g d a b fn => memOk_execDiv h g d a b fn
  | .and g d a b fn => memOk_execAnd h g d a b fn
  | .or g d a b fn => memOk_execOr h g d a b fn
  | .xor g d a b fn => memOk_execXor h g d a b fn
  | .andn g d a b fn => memOk_execAndn h g d a b fn
  | .shl g d a b fn => memOk_execShl h g d a b fn
  | .shr g d a b fn => memOk_execShr h g d a b fn
  | .sar g d a b fn => memOk_execSar h g d a b fn
  | .rotr g d a b fn => memOk_execRotr h g d a b fn
  | .min g d a b fn => memOk_execMin h g d a b fn
  | .max g d a b fn => memOk_execMax h g d a b fn
  | .cmp g d a b fn => memOk_execCmp h g d a b fn
  | .sel g d a b fn => memOk_execSel h g d a b fn
  | .clz g d a b fn => memOk_execClz h g d a b fn
  | .ctz g d a b fn => memOk_execCtz h g d a b fn
  | .popc g d a b fn => memOk_execPopc h g d a b fn
  | .extr g d a b fn => memOk_execExtr h g d a b fn
  | .insr g d a b fn => memOk_execInsr h g d a b fn
  | .lea g d a b fn => memOk_execLea h g d a b fn
  | .addi g d a imm => memOk_execAddi h g d a imm
  | .movi g d imm => memOk_execMovi h g d imm
  | .plog g d a b fn => memOk_execPlog h g d a b fn
  | .mfs g d num => memOk_execMfs h g d num
  | .mts g num a => memOk_execMts h g num a
  | .fadd g d a b fn => memOk_execFadd h g d a b fn
  | .fsub g d a b fn => memOk_execFsub h g d a b fn
  | .fmul g d a b fn => memOk_execFmul h g d a b fn
  | .ffma g d a b fn => memOk_execFfma h g d a b fn
  | .fmin g d a b fn => memOk_execFmin h g d a b fn
  | .fmax g d a b fn => memOk_execFmax h g d a b fn
  | .fcmp g d a b fn => memOk_execFcmp h g d a b fn
  | .fcvt g d a b fn => memOk_execFcvt h g d a b fn
  | .fdiv g d a b fn => memOk_execFdiv h g d a b fn
  | .fsqrt g d a b fn => memOk_execFsqrt h g d a b fn
  | .lds g d a b fn => memOk_execLds h g d a b fn
  | .sts g d a b fn => memOk_execSts h g d a b fn
  | .bteStart g d a b fn => memOk_execBteStart h g d a b fn
  | .ldg g d a scope cls fn => memOk_execLdg h g d a scope cls fn
  | .stg g d a scope cls fn => memOk_execStg h g d a scope cls fn
  | .vlds g d a b fn => memOk_execVlds h g d a b fn
  | .vsts g d a b fn => memOk_execVsts h g d a b fn
  | .vldg g d a scope cls fn => memOk_execVldg h g d a scope cls fn
  | .vstg g d a scope cls fn => memOk_execVstg h g d a scope cls fn
  | .vstm g d a b fn => memOk_execVstm h g d a b fn
  | .vldm g d a b fn => memOk_execVldm h g d a b fn
  | .tlds g d a b fn => memOk_execTlds h g d a b fn
  | .tsts g d a b fn => memOk_execTsts h g d a b fn
  | .atg g d a scope cls fn => memOk_execAtg h g d a scope cls fn
  | .xadd g d a scope cls fn => memOk_execXadd h g d a scope cls fn
  | .rst g d a scope cls fn => memOk_execRst h g d a scope cls fn
  | .rld g d a scope cls fn => memOk_execRld h g d a scope cls fn
  | .rat g d a scope cls fn => memOk_execRat h g d a scope cls fn
  | .fence g d a scope cls fn => memOk_execFence h g d a scope cls fn
  | .cbfence g => memOk_execCbfence h g
  | .lbr g d a b fn => memOk_execLbr h g d a b fn
  | .tinv g d a scope cls fn => memOk_execTinv h g d a scope cls fn
  | .vadd m d a b fn => memOk_execVadd h m d a b fn
  | .vsub m d a b fn => memOk_execVsub h m d a b fn
  | .vmul m d a b fn => memOk_execVmul h m d a b fn
  | .vfma m d a b fn => memOk_execVfma h m d a b fn
  | .vmin m d a b fn => memOk_execVmin h m d a b fn
  | .vmax m d a b fn => memOk_execVmax h m d a b fn
  | .vabs m d a b fn => memOk_execVabs h m d a b fn
  | .vneg m d a b fn => memOk_execVneg h m d a b fn
  | .vrcp m d a b fn => memOk_execVrcp h m d a b fn
  | .vrsq m d a b fn => memOk_execVrsq h m d a b fn
  | .vexp2 m d a b fn => memOk_execVexp2 h m d a b fn
  | .vlog2 m d a b fn => memOk_execVlog2 h m d a b fn
  | .vlut m d a b fn => memOk_execVlut h m d a b fn
  | .vcmp m d a b fn => memOk_execVcmp h m d a b fn
  | .vsel m d a b fn => memOk_execVsel h m d a b fn
  | .vmov m d a b fn => memOk_execVmov h m d a b fn
  | .vand m d a b fn => memOk_execVand h m d a b fn
  | .vor m d a b fn => memOk_execVor h m d a b fn
  | .vxor m d a b fn => memOk_execVxor h m d a b fn
  | .vshl m d a b fn => memOk_execVshl h m d a b fn
  | .vshr m d a b fn => memOk_execVshr h m d a b fn
  | .vsar m d a b fn => memOk_execVsar h m d a b fn
  | .vcvt m d a b fn => memOk_execVcvt h m d a b fn
  | .vqmx m d a b fn => memOk_execVqmx h m d a b fn
  | .vdqmx m d a b fn => memOk_execVdqmx h m d a b fn
  | .vred m d a b fn => memOk_execVred h m d a b fn
  | .vperm m d a b fn => memOk_execVperm h m d a b fn
  | .vrot m d a b fn => memOk_execVrot h m d a b fn
  | .vbcast m d a b fn => memOk_execVbcast h m d a b fn
  | .vext m d a b fn => memOk_execVext h m d a b fn
  | .viota m d a b fn => memOk_execViota h m d a b fn
  | .qlog m d a b fn => memOk_execQlog h m d a b fn
  | .qpopc m d a b fn => memOk_execQpopc h m d a b fn
  | .tmovr m d a b fn => memOk_execTmovr h m d a b fn
  | .tmovc m d a b fn => memOk_execTmovc h m d a b fn
  | .trowv m d a b fn => memOk_execTrowv h m d a b fn
  | .tzero m d a b fn => memOk_execTzero h m d a b fn
  | .mma g a b c fn => memOk_execMma h g a b c fn
  | .mloadw g a b c fn => memOk_execMloadw h g a b c fn
  | .mdrain g a b c fn => memOk_execMdrain h g a b c fn
  | .mzero g a b c fn => memOk_execMzero h g a b c fn
  | .maccld g a b c fn => memOk_execMaccld h g a b c fn
  | .epload g a b c fn => memOk_execEpload h g a b c fn
  | .arinit g a b c fn => memOk_execArinit h g a b c fn
  | .arrive g a b c fn => memOk_execArrive h g a b c fn
  | .arwait g a b c fn => memOk_execArwait h g a b c fn
  | .artest g a b c fn => memOk_execArtest h g a b c fn
  | .arwaitm g a b c fn => memOk_execArwaitm h g a b c fn
  | .artestm g a b c fn => memOk_execArtestm h g a b c fn
  | .efence g a b c fn => memOk_execEfence h g a b c fn
  | .skupd g a b c fn => memOk_execSkupd h g a b c fn
  | .skqry g a b c fn => memOk_execSkqry h g a b c fn
  | .skadd g a b c fn => memOk_execSkadd h g a b c fn
  | .skclr g a b c fn => memOk_execSkclr h g a b c fn
  | .coll g a b c fn => memOk_execColl h g a b c fn
  | .csig g a b c fn => memOk_execCsig h g a b c fn
  | .qpush g a b c fn => memOk_execQpush h g a b c fn
  | .qpop g a b c fn => memOk_execQpop h g a b c fn
  | .qtry g a b c fn => memOk_execQtry h g a b c fn
  | .launch g a b c fn => memOk_execLaunch h g a b c fn
  | .gbar g a b c fn => memOk_execGbar h g a b c fn
  | .specb g a b c fn => memOk_execSpecb h g a b c fn
  | .specc g a b c fn => memOk_execSpecc h g a b c fn
  | .speca g a b c fn => memOk_execSpeca h g a b c fn
  | .dgst g a b c fn => memOk_execDgst h g a b c fn
  | .endp x y z => memOk_execEndp h x y z
  | .cvt x y z => memOk_execCvt h x y z
  | .addv x y z => memOk_execAddv h x y z
  | .mulv x y z => memOk_execMulv h x y z
  | .fmav x y z => memOk_execFmav h x y z
  | .adds x y z => memOk_execAdds h x y z
  | .muls x y z => memOk_execMuls h x y z
  | .relum x y z => memOk_execRelum h x y z
  | .clamp x y z => memOk_execClamp h x y z
  | .lutp x y z => memOk_execLutp h x y z
  | .maxe x y z => memOk_execMaxe h x y z
  | .mine x y z => memOk_execMine h x y z
  | .move x y z => memOk_execMove h x y z
  | .cvtb x y z => memOk_execCvtb h x y z
  | .maskw x y z => memOk_execMaskw h x y z
  | .qout x y z => memOk_execQout h x y z
  | .packageResetAsserted => memOk_execPackageResetAsserted h
  | .hbmRepairRowsExhausted die stack => memOk_execHbmRepairRowsExhausted h die stack
  | .ablumLinkRetrained link lanes => memOk_execAblumLinkRetrained h link lanes
  | .mzeroComplete lc cmd => memOk_execMzeroComplete h lc cmd
  | .globalAccessPerformed t n => memOk_execGlobalAccessPerformed h t n

theorem memOk_runSlots (is : List (Nat × Instr)) : (runSlots is s).memOk := by
  induction is generalizing s with
  | nil => exact h
  | cons e is ih =>
    have he := memOk_exec (State.memOk_atSlot h e.1) e.2
    refine Out.memOk_ite h ?_
    split
    next u e' =>
      have hu := State.memOk_of_next e' he
      exact Out.memOk_ite (ih hu) hu
    · trivial
    · trivial

theorem State.memOk_alone (e : Nat × Instr) : (s.alone e).memOk := by
  unfold State.alone
  split
  · exact State.memOk_of_next ‹_› (memOk_exec (State.memOk_atSlot h e.1) e.2)
  · exact h
  · exact h

theorem State.memOk_firstTrap (is : List (Nat × Instr)) {u : State} (hu : u.memOk) : ((s.firstTrap is).getD u).memOk := by
  unfold State.firstTrap
  cases e : (is.map s.alone).find? (fun s => s.latch.out.isTrap) with
  | none => exact hu
  | some v =>
    obtain ⟨i, -, rfl⟩ := List.mem_map.mp (List.mem_of_find?_eq_some e)
    exact State.memOk_alone h i

theorem State.memOk_blockAll (is : List (Nat × Instr)) : (s.blockAll is).memOk := by
  refine State.memOk_onMe (State.memOk_foldl h is fun u e hu => ?_) _
  exact State.memOk_ite (State.memOk_alone hu e) hu

theorem State.memOk_unlatch : (s.unlatch).memOk := h

theorem State.memOk_fetchReaches (c : Nat) (fin : W64) (n : Nat) (pc : W64) : (State.fetchReaches c fin n s pc).2.memOk := by
  induction n generalizing s pc with
  | zero => exact h
  | succ n ih =>
    have hl := State.memOk_lineAt h c pc
    rw [State.fetchReaches]
    split
    · exact h
    split
    next b bs u e =>
      have hu := State.memOk_of_eq e hl
      split
      · exact ih hu _
      · exact hu
    · exact State.memOk_of_eq ‹_› hl
    · exact State.memOk_of_eq ‹_› hl

theorem State.memOk_moveOn (tm : Bool) : (s.moveOn tm).memOk := by
  grind [State.moveOn, State.memOk_onMe, State.memOk_fetchReaches]

theorem State.memOk_lateTrap (tr : Trap) : (s.lateTrap tr).memOk := by
  grind [State.lateTrap, State.memOk_onMe, State.memOk_enterTrapAs]

theorem State.memOk_single (drain : Bool) : (s.single drain).memOk := by
  grind [State.single, State.memOk_onMe, State.memOk_stepTrap]

theorem State.memOk_commit (is : List (Nat × Instr)) : (s.commit p is).memOk := by
  grind [State.commit, State.memOk_onMe, State.memOk_moveOn, State.memOk_lateTrap, State.memOk_single]

theorem State.memOk_issueSlots (is : List (Nat × Instr)) : (s.issueSlots is).memOk := by
  have hr := memOk_runSlots h is
  have hb := State.memOk_unlatch (State.memOk_firstTrap h is (State.memOk_blockAll h is))
  unfold State.issueSlots
  split
  · trivial
  · trivial
  next u e =>
    split
    · exact State.memOk_unlatch (State.memOk_commit (State.memOk_of_next e hr) is)
    · exact State.memOk_unlatch (State.memOk_firstTrap h is (State.memOk_enterTrap h _ _ _))
    · exact hb
    · exact hb

theorem State.memOk_issueStrand (k : Nat) : (s.issueStrand k).memOk := by
  grind [State.issueStrand, State.modStrand_mem, State.memOk_enterTrap, State.memOk_attempt, State.memOk_unlatch, State.memOk_issueSlots,
    State.memOk, Out.memOk]

theorem State.memOk_handOver (t : Nat) : (s.handOver t).memOk := by
  grind [State.handOver, State.modLc_mem, State.memOk]

theorem State.memOk_issue (l : Nat) : (s.issue l).memOk := by
  grind [State.issue, State.memOk_advance, State.memOk_issueStrand, State.memOk_handOver, Out.memOk]

theorem State.memOk_epiStep (l : Nat) : (s.epiStep l).memOk := by
  unfold State.epiStep
  split
  · exact h
  · exact memOk_exec (by exact h) _

theorem State.memOk_serve (l : Nat) : (s.serve l).memOk := by
  grind [State.serve, State.memOk_issue, State.memOk_epiStep, State.memOk]

theorem State.memOk_idle (n : Nat) : (s.idle n).memOk := h

theorem State.memOk_orWait {o : Out} (ho : o.memOk) : (s.orWait o).memOk := by
  unfold State.orWait
  split
  · exact Out.memOk_ite (State.memOk_idle h 1) ho
  · trivial
  · trivial

theorem State.memOk_auto : (s.auto).memOk := by
  refine Out.memOk_ite (State.memOk_kindle h) (Out.memOk_ite (State.memOk_idle h 1) ?_)
  split
  · exact memOk_exec h _
  split
  · exact State.memOk_orWait h (State.memOk_serve h _)
  · exact State.memOk_idle h 1

theorem memOk_step : Out.memOk (step s) := by
  unfold step
  split
  · exact State.memOk_auto h
  · refine Out.memOk_ite (Out.memOk_ite (memOk_exec (by exact h) _) (State.memOk_orWait (by exact h) (memOk_exec (by exact h) _))) h
  · exact State.memOk_orWait (by exact h) (State.memOk_issue (by exact h) _)
  · exact State.memOk_orWait (by exact h) (State.memOk_epiStep (by exact h) _)
  · exact State.memOk_idle (by exact h) _
  · exact State.memOk_reads (by exact h) _ _ _

end

/-- Settles O59: a step is a dispatch, an issue or the passing of time, and each keeps the form. -/
theorem memoryCanonical : Obligations.MemoryCanonical := by
  intro s t h e
  exact State.memOk_of_next e (memOk_step h)

end Sys2Proof.Machine
end
